-- ==== Sys2Proof/Word.lean ====
section
/-!
DEFINITION. The word types of the VK4840 model, the fields of one PZ128 word (R145) and the fields of one
link frame (R77).
-/
namespace Sys2Proof

/-- A byte. -/
abbrev Byte := BitVec 8
/-- A 32-bit register word (R7). -/
abbrev Word := BitVec 32
/-- A 64-bit operand, result or tick stamp. -/
abbrev DWord := BitVec 64
/-- A 128-bit memory word or PZ128 instruction word (R145). -/
abbrev QWord := BitVec 128
/-- A queue number, Q0 to Q7 (R147). -/
abbrev Queue := Fin 8
/-- Sparse byte storage: address and byte, addresses rising, no entry equal to the default byte. -/
abbrev Mem := List (Nat × Byte)

/-- The fields of a PZ128 word other than the opcode (Table IMD-1). -/
structure Insn where
  tx    : Bool
  fence : Bool
  cmpl  : Bool
  chain : Bool
  rsv   : BitVec 4
  tag   : BitVec 8
  ext   : BitVec 8
  tgt   : BitVec 32
  op    : BitVec 64
  deriving DecidableEq, Repr

/-- A link frame as received or sent (Table LNK-1); `codeErrs` counts the characters of the frame in code error. A frame received
as the characters of `line`, when there are any, is what those spell (R72). -/
structure Frame where
  typ      : Byte
  route    : Byte
  seq      : Byte
  len      : Byte
  payload  : List Byte
  crc      : Word
  codeErrs : Nat
  line     : List (BitVec 10) := []
  deriving DecidableEq, Repr

/-- The fields of an instruction word in the order of Table IMD-1, below the opcode. -/
def Insn.low (f : Insn) : BitVec 120 :=
  BitVec.ofBool f.tx ++ BitVec.ofBool f.fence ++ BitVec.ofBool f.cmpl ++ BitVec.ofBool f.chain
    ++ f.rsv ++ f.tag ++ f.ext ++ f.tgt ++ f.op

end Sys2Proof
end

