-- ==== Sys2Proof/Syntax.lean ====
section
/-!
DEFINITION. The commands of the block: one constructor per row of spec/opcode_table.json, in the table's order.
The PZ128 rows carry the queue that issues the instruction and the fields of its word; the rows of ports, registers and
events carry what the port, the store or the event brings with it.
-/
namespace Sys2Proof

/-- IDLE sets (R73): `n` characters from negative running disparity on, K28.5 and D21.5 in turn. -/
def idleChars (n : Nat) : List (BitVec 10) :=
  (List.range n).map fun i => if i % 2 = 1 then 0b1010101010 else if i % 4 = 0 then 0b0011111010 else 0b1100000101

/-- The commands. -/
inductive Instr where
  /-- NOP (R187). -/
  | nop (q : Queue) (f : Insn)
  /-- FENCE (R154). -/
  | fence (q : Queue) (f : Insn)
  /-- WAIT_POS (R286). -/
  | waitPos (q : Queue) (f : Insn)
  /-- WAIT_TIME (R490). -/
  | waitTime (q : Queue) (f : Insn)
  /-- WAIT_EVT (R188). -/
  | waitEvt (q : Queue) (f : Insn)
  /-- CALL (R172). -/
  | call (q : Queue) (f : Insn)
  /-- RET (R173). -/
  | ret (q : Queue) (f : Insn)
  /-- HALT_Q (R189). -/
  | haltQ (q : Queue) (f : Insn)
  /-- SIG_EVT (R187). -/
  | sigEvt (q : Queue) (f : Insn)
  /-- LD (R190). -/
  | ld (q : Queue) (f : Insn)
  /-- ST (R190). -/
  | st (q : Queue) (f : Insn)
  /-- RMW (R191). -/
  | rmw (q : Queue) (f : Insn)
  /-- LD_SNAP (R192). -/
  | ldSnap (q : Queue) (f : Insn)
  /-- TERM_WR (R223). -/
  | termWr (q : Queue) (f : Insn)
  /-- MC_CFG (R226). -/
  | mcCfg (q : Queue) (f : Insn)
  /-- FROND_SAFE (R196). -/
  | frondSafe (q : Queue) (f : Insn)
  /-- FROND_RUN (R237). -/
  | frondRun (q : Queue) (f : Insn)
  /-- PLANE_SWAP (R235). -/
  | planeSwap (q : Queue) (f : Insn)
  /-- PLANE_SWAP_AT (R197). -/
  | planeSwapAt (q : Queue) (f : Insn)
  /-- EDGE_SET (R199). -/
  | edgeSet (q : Queue) (f : Insn)
  /-- EDGE_PULSE (R199). -/
  | edgePulse (q : Queue) (f : Insn)
  /-- EDGE_CAL (R200). -/
  | edgeCal (q : Queue) (f : Insn)
  /-- PIN_SAFE (R200). -/
  | pinSafe (q : Queue) (f : Insn)
  /-- CAM_LOAD (R276). -/
  | camLoad (q : Queue) (f : Insn)
  /-- CAM_ARM (R283). -/
  | camArm (q : Queue) (f : Insn)
  /-- CAM_DISARM (R202). -/
  | camDisarm (q : Queue) (f : Insn)
  /-- CAM_NUDGE (R203). -/
  | camNudge (q : Queue) (f : Insn)
  /-- CAP_ARM (R262). -/
  | capArm (q : Queue) (f : Insn)
  /-- CAP_READ (R198). -/
  | capRead (q : Queue) (f : Insn)
  /-- NV_WR (R205). -/
  | nvWr (q : Queue) (f : Insn)
  /-- NV_RD (R204). -/
  | nvRd (q : Queue) (f : Insn)
  /-- NV_STORE (R206). -/
  | nvStore (q : Queue) (f : Insn)
  /-- NV_RECALL (R355). -/
  | nvRecall (q : Queue) (f : Insn)
  /-- CTR_INC (R360). -/
  | ctrInc (q : Queue) (f : Insn)
  /-- CTR_RD (R360). -/
  | ctrRd (q : Queue) (f : Insn)
  /-- NV_UNLOCK (R366). -/
  | nvUnlock (q : Queue) (f : Insn)
  /-- NV_PROT (R367). -/
  | nvProt (q : Queue) (f : Insn)
  /-- DMA_GO (R395). -/
  | dmaGo (q : Queue) (f : Insn)
  /-- DMA_STOP (R410). -/
  | dmaStop (q : Queue) (f : Insn)
  /-- DMA_STAT (R208). -/
  | dmaStat (q : Queue) (f : Insn)
  /-- TXN_BEGIN (R165). -/
  | txnBegin (q : Queue) (f : Insn)
  /-- TXN_COMMIT (R168). -/
  | txnCommit (q : Queue) (f : Insn)
  /-- TXN_ABORT (R170). -/
  | txnAbort (q : Queue) (f : Insn)
  /-- TXN_COMMIT_AT (R169). -/
  | txnCommitAt (q : Queue) (f : Insn)
  /-- PERS_STAGE (R300). -/
  | persStage (q : Queue) (f : Insn)
  /-- PERS_VERIFY (R302). -/
  | persVerify (q : Queue) (f : Insn)
  /-- PERS_ACTIVATE (R306). -/
  | persActivate (q : Queue) (f : Insn)
  /-- PERS_SLOT (R313). -/
  | persSlot (q : Queue) (f : Insn)
  /-- VARIANT_STAGE (R320). -/
  | variantStage (q : Queue) (f : Insn)
  /-- PERS_PROG (R310). -/
  | persProg (q : Queue) (f : Insn)
  /-- PERS_ERASE (R310). -/
  | persErase (q : Queue) (f : Insn)
  /-- LOCK_SET (R450). -/
  | lockSet (q : Queue) (f : Insn)
  /-- KEY_PROG (R454). -/
  | keyProg (q : Queue) (f : Insn)
  /-- PW_SET (R367). -/
  | pwSet (q : Queue) (f : Insn)
  /-- SEC_STAT (R214). -/
  | secStat (q : Queue) (f : Insn)
  /-- CLK_SEL (R48). -/
  | clkSel (q : Queue) (f : Insn)
  /-- CLK_FORCE (R58). -/
  | clkForce (q : Queue) (f : Insn)
  /-- LINK_CTL_ENABLE (R85). -/
  | linkCtlEnable (q : Queue) (f : Insn)
  /-- LINK_CTL_DISABLE (R85). -/
  | linkCtlDisable (q : Queue) (f : Insn)
  /-- LINK_CTL_RETRAIN (R85). -/
  | linkCtlRetrain (q : Queue) (f : Insn)
  /-- LINK_CTL_SEND_DATA (R85). -/
  | linkCtlSendData (q : Queue) (f : Insn)
  /-- LINK_CTL_SEND_CMD (R85). -/
  | linkCtlSendCmd (q : Queue) (f : Insn)
  /-- LINK_CTL_SYNC_NOW (R85). -/
  | linkCtlSyncNow (q : Queue) (f : Insn)
  /-- LT_SET (R102). -/
  | ltSet (q : Queue) (f : Insn)
  /-- LT_ADJ (R94). -/
  | ltAdj (q : Queue) (f : Insn)
  /-- LIC_MARK (R389). -/
  | licMark (q : Queue) (f : Insn)
  /-- LIC_READ (R387). -/
  | licRead (q : Queue) (f : Insn)
  /-- SNAP (R218). -/
  | snap (q : Queue) (f : Insn)
  /-- SCRUB_CTL_PAUSE (R218). -/
  | scrubCtlPause (q : Queue) (f : Insn)
  /-- SCRUB_CTL_RESUME (R218). -/
  | scrubCtlResume (q : Queue) (f : Insn)
  /-- SCRUB_CTL_PASS (R335). -/
  | scrubCtlPass (q : Queue) (f : Insn)
  /-- CORE_RESET (R438): with what the front ends and the crossings hold as its reset begins, as for WARM_RESET. -/
  | coreReset (q : Queue) (f : Insn) (part : BitVec 3 := 0) (cross : List (BitVec 3 × BitVec 128) := [])
  /-- WAIT_TIME_MET (R490). -/
  | waitTimeMet (q : Queue)
  /-- WAIT_EVT_MET (R188). -/
  | waitEvtMet (q : Queue)
  /-- POSITION_REACHED (R286). -/
  | positionReached (q : Queue) (lt : BitVec 64)
  /-- RESOURCE_GRANTED (R34). -/
  | resourceGranted (q : Queue)
  /-- WAIT_TIMEOUT (R163). -/
  | waitTimeout (q : Queue)
  /-- STALL_CIRCLE (R164). -/
  | stallCircle
  /-- EVTSRC_TIMER (R161). -/
  | evtsrcTimer (k : BitVec 5)
  /-- HANDLER_REQUEST_ISSUE (R424). -/
  | handlerRequestIssue
  /-- PUSH_Q0 (R114). -/
  | pushQ0 (ws : List (BitVec 128)) (part : Bool)
  /-- PUSH_Q1 (R114). -/
  | pushQ1 (ws : List (BitVec 128)) (part : Bool)
  /-- READ_STATUS (R112): a frame of a command byte that brings no address and no data; 0x05 is READ_STATUS itself (R110). -/
  | readStatus (cmd : BitVec 8 := 0x05)
  /-- READ_RING (R117). -/
  | readRing (addr : BitVec 24) (bytes : Nat)
  /-- READ_STREAM (R117). -/
  | readStream (addr : BitVec 24) (bytes : Nat)
  /-- WRITE_STREAM (R118). -/
  | writeStream (addr : BitVec 24) (ws : List (BitVec 128)) (part : Bool)
  /-- READ_ID (R110). -/
  | readId
  /-- RESET_ENABLE (R111). -/
  | resetEnable
  /-- RESET (R106). -/
  | reset
  /-- MGT_WRITE (R124). -/
  | mgtWrite (ptr : BitVec 32) (groups : List (BitVec 32)) (cut : Bool)
  /-- MGT_READ (R125). -/
  | mgtRead (groups : Nat)
  /-- MGT_STRETCH_TIMEOUT (R128). -/
  | mgtStretchTimeout (byteOfStore : Bool)
  /-- MGT_SCL_TIMEOUT (R106). -/
  | mgtSclTimeout (part : Bool)
  /-- MGT_IGO (R129). -/
  | mgtIgo (v : BitVec 32)
  /-- MGT_EXPECT (R132). -/
  | mgtExpect (v : BitVec 32)
  /-- MGT_LAST_READ (R127). -/
  | mgtLastRead
  /-- LIC_MGT_SLOT_READ (R388). -/
  | licMgtSlotRead (slot : BitVec 9)
  /-- LT_SNAPSHOT (R101). -/
  | ltSnapshot (src : Option Queue)
  /-- LT_APPLY (R102). -/
  | ltApply (q : Queue)
  /-- CLK_POLICY_WRITE (R47). -/
  | clkPolicyWrite (q : Queue) (v : BitVec 32)
  /-- LIC_ACK (R390). -/
  | licAck (q : Queue) (v : BitVec 32)
  /-- SCR_REPAIR (R338). -/
  | scrRepair (q : Queue) (v : BitVec 32)
  /-- CAP_RPTR_WRITE (R266). -/
  | capRptrWrite (q : Queue) (v : BitVec 32)
  /-- DMA_CTRL_DROP (R411). -/
  | dmaCtrlDrop (q : Queue) (ch : BitVec 4)
  /-- ENG_EVTSRC_WRITE (R161). -/
  | engEvtsrcWrite (q : Queue) (n : BitVec 5) (v : BitVec 32)
  /-- EDG_PINCFG_WRITE (R244). -/
  | edgPincfgWrite (q : Queue) (p : BitVec 8) (v : BitVec 32)
  /-- EDG_BIND_WRITE (R261). -/
  | edgBindWrite (q : Queue) (p : BitVec 8) (off : Bool) (v : BitVec 32)
  /-- FRD_SAFEST_WRITE (R241). -/
  | frdSafestWrite (q : Queue) (b : BitVec 4) (v : BitVec 32)
  /-- FRD_POL_WRITE (R242). -/
  | frdPolWrite (q : Queue) (n : BitVec 5) (v : BitVec 32)
  /-- SCR_POL_WRITE (R337). -/
  | scrPolWrite (q : Queue) (n : BitVec 5) (v : BitVec 32)
  /-- LNK_CTRL_WRITE (R98). -/
  | lnkCtrlWrite (q : Queue) (p : BitVec 2) (v : BitVec 32)
  /-- PRT_RESET_SPI (R106). -/
  | prtResetSpi (q : Queue)
  /-- PRT_RESET_MGT (R106). -/
  | prtResetMgt (q : Queue)
  /-- PRT_RESET_JTAG (R106). -/
  | prtResetJtag (q : Queue)
  /-- REGISTER_WRITE (R8). -/
  | registerWrite (q : Queue) (addr : BitVec 32) (v : BitVec 32)
  /-- EXTEST (R137), with what a scan of the boundary-scan register shifts in. -/
  | extest (scan : BitVec 605 := 0)
  /-- SAMPLE_PRELOAD (R136), with what the scan shifts in. -/
  | samplePreload (scan : BitVec 605 := 0)
  /-- IDCODE (R135). -/
  | idcode
  /-- HIGHZ (R137). -/
  | highz
  /-- CLAMP (R137). -/
  | clamp
  /-- ISC_ENABLE (R139). -/
  | iscEnable
  /-- ISC_DISABLE (R139). -/
  | iscDisable
  /-- ISC_PROGRAM (R141). -/
  | iscProgram
  /-- ISC_ERASE (R141). -/
  | iscErase
  /-- ISC_READ (R142). -/
  | iscRead
  /-- ISC_ADDRESS_SHIFT (R140). -/
  | iscAddressShift (a : BitVec 24)
  /-- ISC_DATA_SHIFT (R140). -/
  | iscDataShift (w : BitVec 128)
  /-- ISC_NOOP (R136). -/
  | iscNoop
  /-- PRV_STATUS (R143). -/
  | prvStatus
  /-- PRV_KEYHASH (R143). -/
  | prvKeyhash
  /-- PRV_LICREAD (R143): the data shifted in, and whether the scan has an Update-DR before its capture. -/
  | prvLicread (dr : BitVec 9) (update : Bool := true)
  /-- PRV_EDGELOOP (R143). -/
  | prvEdgeloop (dr : BitVec 8)
  /-- BYPASS (R136): the instruction register code, its own or one that Table PRT-8 does not list. -/
  | bypass (ir : BitVec 10 := 0x3FF)
  /-- TAP_RESET (R106). -/
  | tapReset
  /-- FLASH_OP_DONE (R309). -/
  | flashOpDone
  /-- FUSE_OP_DONE (R449). -/
  | fuseOpDone
  /-- POWER_GOOD (R432). -/
  | powerGood
  /-- XTAL_OK (R53). -/
  | xtalOk (straps : BitVec 3)
  /-- LIC_RESTORE (R385). -/
  | licRestore
  /-- VCAP_OK (R357). -/
  | vcapOk
  /-- VCAP_LOW (R357). -/
  | vcapLow
  /-- RECALL (R352). -/
  | recall
  /-- CLOCK_DECISION (R442). -/
  | clockDecision
  /-- BOOT_TIMEOUT (R46). -/
  | bootTimeout
  /-- BOOT_SLOT_ATTEMPT (R314). -/
  | bootSlotAttempt
  /-- POWER_FAIL (R434). -/
  | powerFail (vccaux : Bool)
  /-- AUTOSTORE (R358). -/
  | autostore
  /-- AUX_WARN (R433): VCCAUX falls below its warning level, or rises above it again. -/
  | auxWarn (below : Bool := true)
  /-- VIO_CHANGE (R431). -/
  | vioChange (b : BitVec 4) (cls : BitVec 2)
  /-- TEMP_OVER (R446). -/
  | tempOver (temp : BitVec 16)
  /-- WARM_RESET (R437): which front ends (SPI, management, JTAG) hold a partly received instruction, and the whole words that
stand in the crossings, each with its crossing (R105). -/
  | warmReset (part : BitVec 3 := 0) (cross : List (BitVec 3 × BitVec 128) := [])
  /-- WARM_RESET_END (R437). -/
  | warmResetEnd
  /-- SAFE_N_FALL (R238). -/
  | safeNFall
  /-- SAFE_N_RISE (R239). -/
  | safeNRise
  /-- QUAL_WINDOW_END (R41). -/
  | qualWindowEnd (count : Nat) (locked : Bool)
  /-- CDR_LOCK (R40). -/
  | cdrLock
  /-- CDR_LOSS (R42, R98): the CDR of a port loses lock; that of port 0 is the line's. -/
  | cdrLoss (p : BitVec 2 := 0)
  /-- PLL_LOCK (R40). -/
  | pllLock
  /-- PLL_HOLDOVER_END (R40). -/
  | pllHoldoverEnd
  /-- LINE_LOSS (R54). -/
  | lineLoss
  /-- XTAL_LOSS (R54). -/
  | xtalLoss
  /-- HOLD_RESUME (R56). -/
  | holdResume
  /-- AUTO_FALLBACK (R62). -/
  | autoFallback
  /-- LINK_UP (R98): the characters from the first comma on, by default a comma, D21.5 and 255 characters of IDLE sets. -/
  | linkUp (p : BitVec 2) (chars : List (BitVec 10) := idleChars 257)
  /-- LINK_CODE_ERRORS (R72, R98): characters outside frames, and the line time of the last of them where it is not now. -/
  | linkCodeErrors (p : BitVec 2) (chars : List (BitVec 10) := List.replicate 16 0) (t : Option (BitVec 64) := none)
  /-- POS_FRAME_RX (R269). -/
  | posFrameRx (p : BitVec 2) (fr : Frame)
  /-- CMD_FRAME_RX (R82). -/
  | cmdFrameRx (p : BitVec 2) (fr : Frame)
  /-- DATA_FRAME_RX (R84). -/
  | dataFrameRx (p : BitVec 2) (fr : Frame)
  /-- SYNC_REQ_RX (R91). -/
  | syncReqRx (p : BitVec 2) (fr : Frame) (t : BitVec 64)
  /-- SYNC_RSP_RX (R92). -/
  | syncRspRx (p : BitVec 2) (fr : Frame) (t : BitVec 64)
  /-- XOFF_RX (R97). -/
  | xoffRx (p : BitVec 2) (fr : Frame)
  /-- XON_RX (R97). -/
  | xonRx (p : BitVec 2) (fr : Frame)
  /-- POS_FORWARD (R88). -/
  | posForward (p : BitVec 2) (late : Bool)
  /-- CMD_FORWARD (R83). -/
  | cmdForward (p : BitVec 2)
  /-- SYNC_RSP_TX (R91). -/
  | syncRspTx (p : BitVec 2) (t : BitVec 64)
  /-- SYNC_PERIOD (R91). -/
  | syncPeriod (t : BitVec 64)
  /-- SYNC_TIMEOUT (R91). -/
  | syncTimeout
  /-- ALIGNED_TIMEOUT (R93). -/
  | alignedTimeout
  /-- POS_LOST (R81). -/
  | posLost
  /-- COAST_LIMIT (R273). -/
  | coastLimit
  /-- SLEW_STEP (R94). -/
  | slewStep
  /-- LT_SECOND_ROLLOVER (R221). -/
  | ltSecondRollover
  /-- CAM_FIRE (R282). -/
  | camFire (n : BitVec 5) (lt : BitVec 64)
  /-- CAM_DELAYED_FIRING (R281). -/
  | camDelayedFiring (n : BitVec 5) (lt : BitVec 64)
  /-- CAM_BOUNDARY (R284). -/
  | camBoundary (lt : BitVec 64)
  /-- EDGE_PLACE (R256). -/
  | edgePlace (p : BitVec 8) (lt : BitVec 64)
  /-- CAL_PIN_MEASURE (R252). -/
  | calPinMeasure (p : BitVec 8)
  /-- CAL_STEP_UPDATE (R251). -/
  | calStepUpdate (b : BitVec 4)
  /-- CAPTURE_EDGE (R262). -/
  | captureEdge (p : BitVec 8) (rising : Bool) (t : BitVec 64)
  /-- CAPTURE_RAM_WRITE (R264). -/
  | captureRamWrite
  /-- DMA_READ_BURST (R399). -/
  | dmaReadBurst (ch : BitVec 4)
  /-- DMA_WRITE_BURST (R401). -/
  | dmaWriteBurst (ch : BitVec 4)
  /-- DMA_WRITE_ACK (R394). -/
  | dmaWriteAck (ch : BitVec 4)
  /-- DMA_RETRY (R407). -/
  | dmaRetry (ch : BitVec 4) (ok : Bool)
  /-- STORE_COMMIT (R348). -/
  | storeCommit
  /-- RECALL_TRANSFER (R355). -/
  | recallTransfer
  /-- LIC_DRAIN (R374). -/
  | licDrain
  /-- LIC_SHADOW_PROGRAM (R382). -/
  | licShadowProgram
  /-- SCRUB_FROND_CHECK (R335). -/
  | scrubFrondCheck
  /-- REPAIR_BEGIN (R339). -/
  | repairBegin (n : BitVec 5)
  /-- REPAIR_SWAP (R339). -/
  | repairSwap (n : BitVec 5)
  /-- IRP_STAGE (R330). -/
  | irpStage (lines : BitVec 16)
  /-- IRP_SWAP (R330). -/
  | irpSwap (lines : BitVec 16)
  /-- IRP_SAFE (R330). -/
  | irpSafe (lines : BitVec 16)
  /-- IRP_STATUS (R330). -/
  | irpStatus (lines : BitVec 16)
  /-- IRP_CALL (R330). -/
  | irpCall (lines : BitVec 16)
  /-- VCAP_EXHAUSTED (R434). -/
  | vcapExhausted
  /-- HYSTERESIS_LATCH_EMPTY (R279). -/
  | hysteresisLatchEmpty (n : BitVec 5) (lt : BitVec 64)
  /-- DOUBLE_UPSET_WINDOW_END (R426). -/
  | doubleUpsetWindowEnd (n : BitVec 5)
  deriving DecidableEq, Repr

end Sys2Proof
end

