-- ==== Sys2Proof/Machine/Operands.lean ====
section
/-!
DEFINITION. The opcodes of Table ISA-1 as data: code, permitted queues (Table IMD-3), whether tx = 1 is allowed
(Table IMD-7), the bits of ext, tgt and op that the entries name (R178), and the issue kind (R153).
Then the row of each command, the instruction word a row encodes to, and the form of each numeric operand.
-/
namespace Sys2Proof

/-- One opcode's row. `queues` has bit n for Qn; `ext`, `tgt`, `op` have a 1 for every bit an entry names. -/
structure OpInfo where
  code   : BitVec 8
  queues : BitVec 8
  tx     : Bool
  ext    : BitVec 8
  tgt    : BitVec 32
  op     : BitVec 64
  serial : Bool
  deriving DecidableEq, Repr

namespace Op

/-- NOP -/
def nop : OpInfo := ⟨0x00, 0xDF, false, 0x0, 0x0, 0x0, false⟩
/-- FENCE -/
def fence : OpInfo := ⟨0x01, 0xDF, false, 0x0, 0x0, 0x0, true⟩
/-- WAIT.POS -/
def waitPos : OpInfo := ⟨0x02, 0x5F, false, 0x1, 0x0, 0xFFFFFFFFFFFFFFFF, true⟩
/-- WAIT.TIME -/
def waitTime : OpInfo := ⟨0x03, 0x5F, false, 0x1, 0x0, 0xFFFFFFFFFFFFFFFF, true⟩
/-- WAIT.EVT -/
def waitEvt : OpInfo := ⟨0x04, 0x5F, false, 0x0, 0x0, 0xFFFFFFFFFFFFFFFF, true⟩
/-- CALL -/
def call : OpInfo := ⟨0x05, 0x5F, false, 0x0, 0xFFFFFFFF, 0x0, true⟩
/-- RET -/
def ret : OpInfo := ⟨0x06, 0x5F, false, 0x0, 0x0, 0x0, true⟩
/-- HALT.Q -/
def haltQ : OpInfo := ⟨0x07, 0x81, false, 0x3, 0x7, 0x0, true⟩
/-- SIG.EVT -/
def sigEvt : OpInfo := ⟨0x08, 0x5F, false, 0x0, 0x0, 0xFFFFFFFFFFFFFFFF, true⟩
/-- LD -/
def ld : OpInfo := ⟨0x10, 0xFF, true, 0x3, 0xFFFFFFFF, 0xFFFFFFFF, false⟩
/-- ST -/
def st : OpInfo := ⟨0x11, 0x7F, true, 0x1, 0xFFFFFFFF, 0xFFFFFFFFFFFFFFFF, false⟩
/-- RMW -/
def rmw : OpInfo := ⟨0x12, 0x5F, true, 0x3, 0xFFFFFFFF, 0xFFFFFFFFFFFFFFFF, false⟩
/-- LD.SNAP -/
def ldSnap : OpInfo := ⟨0x13, 0x5F, true, 0xF, 0xFFFFFFFF, 0xFFFFFFFF, false⟩
/-- TERM.WR -/
def termWr : OpInfo := ⟨0x20, 0x1F, true, 0x1, 0xFFF1F, 0xFFFFFFFFFFFFFFFF, false⟩
/-- MC.CFG -/
def mcCfg : OpInfo := ⟨0x21, 0x1F, true, 0x1, 0x3F1F, 0xFFFF, false⟩
/-- FROND.SAFE -/
def frondSafe : OpInfo := ⟨0x22, 0xFF, true, 0x1, 0x0, 0xFFFFFFFF, true⟩
/-- FROND.RUN -/
def frondRun : OpInfo := ⟨0x23, 0xDF, true, 0x0, 0x0, 0xFFFFFFFF, true⟩
/-- PLANE.SWAP -/
def planeSwap : OpInfo := ⟨0x24, 0xDF, true, 0x0, 0x0, 0xFFFFFFFF, true⟩
/-- PLANE.SWAP.AT -/
def planeSwapAt : OpInfo := ⟨0x25, 0xDF, false, 0x1, 0xFFFFFFFF, 0xFFFFFFFFFFFFFFFF, true⟩
/-- EDGE.SET -/
def edgeSet : OpInfo := ⟨0x30, 0x5F, true, 0x3, 0x3FF, 0xFFFFFFFFFFFFFFFF, false⟩
/-- EDGE.PULSE -/
def edgePulse : OpInfo := ⟨0x31, 0x5F, true, 0xF, 0xFFFFF1FF, 0xFFFFFFFFFFFFFFFF, false⟩
/-- EDGE.CAL -/
def edgeCal : OpInfo := ⟨0x32, 0x5F, false, 0x0, 0xF, 0x0, true⟩
/-- PIN.SAFE -/
def pinSafe : OpInfo := ⟨0x33, 0xFF, true, 0x1, 0xF, 0xFFFF, true⟩
/-- CAM.LOAD -/
def camLoad : OpInfo := ⟨0x40, 0x5F, true, 0x0, 0x1F, 0x1FFFFFFFFFFF, true⟩
/-- CAM.ARM -/
def camArm : OpInfo := ⟨0x41, 0x5F, true, 0x0, 0x1F, 0x0, true⟩
/-- CAM.DISARM -/
def camDisarm : OpInfo := ⟨0x42, 0xFF, true, 0x0, 0x1F, 0x0, true⟩
/-- CAM.NUDGE -/
def camNudge : OpInfo := ⟨0x43, 0x5F, true, 0x0, 0x1F, 0xFFFFFFFF, true⟩
/-- CAP.ARM -/
def capArm : OpInfo := ⟨0x50, 0x5F, false, 0x3, 0xFF, 0x0, true⟩
/-- CAP.READ -/
def capRead : OpInfo := ⟨0x51, 0x5F, false, 0x0, 0xFF, 0x0, false⟩
/-- NV.WR -/
def nvWr : OpInfo := ⟨0x60, 0x5F, true, 0x9F, 0xFFFFFFFF, 0xFFFFFFFFFFFFFFFF, false⟩
/-- NV.RD -/
def nvRd : OpInfo := ⟨0x61, 0x5F, true, 0x0, 0xFFFFFFFF, 0x0, false⟩
/-- NV.STORE -/
def nvStore : OpInfo := ⟨0x62, 0x5F, false, 0x0, 0x0, 0x0, true⟩
/-- NV.RECALL -/
def nvRecall : OpInfo := ⟨0x63, 0x5F, false, 0x0, 0x0, 0x0, true⟩
/-- CTR.INC -/
def ctrInc : OpInfo := ⟨0x64, 0x5F, true, 0x0, 0x3F, 0xFFFFFFFFFFFF, false⟩
/-- CTR.RD -/
def ctrRd : OpInfo := ⟨0x65, 0x5F, true, 0x0, 0x3F, 0x0, false⟩
/-- NV.UNLOCK -/
def nvUnlock : OpInfo := ⟨0x66, 0x23, false, 0x1, 0x0, 0xFFFFFFFFFFFFFFFF, true⟩
/-- NV.PROT -/
def nvProt : OpInfo := ⟨0x67, 0x03, false, 0x0, 0x0, 0x7, true⟩
/-- DMA.GO -/
def dmaGo : OpInfo := ⟨0x70, 0x5F, false, 0x0, 0xF, 0x0, true⟩
/-- DMA.STOP -/
def dmaStop : OpInfo := ⟨0x71, 0xDF, false, 0x1, 0xF, 0x0, true⟩
/-- DMA.STAT -/
def dmaStat : OpInfo := ⟨0x72, 0x5F, false, 0x0, 0xF, 0x0, true⟩
/-- TXN.BEGIN -/
def txnBegin : OpInfo := ⟨0x80, 0x5F, false, 0x0, 0x0, 0x0, true⟩
/-- TXN.COMMIT -/
def txnCommit : OpInfo := ⟨0x81, 0x5F, false, 0x0, 0x0, 0x0, true⟩
/-- TXN.ABORT -/
def txnAbort : OpInfo := ⟨0x82, 0xDF, false, 0x0, 0x3, 0x0, true⟩
/-- TXN.COMMIT.AT -/
def txnCommitAt : OpInfo := ⟨0x83, 0x5F, false, 0x1, 0x0, 0xFFFFFFFFFFFFFFFF, true⟩
/-- PERS.STAGE -/
def persStage : OpInfo := ⟨0x90, 0x03, false, 0x0, 0x1, 0x0, true⟩
/-- PERS.VERIFY -/
def persVerify : OpInfo := ⟨0x91, 0x03, false, 0x1, 0x1, 0x0, true⟩
/-- PERS.ACTIVATE -/
def persActivate : OpInfo := ⟨0x92, 0x03, false, 0x0, 0x0, 0x0, true⟩
/-- PERS.SLOT -/
def persSlot : OpInfo := ⟨0x93, 0x03, false, 0x0, 0x0, 0x3, true⟩
/-- VARIANT.STAGE -/
def variantStage : OpInfo := ⟨0x94, 0x43, false, 0x0, 0x7, 0xFFFFFFFF, true⟩
/-- PERS.PROG -/
def persProg : OpInfo := ⟨0x95, 0x03, false, 0x0, 0xFFFFFF, 0xFFFFFFFF, true⟩
/-- PERS.ERASE -/
def persErase : OpInfo := ⟨0x96, 0x03, false, 0x0, 0xFFFFFF, 0x0, true⟩
/-- LOCK.SET -/
def lockSet : OpInfo := ⟨0xA0, 0x03, false, 0x0, 0xF, 0xFFFF0000FFFFFFFF, true⟩
/-- KEY.PROG -/
def keyProg : OpInfo := ⟨0xA1, 0x03, false, 0x0, 0x3, 0xFFFFFFFFFFFFFFFF, true⟩
/-- PW.SET -/
def pwSet : OpInfo := ⟨0xA2, 0x03, false, 0x3, 0x1, 0xFFFFFFFFFFFFFFFF, true⟩
/-- SEC.STAT -/
def secStat : OpInfo := ⟨0xA3, 0x7F, false, 0x0, 0x0, 0x0, true⟩
/-- CLK.SEL -/
def clkSel : OpInfo := ⟨0xB0, 0x03, false, 0x0, 0x0, 0x3, true⟩
/-- CLK.FORCE -/
def clkForce : OpInfo := ⟨0xB1, 0x21, false, 0x0, 0x0, 0x3, true⟩
/-- LINK.CTL -/
def linkCtl : OpInfo := ⟨0xB2, 0x1F, false, 0x0, 0x3, 0x3FF001FFF7F, true⟩
/-- LT.SET -/
def ltSet : OpInfo := ⟨0xB3, 0x1F, false, 0x0, 0xFFFFFFFF, 0x3FFFFFFFF, true⟩
/-- LT.ADJ -/
def ltAdj : OpInfo := ⟨0xB4, 0x1F, false, 0x0, 0xFFFF, 0xFFFFFFFF, true⟩
/-- LIC.MARK -/
def licMark : OpInfo := ⟨0xC0, 0x5F, false, 0x0, 0xFFFF, 0xFFFFFFFFFFFFFFFF, true⟩
/-- LIC.READ -/
def licRead : OpInfo := ⟨0xC1, 0x3F, false, 0x0, 0xFFFFFFFF, 0x1FF, true⟩
/-- SNAP -/
def snap : OpInfo := ⟨0xC2, 0x03, false, 0x0, 0x0, 0xFFFFFFFF, true⟩
/-- SCRUB.CTL -/
def scrubCtl : OpInfo := ⟨0xC3, 0x03, false, 0x3, 0x0, 0xFFFFFFFF, true⟩
/-- CORE.RESET -/
def coreReset : OpInfo := ⟨0xC4, 0x01, false, 0x0, 0x0, 0x0, true⟩

end Op

/-- The instruction an instruction row stands for: queue, opcode and fields; none for the rows of ports, stores
and events. LINK.CTL and SCRUB.CTL rows fix their function bits. -/
def Instr.insn? (i : Instr) : Option (Queue × OpInfo × Insn) :=
  match i with
  | .nop q f => some (q, Op.nop, f)
  | .fence q f => some (q, Op.fence, f)
  | .waitPos q f => some (q, Op.waitPos, f)
  | .waitTime q f => some (q, Op.waitTime, f)
  | .waitEvt q f => some (q, Op.waitEvt, f)
  | .call q f => some (q, Op.call, f)
  | .ret q f => some (q, Op.ret, f)
  | .haltQ q f => some (q, Op.haltQ, f)
  | .sigEvt q f => some (q, Op.sigEvt, f)
  | .ld q f => some (q, Op.ld, f)
  | .st q f => some (q, Op.st, f)
  | .rmw q f => some (q, Op.rmw, f)
  | .ldSnap q f => some (q, Op.ldSnap, f)
  | .termWr q f => some (q, Op.termWr, f)
  | .mcCfg q f => some (q, Op.mcCfg, f)
  | .frondSafe q f => some (q, Op.frondSafe, f)
  | .frondRun q f => some (q, Op.frondRun, f)
  | .planeSwap q f => some (q, Op.planeSwap, f)
  | .planeSwapAt q f => some (q, Op.planeSwapAt, f)
  | .edgeSet q f => some (q, Op.edgeSet, f)
  | .edgePulse q f => some (q, Op.edgePulse, f)
  | .edgeCal q f => some (q, Op.edgeCal, f)
  | .pinSafe q f => some (q, Op.pinSafe, f)
  | .camLoad q f => some (q, Op.camLoad, f)
  | .camArm q f => some (q, Op.camArm, f)
  | .camDisarm q f => some (q, Op.camDisarm, f)
  | .camNudge q f => some (q, Op.camNudge, f)
  | .capArm q f => some (q, Op.capArm, f)
  | .capRead q f => some (q, Op.capRead, f)
  | .nvWr q f => some (q, Op.nvWr, f)
  | .nvRd q f => some (q, Op.nvRd, f)
  | .nvStore q f => some (q, Op.nvStore, f)
  | .nvRecall q f => some (q, Op.nvRecall, f)
  | .ctrInc q f => some (q, Op.ctrInc, f)
  | .ctrRd q f => some (q, Op.ctrRd, f)
  | .nvUnlock q f => some (q, Op.nvUnlock, f)
  | .nvProt q f => some (q, Op.nvProt, f)
  | .dmaGo q f => some (q, Op.dmaGo, f)
  | .dmaStop q f => some (q, Op.dmaStop, f)
  | .dmaStat q f => some (q, Op.dmaStat, f)
  | .txnBegin q f => some (q, Op.txnBegin, f)
  | .txnCommit q f => some (q, Op.txnCommit, f)
  | .txnAbort q f => some (q, Op.txnAbort, f)
  | .txnCommitAt q f => some (q, Op.txnCommitAt, f)
  | .persStage q f => some (q, Op.persStage, f)
  | .persVerify q f => some (q, Op.persVerify, f)
  | .persActivate q f => some (q, Op.persActivate, f)
  | .persSlot q f => some (q, Op.persSlot, f)
  | .variantStage q f => some (q, Op.variantStage, f)
  | .persProg q f => some (q, Op.persProg, f)
  | .persErase q f => some (q, Op.persErase, f)
  | .lockSet q f => some (q, Op.lockSet, f)
  | .keyProg q f => some (q, Op.keyProg, f)
  | .pwSet q f => some (q, Op.pwSet, f)
  | .secStat q f => some (q, Op.secStat, f)
  | .clkSel q f => some (q, Op.clkSel, f)
  | .clkForce q f => some (q, Op.clkForce, f)
  | .linkCtlEnable q f => some (q, Op.linkCtl, f)
  | .linkCtlDisable q f => some (q, Op.linkCtl, f)
  | .linkCtlRetrain q f => some (q, Op.linkCtl, f)
  | .linkCtlSendData q f => some (q, Op.linkCtl, f)
  | .linkCtlSendCmd q f => some (q, Op.linkCtl, f)
  | .linkCtlSyncNow q f => some (q, Op.linkCtl, f)
  | .ltSet q f => some (q, Op.ltSet, f)
  | .ltAdj q f => some (q, Op.ltAdj, f)
  | .licMark q f => some (q, Op.licMark, f)
  | .licRead q f => some (q, Op.licRead, f)
  | .snap q f => some (q, Op.snap, f)
  | .scrubCtlPause q f => some (q, Op.scrubCtl, f)
  | .scrubCtlResume q f => some (q, Op.scrubCtl, f)
  | .scrubCtlPass q f => some (q, Op.scrubCtl, f)
  | .coreReset q f _ _ => some (q, Op.coreReset, f)
  | .waitTimeMet _ => none
  | .waitEvtMet _ => none
  | .positionReached _ _ => none
  | .resourceGranted _ => none
  | .waitTimeout _ => none
  | .stallCircle => none
  | .evtsrcTimer _ => none
  | .handlerRequestIssue => none
  | .pushQ0 _ _ => none
  | .pushQ1 _ _ => none
  | .readStatus _ => none
  | .readRing _ _ => none
  | .readStream _ _ => none
  | .writeStream _ _ _ => none
  | .readId => none
  | .resetEnable => none
  | .reset => none
  | .mgtWrite _ _ _ => none
  | .mgtRead _ => none
  | .mgtStretchTimeout _ => none
  | .mgtSclTimeout _ => none
  | .mgtIgo _ => none
  | .mgtExpect _ => none
  | .mgtLastRead => none
  | .licMgtSlotRead _ => none
  | .ltSnapshot _ => none
  | .ltApply _ => none
  | .clkPolicyWrite _ _ => none
  | .licAck _ _ => none
  | .scrRepair _ _ => none
  | .capRptrWrite _ _ => none
  | .dmaCtrlDrop _ _ => none
  | .engEvtsrcWrite _ _ _ => none
  | .edgPincfgWrite _ _ _ => none
  | .edgBindWrite _ _ _ _ => none
  | .frdSafestWrite _ _ _ => none
  | .frdPolWrite _ _ _ => none
  | .scrPolWrite _ _ _ => none
  | .lnkCtrlWrite _ _ _ => none
  | .prtResetSpi _ => none
  | .prtResetMgt _ => none
  | .prtResetJtag _ => none
  | .registerWrite _ _ _ => none
  | .extest _ => none
  | .samplePreload _ => none
  | .idcode => none
  | .highz => none
  | .clamp => none
  | .iscEnable => none
  | .iscDisable => none
  | .iscProgram => none
  | .iscErase => none
  | .iscRead => none
  | .iscAddressShift _ => none
  | .iscDataShift _ => none
  | .iscNoop => none
  | .prvStatus => none
  | .prvKeyhash => none
  | .prvLicread _ _ => none
  | .prvEdgeloop _ => none
  | .bypass _ => none
  | .tapReset => none
  | .flashOpDone => none
  | .fuseOpDone => none
  | .powerGood => none
  | .xtalOk _ => none
  | .licRestore => none
  | .vcapOk => none
  | .vcapLow => none
  | .recall => none
  | .clockDecision => none
  | .bootTimeout => none
  | .bootSlotAttempt => none
  | .powerFail _ => none
  | .autostore => none
  | .auxWarn _ => none
  | .vioChange _ _ => none
  | .tempOver _ => none
  | .warmReset _ _ => none
  | .warmResetEnd => none
  | .safeNFall => none
  | .safeNRise => none
  | .qualWindowEnd _ _ => none
  | .cdrLock => none
  | .cdrLoss _ => none
  | .pllLock => none
  | .pllHoldoverEnd => none
  | .lineLoss => none
  | .xtalLoss => none
  | .holdResume => none
  | .autoFallback => none
  | .linkUp _ _ => none
  | .linkCodeErrors _ _ _ => none
  | .posFrameRx _ _ => none
  | .cmdFrameRx _ _ => none
  | .dataFrameRx _ _ => none
  | .syncReqRx _ _ _ => none
  | .syncRspRx _ _ _ => none
  | .xoffRx _ _ => none
  | .xonRx _ _ => none
  | .posForward _ _ => none
  | .cmdForward _ => none
  | .syncRspTx _ _ => none
  | .syncPeriod _ => none
  | .syncTimeout => none
  | .alignedTimeout => none
  | .posLost => none
  | .coastLimit => none
  | .slewStep => none
  | .ltSecondRollover => none
  | .camFire _ _ => none
  | .camDelayedFiring _ _ => none
  | .camBoundary _ => none
  | .edgePlace _ _ => none
  | .calPinMeasure _ => none
  | .calStepUpdate _ => none
  | .captureEdge _ _ _ => none
  | .captureRamWrite => none
  | .dmaReadBurst _ => none
  | .dmaWriteBurst _ => none
  | .dmaWriteAck _ => none
  | .dmaRetry _ _ => none
  | .storeCommit => none
  | .recallTransfer => none
  | .licDrain => none
  | .licShadowProgram => none
  | .scrubFrondCheck => none
  | .repairBegin _ => none
  | .repairSwap _ => none
  | .irpStage _ => none
  | .irpSwap _ => none
  | .irpSafe _ => none
  | .irpStatus _ => none
  | .irpCall _ => none
  | .vcapExhausted => none
  | .hysteresisLatchEmpty _ _ => none
  | .doubleUpsetWindowEnd _ => none

/-- The function code a LINK.CTL row names (Table LNK-5a), in op[3:0]. -/
def linkFn (i : Instr) : Option (BitVec 4) :=
  match i with
  | .linkCtlEnable _ _ => some 1
  | .linkCtlDisable _ _ => some 2
  | .linkCtlRetrain _ _ => some 3
  | .linkCtlSendData _ _ => some 4
  | .linkCtlSendCmd _ _ => some 5
  | .linkCtlSyncNow _ _ => some 6
  | _ => none

/-- The function code a SCRUB.CTL row names (Table ISA-13), in ext[1:0]. -/
def scrubFn (i : Instr) : Option (BitVec 2) :=
  match i with
  | .scrubCtlPause _ _ => some 0
  | .scrubCtlResume _ _ => some 1
  | .scrubCtlPass _ _ => some 2
  | _ => none

/-- Whether the word sets only bits that its entry names (check 1 of R146, R178). -/
def OpInfo.named (o : OpInfo) (f : Insn) : Bool :=
  f.rsv == 0 && (f.ext &&& ~~~o.ext) == 0 && (f.tgt &&& ~~~o.tgt) == 0 && (f.op &&& ~~~o.op) == 0

/-- Whether the queue may issue the opcode (check 2 of R146). -/
def OpInfo.permits (o : OpInfo) (q : Queue) : Bool := o.queues.getLsbD q.val

/-- A bit range of an operand as a number. -/
def field {w : Nat} (v : BitVec w) (lo n : Nat) : Nat := (v.toNat >>> lo) % 2 ^ n

/-- The 128-bit word of an opcode and its fields (Table IMD-1). -/
def encodeWord (code : BitVec 8) (f : Insn) : QWord := code ++ f.low

/-- The fields of a 128-bit word (Table IMD-1). -/
def wordFields (w : QWord) : Insn :=
  { tx := w.getLsbD 119, fence := w.getLsbD 118, cmpl := w.getLsbD 117, chain := w.getLsbD 116,
    rsv := w.extractLsb' 112 4, tag := w.extractLsb' 104 8, ext := w.extractLsb' 96 8,
    tgt := w.extractLsb' 64 32, op := w.extractLsb' 0 64 }

/-- The codes of Table PRT-8 other than that of BYPASS. -/
def listedCode (ir : BitVec 10) : Bool :=
  [0x000, 0x001, 0x004, 0x006, 0x007, 0x300, 0x301, 0x302, 0x303].contains ir.toNat
    || (0x0E8 ≤ ir.toNat && ir.toNat ≤ 0x0EF)

end Sys2Proof
end

