-- ==== Sys2Proof/Decode.lean ====
section
/-!
DEFINITION. Reading a PZ128 word as a command (R145, Table ISA-1), the encoder beside it, and the table's own
numbering of command words: no row of spec/opcode_table.json gives bits, so `decodeTableWord` reads none.
-/
namespace Sys2Proof

/-- The command that queue `q` issues for the word `w`; none for an opcode that is not assigned and for a LINK.CTL or
SCRUB.CTL function that Tables LNK-5a and ISA-13 do not list. -/
def decodeWord (q : Queue) (w : QWord) : Option Instr :=
  let f := wordFields w
  match (w.extractLsb' 120 8).toNat with
  | 0x00 => some (.nop q f)
  | 0x01 => some (.fence q f)
  | 0x02 => some (.waitPos q f)
  | 0x03 => some (.waitTime q f)
  | 0x04 => some (.waitEvt q f)
  | 0x05 => some (.call q f)
  | 0x06 => some (.ret q f)
  | 0x07 => some (.haltQ q f)
  | 0x08 => some (.sigEvt q f)
  | 0x10 => some (.ld q f)
  | 0x11 => some (.st q f)
  | 0x12 => some (.rmw q f)
  | 0x13 => some (.ldSnap q f)
  | 0x20 => some (.termWr q f)
  | 0x21 => some (.mcCfg q f)
  | 0x22 => some (.frondSafe q f)
  | 0x23 => some (.frondRun q f)
  | 0x24 => some (.planeSwap q f)
  | 0x25 => some (.planeSwapAt q f)
  | 0x30 => some (.edgeSet q f)
  | 0x31 => some (.edgePulse q f)
  | 0x32 => some (.edgeCal q f)
  | 0x33 => some (.pinSafe q f)
  | 0x40 => some (.camLoad q f)
  | 0x41 => some (.camArm q f)
  | 0x42 => some (.camDisarm q f)
  | 0x43 => some (.camNudge q f)
  | 0x50 => some (.capArm q f)
  | 0x51 => some (.capRead q f)
  | 0x60 => some (.nvWr q f)
  | 0x61 => some (.nvRd q f)
  | 0x62 => some (.nvStore q f)
  | 0x63 => some (.nvRecall q f)
  | 0x64 => some (.ctrInc q f)
  | 0x65 => some (.ctrRd q f)
  | 0x66 => some (.nvUnlock q f)
  | 0x67 => some (.nvProt q f)
  | 0x70 => some (.dmaGo q f)
  | 0x71 => some (.dmaStop q f)
  | 0x72 => some (.dmaStat q f)
  | 0x80 => some (.txnBegin q f)
  | 0x81 => some (.txnCommit q f)
  | 0x82 => some (.txnAbort q f)
  | 0x83 => some (.txnCommitAt q f)
  | 0x90 => some (.persStage q f)
  | 0x91 => some (.persVerify q f)
  | 0x92 => some (.persActivate q f)
  | 0x93 => some (.persSlot q f)
  | 0x94 => some (.variantStage q f)
  | 0x95 => some (.persProg q f)
  | 0x96 => some (.persErase q f)
  | 0xA0 => some (.lockSet q f)
  | 0xA1 => some (.keyProg q f)
  | 0xA2 => some (.pwSet q f)
  | 0xA3 => some (.secStat q f)
  | 0xB0 => some (.clkSel q f)
  | 0xB1 => some (.clkForce q f)
  | 0xB2 =>
    match field f.op 0 4 with
    | 1 => some (.linkCtlEnable q f)
    | 2 => some (.linkCtlDisable q f)
    | 3 => some (.linkCtlRetrain q f)
    | 4 => some (.linkCtlSendData q f)
    | 5 => some (.linkCtlSendCmd q f)
    | 6 => some (.linkCtlSyncNow q f)
    | _ => none
  | 0xB3 => some (.ltSet q f)
  | 0xB4 => some (.ltAdj q f)
  | 0xC0 => some (.licMark q f)
  | 0xC1 => some (.licRead q f)
  | 0xC2 => some (.snap q f)
  | 0xC3 =>
    match field f.ext 0 2 with
    | 0 => some (.scrubCtlPause q f)
    | 1 => some (.scrubCtlResume q f)
    | 2 => some (.scrubCtlPass q f)
    | _ => none
  | 0xC4 => some (.coreReset q f)
  | _ => none

/-- The word of an instruction row (Table IMD-1); none for the other rows. -/
def encode (i : Instr) : Option QWord :=
  match i.insn? with
  | some (_, o, f) => some (encodeWord o.code f)
  | none => none

/-- The command a table word spells: the table gives no row any bits. -/
def decodeTableWord (_nbits _w : Nat) : Option Instr := none

end Sys2Proof
end

