-- ==== Sys2Proof/Machine/Crypto.lean ====
section
/-!
DEFINITION. The standard algorithms that R296, R297 and R453 name: SHA-256 (FIPS 180-4), HMAC (FIPS 198-1), AES-256
(FIPS 197) and the decryption of GCM (SP 800-38D). The spec names the standards and leaves their text to them (log entry 9).
-/
namespace Sys2Proof.Machine

/-! ### SHA-256 -/

/-- The number that a list of bytes holds, most significant first. -/
def beNat (bs : List Byte) : Nat := bs.foldl (fun a b => 256 * a + b.toNat) 0

/-- The `n` bytes of a number, most significant first. -/
def beBytes (v n : Nat) : List Byte := (List.range n).map fun i => BitVec.ofNat 8 (v >>> (8 * (n - 1 - i)))

/-- The first 64 primes. -/
def shaPrimes : List Nat := (List.range 312).filter fun p =>
  1 < p && (List.range 18).all fun d => d < 2 || p == d || p % d != 0

/-- The first 32 bits of the fraction of the `k`-th root of `p`: the root of p * 2^(32 k), bit by bit. -/
def rootFraction (k p : Nat) : Word :=
  BitVec.ofNat 32 ((List.range 36).foldl (fun r i =>
    let t := r + 2 ^ (35 - i)
    if t ^ k ≤ p * 2 ^ (32 * k) then t else r) 0)

/-- The round constants: from the cube roots of the first 64 primes. -/
def shaK : List Word := shaPrimes.map (rootFraction 3)

/-- The words of a hash in progress: the last four values of a and of e, newest first. -/
structure Sha where
  as : List Word
  es : List Word
  deriving DecidableEq, Repr

/-- The initial hash value: from the square roots of the first 8 primes. -/
def Sha.init : Sha :=
  let h := (shaPrimes.take 8).map (rootFraction 2)
  ⟨h.take 4, h.drop 4⟩

/-- Three rotations of a word, added bit by bit. -/
def rot3 (x : Word) (i j k : Nat) : Word := x.rotateRight i ^^^ (x.rotateRight j ^^^ x.rotateRight k)

/-- Two rotations and a shift of a word, added bit by bit. -/
def rot2 (x : Word) (i j k : Nat) : Word := x.rotateRight i ^^^ (x.rotateRight j ^^^ (x >>> k))

/-- A schedule put one word further; the words stand newest first. -/
def shaExtend (l : List Word) : List Word :=
  (l.getD 15 0 + rot2 (l.getD 14 0) 7 18 3 + l.getD 6 0 + rot2 (l.getD 1 0) 17 19 10) :: l

/-- The 64 schedule words of a block of 64 bytes. -/
def shaSchedule (bs : List Byte) : List Word :=
  let first := (List.range 16).map fun i => BitVec.ofNat 32 (beNat ((bs.drop (4 * i)).take 4))
  (Nat.repeat shaExtend 48 first.reverse).reverse

/-- One round with its constant and schedule word: a new a and a new e. -/
def Sha.round (s : Sha) (kw : Word × Word) : Sha :=
  let a := s.as.getD 0 0
  let e := s.es.getD 0 0
  let choose := (e &&& s.es.getD 1 0) ||| (~~~e &&& s.es.getD 2 0)
  let most := (a &&& (s.as.getD 1 0 ||| s.as.getD 2 0)) ||| (s.as.getD 1 0 &&& s.as.getD 2 0)
  let t := kw.1 + kw.2 + s.es.getD 3 0 + choose + rot3 e 6 11 25
  ⟨(t + most + rot3 a 2 13 22) :: s.as.take 3, (t + s.as.getD 3 0) :: s.es.take 3⟩

/-- One block. -/
def Sha.block (s : Sha) (bs : List Byte) : Sha :=
  let t := (shaK.zip (shaSchedule bs)).foldl Sha.round s
  ⟨List.zipWith (· + ·) s.as t.as, List.zipWith (· + ·) s.es t.es⟩

/-- The message with its padding: a 1 bit, zeros, the length in bits. -/
def shaPad (m : List Byte) : List Byte :=
  m ++ [0x80] ++ List.replicate ((119 - m.length % 64) % 64) 0 ++ beBytes (8 * m.length) 8

/-- The blocks of a message in order; `n` of them. -/
def Sha.blocks (s : Sha) : Nat → List Byte → Sha
  | 0, _ => s
  | n + 1, m => (s.block (m.take 64)).blocks n (m.drop 64)

/-- SHA-256. -/
def sha256 (m : List Byte) : List Byte :=
  let p := shaPad m
  let s := Sha.init.blocks (p.length / 64) p
  (s.as ++ s.es).flatMap fun w => beBytes w.toNat 4

/-- HMAC-SHA-256 of a key and a message. -/
@[irreducible] def hmacSha256 (key m : List Byte) : List Byte :=
  let k := if 64 < key.length then sha256 key else key
  let k := k ++ List.replicate (64 - k.length) 0
  sha256 (k.map (· ^^^ 0x5C) ++ sha256 (k.map (· ^^^ 0x36) ++ m))

/-! ### AES-256 -/

/-- Multiplication by x in the field of AES. -/
def xtime (b : Byte) : Byte := (b <<< 1) ^^^ (if b.getLsbD 7 then 0x1B else 0)

/-- The product in the field of AES. -/
def gfMul (a b : Byte) : Byte :=
  ((List.range 8).foldl (fun (p : Byte × Byte) i => (if b.getLsbD i then p.1 ^^^ p.2 else p.1, xtime p.2)) (0, a)).1

/-- The inverse, with 0 for 0: the 254th power. -/
def gfInv (a : Byte) : Byte :=
  let a2 := gfMul a a
  let a4 := gfMul a2 a2
  let a8 := gfMul a4 a4
  let a16 := gfMul a8 a8
  let a32 := gfMul a16 a16
  let a64 := gfMul a32 a32
  let a128 := gfMul a64 a64
  gfMul (gfMul (gfMul a2 a4) (gfMul a8 a16)) (gfMul (gfMul a32 a64) a128)

/-- The S-box. -/
def sbox (a : Byte) : Byte :=
  let b := gfInv a
  b ^^^ b.rotateLeft 1 ^^^ b.rotateLeft 2 ^^^ b.rotateLeft 3 ^^^ b.rotateLeft 4 ^^^ 0x63

/-- Two byte strings added. -/
def xorBytes (a b : List Byte) : List Byte := List.zipWith (· ^^^ ·) a b

/-- The next word of the key schedule, from the words before it, newest first; `i` is its number. -/
def aesNextWord (l : List (List Byte)) (i : Nat) : List Byte :=
  let t := l.headD []
  let t := if i % 8 = 0 then
      xorBytes ((t.drop 1 ++ t.take 1).map sbox) [BitVec.ofNat 8 (2 ^ (i / 8 - 1)), 0, 0, 0]
    else if i % 8 = 4 then t.map sbox else t
  xorBytes (l.getD 7 []) t

/-- The 15 round keys of a 32-byte key. -/
def aesKeys (key : List Byte) : List (List Byte) :=
  let w := (List.range 8).map fun i => (key.drop (4 * i)).take 4
  let l := ((List.range 52).foldl (fun (l : List (List Byte)) i => aesNextWord l (i + 8) :: l) w.reverse).reverse
  (List.range 15).map fun r => ((l.drop (4 * r)).take 4).flatten

/-- ShiftRows on a state of 16 bytes, column by column. -/
def shiftRows (s : List Byte) : List Byte := (List.range 16).map fun i => s.getD ((i + 4 * (i % 4)) % 16) 0

/-- MixColumns. -/
def mixColumns (s : List Byte) : List Byte := (List.range 16).map fun i =>
  let at_ (k : Nat) : Byte := s.getD (4 * (i / 4) + (i + k) % 4) 0
  gfMul (at_ 0) 2 ^^^ gfMul (at_ 1) 3 ^^^ at_ 2 ^^^ at_ 3

/-- A block encrypted under round keys. -/
def aesBlock (keys : List (List Byte)) (b : List Byte) : List Byte :=
  let s := xorBytes b (keys.headD [])
  let s := ((keys.drop 1).take 13).foldl (fun (s : List Byte) k => xorBytes (mixColumns (shiftRows (s.map sbox))) k) s
  xorBytes (shiftRows (s.map sbox)) (keys.getD 14 [])

/-! ### GCM -/

/-- The product of two blocks; bit 127 is the first bit of a block. -/
def ghashMul (x y : QWord) : QWord :=
  ((List.range 128).foldl (fun (p : QWord × QWord) i =>
    (if x.getLsbD (127 - i) then p.1 ^^^ p.2 else p.1,
      (p.2 >>> 1) ^^^ (if p.2.getLsbD 0 then 0xE1000000000000000000000000000000 else 0))) (0, y)).1

/-- The 16-byte blocks of a byte string, the last one filled with zeros. -/
def gcmBlocks (bs : List Byte) : List QWord :=
  (List.range ((bs.length + 15) / 16)).map fun i =>
    let b := (bs.drop (16 * i)).take 16
    BitVec.ofNat 128 (beNat (b ++ List.replicate (16 - b.length) 0))

/-- GHASH of blocks under the hash key. -/
def ghash (h : QWord) (l : List QWord) : QWord := l.foldl (fun (y : QWord) x => ghashMul (y ^^^ x) h) 0

/-- AES-256-GCM decryption with a 96-bit IV: the plaintext when the tag of 128 bits matches. -/
@[irreducible] def aesGcmOpen (key iv aad ct tag : List Byte) : Option (List Byte) :=
  let keys := aesKeys key
  let h := BitVec.ofNat 128 (beNat (aesBlock keys (List.replicate 16 0)))
  let lens := BitVec.ofNat 128 (8 * aad.length * 2 ^ 64 + 8 * ct.length)
  let s := ghash h (gcmBlocks aad ++ gcmBlocks ct ++ [lens])
  if xorBytes (beBytes s.toNat 16) (aesBlock keys (iv ++ beBytes 1 4)) = tag then
    some ((List.range ((ct.length + 15) / 16)).flatMap fun i =>
      xorBytes ((ct.drop (16 * i)).take 16) (aesBlock keys (iv ++ beBytes (i + 2) 4)))
  else none

end Sys2Proof.Machine
end

