-- ==== Sys2Proof/Config.lean ====
section
/-!
DEFINITION. What an implementation fixes and what the spec leaves open: constants without a body.
-/
namespace Sys2Proof.Config

/-- A value the spec leaves open, one for each count of the model's free-value counter (log entry 2). -/
opaque freeValue : Nat → BitVec 64

/-- The output of a combinational macrocell that depends on itself, for which the spec states no value: frond,
macrocell (log entry 13). -/
opaque loopLogic : Nat → Nat → Bool

/-- The level of a pad that nothing drives and no pull holds: pin, count of free values (log entry 97). -/
opaque floating : Nat → Nat → Bool

end Sys2Proof.Config
end

