-- ==== Sys2Proof/Machine/Crc.lean ====
section
/-!
DEFINITION. Bytes of numbers, the cyclic redundancy checks (R78, R298, R333), and the records of the store that carry one:
the commit record (Table NVS-4) and the counter cell (Table NVS-6).
-/
namespace Sys2Proof.Machine

/-- The bytes of a number, least significant first. -/
def natBytes (v : Nat) : Nat → List Byte
  | 0 => []
  | n + 1 => BitVec.ofNat 8 v :: natBytes (v / 256) n

/-- The number a list of bytes holds, least significant first. -/
def bytesNat : List Byte → Nat
  | [] => 0
  | b :: bs => b.toNat + 256 * bytesNat bs

/-! ### CRCs (R78, R298, R333) -/

/-- One bit step of a reflected CRC-32 with polynomial `poly` (reflected). -/
def crcStep (poly : Word) (r : Word) : Nat → Word
  | 0 => r
  | n + 1 => crcStep poly (if r.getLsbD 0 then (r >>> 1) ^^^ poly else r >>> 1) n

/-- A reflected CRC-32: initial value and final XOR all ones. -/
def crcRefl (poly : Word) (bs : List Byte) : Word :=
  ~~~(bs.foldl (fun r b => crcStep poly (r ^^^ b.setWidth 32) 8) 0xFFFFFFFF)

/-- CRC-32 of R78 (0x04C1_1DB7 reflected). -/
def crc32 (bs : List Byte) : Word := crcRefl 0xEDB88320 bs

/-- CRC-32C of R298 (0x1EDC_6F41 reflected). -/
def crc32c (bs : List Byte) : Word := crcRefl 0x82F63B78 bs

/-- One bit step of the CRC-64 of R333. -/
def crc64Step (r : BitVec 64) : Nat → BitVec 64
  | 0 => r
  | n + 1 => crc64Step (if r.getLsbD 63 then (r <<< 1) ^^^ 0x42F0E1EBA9EA3693 else r <<< 1) n

/-- CRC-64 (ECMA-182) of R333: no reflection, initial value 0. -/
def crc64 (bs : List Byte) : BitVec 64 :=
  bs.foldl (fun (r : BitVec 64) (b : Byte) => crc64Step (r ^^^ ((BitVec.setWidth 64 b) <<< (56 : Nat))) 8) 0

/-! ### Commit records and counter cells (R351, R359) -/

/-- The 512-byte commit record of a slot, field by field (Table NVS-4). -/
structure CommitRec where
  magic : Word
  gen   : Word
  pages : BitVec 16
  ctrs  : Byte
  kind  : Byte
  rsv1  : Word
  map   : BitVec 1088
  seqs  : Vector Word 64
  rsv2  : BitVec 800
  crc   : Word
  deriving DecidableEq, Repr

/-- A 16-byte counter cell, field by field (Table NVS-6). -/
structure CtrCell where
  value : BitVec 48
  ctr   : BitVec 6
  rsv   : BitVec 10
  seq   : Word
  crc   : Word
  deriving DecidableEq, Repr

/-- Bytes 0 to 507 of a record. -/
def CommitRec.body (r : CommitRec) : List Byte :=
  natBytes r.magic.toNat 4 ++ natBytes r.gen.toNat 4 ++ natBytes r.pages.toNat 2 ++ [r.ctrs, r.kind]
    ++ natBytes r.rsv1.toNat 4 ++ natBytes r.map.toNat 136 ++ r.seqs.toList.flatMap (fun w => natBytes w.toNat 4)
    ++ natBytes r.rsv2.toNat 100

/-- A record is valid: its magic and its CRC-32C (R351). -/
def CommitRec.valid (r : CommitRec) : Bool := r.magic == 0x434E4547 && r.crc == crc32c r.body

/-- A record as a store programs it: the magic, reserved bytes of 0 and its CRC (Table NVS-4). -/
def CommitRec.seal (gen : Word) (pages : BitVec 16) (ctrs kind : Byte) (map : BitVec 1088) (seqs : Vector Word 64) :
    CommitRec :=
  let r : CommitRec := ⟨0x434E4547, gen, pages, ctrs, kind, 0, map, seqs, 0, 0⟩
  { r with crc := crc32c r.body }

/-- Bytes 0 to 11 of a cell. -/
def CtrCell.body (c : CtrCell) : List Byte :=
  natBytes (c.value.toNat + 2 ^ 48 * c.ctr.toNat + 2 ^ 54 * c.rsv.toNat) 8 ++ natBytes c.seq.toNat 4

/-- A cell is a correct one of counter `k`: its counter field and its CRC-32C (R359, R360). -/
def CtrCell.good (c : CtrCell) (k : Nat) : Bool := c.ctr.toNat == k && c.crc == crc32c c.body

/-- A cell of counter `k` as a store programs it (Table NVS-6). -/
def CtrCell.seal (k : Nat) (value : BitVec 48) (seq : Word) : CtrCell :=
  let c : CtrCell := ⟨value, BitVec.ofNat 6 k, 0, seq, 0⟩
  { c with crc := crc32c c.body }

end Sys2Proof.Machine
end

