-- ==== Sys2Proof/Machine/State.lean ====
section
/-!
DEFINITION. The state of the VK4840: the queue of waiting commands, the fuses of the die, and the chip: every
register, queue, RAM, non-volatile cell and mode the spec gives the part, by block. Register words the spec numbers
stay bit vectors; internal positions and lists are Nat and List.
-/
namespace Sys2Proof.Machine

/-- Nobody raises it: the spec gives every command an effect, so no command of this block ends in a fault. -/
inductive Fault where
  /-- Raised by no meaning; kept because the host's interface names a fault type. It is safe. -/
  | none
  deriving DecidableEq, Repr

/-- Why a command could be turned away without a meaning. -/
inductive Refusal where
  /-- Raised only by a dispatch arm that has no meaning yet; it is safe, since nothing is claimed then. -/
  | notModelled (mnemonic : String)
  deriving DecidableEq, Repr

/-- Clock source states, Table CLK-1. -/
inductive ClkState where
  | qualifying | line | hold | fallback | forced
  deriving DecidableEq, Repr

/-- Who asked for a switch of the clock source: the device itself, a queue's CLK.SEL or CLK.FORCE, or a CLK.FORCE that the
management island executes in HOLD, by its tag (R58). -/
inductive SwitchBy where
  | device
  | queue (q : Queue)
  | island (tag : Byte)
  deriving DecidableEq, Repr

/-- A switch in flight (R49 to R51, R61, R491, R492): forced or glitch-free, to the line or the crystal, the state and the
events of its end, the state it started from, and the periods left: CCLK periods of Table CLK-3, or crystal periods of
R61. -/
structure Switch where
  forced : Bool
  line   : Bool
  into   : ClkState
  evt    : Word
  start  : ClkState
  caller : SwitchBy
  left   : Nat
  deriving DecidableEq, Repr

/-- CLK block and clock unit (R38 to R69). `tmoExpired` and `deciding` are the start-up timeout and a clock decision that
waits (R46, R442), `lossWait` a loss record that waits for a clock (R64). -/
structure Clk where
  st         : ClkState
  lineOk     : Bool
  cdrLock    : Bool
  xtalOk     : Bool
  lineLost   : Bool
  selPending : Bool
  passes     : BitVec 3
  gen        : BitVec 16
  policy     : Word
  evt        : Word
  inten      : Word
  qerr       : BitVec 16
  windows    : BitVec 16
  holdCnt    : BitVec 48
  holdSat    : Bool
  holds      : Word
  gate       : Word
  pllLock    : Bool
  lclk       : Bool
  xtalRuns   : Bool
  onLclk     : Bool
  tmoExpired : Bool
  deciding   : Bool
  lossWait   : Option (BitVec 16 × BitVec 3 × BitVec 16)
  switch     : Option Switch
  deriving DecidableEq, Repr

/-- Line time, its slewer and the LT block (R94, R100 to R103). `len` is the length of the last cc in ticks, `hold`
holds the holding registers of Q0 to Q7 and of the management port. -/
structure LineTime where
  sec      : BitVec 32
  ticks    : BitVec 34
  holdover : Bool
  aligned  : Bool
  source   : BitVec 4
  hops     : BitVec 4
  slew     : Word
  interval : BitVec 16
  slewCnt  : Nat
  len      : Nat
  wsec     : Word
  wtickl   : Word
  wtickh   : BitVec 2
  alignEn  : Bool
  hold     : Vector QWord 9
  deriving DecidableEq, Repr

/-- One link port (R70 to R103): line, Peer East, Peer West. `sent` is the last frame that left it, `lost` an input lost
while the core was frozen, which acts on resumption. `rd` is the running disparity of its receiver, true for positive, and
`errT` holds the line times of the code errors of the last 4,096 characters (R72, R98). -/
structure Port where
  ctrl    : Word
  st      : BitVec 2
  xoffRx  : Bool
  xoffTx  : Bool
  lastHop : BitVec 3
  evt     : Word
  inten   : Word
  crcerr  : Word
  codeerr : Word
  drop    : Word
  seqgap  : Word
  delay   : Word
  offset  : Word
  asym    : Word
  rxlast  : Word
  latefwd : Word
  rxSeq   : Option Byte
  txSeq   : Byte
  sent    : Option Frame
  fwdBuf  : List Frame
  posBuf  : Option Frame
  rsp     : List (List Byte × BitVec 64)
  lost    : Bool
  rd      : Bool
  errT    : List (BitVec 64)
  deriving DecidableEq, Repr

/-- Host port front end (R108 to R121). `status` and `out` are what it drove in the last frame. -/
structure Spi where
  ctrl    : Word
  evt     : Word
  inten   : Word
  accept  : Word
  refuse  : Word
  frmerr  : Word
  lastAcc : BitVec 6
  epoch   : Bool
  refused : Bool
  armed   : Bool
  status  : Byte
  out     : List Byte
  deriving DecidableEq, Repr

/-- Management port (R122 to R134). While MGT_SCL is stretched, `more` holds the stores that wait, `rdLeft` the groups
a read still owes, `cur` their address, `issued` that its LD is in Q5 and `cut` that the write ends in a group cut
short (R124). `held` is the recorder slot of R388, `heldBad` its words that could not be corrected. -/
structure Mgt where
  addr     : BitVec 7
  expGen   : BitVec 16
  expValid : Bool
  iw       : QWord
  lastSt   : Byte
  lastTag  : Byte
  lastPend : Bool
  lastQ5   : Bool
  cmpl     : QWord
  nacks    : Word
  stale    : Word
  ptr      : Word
  out      : List Byte
  stretch  : Bool
  more     : List Word
  rdLeft   : Nat
  cur      : Word
  issued   : Bool
  cut      : Bool
  held     : Option (BitVec 9 × List Byte)
  heldBad  : BitVec 4
  deriving DecidableEq, Repr

/-- JTAG port (R135 to R143). `dr` is the last captured data register and `irCap` the last captured instruction register,
`cells` the update stage of the boundary-scan register, in the model's own order of its 605 cells (log entry 95). -/
structure Jtg where
  isc  : Bool
  test : Bool
  code : Byte
  busy : Bool
  ir   : BitVec 10
  addr : BitVec 24
  idx  : BitVec 8
  buf  : Mem
  dr   : BitVec 605
  irCap : BitVec 10
  slot : BitVec 9
  cells : BitVec 605
  deriving DecidableEq, Repr

/-- Crossing counters and the reset epoch (R104 to R107). `cross` holds the words in the crossings that the core has not
taken: the crossing (0 SPI, 1 management, 2 JTAG, 3 line, 4 Peer East, 5 Peer West), the epoch a word carries, the queue
it is for and the word. -/
structure Prt where
  epoch : BitVec 2
  drop  : Vector Word 6
  part  : Vector Word 3
  cross : List (Nat × BitVec 2 × Queue × QWord)
  deriving DecidableEq, Repr

/-- Why the head instruction of a queue has not retired (R162, R156). -/
inductive WaitKind where
  | time | event | position | fence | context | storePort | storeDone | recl | recallCall | fuse | fuseDone
  | flashDone | credits | licWriter | xoff | boundary | drain | switch | staging | clkFree
  deriving DecidableEq, Repr

/-- A head instruction that has begun and not retired. `t` is the time or position it names, `since` the order in
which waits began. -/
structure Wait where
  kind  : WaitKind
  code  : BitVec 8
  f     : Insn
  t     : BitVec 64
  since : Nat
  res   : BitVec 64
  deriving DecidableEq, Repr

/-- A routine level: the CALL that entered it, the next word's address, the instructions run in it (R172). -/
structure CallFrame where
  f     : Insn
  next  : Nat
  count : Nat
  corr  : Bool
  deriving DecidableEq, Repr

/-- One queue of the engine with its ring positions and counts (R147 to R159). `kinds` tells of the newest occupied slots
of Q5 and Q7, oldest first, whether each is a management pointer access (R101, R126) or a reserved slot (R148). -/
structure QState where
  words  : List QWord
  kinds  : List Bool
  halted : Bool
  chain  : Bool
  fenceOk : Bool
  wait   : Option Wait
  calls  : List CallFrame
  txn    : Option (Fin 4)
  posted : Bool
  lost   : Nat
  rnext  : BitVec 7
  rcons  : BitVec 7
  ovf    : BitVec 16
  errs   : BitVec 16
  warns  : BitVec 16
  deriving DecidableEq, Repr

/-- A staged request for an EPU or for a pin force (Table IMD-7). -/
structure EdgeStage where
  pin  : Nat
  code : BitVec 8
  f    : Insn
  deriving DecidableEq, Repr

/-- A staged cam operation: 0 table, 1 arm, 2 disarm, 3 nudge. -/
structure CamStage where
  cam  : Nat
  kind : Nat
  val  : Word
  deriving DecidableEq, Repr

/-- A staged frond operation: 0 edit, 1 SAFE, 2 RESET, 3 RUN, 4 swap. -/
structure FrondStage where
  frond : Nat
  kind  : Nat
  deriving DecidableEq, Repr

/-- A transaction context (R165 to R171). Claims hold unit number and generation at the claim. -/
structure Ctx where
  isOpen  : Bool
  owner   : Queue
  serial  : Nat
  waiting : Bool
  storing : Bool
  regs    : List (Nat × Word)
  fronds  : List FrondStage
  cams    : List CamStage
  edges   : List EdgeStage
  nv      : List (Nat × Byte)
  nvFull  : List Nat
  ctrs    : List (Nat × BitVec 48)
  fclaims : List (Nat × BitVec 16)
  cclaims : List (Nat × BitVec 16)
  deriving DecidableEq, Repr

/-- A unit of Table PRT-7. -/
inductive UnitId where
  | frond (n : Nat)
  | cam (n : Nat)
  | bank (n : Nat)
  | dma (n : Nat)
  | clock
  deriving DecidableEq, Repr

/-- A change of a unit by the data path in the cc of the memo (R133): its generation before, how safe the state is that the
change leads to (0 the safest), the instruction that made it, and where in its ring its record goes. -/
structure UnitNote where
  unit  : UnitId
  gen   : BitVec 16
  rank  : Nat
  queue : Queue
  f     : Insn
  slot  : BitVec 7
  deriving DecidableEq, Repr

/-- What the commands that name one cc by its line time have done in it: the register words their commits wrote, each with
the order of its TXN.BEGIN (R171), the cams whose generation they advanced (R131), the units that the data path changed (R133),
and the DMA channels that the management path dropped (R413). -/
structure CcMemo where
  t     : BitVec 64
  words : List (Nat × Nat)
  cams  : Word
  units : List UnitNote
  drops : BitVec 12
  deriving DecidableEq, Repr

/-- The instruction engine (R145 to R177). `serial` numbers waits and transactions; `lastSt` is the completion
status of the last register write row; `nvQ` is the queue that holds the NV store port (rank 5). -/
structure Eng where
  waitmax  : Word
  evt      : Word
  inten    : Word
  flags    : BitVec 64
  circles  : Word
  timeouts : Word
  evtsrc   : Vector Word 32
  queues   : Vector QState 8
  ctxs     : Vector Ctx 4
  serial   : Nat
  alt34    : Bool
  lastSt   : Byte
  nvQ      : Option Queue
  memo     : CcMemo
  deriving DecidableEq, Repr

/-- Frond states, Table FRD-7. -/
inductive FrondState where
  | run | safe | reset
  deriving DecidableEq, Repr

/-- A frond with its scrub fields (R219 to R242, R333 to R341). Planes lie in the memory; `planeOk` says that the active plane
holds a complete image, activated or not (R234), `mpol` is SCR.POLn at the last mismatch (R337), `window` the time after a
repair swap that R426 counts. -/
structure Frond where
  st         : FrondState
  plane      : Bool
  activeOk   : Bool
  planeOk    : Bool
  shadowOk   : Bool
  shadowBusy : Bool
  claim      : Option (Fin 4)
  gen        : BitVec 16
  ff         : BitVec 64
  pol        : BitVec 2
  scrPol     : BitVec 2
  check      : BitVec 2
  waitBnd    : Bool
  gsrc       : BitVec 2
  gvar       : BitVec 3
  ssrc       : BitVec 2
  svar       : BitVec 3
  wasRun     : Bool
  mpol       : BitVec 2
  mism       : BitVec 8
  golden     : BitVec 64
  shadowSig  : BitVec 64
  window     : Bool
  deriving DecidableEq, Repr

/-- A computed edge of a pin (R255, R260): its time, level and late flag; for the leading edge of a pulse the width and the
level of the trailing edge that follows it. -/
structure PinEdge where
  t     : BitVec 64
  lvl   : BitVec 2
  late  : Bool
  trail : Option (BitVec 64 × BitVec 2)
  deriving DecidableEq, Repr

/-- An entry of an EPU request queue (R254, R255): when 0 absolute, 1 cam event, 2 immediate. `edge` is its next edge once
it is known. -/
structure EdgeReq where
  mode  : BitVec 2
  cam   : BitVec 5
  t     : BitVec 64
  lead  : BitVec 2
  trail : Option (BitVec 64 × BitVec 2)
  edge  : Option PinEdge
  deriving DecidableEq, Repr

/-- A user pin: EDG registers, EPU, TCU and forces (R243 to R268, R239). Levels: 0 low, 1 high, 2 Z. `padIn` is what the
board drives on the ball, none when nothing outside does, and `keep` the level of the pad's keeper. -/
structure Pin where
  cfg      : Word
  src      : Word
  bind     : Word
  boff     : Word
  q        : List EdgeReq
  lvl      : BitVec 2
  lastT    : Option (BitVec 64)
  bedges   : List PinEdge
  tcu      : BitVec 2
  blind    : Option (BitVec 64)
  cap      : Option (BitVec 64 × Bool)
  psafe    : Bool
  held     : Bool
  drv      : BitVec 2
  padIn    : Option Bool
  keep     : Bool
  measured : Bool
  deriving DecidableEq, Repr

/-- A pin bank (FRD.SAFEST, FRD.BANK, EDG.CALSTAT and CAP registers of one bank). -/
structure Bank where
  safest  : Word
  gen     : BitVec 16
  fifo    : List QWord
  seq     : BitVec 16
  gap     : Bool
  ovf     : Word
  rate    : Word
  hold    : Word
  holdCtr : BitVec 8
  calOk   : Bool
  lock    : Bool
  resid   : BitVec 8
  passes  : BitVec 16
  deriving DecidableEq, Repr

/-- EDG and CAP registers that belong to no pin or bank. `calNext` is the pin from which the background pass goes on
(R252). -/
structure EdgCap where
  calctrl : Word
  evt     : Word
  inten   : Word
  late    : Word
  flushed : Word
  skip    : Word
  miss    : Word
  wptr    : BitVec 15
  rptr    : BitVec 15
  cevt    : Word
  cinten  : Word
  turn    : Nat
  calNext : Nat
  deriving DecidableEq, Repr

/-- A breakpoint of a cam table, Table CAM-2; `ecc` 0 good, 1 correctable, 2 uncorrectable. -/
structure Bp where
  angle : Word
  qual  : BitVec 2
  mark  : BitVec 16
  ecc   : BitVec 2
  deriving DecidableEq, Repr

/-- A crossing waiting to fire (R281). -/
structure Crossing where
  x     : BitVec 64
  index : Nat
  fwd   : Bool
  deriving DecidableEq, Repr

/-- A cam unit (R275 to R289). `prevQ` is the look-ahead position up to which it has tested. -/
structure Cam where
  armed    : Bool
  tabOk    : Bool
  shadowOk : Bool
  claim    : Option (Fin 4)
  gen      : BitVec 16
  cfg      : Word
  table    : List Bp
  shadow   : List Bp
  off      : Word
  pend     : Word
  fire     : Word
  coll     : Word
  drop     : Word
  latch    : Option (BitVec 64)
  waiting  : List Crossing
  last     : QWord
  prevQ    : BitVec 64
  firedAt  : Option (BitVec 64)
  deriving DecidableEq, Repr

/-- Extrapolator states, Table CAM-1. -/
inductive PosState where
  | none | tracking | coasting | stopped
  deriving DecidableEq, Repr

/-- What a discontinuity cc keeps (R274): the position at which its window starts, whether that makes a resync window and
whether the first model of NONE or STOPPED came in it; with the look-ahead position of the cc before, that of the old model
at the line time without the step, and the resync count and event before. -/
structure Jump where
  start   : BitVec 64
  resync  : Bool
  first   : Bool
  prev    : BitVec 64
  was     : BitVec 64
  resyncs : Word
  evt     : Bool
  deriving DecidableEq, Repr

/-- Position extrapolator and CAM global registers (R269 to R274, R288). `jump` is none but in a discontinuity cc. -/
structure Pos where
  st      : PosState
  p0      : BitVec 64
  v       : BitVec 64
  ts      : BitVec 64
  frozenQ : BitVec 64
  frozenN : BitVec 64
  bndQ    : BitVec 64
  jump    : Option Jump
  cfg     : Word
  evt     : Word
  inten   : Word
  resyncs : Word
  vrej    : Word
  ecclog  : Word
  deriving DecidableEq, Repr

/-- A staged stream (R300, R303): slot, header fields, stream length and the check value computed as it was staged,
register entries, routine bytes, cams with a table. -/
structure Staged where
  slot     : Bool
  sealed   : Bool
  verified : Bool
  persId   : Word
  build    : Word
  release  : Bool
  irp      : Byte
  variants : Nat
  runMask  : Word
  vmac     : List Byte
  length   : Nat
  mac      : List Byte
  cams     : Word
  regs     : List (Word × Word × Word)
  rout     : List (Nat × Byte)
  deriving DecidableEq, Repr

/-- Loader state, PRS.STAT.ldr_state. -/
inductive LdrState where
  | boot | user | loader
  deriving DecidableEq, Repr

/-- A flash program or erase in progress: program, sector, page data, started over JTAG, issuing queue. -/
structure FlashOp where
  prog   : Bool
  sector : Nat
  data   : List Byte
  jtag   : Bool
  queue  : Option Queue
  deriving DecidableEq, Repr

/-- Loader, configuration flash and PRS registers (R290 to R317). `stgSlot` is PRS.STAT.stg_slot, `varKeys` the variant key
table (R319); `tried` counts slot attempts and `reload` marks the loader run after a warm reset (R316). -/
structure Prs where
  ldr       : LdrState
  actSlot   : Option Bool
  staged    : Option Staged
  stgSlot   : Bool
  varOk     : Bool
  varKeys   : List (List Byte)
  rtStore   : Bool
  rtPages   : List Nat
  bootpref  : Option Bool
  bootlog   : Word
  actId     : Word
  actBuild  : Word
  actVars   : Nat
  actSealed : Bool
  actVmac   : List Byte
  stgId     : Word
  stgBuild  : Word
  flashSt   : Word
  evt       : Word
  inten     : Word
  flashCorr : Word
  op        : Option FlashOp
  tried     : Nat
  reload    : Bool
  flash     : Mem
  flashEcc  : Mem
  marks     : Mem
  deriving DecidableEq, Repr

/-- Scrubber, stage set and IRP (R318 to R341). `stg` is variant, frond set, cam set. `want` has the bits of SCR.REPAIR,
`auto` the repairs that SAFE_REPAIR asks for; `lines` are the request lines last sampled, `hush` marks the cc in which no
request is taken (R330), `resps` the response bytes of retirements still to be shown, one a cc (R332). -/
structure Scr where
  paused   : Bool
  onePass  : Bool
  cur      : BitVec 5
  passes   : BitVec 16
  evt      : Word
  inten    : Word
  mism     : Word
  repairs  : Word
  rfails   : Word
  want     : Word
  auto     : Word
  running  : Option (BitVec 5)
  stg      : Option (BitVec 3 × Word × Word)
  irpEn    : Bool
  irpMast  : BitVec 5
  irpResp  : Byte
  lines    : BitVec 16
  hush     : Bool
  resps    : List Byte
  ack      : Bool
  reject   : Bool
  done     : Bool
  irpRej   : Word
  irpGrp   : Vector Word 16
  irpRt    : Vector Word 16
  deriving DecidableEq, Repr

/-- A store past its snapshot (R347): kind, pages and counters of the set, the latched bytes, check states and counter
values, the issuing queue and whether it commits a context. -/
structure StoreOp where
  kind  : BitVec 3
  pages : List Nat
  ctrs  : List Nat
  latch : Mem
  lecc  : Mem
  vals  : List (Nat × BitVec 48)
  queue : Option Queue
  ctx   : Option (Fin 4)
  deriving DecidableEq, Repr

/-- Persistent store: protection, counters, marks, shadow copies, commit slots and NVS registers (R342 to R370). -/
structure Nvs where
  vcapOk   : Bool
  bp       : BitVec 2
  bpl      : Bool
  hostMode : BitVec 2
  mgtMode  : BitVec 2
  hostPw   : BitVec 64
  mgtPw    : BitVec 64
  hostUnl  : Bool
  mgtUnl   : Bool
  hostTry  : BitVec 4
  mgtTry   : BitVec 4
  hostOut  : Bool
  mgtOut   : Bool
  gen      : Word
  nextGen  : Word
  dirtyP   : BitVec 1088
  flyP     : BitVec 1088
  dirtyC   : BitVec 64
  flyC     : BitVec 64
  ctrs     : Vector (Vector (BitVec 48) 64) 3
  cur      : Vector (BitVec 4) 64
  lastst   : Word
  evt      : Word
  inten    : Word
  ecclog   : Word
  poison   : Word
  ctrfix   : Word
  stores   : Word
  slots    : Vector CommitRec 2
  copyA    : Mem
  copyB    : Mem
  eccA     : Mem
  eccB     : Mem
  cells    : Vector (Vector CtrCell 16) 64
  store    : Option StoreOp
  recl     : Option (Option Queue)
  deriving DecidableEq, Repr

/-- The entries of the writer's buffer (R374): 14 general ones, and one each of the clock-loss detector and of the
power-fail path. -/
inductive LicEntry where
  | general | clock | power
  deriving DecidableEq, Repr

/-- A record on its way to the recorder (Table LIC-1 without sequence number and count). `entry` is the entry it holds, or
the path it comes from while it waits for one. -/
structure LicRec where
  entry : LicEntry
  cause : BitVec 16
  cls   : Byte
  idx   : Byte
  lt    : QWord
  info  : BitVec 32
  ctx   : BitVec 192
  deriving DecidableEq, Repr

/-- Lichen recorder (R371 to R391). The ring and the first-fault area lie in the memory; `shadow` has two 64-byte
cells a slot, `prog` marks cells programmed, `newer` the cell last programmed. `since` counts records numbered since
power-on. `buf` is the writer's buffer, `wait` the records whose units wait for an entry (R374). -/
structure Lic where
  buf      : List LicRec
  wait     : List LicRec
  restored : Bool
  pending  : Bool
  coalSince : Bool
  last     : Word
  first    : Word
  next     : Word
  ffcount  : Nat
  coal     : Word
  badcell  : Word
  evt      : Word
  inten    : Word
  unstored : List Nat
  since    : Nat
  shadow   : Mem
  prog     : BitVec 1024
  newer    : BitVec 512
  deriving DecidableEq, Repr

/-- DMA channel states, Table DMA-3. -/
inductive DmaState where
  | idle | running | draining | halted
  deriving DecidableEq, Repr

/-- One DMA channel: descriptor registers, the latched descriptor, progress in words, the words in the buffer (R392 to
R414). `chk` is the check state of the buffered words, as `Chip.ecc` has it (R30); `failW` says that the failed access
is a write. -/
structure Dma where
  src     : Word
  dst     : Word
  len     : Word
  cfg     : Word
  inten   : Word
  evt     : Word
  st      : DmaState
  last    : Byte
  gen     : BitVec 16
  bytes   : Word
  rdbytes : Word
  erraddr : Word
  retries : Word
  pos     : Word
  lsrc    : Word
  ldst    : Word
  llen    : Word
  lcfg    : Word
  queue   : Queue
  rd      : Nat
  wr      : Nat
  acked   : Nat
  buf     : List QWord
  chk     : List (BitVec 2)
  credits : Nat
  corr    : Bool
  fail    : Option (Byte × Word)
  failW   : Bool
  tries   : Nat
  capPos  : BitVec 15
  deriving DecidableEq, Repr

/-- A request of the recovery handler (R424): the word for Q7 and whether it has been counted as waiting. -/
structure HReq where
  word : QWord
  late : Bool
  deriving DecidableEq, Repr

/-- FLT block and the handler's list (R424 to R427). `dbl` has a bit for each frond in a double upset; `intHeld` is the value at
which the core's terms of INT_N freeze (Table FLT-9). -/
structure Flt where
  condhist : Word
  evt      : Word
  inten    : Word
  resUsed  : BitVec 16
  waited   : BitVec 16
  upFrond  : BitVec 5
  upsets   : BitVec 16
  dbl      : Word
  intHeld  : Bool
  list     : List HReq
  deriving DecidableEq, Repr

/-- Supplies, resets and start-up: PWR and SYS blocks (R428 to R446). `pf` is the power-fail phase: 0 none, 1 the
sequence of Table PWR-2 runs, 2 it has ended. -/
structure Pwr where
  pgood    : Bool
  step     : BitVec 3
  pfailN   : Bool
  resetN   : Bool
  safeN    : Bool
  auxWarn  : Bool
  vio      : BitVec 24
  evt      : Word
  inten    : Word
  temp     : BitVec 16
  tlim     : Word
  pf       : BitVec 3
  held     : Bool
  latched  : Bool
  fuseRead : Bool
  syscfg   : Word
  rstcause : Word
  boott    : Word
  straps   : BitVec 3
  deriving DecidableEq, Repr

/-- A fuse operation in progress: 1 SEALED, 2 READBACK_OFF, 3 JTAG_LOCK, 4 device key. -/
structure FuseOp where
  kind  : Nat
  queue : Option Queue
  key   : BitVec 256
  deriving DecidableEq, Repr

/-- Security registers (R447 to R461). -/
structure Sec where
  jtagHold : Bool
  locks    : BitVec 2
  viol     : Word
  evt      : Word
  inten    : Word
  lastv    : Word
  lastaddr : Word
  owner    : Option Queue
  quarter  : Nat
  stageKey : BitVec 256
  op       : Option FuseOp
  deriving DecidableEq, Repr

/-- The part itself: its grade and its fuses (R1, R447). Fuse bits only ever set. -/
structure Die where
  xb        : Bool
  sealed    : Bool
  readback  : Bool
  jtagLock  : Bool
  keyProg   : Bool
  key       : BitVec 256
  deriving DecidableEq, Repr

/-- Everything of the part but its fuses. `mem` holds every RAM by device address (planes by physical plane), `ecc`
the check state of each 16-byte word by word number: 1 correctable, 2 uncorrectable, 3 poisoned. `freeIx` is the
model's own counter of free values; `rdTurn` and `wrTurn` are the channels at which the next round of the DMA engines begins
(R399, R401); `syncDue` marks the exchange that R93 owes a resumption; `pulses` has the one-cc
special sources of the present cc (Table FRD-3). -/
structure Chip where
  clk    : Clk
  lt     : LineTime
  ports  : Vector Port 3
  syncper : Word
  lnkfwd : Word
  syncT1 : Option (BitVec 64)
  syncDue : Bool
  spi    : Spi
  mgt    : Mgt
  jtg    : Jtg
  prt    : Prt
  eng    : Eng
  fronds : Vector Frond 32
  pins   : Vector Pin 192
  banks  : Vector Bank 12
  edg    : EdgCap
  cams   : Vector Cam 32
  pos    : Pos
  prs    : Prs
  scr    : Scr
  nvs    : Nvs
  lic    : Lic
  dma    : Vector Dma 12
  credits : Nat
  rdTurn : Nat
  wrTurn : Nat
  flt    : Flt
  pwr    : Pwr
  sec    : Sec
  mem    : Mem
  ecc    : Mem
  pulses : BitVec 64
  freeIx : Nat
  deriving DecidableEq, Repr

/-- The state of the block: commands waiting, fuses, chip. -/
structure State where
  pending : List Instr
  die     : Die
  chip    : Chip
  deriving DecidableEq, Repr

/-! ### Reset values: every register at the value of its table; log entries 3 and 4 name the others. -/

/-- CLK at power-on (Table CLK-6). -/
def Clk.reset : Clk :=
  { st := .qualifying, lineOk := false, cdrLock := false, xtalOk := false, lineLost := false, selPending := false,
    passes := 0, gen := 0, policy := 0x00000A06, evt := 0, inten := 0, qerr := 0, windows := 0, holdCnt := 0,
    holdSat := false, holds := 0, gate := 0, pllLock := false, lclk := false, xtalRuns := true, onLclk := false,
    tmoExpired := false, deciding := false, lossWait := none, switch := none }

/-- LT at power-on (Table LNK-11, R100). -/
def LineTime.reset : LineTime :=
  { sec := 0, ticks := 0, holdover := false, aligned := false, source := 0, hops := 0, slew := 0, interval := 157,
    slewCnt := 0, len := 64, wsec := 0, wtickl := 0, wtickh := 0, alignEn := true, hold := Vector.replicate 9 0 }

/-- A link port at reset (Table LNK-10); only the line port is enabled. -/
def Port.reset (line : Bool) : Port :=
  { ctrl := if line then 1 else 0, st := if line then 1 else 0, xoffRx := false, xoffTx := false, lastHop := 0,
    evt := 0, inten := 0, crcerr := 0, codeerr := 0, drop := 0, seqgap := 0, delay := 0, offset := 0, asym := 0,
    rxlast := 0, latefwd := 0, rxSeq := none, txSeq := 0, sent := none, fwdBuf := [], posBuf := none, rsp := [],
    lost := false, rd := false, errT := [] }

/-- SPI at reset (Table PRT-9). -/
def Spi.reset : Spi :=
  { ctrl := 1, evt := 0, inten := 0, accept := 0, refuse := 0, frmerr := 0, lastAcc := 0, epoch := false,
    refused := false, armed := false, status := 0, out := [] }

/-- MGT at reset (Table PRT-10); open straps give address 0x58. -/
def Mgt.reset : Mgt :=
  { addr := 0x58, expGen := 0, expValid := false, iw := 0, lastSt := 0, lastTag := 0, lastPend := false,
    lastQ5 := false, cmpl := 0, nacks := 0, stale := 0, ptr := 0, out := [], stretch := false, more := [], rdLeft := 0,
    cur := 0, issued := false, cut := false, held := none,
    heldBad := 0 }

/-- JTAG at power-on: Test-Logic-Reset, with IDCODE selected (Table PRT-11, Table PWR-4). -/
def Jtg.reset : Jtg :=
  { isc := false, test := false, code := 0, busy := false, ir := 0x004, addr := 0, idx := 0, buf := [], dr := 0,
    irCap := 0x001, slot := 0, cells := 0 }

/-- PRT at reset (Table PRT-12). -/
def Prt.reset : Prt := { epoch := 0, drop := Vector.replicate 6 0, part := Vector.replicate 3 0, cross := [] }

/-- An empty running queue, ring positions at index 0 and phase 1 (R150, R158). -/
def QState.reset : QState :=
  { words := [], kinds := [], halted := false, chain := false, fenceOk := false, wait := none, calls := [], txn := none,
    posted := false, lost := 0, rnext := 0x40, rcons := 0x40, ovf := 0, errs := 0, warns := 0 }

/-- A free transaction context. -/
def Ctx.reset : Ctx :=
  { isOpen := false, owner := 0, serial := 0, waiting := false, storing := false, regs := [], fronds := [], cams := [],
    edges := [], nv := [], nvFull := [], ctrs := [], fclaims := [], cclaims := [] }

/-- ENG at reset (Table IMD-9). Q3 goes before Q4 when both are first ready: R151 says only that they alternate
(DESIGN CHOICE, log entry 106). -/
def Eng.reset : Eng :=
  { waitmax := 0x00001A14, evt := 0, inten := 0, flags := 0, circles := 0, timeouts := 0,
    evtsrc := Vector.replicate 32 0, queues := Vector.replicate 8 QState.reset, ctxs := Vector.replicate 4 Ctx.reset,
    serial := 0, alt34 := false, lastSt := 0, nvQ := none, memo := ⟨0, [], 0, [], 0⟩ }

/-- A frond at power-on (Table FRD-11, Table CHG-7). -/
def Frond.reset : Frond :=
  { st := .safe, plane := false, activeOk := false, planeOk := false, shadowOk := false, shadowBusy := false, claim := none,
    gen := 0, ff := 0, pol := 0, scrPol := 1, check := 0, waitBnd := false, gsrc := 0, gvar := 0, ssrc := 0, svar := 0,
    wasRun := false, mpol := 0, mism := 0, golden := 0, shadowSig := 0, window := false }

/-- A pin at power-on (Table EDG-7): direct mode, weak pull-down, internal level Z, held until start-up releases. -/
def Pin.reset : Pin :=
  { cfg := 0x00004000, src := 0, bind := 0, boff := 0, q := [], lvl := 2, lastT := none, bedges := [], tcu := 0,
    blind := none, cap := none, psafe := false, held := true, drv := 2, padIn := none, keep := false,
    measured := false }

/-- A bank at power-on (Tables FRD-11, EDG-8, EDG-9). -/
def Bank.reset : Bank :=
  { safest := 0xAAAAAAAA, gen := 0, fifo := [], seq := 0, gap := false, ovf := 0, rate := 0, hold := 0, holdCtr := 0,
    calOk := false, lock := false, resid := 0, passes := 0 }

/-- EDG and CAP global registers at power-on. -/
def EdgCap.reset : EdgCap :=
  { calctrl := 1, evt := 0, inten := 0, late := 0, flushed := 0, skip := 0, miss := 0, wptr := 0, rptr := 0, cevt := 0,
    cinten := 0, turn := 0, calNext := 0 }

/-- A cam at power-on (Table CAM-5). -/
def Cam.reset : Cam :=
  { armed := false, tabOk := false, shadowOk := false, claim := none, gen := 0, cfg := 0x100, table := [], shadow := [],
    off := 0, pend := 0, fire := 0, coll := 0, drop := 0, latch := none, waiting := [], last := 0, prevQ := 0,
    firedAt := none }

/-- The extrapolator at power-on (Table CAM-4). -/
def Pos.reset : Pos :=
  { st := .none, p0 := 0, v := 0, ts := 0, frozenQ := 0, frozenN := 0, bndQ := 0, jump := none, cfg := 0x00180120, evt := 0,
    inten := 0, resyncs := 0, vrej := 0, ecclog := 0 }

/-- The loader at power-on (Table PRS-9), with blank flash. -/
def Prs.reset : Prs :=
  { ldr := .boot, actSlot := none, staged := none, stgSlot := false, varOk := false, varKeys := [],
    rtStore := false, rtPages := [], bootpref := none,
    bootlog := 0, actId := 0, actBuild := 0, actVars := 0, actSealed := false, actVmac := [], stgId := 0, stgBuild := 0,
    flashSt := 0, evt := 0, inten := 0, flashCorr := 0, op := none, tried := 0, reload := false, flash := [], flashEcc := [],
    marks := [] }

/-- SCR at power-on (Table CHG-7). -/
def Scr.reset : Scr :=
  { paused := false, onePass := false, cur := 0, passes := 0, evt := 0, inten := 0, mism := 0, repairs := 0, rfails := 0,
    want := 0, auto := 0, running := none, stg := none, irpEn := false, irpMast := 0, irpResp := 0, lines := 0, hush := false,
    resps := [], ack := false,
    reject := false, done := false, irpRej := 0, irpGrp := Vector.replicate 16 0,
    irpRt := Vector.replicate 16 0x30000000 }

/-- The generation-0 record of a part as shipped, with the CRC-32C of its bytes 0 to 507 (R351, R354). -/
def CommitRec.shipped : CommitRec :=
  CommitRec.seal 0 0 0 0 0 (Vector.replicate 64 0)

/-- A commit slot never programmed: an erased slot is no valid record (log entry 4). -/
def CommitRec.erased : CommitRec :=
  { magic := 0xFFFFFFFF, gen := 0xFFFFFFFF, pages := 0xFFFF, ctrs := 0xFF, kind := 0xFF, rsv1 := 0xFFFFFFFF,
    map := BitVec.allOnes 1088, seqs := Vector.replicate 64 0xFFFFFFFF, rsv2 := BitVec.allOnes 800, crc := 0xFFFFFFFF }

/-- A counter cell that is erased: its CRC fails (R359; log entry 4). -/
def CtrCell.erased : CtrCell := { value := BitVec.allOnes 48, ctr := 63, rsv := 0x3FF, seq := 0xFFFFFFFF, crc := 0xFFFFFFFF }

/-- The cells of counter `k` of a part as shipped: cell 0 holds value 0 and sequence 0, the others are erased (R354). -/
def CtrCell.shippedRow (k : Nat) : Vector CtrCell 16 :=
  ⟨(CtrCell.seal k 0 0 :: List.replicate 15 CtrCell.erased).toArray, by simp⟩

/-- Shadow page 1,024 of a part as shipped: CLK.POLICY 0x0000_0A06 at offset 0 (R354, Table NVS-1). -/
def Nvs.shippedPages : Mem := [(0x40000, 0x06), (0x40001, 0x0A)]

/-- NVS at power-on, over the shadow of a part as shipped (Table NVS-10, R354). -/
def Nvs.reset : Nvs :=
  { vcapOk := false, bp := 0, bpl := false, hostMode := 0, mgtMode := 0, hostPw := 0, mgtPw := 0, hostUnl := false,
    mgtUnl := false, hostTry := 8, mgtTry := 8, hostOut := false, mgtOut := false, gen := 0, nextGen := 1, dirtyP := 0,
    flyP := 0, dirtyC := 0, flyC := 0, ctrs := Vector.replicate 3 (Vector.replicate 64 0),
    cur := Vector.replicate 64 0, lastst := 0, evt := 0, inten := 0, ecclog := 0, poison := 0, ctrfix := 0, stores := 0,
    slots := #v[CommitRec.shipped, CommitRec.erased], copyA := Nvs.shippedPages, copyB := [], eccA := [], eccB := [],
    cells := ⟨((List.range 64).map CtrCell.shippedRow).toArray, by simp⟩,
    store := none, recl := none }

/-- LIC at power-on (Table LIC-5), over a shadow never programmed. -/
def Lic.reset : Lic :=
  { buf := [], wait := [], restored := false, pending := false, coalSince := false, last := 0, first := 0, next := 0,
    ffcount := 0, coal := 0, badcell := 0, evt := 0, inten := 0, unstored := [],
    since := 0, shadow := [], prog := 0, newer := 0 }

/-- A DMA channel at power-on (Table DMA-9). -/
def Dma.reset : Dma :=
  { src := 0, dst := 0, len := 0, cfg := 0, inten := 0, evt := 0, st := .idle, last := 0, gen := 0, bytes := 0,
    rdbytes := 0, erraddr := 0, retries := 0, pos := 0, lsrc := 0, ldst := 0, llen := 0, lcfg := 0, queue := 0, rd := 0,
    wr := 0, acked := 0, buf := [], chk := [], credits := 0, corr := false, fail := none, failW := false, tries := 0,
    capPos := 0 }

/-- FLT at power-on (Table FLT-10). -/
def Flt.reset : Flt :=
  { condhist := 0, evt := 0, inten := 0, resUsed := 0, waited := 0, upFrond := 0, upsets := 0, dbl := 0,
    intHeld := false, list := [] }

/-- PWR and SYS just before power good (Tables PWR-7, PWR-8): control inputs high, banks absent. -/
def Pwr.reset : Pwr :=
  { pgood := false, step := 0, pfailN := true, resetN := true, safeN := true, auxWarn := false, vio := 0, evt := 0,
    inten := 0, temp := 0, tlim := 0x0640, pf := 0, held := false, latched := false, fuseRead := false,
    syscfg := 0, rstcause := 0, boott := 0, straps := 0 }

/-- SEC at power-on (Table SEC-6). -/
def Sec.reset : Sec :=
  { jtagHold := false, locks := 0, viol := 0, evt := 0, inten := 0, lastv := 0, lastaddr := 0, owner := none,
    quarter := 0, stageKey := 0, op := none }

/-- A VK4840-IB with no fuse blown. -/
def Die.reset : Die :=
  { xb := false, sealed := false, readback := false, jtagLock := false, keyProg := false, key := 0 }

/-- The chip at power-on. -/
def Chip.reset : Chip :=
  { clk := Clk.reset, lt := LineTime.reset, ports := #v[Port.reset true, Port.reset false, Port.reset false],
    syncper := 0x3E8, lnkfwd := 0, syncT1 := none, syncDue := false, spi := Spi.reset, mgt := Mgt.reset, jtg := Jtg.reset,
    prt := Prt.reset, eng := Eng.reset, fronds := Vector.replicate 32 Frond.reset, pins := Vector.replicate 192 Pin.reset,
    banks := Vector.replicate 12 Bank.reset, edg := EdgCap.reset, cams := Vector.replicate 32 Cam.reset,
    pos := Pos.reset, prs := Prs.reset, scr := Scr.reset, nvs := Nvs.reset, lic := Lic.reset,
    dma := Vector.replicate 12 Dma.reset, credits := 896, rdTurn := 0, wrTurn := 0, flt := Flt.reset, pwr := Pwr.reset,
    sec := Sec.reset, mem := [], ecc := [], pulses := 0, freeIx := 0 }

/-- The block right after reset: a part as shipped at the moment before power good rises. -/
def State.reset : State := { pending := [], die := Die.reset, chip := Chip.reset }

end Sys2Proof.Machine
end

