-- ==== Sys2Proof/Machine/Flags.lean ====
section
/-!
DEFINITION. Status codes (Table IMD-5), saturating counters, event bits, and the interrupt and fault outputs that
follow from them (R69, R390, R425, Table FLT-9).
-/
namespace Sys2Proof.Machine

namespace St
def ok : Byte := 0x00
def corrected : Byte := 0x01
def late : Byte := 0x02
def illegal : Byte := 0x10
def priv : Byte := 0x11
def align : Byte := 0x12
def range : Byte := 0x13
def locked : Byte := 0x14
def stale : Byte := 0x15
def order : Byte := 0x16
def busySelf : Byte := 0x17
def busy : Byte := 0x18
def eccUncorr : Byte := 0x20
def poison : Byte := 0x21
def busErr : Byte := 0x22
def authFail : Byte := 0x30
def crcFail : Byte := 0x31
def keyroll : Byte := 0x32
def timeout : Byte := 0x40
def aborted : Byte := 0x41
def circle : Byte := 0x42
def clockHold : Byte := 0x50
end St

/-- A status from 0x10 upward: the instruction failed (R160). -/
def failed (st : Byte) : Bool := decide (0x10 ≤ st.toNat)

/-- A 32-bit counter that saturates. -/
def satAdd (v : Word) (n : Nat) : Word := if v.toNat + n ≥ 0xFFFFFFFF then 0xFFFFFFFF else v + BitVec.ofNat 32 n

/-- A 16-bit counter that saturates. -/
def satAdd16 (v : BitVec 16) (n : Nat) : BitVec 16 := if v.toNat + n ≥ 0xFFFF then 0xFFFF else v + BitVec.ofNat 16 n

/-- Bit `n` of a register word. -/
def bitW (n : Nat) (b : Bool) : Word := if b then BitVec.ofNat 32 (2 ^ n) else 0

/-- A field placed at bit `n` of a register word. -/
def fldW {w : Nat} (n : Nat) (v : BitVec w) : Word := (v.setWidth 32) <<< n

/-- A number placed at bit `n` of a register word. -/
def natW (n v : Nat) : Word := BitVec.ofNat 32 v <<< n

def Chip.setClkEvt (c : Chip) (n : Nat) : Chip := { c with clk := { c.clk with evt := c.clk.evt ||| bitW n true } }
def Chip.setEngEvt (c : Chip) (n : Nat) : Chip := { c with eng := { c.eng with evt := c.eng.evt ||| bitW n true } }
def Chip.setEdgEvt (c : Chip) (n : Nat) : Chip := { c with edg := { c.edg with evt := c.edg.evt ||| bitW n true } }
def Chip.setCapEvt (c : Chip) (n : Nat) : Chip := { c with edg := { c.edg with cevt := c.edg.cevt ||| bitW n true } }
def Chip.setCamEvt (c : Chip) (n : Nat) : Chip := { c with pos := { c.pos with evt := c.pos.evt ||| bitW n true } }
def Chip.setPrsEvt (c : Chip) (n : Nat) : Chip := { c with prs := { c.prs with evt := c.prs.evt ||| bitW n true } }
def Chip.setScrEvt (c : Chip) (n : Nat) : Chip := { c with scr := { c.scr with evt := c.scr.evt ||| bitW n true } }
def Chip.setNvsEvt (c : Chip) (n : Nat) : Chip := { c with nvs := { c.nvs with evt := c.nvs.evt ||| bitW n true } }
def Chip.setLicEvt (c : Chip) (n : Nat) : Chip := { c with lic := { c.lic with evt := c.lic.evt ||| bitW n true } }
def Chip.setFltEvt (c : Chip) (n : Nat) : Chip := { c with flt := { c.flt with evt := c.flt.evt ||| bitW n true } }
def Chip.setPwrEvt (c : Chip) (n : Nat) : Chip := { c with pwr := { c.pwr with evt := c.pwr.evt ||| bitW n true } }
def Chip.setSecEvt (c : Chip) (n : Nat) : Chip := { c with sec := { c.sec with evt := c.sec.evt ||| bitW n true } }
def Chip.setSpiEvt (c : Chip) (n : Nat) : Chip := { c with spi := { c.spi with evt := c.spi.evt ||| bitW n true } }

/-- Element `i mod n` of a vector of numbered units. -/
def vget {α : Type} {n : Nat} [NeZero n] (v : Vector α n) (i : Nat) : α := v[(Fin.ofNat n i).val]

/-- A vector of numbered units with element `i mod n` changed. -/
def vset {α : Type} {n : Nat} [NeZero n] (v : Vector α n) (i : Nat) (x : α) : Vector α n :=
  v.set (Fin.ofNat n i).val x

/-- A vector of numbered units with `f` applied to element `i mod n`. -/
def vmod {α : Type} {n : Nat} [NeZero n] (v : Vector α n) (i : Nat) (f : α → α) : Vector α n := vset v i (f (vget v i))

/-- A vector with `f` applied to each numbered element. -/
def vmapi {α : Type} {n : Nat} (f : Nat → α → α) (v : Vector α n) : Vector α n :=
  ⟨(v.toList.mapIdx f).toArray, by simp⟩

def Chip.setLnkEvt (c : Chip) (p n : Nat) : Chip :=
  { c with ports := vmod c.ports p fun x => { x with evt := x.evt ||| bitW n true } }
def Chip.setDmaEvt (c : Chip) (ch n : Nat) : Chip :=
  { c with dma := vmod c.dma ch fun x => { x with evt := x.evt ||| bitW n true } }

/-- The DMA channels that assert INT_N, FLT.DMASRC (R425). -/
def Chip.dmaSrc (c : Chip) : Word :=
  (List.range 12).foldl (fun a i => a ||| bitW i ((vget c.dma i).evt &&& (vget c.dma i).inten != 0)) 0

/-- The block terms that assert INT_N, FLT.INTSRC (Table FLT-10). -/
def Chip.intSrc (c : Chip) : Word :=
  let on (n : Nat) (e i : Word) : Word := bitW n (e &&& i != 0)
  on 0 c.clk.evt c.clk.inten ||| on 1 (vget c.ports 0).evt (vget c.ports 0).inten
    ||| on 2 (vget c.ports 1).evt (vget c.ports 1).inten ||| on 3 (vget c.ports 2).evt (vget c.ports 2).inten
    ||| on 4 c.spi.evt c.spi.inten ||| on 5 c.eng.evt c.eng.inten ||| on 6 c.edg.evt c.edg.inten
    ||| on 7 c.edg.cevt c.edg.cinten ||| on 8 c.pos.evt c.pos.inten ||| on 9 c.prs.evt c.prs.inten
    ||| on 10 c.scr.evt c.scr.inten ||| on 11 c.nvs.evt c.nvs.inten ||| on 12 c.lic.evt c.lic.inten
    ||| bitW 13 (c.dmaSrc != 0) ||| on 14 c.flt.evt c.flt.inten ||| on 15 c.pwr.evt c.pwr.inten
    ||| on 16 c.sec.evt c.sec.inten

end Sys2Proof.Machine
end

