-- ==== Sys2Proof/Machine/Ops.lean ====
section
/-!
DEFINITION. Shared operations: bytes in memory, CRCs, line time, free values, lichen records and violations, unit
generations, the transport's view of the SRAM words and their check codes.
-/
namespace Sys2Proof.Machine

/-! ### Bytes -/

/-- The byte at an address; `d` where nothing is listed. -/
def memRead (d : Byte) : Mem → Nat → Byte
  | [], _ => d
  | (k, v) :: m, a => if a = k then v else memRead d m a

/-- Memory with an entry put at its place by address. -/
def memInsert : Mem → Nat → Byte → Mem
  | [], a, b => [(a, b)]
  | (k, v) :: m, a, b =>
    if a < k then (a, b) :: (k, v) :: m else if a = k then (a, b) :: m else (k, v) :: memInsert m a b

/-- Memory with one byte written, in canonical form. -/
def memWrite (d : Byte) (m : Mem) (a : Nat) (b : Byte) : Mem :=
  if b = d then m.filter fun e => e.1 != a else memInsert m a b

/-- The canonical form: addresses strictly rise and no entry equals the default byte. -/
def memWf (d : Byte) : Mem → Bool
  | [] => true
  | [(_, v)] => v != d
  | (k, v) :: (k', v') :: m => v != d && decide (k < k') && memWf d ((k', v') :: m)

/-- `n` bytes from an address, least significant first, as a number. -/
def memNat (d : Byte) (m : Mem) (a : Nat) : Nat → Nat
  | 0 => 0
  | n + 1 => (memRead d m a).toNat + 256 * memNat d m (a + 1) n

/-- Memory with the `n` low bytes of a number written from an address, least significant first (R6, R14). -/
def memPut (d : Byte) (m : Mem) (a v : Nat) : Nat → Mem
  | 0 => m
  | n + 1 => memPut d (memWrite d m a (BitVec.ofNat 8 v)) (a + 1) (v / 256) n

/-- `n` bytes from an address as a list. -/
def memBytes (d : Byte) (m : Mem) (a n : Nat) : List Byte := (List.range n).map fun i => memRead d m (a + i)

/-- Memory with a list of bytes written from an address. -/
def memPutBytes (d : Byte) (m : Mem) (a : Nat) : List Byte → Mem
  | [] => m
  | b :: bs => memPutBytes d (memWrite d m a b) (a + 1) bs

/-- Memory with `n` bytes copied from another memory. -/
def memCopy (d : Byte) (src : Mem) (a : Nat) (dst : Mem) (b n : Nat) : Mem := memPutBytes d dst b (memBytes d src a n)

/-! ### Line time (R5, R100, R179) -/

/-- Line time as a tick stamp modulo 2^64 (R179). -/
def LineTime.stamp (l : LineTime) : BitVec 64 := BitVec.ofNat 64 (l.sec.toNat * 16000000000 + l.ticks.toNat)

/-- Line time moved by `n` ticks: ticks carry into seconds at 16,000,000,000, seconds wrap at 2^32 (R5, R100, R179). -/
def LineTime.plus (l : LineTime) (n : Int) : LineTime :=
  let t : Int := (l.sec.toNat * 16000000000 + l.ticks.toNat : Nat) + n
  { l with sec := BitVec.ofInt 32 (t / 16000000000), ticks := BitVec.ofNat 34 (t % 16000000000).toNat }

/-- Line time after one cc: 64 ticks, 65 or 63 once in every interval while the slewer has a remainder (R94). -/
def LineTime.tick (l : LineTime) : LineTime :=
  if l.slew = 0 then { l.plus 64 with slewCnt := 0, len := 64 }
  else if l.slewCnt + 1 < l.interval.toNat then { l.plus 64 with slewCnt := l.slewCnt + 1, len := 64 }
  else if 0 < l.slew.toInt then { l.plus 65 with slew := l.slew - 1, slewCnt := 0, len := 65 }
  else { l.plus 63 with slew := l.slew + 1, slewCnt := 0, len := 63 }

/-- The LT flags of Table LNK-8. -/
def LineTime.flags (l : LineTime) : BitVec 62 :=
  (BitVec.ofBool l.holdover).setWidth 62 ||| ((BitVec.ofBool l.aligned).setWidth 62 <<< 1)
    ||| ((BitVec.ofBool (l.slew != 0)).setWidth 62 <<< 2) ||| (l.source.setWidth 62 <<< 4) ||| (l.hops.setWidth 62 <<< 8)

/-- The packed LT word of R100. -/
def LineTime.word (l : LineTime) : QWord := l.sec ++ l.ticks ++ l.flags

/-- The stamp a packed LT word carries. -/
def ltStamp (w : QWord) : BitVec 64 :=
  BitVec.ofNat 64 ((w.extractLsb' 96 32).toNat * 16000000000 + (w.extractLsb' 62 34).toNat)

/-- Line time now, as a stamp. -/
def Chip.now (c : Chip) : BitVec 64 := c.lt.stamp

/-- `a - b` read as a signed 64-bit number (R179). -/
def signedGap (a b : BitVec 64) : Int := (a - b).toInt

/-- The next cc begins: what the discontinuities of the last one kept is over (R274). -/
def Chip.newCc (c : Chip) : Chip := { c with pos := { c.pos with jump := none } }

/-- Line time after one cc of `n` ticks (R50, R56). -/
def Chip.ltAdd (c : Chip) (n : Nat) : Chip := { c.newCc with lt := { c.lt.plus n with len := n } }

/-! ### Free values -/

/-- The next free value and the chip with the counter advanced (log entry 2). -/
def Chip.free (c : Chip) : BitVec 64 × Chip := (Config.freeValue c.freeIx, { c with freeIx := c.freeIx + 1 })

/-! ### The end of a cc (R49, R50, R94) -/

/-- The measured length in ticks of the cycle a glitch-free switch stretches, 10 ns to 14 ns: the spec leaves it to the
clocks, and it is free in those bounds (R49, R50; log entry 2). -/
def Chip.stretch (c : Chip) : Nat × Chip := (160 + c.free.1.toNat % 65, c.free.2)

/-- A glitch-free switch stretches the cycle that begins now: its cc2 ends, and the next edge is the first of the new clock
(Table CLK-3). -/
def Clk.stretches (k : Clk) : Bool := match k.switch with | some s => !s.forced && s.left == 2 | none => false

/-- Line time at the next edge, the cycle that a switch stretches at its measured length (R50). -/
def Chip.nextTime (c : Chip) : LineTime × Chip :=
  if c.clk.stretches then ({ c.lt.plus c.stretch.1 with len := c.stretch.1 }, c.stretch.2) else (c.lt.tick, c)

/-- Line time at the end of this cc. -/
def Chip.next (c : Chip) : BitVec 64 := c.nextTime.1.stamp

/-! ### Records and violations (R374, R459) -/

/-- Bytes 28 to 31 of a record about an instruction (Table LIC-1). -/
def insnInfo (q : Queue) (code tag st : Byte) : BitVec 32 :=
  (BitVec.ofNat 32 (q.val + 8)) ||| (code.setWidth 32 <<< 8) ||| (tag.setWidth 32 <<< 16) ||| (st.setWidth 32 <<< 24)

/-- The general entries in use. -/
def Lic.general (l : Lic) : Nat := (l.buf.filter fun r => r.entry == .general).length

/-- An entry of a kind is free: 14 are general, each reserved kind has one (R374). -/
def Lic.free (l : Lic) (e : LicEntry) : Bool :=
  if e == .general then decide (l.general < 14) else l.buf.all fun r => r.entry != e

/-- A record of a core unit would find an entry at once. -/
def Lic.room (l : Lic) : Bool := l.wait.isEmpty && l.free .general

/-- A record put before those of the core of its own line time that end a list: the power-fail and the clock-loss record go
first (R376). -/
def recAhead (r : LicRec) (l : List LicRec) : List LicRec :=
  let same := (l.reverse.takeWhile fun x => x.entry == .general && x.lt == r.lt).length
  l.take (l.length - same) ++ r :: l.drop (l.length - same)

/-- A record reaches the writer: its path's reserved entry, else a general one behind no record that waits, else it
waits (R374). -/
def Lic.give (l : Lic) (r : LicRec) : Lic :=
  if r.entry != .general && l.free r.entry then { l with buf := recAhead r l.buf }
  else if l.room then { l with buf := l.buf ++ [{ r with entry := .general }] }
  else { l with wait := l.wait ++ [r] }

/-- Every record given and not yet drained, entries first. -/
def Lic.given (l : Lic) : List LicRec := l.buf ++ l.wait

/-- An entry frees: the first record that may take it does (R374). -/
def Lic.refill (l : Lic) (e : LicEntry) : Lic :=
  match l.wait.find? fun r => e == .general || r.entry == e with
  | some r => { l with buf := l.buf ++ [{ r with entry := e }], wait := l.wait.erase r }
  | none => l

/-- A record given to the lichen writer, with line time at the cause. -/
def Chip.record (c : Chip) (cause : BitVec 16) (cls idx : Nat) (ctx : BitVec 192) (info : BitVec 32 := 0)
    (path : LicEntry := .general) : Chip :=
  { c with lic := c.lic.give ⟨path, cause, BitVec.ofNat 8 cls, BitVec.ofNat 8 idx, c.lt.word, info, ctx⟩ }

/-- The place of a core record among those of its cc: cause, then unit (R376). -/
def LicRec.order (r : LicRec) : Nat := r.cause.toNat * 65536 + r.cls.toNat * 256 + r.idx.toNat

/-- A record put among others by cause and unit. -/
def recInsert (r : LicRec) : List LicRec → List LicRec
  | [] => [r]
  | x :: l => if r.order < x.order then r :: x :: l else x :: recInsert r l

/-- Records of one cc in the order in which they are numbered (R376). -/
def recSort (l : List LicRec) : List LicRec := l.foldl (fun a r => recInsert r a) []

/-- The records given since `old`, all of one cc, in their order: those that found an entry and those that wait (R376). -/
def Chip.sortRecords (old new : Chip) : Chip :=
  let n := old.lic.buf.length
  let m := old.lic.wait.length
  let k := new.lic.buf.length - n
  let l := recSort (new.lic.buf.drop n ++ new.lic.wait.drop m)
  { new with lic := { new.lic with
      buf := new.lic.buf.take n ++ l.take k
      wait := new.lic.wait.take m ++ l.drop k } }

/-- A context field of `n` at byte `b` of the record (context starts at byte 32). -/
def ctxAt (b : Nat) (n : Nat) : BitVec 192 := BitVec.ofNat 192 n <<< (8 * (b - 32))

/-- Where an access comes from: its queue, whether a queue made it, whether it is a management pointer access. -/
structure Src where
  queue : Queue
  fromQ : Bool
  ptr   : Bool
  deriving DecidableEq, Repr

def Src.ofQueue (q : Queue) : Src := ⟨q, true, false⟩
def Src.mgt : Src := ⟨5, true, true⟩
def Src.dma (q : Queue) : Src := ⟨q, false, false⟩
def Src.unit : Src := ⟨0, false, false⟩

/-- A violation: SEC.VIOL, SEC.LASTV, SEC.LASTADDR, SEC.EVT.viol and a record (R459). -/
def Chip.violate (c : Chip) (src : Src) (cause : BitVec 16) (cls idx ctx : Nat) (info : BitVec 32 := 0) : Chip :=
  let c := c.setSecEvt 0
  let c := { c with sec := { c.sec with
    viol := satAdd c.sec.viol 1
    lastv := cause.setWidth 32 ||| (if src.fromQ then natW 16 src.queue.val ||| bitW 19 true else 0)
    lastaddr := BitVec.ofNat 32 ctx } }
  c.record cause cls idx (ctxAt 32 ctx) info

/-! ### Units -/

/-- A frond changed. -/
def Chip.modFrond (c : Chip) (n : Nat) (f : Frond → Frond) : Chip := { c with fronds := vmod c.fronds n f }
/-- A cam changed. -/
def Chip.modCam (c : Chip) (n : Nat) (f : Cam → Cam) : Chip := { c with cams := vmod c.cams n f }
/-- A pin changed. -/
def Chip.modPin (c : Chip) (n : Nat) (f : Pin → Pin) : Chip := { c with pins := vmod c.pins n f }
/-- A bank changed. -/
def Chip.modBank (c : Chip) (n : Nat) (f : Bank → Bank) : Chip := { c with banks := vmod c.banks n f }
/-- A queue changed. -/
def Chip.modQ (c : Chip) (q : Nat) (f : QState → QState) : Chip :=
  { c with eng := { c.eng with queues := vmod c.eng.queues q f } }
/-- A context changed. -/
def Chip.modCtx (c : Chip) (k : Nat) (f : Ctx → Ctx) : Chip :=
  { c with eng := { c.eng with ctxs := vmod c.eng.ctxs k f } }
/-- A DMA channel changed. -/
def Chip.modDma (c : Chip) (n : Nat) (f : Dma → Dma) : Chip := { c with dma := vmod c.dma n f }
/-- A link port changed. -/
def Chip.modPort (c : Chip) (p : Nat) (f : Port → Port) : Chip := { c with ports := vmod c.ports p f }

/-- The sequence of R61 is in flight: the leaf gates are closed. -/
def Clk.gated (k : Clk) : Bool := match k.switch with | some s => s.forced | none => false

/-- The core stands still: HOLD, or a forced switch in flight. -/
def Chip.frozen (c : Chip) : Bool := c.clk.st == .hold || c.clk.gated

/-- The terms of INT_N that the management island drives, which stay live while the core stands still: CLK, LIC and PWR
(Table FLT-9, R446; MGT has no term in FLT.INTSRC). -/
def islandTerms : Word := bitW 0 true ||| bitW 12 true ||| bitW 15 true

/-- The core asserts INT_N. -/
def Chip.coreInt (c : Chip) : Bool := c.intSrc &&& ~~~islandTerms != 0

/-- Outputs are driven: power is good, or the power-fail sequence runs (R430, R435). -/
def Chip.powered (c : Chip) : Bool := c.pwr.pgood || c.pwr.pf == 1

/-- INT_N is asserted (R425): in HOLD the core's terms hold the values at which they froze (Table FLT-9); before power good it
is released (R430). -/
def Chip.intAsserted (c : Chip) : Bool :=
  c.powered && if c.frozen then c.intSrc &&& islandTerms != 0 || c.flt.intHeld else c.intSrc != 0

/-- FAULT_N is asserted (R390); before power good it is released (R430). -/
def Chip.faultAsserted (c : Chip) : Bool := c.powered && c.lic.pending

/-- The core's terms of INT_N freeze (Table FLT-9). -/
def Chip.freezeInt (c : Chip) : Chip := { c with flt := { c.flt with intHeld := c.coreInt } }

/-- CCLK runs at the leaf gates. -/
def Chip.cclkOn (c : Chip) : Bool := c.pwr.pgood && c.pwr.pf == 0 && !c.frozen && c.pwr.step != 1

/-- The core clock runs and the core is neither in reset nor frozen by power fail. -/
def Chip.coreOn (c : Chip) : Bool := c.cclkOn && !c.pwr.held

/-- The engine may issue: the core runs and start-up has ended (R444). -/
def Chip.engineOn (c : Chip) : Bool := c.coreOn && c.pwr.step == 0

/-- A set event flag E0 to E63 (R161). -/
def Chip.setFlag (c : Chip) (k : Nat) : Chip :=
  { c with eng := { c.eng with flags := c.eng.flags ||| BitVec.ofNat 64 (2 ^ k) } }

/-- Every hardware flag bound to a source class and index sets (Table IMD-6). -/
def Chip.fireSource (c : Chip) (cls idx : Nat) : Chip :=
  (List.range 32).foldl (fun c k =>
    if (vget c.eng.evtsrc k).toNat = cls * 256 + idx then c.setFlag (32 + k) else c) c

/-- The numbers of the bits set in a mask. -/
def maskList (m : Word) : List Nat := (List.range 32).filter fun n => m.getLsbD n

/-- What has been done in the cc at the present line time. -/
def Chip.memo (c : Chip) : CcMemo := if c.eng.memo.t = c.now then c.eng.memo else ⟨c.now, [], 0, [], 0⟩

/-- The memo of the cc at the present line time changed. -/
def Chip.modMemo (c : Chip) (f : CcMemo → CcMemo) : Chip := { c with eng := { c.eng with memo := f c.memo } }

/-- The generation of a cam advances once in a cc, whichever commands of that cc change it (R131, R283). -/
def Chip.camOnce (old new : Chip) : Chip :=
  let m := new.memo
  let moved (n : Nat) : Bool := (vget new.cams n).gen != (vget old.cams n).gen
  let c := new.modMemo fun m => { m with cams := (List.range 32).foldl (fun a n => a ||| bitW n (moved n)) m.cams }
  { c with cams := vmapi (fun n k => if m.cams.getLsbD n && moved n then { k with gen := (vget old.cams n).gen } else k) c.cams }

/-- The context that a queue holds open. -/
def Chip.txnOf (c : Chip) (q : Queue) : Option (Fin 4) := (vget c.eng.queues q.val).txn

/-! ### Configuration planes in the memory (R25, R232, R233) -/

/-- The first byte of a physical plane of a frond; input selects follow the image at byte 12,800. -/
def planeBase (plane : Bool) (n : Nat) : Nat := 0x40000000 + (if plane then 0x80000 else 0) + n * 0x4000

/-- The active plane's first byte. -/
def Chip.activeBase (c : Chip) (n : Nat) : Nat := planeBase (vget c.fronds n).plane n
/-- The shadow plane's first byte. -/
def Chip.shadowBase (c : Chip) (n : Nat) : Nat := planeBase (!(vget c.fronds n).plane) n

/-- The signature of a plane: CRC-64 of its 13,024 bytes (R333). -/
def Chip.signature (c : Chip) (base : Nat) : BitVec 64 := crc64 (memBytes 0 c.mem base 13024)

/-- A bit of an image. -/
def Chip.imageBit (c : Chip) (base b : Nat) : Bool := (memRead 0 c.mem (base + b / 8)).getLsbD (b % 8)

/-- The configuration word of a macrocell (Table FRD-4). -/
def Chip.mcWord (c : Chip) (base m : Nat) : BitVec 16 := BitVec.ofNat 16 (memNat 0 c.mem (base + 12672 + 2 * m) 2)

/-! ### Check codes of the SRAM words (R30, R185, R345) -/

/-- The check state of the word at an address: 0 good, 1 correctable, 2 uncorrectable, 3 poisoned. -/
def Chip.eccAt (c : Chip) (a : Nat) : Nat := (memRead 0 c.ecc (a / 16)).toNat
/-- The chip with the check state of a word set. -/
def Chip.setEcc (c : Chip) (a : Nat) (v : Byte) : Chip := { c with ecc := memWrite 0 c.ecc (a / 16) v }

/-- The row of Table ARC-4 an address lies in, as the index of unit class 0x08. -/
def regionOf (a : Nat) : Option Nat :=
  if a < 0x150000 then some 0
  else if 0x10000000 ≤ a ∧ a < 0x10100000 then some 1
  else if 0x20000000 ≤ a ∧ a < 0x20040000 then some 2
  else if 0x28000000 ≤ a ∧ a < 0x28002000 then some 3
  else if 0x30000000 ≤ a ∧ a < 0x30040000 then some 4
  else if 0x38000000 ≤ a ∧ a < 0x38004000 then some 5
  else if 0x40000000 ≤ a ∧ a < 0x40100000 then some 6
  else if 0x50000000 ≤ a ∧ a < 0x50008000 then some 7
  else if 0x60000000 ≤ a ∧ a < 0x6000C000 then some 8
  else if 0x70000000 ≤ a ∧ a < 0x70010000 then some 9
  else none

/-- The number of a word of the store: the user area from 0, the system area from 16,384 (R370). -/
def nvWord (a : Nat) : Option Nat :=
  match regionOf a with
  | some 4 => some ((a - 0x30000000) / 16)
  | some 5 => some (16384 + (a - 0x38000000) / 16)
  | _ => none

/-- A correction is logged: in NVS.ECCLOG for the store (R345). -/
def Chip.logCorrect (c : Chip) (a : Nat) : Chip :=
  match nvWord a with
  | some w =>
    let c := c.setNvsEvt 2
    { c with nvs := { c.nvs with
        ecclog := natW 0 w ||| (satAdd16 (c.nvs.ecclog.extractLsb' 16 16) 1).setWidth 32 <<< 16 } }
  | none => c

/-- A word is poisoned, with its record 0x2201; a store word newly poisoned counts in NVS.POISON (R185, R345).
`how` is byte 36 of the record. -/
def Chip.poisonWord (c : Chip) (a how : Nat) : Chip :=
  let fresh := c.eccAt a != 3
  let c := c.setEcc a 3
  let c := match fresh, nvWord a with
    | true, some w =>
      let c := c.setNvsEvt 3
      { c with nvs := { c.nvs with
          poison := natW 0 w ||| (satAdd16 (c.nvs.poison.extractLsb' 16 16) 1).setWidth 32 <<< 16 } }
    | _, _ => c
  c.record 0x2201 8 ((regionOf a).getD 0) (ctxAt 32 a ||| ctxAt 36 how)

/-- The page of the store that a user-area address lies in becomes dirty (R344). -/
def Chip.dirty (c : Chip) (p : Nat) : Chip :=
  { c with nvs := { c.nvs with dirtyP := c.nvs.dirtyP ||| (BitVec.ofNat 1088 (2 ^ p)) } }

/-- A full 16-byte word written with fresh check bits, which clears poison (R185). -/
def Chip.putWord (c : Chip) (a : Nat) (w : QWord) : Chip :=
  let c := { c with mem := memPut 0 c.mem (a / 16 * 16) w.toNat 16 }
  let c := c.setEcc a 0
  if regionOf a = some 4 then c.dirty ((a - 0x30000000) / 256) else c

/-- The 16-byte word at an address as it stands. -/
def Chip.getWord (c : Chip) (a : Nat) : QWord := BitVec.ofNat 128 (memNat 0 c.mem (a / 16 * 16) 16)

/-- A read of the word at an address of a RAM: a correctable error is corrected and written back, an uncorrectable
one poisons the word (R185, Table NVS-2). Answers the status and the chip. -/
def Chip.readEcc (c : Chip) (a how : Nat) : Byte × Chip :=
  match c.eccAt a with
  | 0 => (St.ok, c)
  | 1 => (St.corrected, (c.setEcc a 0).logCorrect a)
  | _ => (St.eccUncorr, c.poisonWord a how)

/-- A write of fewer than 16 bytes to a RAM word (R185, Table NVS-2). -/
def Chip.partialWrite (c : Chip) (a n v : Nat) : Byte × Chip :=
  match c.eccAt a with
  | 0 =>
    let c := { c with mem := memPut 0 c.mem a v n }
    (St.ok, if regionOf a = some 4 then c.dirty ((a - 0x30000000) / 256) else c)
  | 1 =>
    let c := ({ c with mem := memPut 0 c.mem a v n }.setEcc a 0).logCorrect a
    (St.corrected, if regionOf a = some 4 then c.dirty ((a - 0x30000000) / 256) else c)
  | _ => (St.poison, c.poisonWord a 1)

end Sys2Proof.Machine
end

