-- ==== Sys2Proof/Machine/Logic.lean ====
section
/-!
DEFINITION. The fabric: terms, sums, macrocell outputs, flip-flops and interconnect sources (R219 to R228, R236 to
R238), with the IRP response lines (Table CHG-3).
-/
namespace Sys2Proof.Machine

/-! ### States and forces of fronds -/

/-- The frond is in SAFE. -/
def Chip.frondSafe (c : Chip) (n : Nat) : Bool := (vget c.fronds n).st == .safe

/-- The SAFE force of a frond's flip-flops (R238). -/
def Chip.safeForce (c : Chip) (n : Nat) : Bool :=
  c.frondSafe n || (!c.pwr.safeN && (vget c.fronds n).pol.getLsbD 0)

/-- The init bits of the active plane of a frond. -/
def Chip.initBits (c : Chip) (n : Nat) : BitVec 64 :=
  BitVec.ofNat 64 ((List.range 64).foldl (fun a m =>
    if (c.mcWord (c.activeBase n) m).getLsbD 5 then a + 2 ^ m else a) 0)

/-- The flip-flops of a frond: their loaded values in RUN without a force, their init values otherwise. -/
def Chip.ffNow (c : Chip) (n : Nat) : BitVec 64 :=
  if (vget c.fronds n).st == .run && !c.safeForce n then (vget c.fronds n).ff else c.initBits n

/-! ### IRP response lines (R332) -/

/-- Every frond of a mask meets a test. -/
def Chip.allFronds (c : Chip) (m : Word) (p : Frond → Bool) : Bool := (maskList m).all fun n => p (vget c.fronds n)
/-- Some frond of a mask meets a test. -/
def Chip.anyFrond (c : Chip) (m : Word) (p : Frond → Bool) : Bool := (maskList m).any fun n => p (vget c.fronds n)

/-- A stage set exists and every frond of it has a complete shadow. -/
def Chip.stgReady (c : Chip) : Bool :=
  match c.scr.stg with
  | none => false
  | some (_, f, _) => c.allFronds f (·.shadowOk)

/-- Instructions in Q6 not yet retired. -/
def Chip.q6Busy (c : Chip) : Bool :=
  let q := vget c.eng.queues 6
  !q.words.isEmpty || q.wait.isSome || !q.calls.isEmpty

/-- An IRP PLANE.SWAP.AT waits for its position. -/
def Chip.swapWait (c : Chip) : Bool :=
  match (vget c.eng.queues 6).wait with
  | some w => w.kind == .position && w.code == 0x25
  | none => false

/-- The response lines (Table CHG-3). -/
def Chip.irpLines (c : Chip) : BitVec 16 :=
  if !c.scr.irpEn then 0 else
    let b (n : Nat) (v : Bool) : BitVec 16 := if v then BitVec.ofNat 16 (2 ^ n) else 0
    b 0 c.scr.ack ||| b 1 c.scr.reject ||| b 2 c.scr.done ||| b 3 c.q6Busy ||| b 4 c.prs.varOk ||| b 5 c.stgReady
      ||| b 6 c.swapWait ||| b 7 (c.anyFrond 0xFFFFFFFF fun f => f.check.getLsbD 1)
      ||| (c.scr.irpResp.setWidth 16 <<< 8)

/-! ### Terms and macrocells -/

/-- Input select `i` of a plane (Table PRS-4). -/
def Chip.inputSelect (c : Chip) (base i : Nat) : Nat := (memNat 0 c.mem (base + 12800 + 12 * i / 8) 3 >>> (12 * i % 8)) % 4096

/-- The 288 literal bits of a term as a number (R233). -/
def Chip.termBits (c : Chip) (base t : Nat) : Nat := memNat 0 c.mem (base + 36 * t) 36

/-- The AND of the selected literals; 0 when none is selected (R222). -/
def termVal (bits : Nat) (lit : Nat → Bool) : Bool :=
  bits != 0 && (List.range 144).all fun i =>
    (!bits.testBit (2 * i) || lit i) && (!bits.testBit (2 * i + 1) || !lit i)

/-- The sum of a macrocell before inv: native terms that are not control terms, and its expanders (R224). -/
def sumVal (cfg : BitVec 16) (term : Nat → Bool) (m : Nat) : Bool :=
  ((List.range 5).any fun j =>
      !((j == 4 && cfg.getLsbD 2) || (j == 3 && cfg.getLsbD 3) || (j == 2 && cfg.getLsbD 4)) && term (5 * m + j))
    || (List.range (field cfg 11 5)).any fun x => term (320 + field cfg 6 5 + x)

/-- The level of the pad of a pin that nothing of the part drives: what the board drives, else the pin's pull, in the codes
of EDG.PINCFGp [15:14] (Table EDG-7, R258); with no pull the spec states no level (log entry 97). In BOOT and LOADER the
bank default brings a weak pull-down whatever the register holds (R240, R315). -/
def Chip.padIn (c : Chip) (p : Nat) : Bool :=
  let pin := vget c.pins p
  match pin.padIn with
  | some b => b
  | none =>
    match if c.prs.ldr == .user then (pin.cfg.extractLsb' 14 2).toNat else 1 with
    | 0 => Config.floating p c.freeIx
    | 1 => false
    | 2 => true
    | _ => pin.keep

/-- The fronds a pin's forces follow: in direct mode those of its output and enable macrocells, in EPU mode that of its
gate (Table FRD-10). -/
def Pin.sources (p : Pin) : List Nat :=
  if p.cfg.extractLsb' 0 2 == 0 then
    field p.src 6 5 :: (if p.src.getLsbD 11 then [field p.src 18 5] else [])
  else if p.cfg.getLsbD 2 then [field p.cfg 9 5] else []

/-- A cause of Table FRD-10 other than test mode forces a pin (R239); in BOOT and LOADER every output is held at the bank
default (R315, R445). -/
def Chip.forcedBy (c : Chip) (n : Nat) : Bool :=
  let p := vget c.pins n
  !c.pwr.safeN || p.held || p.psafe || c.pwr.pf != 0 || c.prs.ldr != .user || p.sources.any fun f => c.frondSafe f

/-- A user output is forced safe: a cause of Table FRD-10, test mode among them. -/
def Chip.forced (c : Chip) (n : Nat) : Bool := c.jtg.test || c.forcedBy n

/-- The bank of a pin has no supply: its pins drive nothing (R431). -/
def Chip.absent (c : Chip) (p : Nat) : Bool := c.pwr.vio.extractLsb' (2 * (p / 16)) 2 == 0

/-- What the boundary scan drives on a pin in test mode: nothing under HIGHZ, its output and enable cells otherwise (R136,
R137). In the model's order the cells of pin p are 3p input, 3p + 1 output, 3p + 2 enable (log entry 95). -/
def Jtg.cellDrive (j : Jtg) (p : Nat) : BitVec 2 :=
  if j.ir == 0x006 || !j.cells.getLsbD (3 * p + 2) then 2 else if j.cells.getLsbD (3 * p + 1) then 1 else 0

/-- The value of an interconnect source (Tables FRD-2, FRD-3). `fuel` bounds the chain of combinational macrocells. -/
def Chip.srcVal (c : Chip) : Nat → Nat → Bool
  | 0, sel => Config.loopLogic (sel / 64) (sel % 64)
  | fuel + 1, sel =>
    if sel < 2048 then
      let n := sel / 64
      let m := sel % 64
      let base := c.activeBase n
      let cfg := c.mcWord base m
      if (vget c.fronds n).st == .safe then cfg.getLsbD 5
      else if cfg.getLsbD 0 then (c.ffNow n).getLsbD m
      else
        sumVal cfg (fun t => termVal (c.termBits base t) fun i => c.srcVal fuel (c.inputSelect base i)) m
          != cfg.getLsbD 1
    else if sel < 2240 then
      let p := sel - 2048
      let pin := vget c.pins p
      let drv : BitVec 2 :=
        if c.absent p || !c.powered then 2
        else if c.forcedBy p then pin.drv
        else if c.jtg.test then c.jtg.cellDrive p
        else if pin.cfg.extractLsb' 0 2 == 1 then pin.lvl
        else if pin.src.getLsbD 11 && !c.srcVal fuel (field pin.src 12 11) then 2
        else if c.srcVal fuel (field pin.src 0 11) then 1 else 0
      if drv == 0 then false else if drv == 1 then true else c.padIn p
    else
      let k := sel - 2240
      if k < 46 then c.pulses.getLsbD k
      else if k == 46 then c.eng.flags.getLsbD 0
      else if k == 47 then c.eng.flags.getLsbD 1
      else c.irpLines.getLsbD (k - 48)

/-- More than the 2,240 macrocells and pins that a chain of sources can pass without meeting one twice: only logic that
depends on itself runs out, and takes the opaque value of the configuration (log entry 13). -/
def logicFuel : Nat := 2241

/-- The output of a macrocell on the interconnect (R228, Table FRD-7). -/
def Chip.macroOut (c : Chip) (sel : Nat) : Bool := c.srcVal logicFuel (sel % 2048)

/-- The request lines of the IRP: the outputs of macrocells M48 to M63 of the master frond (R329). -/
def Chip.masterLines (c : Chip) : BitVec 16 :=
  BitVec.ofNat 16 ((List.range 16).foldl (fun a k =>
    if c.macroOut (64 * c.scr.irpMast.toNat + 48 + k) then a + 2 ^ k else a) 0)

/-- What a released pin drives: 0, 1 or 2 for Z (Table EDG-1, R258). -/
def Chip.pinLogic (c : Chip) (p : Nat) : BitVec 2 :=
  let pin := vget c.pins p
  if pin.cfg.extractLsb' 0 2 == 1 then pin.lvl
  else if pin.src.getLsbD 11 && !c.macroOut (field pin.src 12 11) then 2
  else if c.macroOut (field pin.src 0 11) then 1 else 0

/-- What a pin drives now: nothing in an absent bank, nor before power good (R430, R431). -/
def Chip.pinDrive (c : Chip) (p : Nat) : BitVec 2 :=
  if c.absent p || !c.powered then 2
  else if c.forcedBy p then (vget c.pins p).drv
  else if c.jtg.test then c.jtg.cellDrive p
  else c.pinLogic p

/-- The level at the pad. -/
def Chip.padLevel (c : Chip) (p : Nat) : Bool :=
  let d := c.pinDrive p
  if d == 0 then false else if d == 1 then true else c.padIn p

/-- D of macrocell `m` of frond `n` for the next edge (R227). -/
def Chip.ffNext (c : Chip) (n m : Nat) : Bool :=
  let base := c.activeBase n
  let cfg := c.mcWord base m
  let term (t : Nat) : Bool := termVal (c.termBits base t) fun i => c.srcVal logicFuel (c.inputSelect base i)
  if cfg.getLsbD 4 && term (5 * m + 2) then false
  else if cfg.getLsbD 3 && term (5 * m + 3) then true
  else if !cfg.getLsbD 2 || term (5 * m + 4) then sumVal cfg term m != cfg.getLsbD 1
  else (c.ffNow n).getLsbD m

/-- The flip-flops of a frond after one edge: RUN without force loads D, every other case holds init. -/
def Chip.ffEdge (c : Chip) (n : Nat) : BitVec 64 :=
  if (vget c.fronds n).st == .run && !c.safeForce n then
    BitVec.ofNat 64 ((List.range 64).foldl (fun a m => if c.ffNext n m then a + 2 ^ m else a) 0)
  else c.initBits n

/-- Every frond's flip-flops after one CCLK edge. -/
def Chip.clockFronds (c : Chip) : Chip :=
  { c with fronds := vmapi (fun n f => if f.st == .run then { f with ff := c.ffEdge n } else f) c.fronds }

/-- The flip-flops of the fronds of a mask seated at their init values (a force or RESET that ends). -/
def Chip.seatInit (c : Chip) (ns : List Nat) : Chip :=
  ns.foldl (fun c n => c.modFrond n fun f => { f with ff := c.initBits n }) c

/-! ### The passage to a later cc (R94, R221, R258, R330, R332) -/

/-- The level a keeper holds: what the pad showed in the last cc (R258). -/
def Chip.keepers (c : Chip) : Chip :=
  { c with pins := vmapi (fun p (x : Pin) =>
      if x.cfg.extractLsb' 14 2 == 3 then { x with keep := c.padLevel p } else x) c.pins }

/-- The request lines that the IRP samples in this cc: 0 while it is disabled. -/
def Chip.sampled (c : Chip) : BitVec 16 := if c.scr.irpEn then c.masterLines else 0

/-- The special sources of a cc at line time `l`, in which nothing has fired: S45 is high when the seconds have advanced
(Table FRD-3). -/
def Chip.freshPulses (c : Chip) (l : LineTime) : BitVec 64 :=
  if l.sec = c.lt.sec then 0 else BitVec.ofNat 64 (2 ^ 45)

/-- Line time carried forward to `t` when `t` lies ahead: an event row that names a later cc happens in it. The signals of
one cc, special sources and the pulses of the IRP, have ended, the last response byte shown (R221, R332); lines sampled in a
cc that takes no request are the previous values of the next (R330). -/
def Chip.advance (c : Chip) (t : BitVec 64) : Chip :=
  if 0 < signedGap t c.now then
    let l := { c.lt.plus (signedGap t c.now) with len := 64 }
    { c.keepers.newCc with
      lt := l
      pulses := c.freshPulses l
      scr :=
        { c.scr with
          ack := false
          reject := false
          done := false
          hush := false
          lines := if c.scr.hush then c.sampled else c.scr.lines
          irpResp := c.scr.resps.getLastD c.scr.irpResp
          resps := [] } }
  else c

end Sys2Proof.Machine
end

