-- ==== Sys2Proof/Machine/Pins.lean ====
section
/-!
DEFINITION. Forced pins and what follows a change of any force: EPU queues, safe levels, bank generations (R57, R239
to R241, R259), and the EPU armed test (R244).
-/
namespace Sys2Proof.Machine

/-- The programmed safe-state code of a pin; the bank default Z until outputs are released at start-up and in LOADER
(R240, R315). -/
def Chip.safeCode (c : Chip) (p : Nat) : BitVec 2 :=
  if c.prs.ldr == .user then (vget c.banks (p / 16)).safest.extractLsb' (2 * (p % 16)) 2 else 2

/-- A cause of Table FRD-10 that acts without the clock begins: SAFE_N, the clock-loss detector and the forced switch, the
power-fail path, RESET_N. -/
def Chip.asyncCause (old new : Chip) : Bool :=
  (old.pwr.safeN && !new.pwr.safeN) || (!old.frozen && new.frozen) || (old.pwr.pf == 0 && new.pwr.pf != 0)
    || (!old.pwr.held && new.pwr.held)

/-- The level a pin takes as its force begins: the code, or for hold-last what it drove in the last cc, for an asynchronous
cause the level at its pad (R240). -/
def Chip.safeLevel (old new : Chip) (p : Nat) : BitVec 2 :=
  let code := new.safeCode p
  if code != 3 then code
  else if old.asyncCause new then (if old.padLevel p then 1 else 0)
  else old.pinDrive p

/-- The EPU of a pin is armed (R244). -/
def Pin.armed (p : Pin) : Bool := !p.q.isEmpty || p.bind.getLsbD 5

/-- A pin is in EPU mode. -/
def Pin.epu (p : Pin) : Bool := p.cfg.extractLsb' 0 2 == 1

/-- A pin after a change of forces, from the chip just before: its level as a force begins, in test mode too, whose cells it
takes the pin from; the level its keeper held; and in the first cc in which it is forced in EPU mode while CCLK runs the
flush of R259. Answers the pin and the entries discarded. -/
def forcePin (old new : Chip) (p : Nat) (pin : Pin) : Pin × Nat :=
  let was := old.forced p
  let is := new.forced p
  let begins := (is && !was) || (new.forcedBy p && !old.forcedBy p)
  let pin := if begins then { pin with drv := old.safeLevel new p } else pin
  let pin := if pin.cfg.extractLsb' 14 2 == 3 then { pin with keep := old.padLevel p } else pin
  if is && new.cclkOn && pin.epu && !(was && old.cclkOn && (vget old.pins p).epu) then
    ({ pin with q := [], bedges := [], lvl := pin.drv }, pin.q.length)
  else (pin, 0)

/-! ### Several changes of a unit in one cc advance its generation once (R131, R283) -/

/-- A generation after one cc. -/
def genOnce (old new : BitVec 16) : BitVec 16 := if new = old then old else old + 1

/-- The generations of fronds, cams and banks after a cc that began at `old`. -/
def Chip.onceGen (old new : Chip) : Chip :=
  { new with
    fronds := vmapi (fun n f => { f with gen := genOnce (vget old.fronds n).gen f.gen }) new.fronds
    cams := vmapi (fun n k => { k with gen := genOnce (vget old.cams n).gen k.gen }) new.cams
    banks := vmapi (fun n b => { b with gen := genOnce (vget old.banks n).gen b.gen }) new.banks }

/-- What follows once the causes of a force have changed from `old` to `new`: each pin newly forced takes its safe
state and each bank with a pin forced or released advances its generation once (R131, R241). -/
def Chip.settle (old new : Chip) : Chip :=
  let done := new.pins.toList.mapIdx fun p pin => forcePin old new p pin
  let flushed := (done.map (·.2)).sum
  let changed := (List.range 192).map fun p => old.forced p != new.forced p
  let c := { new with
    pins := vmapi (fun p pin => (forcePin old new p pin).1) new.pins
    banks := vmapi (fun b k => if ((changed.drop (16 * b)).take 16).any id then { k with gen := k.gen + 1 } else k)
      new.banks }
  if flushed = 0 then c else { c.setEdgEvt 1 with edg := { (c.setEdgEvt 1).edg with flushed := satAdd c.edg.flushed flushed } }

/-- Every user output held under R57. -/
def Chip.holdPins (c : Chip) : Chip := { c with pins := vmapi (fun _ p => { p with held := true }) c.pins }

/-- The hold of R57 ended, which needs SAFE_N high. -/
def Chip.releasePins (c : Chip) : Chip :=
  if c.pwr.safeN then { c with pins := vmapi (fun _ p => { p with held := false }) c.pins } else c

/-- SAFE_ACT is high while any user output is forced (R239, R137). -/
def Chip.safeAct (c : Chip) : Bool := c.jtg.test || (List.range 192).any fun p => c.forced p

end Sys2Proof.Machine
end

