-- ==== Sys2Proof/Machine/Position.lean ====
section
/-!
DEFINITION. The position extrapolator (R269 to R274), crossings (R278) and event times (R280). A window of the model
runs from the look-ahead position a unit last tested to the present one (log entry 6).
-/
namespace Sys2Proof.Machine

/-- POS(T) of R271: floor((P0 * 2^32 + v * d) / 2^32) mod 2^64. -/
def Pos.at (p : Pos) (t : BitVec 64) : BitVec 64 :=
  BitVec.ofInt 64 (((p.p0.toNat : Int) * 4294967296 + p.v.toInt * signedGap t p.ts) / 4294967296)

/-- The look-ahead position Q; none in NONE (Table CAM-1). -/
def Chip.look (c : Chip) : Option (BitVec 64) :=
  match c.pos.st with
  | .none => none
  | .stopped => some c.pos.frozenQ
  | _ => some (c.pos.at (c.now + 256))

/-- The current position N as CAM.POSNOW reports it. -/
def Chip.posNow (c : Chip) : BitVec 64 :=
  match c.pos.st with
  | .none => 0
  | .stopped => c.pos.frozenN
  | _ => c.pos.at c.now

/-- Windows exist: TRACKING or COASTING. -/
def Chip.moving (c : Chip) : Bool := c.pos.st == .tracking || c.pos.st == .coasting

/-- The forward crossing of angle `b` by a window (R278). -/
def crossFwd (prev now : BitVec 64) (b : Word) : Option (BitVec 64) :=
  let delta := signedGap now prev
  let r : Word := b - prev.setWidth 32 - 1
  if 0 < delta ∧ (r.toNat : Int) < delta then some (prev + r.setWidth 64 + 1) else none

/-- The reverse crossing of angle `b` by a window (R278). -/
def crossRev (prev now : BitVec 64) (b : Word) : Option (BitVec 64) :=
  let delta := signedGap now prev
  let r : Word := prev.setWidth 32 - b
  if delta < 0 ∧ (r.toNat : Int) < -delta then some (prev - r.setWidth 64) else none

/-- Exact ceiling of a quotient. -/
def ceilDiv (y v : Int) : Int := -((-y) / v)

/-- The event time E of a firing at cam position X with offset A, in the cc of line time L (R280). -/
def Pos.eventTime (p : Pos) (x a : BitVec 64) (fwd : Bool) (l : BitVec 64) : BitVec 64 :=
  let y : Int := signedGap (x + a) p.p0 * 4294967296
  let v := p.v.toInt
  if fwd ∧ 0 < v then p.ts + BitVec.ofInt 64 (ceilDiv y v)
  else if !fwd ∧ v < 0 then p.ts + BitVec.ofInt 64 (ceilDiv (1 - y) (-v))
  else l + 256

/-- The applied offset of a cam as a 64-bit value. -/
def Cam.offset (c : Cam) : BitVec 64 := c.off.signExtend 64

/-- Every window of the chip starts at `f` of the position it started at. -/
def Chip.mapWindows (c : Chip) (f : BitVec 64 → BitVec 64) : Chip :=
  let cams := vmapi (fun _ (k : Cam) => { k with prevQ := f k.prevQ }) c.cams
  let qs := vmapi (fun _ (x : QState) => { x with wait := x.wait.map fun w =>
    if w.kind == .position then { w with res := f w.res } else w }) c.eng.queues
  { c with cams := cams, pos := { c.pos with bndQ := f c.pos.bndQ }, eng := { c.eng with queues := qs } }

/-- Every window starts anew at the present look-ahead position: a resync window, in which nothing crosses. -/
def Chip.rewindow (c : Chip) : Chip := c.mapWindows fun _ => c.look.getD 0

/-- The look-ahead position that the cc before computed (R272): a cc that the slewer, a switch or a gap may have made shorter
or longer than 64 ticks; a discontinuity of this cc has kept it. -/
def Chip.lookPrev (c : Chip) : BitVec 64 :=
  match c.pos.jump with
  | some j => j.prev
  | none => c.pos.at (c.now + 256 - BitVec.ofNat 64 c.lt.len)

/-- Where the window of this cc starts for a unit that has tested up to `w`: where the window of the cc before ended, or where
a test of this cc has ended; a resync window starts where it ends. -/
def Chip.windowStart (c : Chip) (w : BitVec 64) : BitVec 64 :=
  if w = c.look.getD 0 then w
  else match c.pos.jump with
    | some j => j.start
    | none => c.lookPrev

/-- What a cc keeps of its first discontinuity, as judged from the chip before it: with `first` the first model. -/
def Chip.firstJump (c : Chip) (first : Bool) : Jump :=
  { start := c.lookPrev
    resync := false
    first := first
    prev := c.lookPrev
    was := c.look.getD 0
    resyncs := c.pos.resyncs
    evt := c.pos.evt.getLsbD 0 }

/-- A resync window (R274): it starts where it ends, and counts once for its cc. -/
def Chip.resyncWindow (c : Chip) (j : Jump) : Chip :=
  let c := (c.setCamEvt 0).rewindow
  { c with pos := { c.pos with
      resyncs := satAdd j.resyncs 1
      jump := some { j with start := c.look.getD 0, resync := true } } }

/-- A normal window in a discontinuity cc: it starts where that of the cc before ended, for every unit that has not yet tested
in this cc (R272, R274). What a discontinuity before it in the same cc has counted is taken back. -/
def Chip.joinWindows (old new : Chip) (j : Jump) : Chip :=
  let at_ (w : BitVec 64) : BitVec 64 := if j.resync && w == old.look.getD 0 then j.prev else old.windowStart w
  let c := new.mapWindows at_
  { c with pos := { c.pos with
      resyncs := j.resyncs
      evt := if j.resync && !j.evt then c.pos.evt &&& ~~~1 else c.pos.evt
      jump := some { j with start := j.prev, resync := false } } }

/-- A discontinuity (R274): `old` is the chip with the old model and line time. A jump above the limit, and the first
model in NONE or STOPPED, make a resync window; otherwise every window runs on. The discontinuities of one cc are judged as
one, from the old model at the line time without a step. -/
def Chip.discont (old new : Chip) : Chip :=
  if !new.moving then new
  else
    let j := old.pos.jump.getD (old.firstJump (!old.moving))
    if j.first || 2 ^ field new.pos.cfg 16 5 < (signedGap (new.look.getD 0) j.was).natAbs then new.resyncWindow j
    else old.joinWindows new j

/-- A waiting WAIT.TIME whose time lies before `now` is marked late. -/
def QState.passTime (now : BitVec 64) (x : QState) : QState :=
  let mark (w : Wait) : Wait := if w.kind == WaitKind.time && decide (signedGap w.t now < 0) then { w with res := 1 } else w
  { x with wait := x.wait.map mark }

/-- A jump of line time carries it past the times of waiting WAIT.TIMEs, which then complete late (R490). -/
def Chip.passTimes (c : Chip) : Chip :=
  { c with eng := { c.eng with queues := vmapi (fun _ => QState.passTime c.now) c.eng.queues } }

/-- An edge still to be placed whose time a step of line time has passed is late; the step does not move it (R257). -/
def PinEdge.passed (now : BitVec 64) (e : PinEdge) : PinEdge :=
  if signedGap e.t now < 0 then { e with late := true } else e

/-- A request after a step of line time from `a` to `b`: an immediate one keeps its cc, another is late once its T has
passed. -/
def EdgeReq.stepTime (a b : BitVec 64) (r : EdgeReq) : EdgeReq :=
  if r.mode == 2 then { r with t := r.t + (b - a), edge := r.edge.map fun e => { e with t := e.t + (b - a) } }
  else { r with edge := r.edge.map (PinEdge.passed b) }

/-- A pin after a step of line time from `a` to `b`: times of the past move with line time. -/
def Pin.stepTime (a b : BitVec 64) (p : Pin) : Pin :=
  { p with
    lastT := p.lastT.map (· + (b - a))
    blind := p.blind.map (· + (b - a))
    bedges := p.bedges.map (PinEdge.passed b)
    q := p.q.map (EdgeReq.stepTime a b) }

/-- A step of line time moves a time of the past, which keeps its distance from now. -/
def Chip.sinceStep (old new : Chip) (t : BitVec 64) : BitVec 64 := t + (new.now - old.now)

/-- Line time changed by a write or a step, with the discontinuity of R274 judged. What the pins, the cams and the links keep
of the past keeps its distance from now: the last edge placed and the last edge captured, the last firing, the code errors
(R98, R256, R262, R281). -/
def Chip.withLt (c : Chip) (l : LineTime) : Chip :=
  let new := (c.discont { c with lt := l }).passTimes
  { new with
    pins := vmapi (fun _ => Pin.stepTime c.now new.now) new.pins
    cams := vmapi (fun _ k => { k with firedAt := k.firedAt.map (c.sinceStep new) }) new.cams
    ports := vmapi (fun _ x => { x with errT := x.errT.map (c.sinceStep new) }) new.ports }

/-- A cam disarmed: not armed, no latch, no waiting crossing, generation advanced (R283). -/
def Cam.disarm (k : Cam) : Cam :=
  if k.armed then { k with armed := false, latch := none, waiting := [], gen := k.gen + 1 } else k

/-- Every cam disarmed. -/
def Chip.disarmAll (c : Chip) : Chip := { c with cams := vmapi (fun _ k => Cam.disarm k) c.cams }

/-- The mask of armed cams. -/
def Chip.armMask (c : Chip) : Word := (List.range 32).foldl (fun a n => a ||| bitW n (vget c.cams n).armed) 0

/-- A disarm of every cam from the extrapolator, which shows in CAM.EVT.auto_disarm (R273, R283). -/
def Chip.autoDisarm (c : Chip) : Chip := if c.armMask = 0 then c else c.disarmAll.setCamEvt 6

/-- The extrapolator enters STOPPED with Q and N frozen; NONE stays (Table CAM-1). -/
def Chip.freezePos (c : Chip) : Chip :=
  if c.moving then { c with pos := { c.pos with st := .stopped, frozenQ := c.look.getD 0, frozenN := c.posNow } } else c

/-- Free breakpoints of the cam table memory (R276). -/
def Chip.tabFree (c : Chip) : Nat := 32768 - (c.cams.toList.map fun k => k.table.length + k.shadow.length).sum

/-- The angle of a capture record at time t (R287). -/
def Chip.captureAngle (c : Chip) (t : BitVec 64) : Word :=
  match c.pos.st with
  | .none => 0
  | .stopped => c.pos.frozenQ.setWidth 32
  | _ => (c.pos.at t).setWidth 32

end Sys2Proof.Machine
end

