-- ==== Sys2Proof/Machine/Engine.lean ====
section
/-!
DEFINITION. The instruction engine: queue slots, checks 1 to 3 of R146, issue, retirement, completion rings, waits,
routines and the ends of transactions (R145 to R177).
-/
namespace Sys2Proof.Machine

/-- How the body of an instruction ends: with a status and a result, with a wait, or with nothing more to do. -/
inductive Done where
  | done (st : Byte) (res : DWord) (c : Chip)
  | wait (k : WaitKind) (t : BitVec 64) (res : BitVec 64) (c : Chip)
  | hold (c : Chip)

/-- The body of an opcode: checks 4 to 9 of R146 and the effect. -/
abbrev Body := Queue → Insn → Die → Chip → Done

/-- A body that ends with a status and no change. -/
def Done.fail (st : Byte) (c : Chip) : Done := .done st 0 c

/-- A queue's state. -/
def Chip.queue (c : Chip) (q : Queue) : QState := vget c.eng.queues q.val

/-! ### Stores that Q5 may make (R129, Table PRT-6) -/

/-- The bits of an address's register that are W1C. -/
def w1cReg (a : Nat) : Bool :=
  let o := a % 0x10000
  match a / 0x10000 with
  | 1 => o == 8
  | 2 => 0x100 ≤ o && o % 0x100 == 8
  | 4 => o == 8
  | 8 => o == 8
  | 10 => o == 0x1444
  | 11 => o == 8
  | 12 => o == 0x30
  | 13 => o == 0x20
  | 14 => o == 8
  | 15 => o == 0x18
  | 16 => o == 0x20
  | 17 => 0x100 ≤ o && (o % 0x40 == 0x10 || o % 0x40 == 0x20)
  | 18 => o == 0xC || o == 0x10
  | 19 => o == 8
  | 20 => o == 0xC
  | _ => false

/-- A store to this word is one Q5 may make: the CLK, LNK, FLT, LIC, PWR and MGT blocks, W1C fields, the store window
(Table PRT-6), and the management port's own reset, which Chapter 4 has complete OK (log entry 14). -/
def q5Store (a : Nat) (v : Word) : Bool :=
  (a < 0x150000 && [1, 2, 18, 16, 19, 5].contains (a / 0x10000)) || w1cReg a
    || (0x30000000 ≤ a && a < 0x30040000) || (a == 0x70000 && v &&& 7 == 2)

/-- Check 2 of R146 for an ST from Q5: every word it writes is one that Table PRT-6 allows. -/
def q5May (f : Insn) : Bool :=
  let a := f.tgt.toNat
  q5Store a (f.op.extractLsb' 0 32) && (!f.ext.getLsbD 0 || q5Store (a + 4) (f.op.extractLsb' 32 32))

/-! ### Slots (R35, R147, R113) -/

/-- Slots of a queue. -/
def depth (q : Nat) : Nat := if q = 7 then 16 else 32

/-- Occupied slots: instructions not issued, and the outermost CALL or a waiting head. -/
def QState.occupied (x : QState) : Nat := x.words.length + (if !x.calls.isEmpty || x.wait.isSome then 1 else 0)

/-- The words accepted from SPI for a queue that have not yet entered it (R113). -/
def Chip.accepted (c : Chip) (q : Nat) : Nat := (c.prt.cross.filter fun e => e.1 == 0 && e.2.2.1.val == q).length

/-- Free slots of a queue: neither occupied nor promised to a word accepted from SPI. -/
def Chip.freeSlots (c : Chip) (q : Nat) : Nat := depth q - (vget c.eng.queues q).occupied - c.accepted q

/-- XOFF or XON due on a port after the queue that its CMD frames feed has grown or shrunk (R96). -/
def Chip.flowControl (c : Chip) (p : Nat) : Chip :=
  let n := (vget c.eng.queues (p + 2)).occupied
  let x := vget c.ports p
  if x.st != 2 then c
  else if !x.xoffTx && 12 ≤ n then c.modPort p fun x =>
    { x with
      xoffTx := true
      txSeq := x.txSeq + 1
      sent := some ⟨6, 0, x.txSeq, 0, [], crc32 [6, 0, x.txSeq, 0], 0, []⟩ }
  else if x.xoffTx && n ≤ 4 then c.modPort p fun x =>
    { x with
      xoffTx := false
      txSeq := x.txSeq + 1
      sent := some ⟨7, 0, x.txSeq, 0, [], crc32 [7, 0, x.txSeq, 0], 0, []⟩ }
  else c

/-- Opcodes a reserved slot of Q7 may take (R148). -/
def reservedOp (w : QWord) : Bool :=
  [0x22, 0x33, 0x42, 0x71, 0x82, 0x07].contains (w.extractLsb' 120 8).toNat

/-- The kinds of the occupied slots, oldest first: those that `kinds` last names. -/
def QState.slots (x : QState) : List Bool := x.kinds.drop (x.kinds.length - x.occupied)

/-- The kind of the slot that a word enters noted. -/
def QState.note (b : Bool) (x : QState) : QState := { x with kinds := x.slots ++ [b] }

/-- A word at the tail of a queue whose slots have kinds. -/
def QState.put (w : QWord) (b : Bool) (x : QState) : QState := { x.note b with words := x.words ++ [w] }

/-- The reserved slots of Q7 in use. -/
def Chip.reserved7 (c : Chip) : Nat := (vget c.eng.queues 7).slots.count true

/-- The general slots of Q7 in use. -/
def Chip.general7 (c : Chip) : Nat := (vget c.eng.queues 7).occupied - c.reserved7

/-- The kind of slot a word may take in Q7: a general one while one is free, then a reserved one (R148). -/
def Chip.slotFor7 (c : Chip) (w : QWord) : Option Bool :=
  if c.general7 < 12 then some false
  else if c.reserved7 < 4 && reservedOp w then some true
  else none

/-- A word put into Q7 by the handler; a reserved slot counts (R148, R424). -/
def Chip.enqueue7 (c : Chip) (w : QWord) : Chip :=
  match c.slotFor7 w with
  | none => c
  | some r =>
    let c := c.modQ 7 (QState.put w r)
    if r then { c.setFltEvt 1 with flt := { (c.setFltEvt 1).flt with resUsed := satAdd16 c.flt.resUsed 1 } } else c

/-- A word put into Q5 while it has a free slot; `ptr` marks an access of the management pointer. -/
def Chip.enqueue5 (c : Chip) (ptr : Bool) (w : QWord) : Chip :=
  if 0 < c.freeSlots 5 then c.modQ 5 (QState.put w ptr) else c

/-- A word put at the tail of a queue while it has a free slot. -/
def Chip.enqueue (c : Chip) (q : Nat) (w : QWord) : Chip :=
  if q = 7 then c.enqueue7 w
  else if q = 5 then c.enqueue5 false w
  else if 0 < c.freeSlots q then
    let c := c.modQ q fun x => { x with words := x.words ++ [w] }
    if 2 ≤ q ∧ q ≤ 4 then c.flowControl (q - 2) else c
  else c

/-! ### Retirement (R157 to R160) -/

/-- The completion record of Table IMD-5a. -/
def completion (tag st : Byte) (q : Queue) (phase : Bool) (l : LineTime) (res : DWord) : QWord :=
  res ++ l.ticks ++ l.sec.extractLsb' 0 8 ++ (0 : BitVec 2) ++ BitVec.ofBool phase ++ BitVec.ofNat 3 q.val ++ st ++ tag

/-- A completion record written to the ring of its queue (R158). -/
def Chip.ringWrite (c : Chip) (q : Queue) (tag st : Byte) (res : DWord) : Chip :=
  let x := c.queue q
  let w := completion tag st q (x.rnext.getLsbD 6) c.lt res
  let c := c.putWord (0x28000000 + q.val * 0x400 + field x.rnext 0 6 * 16) w
  if x.rnext - x.rcons == 64 then
    (c.setEngEvt 2).modQ q.val fun x =>
      { x with rnext := x.rnext + 1, rcons := x.rcons + 1, ovf := satAdd16 x.ovf 1 }
  else c.modQ q.val fun x => { x with rnext := x.rnext + 1 }

/-- The counts and event bits of a status (R159, R163, R176, Table IMD-9). -/
def Chip.countStatus (c : Chip) (q : Queue) (st : Byte) : Chip :=
  let c := if failed st then (c.setEngEvt 4).modQ q.val fun x => { x with errs := satAdd16 x.errs 1 }
    else if st = St.ok then c else c.modQ q.val fun x => { x with warns := satAdd16 x.warns 1 }
  let c := if st = St.order then c.setEngEvt 3 else c
  if st = St.timeout then
    { c.setEngEvt 1 with eng := { (c.setEngEvt 1).eng with timeouts := satAdd c.eng.timeouts 1 } }
  else c

/-- Accesses issued to Q5 have not all retired. -/
def Chip.q5Pending (c : Chip) : Bool := (c.queue 5).occupied != 0

/-- A retirement shows on the IRP's response lines: done and the status, one retirement a cc (R332). -/
def Chip.irpDone (c : Chip) (st : Byte) : Chip :=
  if !c.scr.irpEn then c
  else if c.scr.done || !c.scr.resps.isEmpty then { c with scr := { c.scr with resps := c.scr.resps ++ [st] } }
  else { c with scr := { c.scr with done := true, irpResp := st } }

/-- The copies of a completion: MGT for Q5 (R129), the IRP response for Q6 (R332). -/
def Chip.copyCompletion (c : Chip) (q : Queue) (tag st : Byte) (res : DWord) : Chip :=
  if q = 5 then
    { c with mgt :=
        { c.mgt with
          lastSt := st
          lastTag := tag
          lastPend := c.q5Pending
          lastQ5 := true
          cmpl := completion tag st q ((c.queue 5).rnext.getLsbD 6) c.lt res } }
  else if q = 6 then
    c.irpDone st
  else c

/-- An instruction retires: counts, its record when cmpl is set or it failed, the chain (R155, R157, R159). -/
def Chip.retire (c : Chip) (q : Queue) (f : Insn) (st : Byte) (res : DWord) : Chip :=
  let c := c.copyCompletion q f.tag st res
  let c := if f.cmpl || failed st then c.ringWrite q f.tag st res else c
  let c := c.countStatus q st
  let c := c.modQ q.val fun x => { x with
    chain := f.chain && failed st
    calls := match x.calls with | [] => [] | fr :: r => { fr with count := fr.count + 1 } :: r }
  if 2 ≤ q.val ∧ q.val ≤ 4 then c.flowControl (q.val - 2) else c

/-! ### Changes of one unit in one cc by both paths (R133) -/

/-- The instruction of a note has not retired: it waits for its switch or for the store of its journal. -/
def Chip.notRetired (c : Chip) (n : UnitNote) : Bool :=
  match (c.queue n.queue).wait with
  | some w => w.f == n.f && (c.queue n.queue).rnext == n.slot
  | none => false

/-- An instruction that has retired OK in this cc completes STALE after all: its record tells it. One that has not retired
keeps its wait. -/
def Chip.restate (c : Chip) (n : UnitNote) : Chip :=
  if c.notRetired n then c
  else
    let a := 0x28000000 + n.queue.val * 0x400 + field n.slot 0 6 * 16
    let w : QWord := (((c.getWord a).setWidth 64 &&& ~~~(0xFF00 : BitVec 64)) ||| (St.stale.setWidth 64 <<< 8)).setWidth 128
    (if n.f.cmpl then c.putWord a w else c.ringWrite n.queue n.f.tag St.stale 0).countStatus n.queue St.stale

/-- How a management change of a unit that leads to a state of rank `r`, 0 the safest, meets what the data path has
done to it in this cc: none when it has done nothing, or while the core stands still; else whether the management change is
the safer, the same, or gives way. -/
def Chip.contest (c : Chip) (u : UnitId) (r : Nat) : Option (Ordering × UnitNote) :=
  if c.frozen then none
  else (c.memo.units.find? fun n => n.unit == u).map fun n => (compare r n.rank, n)

/-- The data path has changed units in this cc: of a unit it has changed before, the last change counts. -/
def Chip.noteUnits (c : Chip) (l : List UnitNote) : Chip :=
  if l.isEmpty then c
  else c.modMemo fun m => { m with units := (m.units.filter fun n => !(l.any fun x => x.unit == n.unit)) ++ l }

/-- How safe the state of a frond is (Table PRT-7). -/
def FrondState.rank : FrondState → Nat
  | .safe => 0
  | .reset => 1
  | .run => 2

/-- Some pin of a bank has been released. -/
def Chip.bankFreed (old new : Chip) (b : Nat) : Bool :=
  (List.range 16).any fun i => old.forced (16 * b + i) && !new.forced (16 * b + i)

/-- How safe a change of the clock is: a forced switch, a glitch-free one, a store to CLK.POLICY; to the crystal before to the
line (Table PRT-7). -/
def Clk.rank (old new : Clk) : Nat :=
  match new.switch with
  | some s => (if s.forced then 0 else 2) + (if s.line then 1 else 0)
  | none => if new.policy != old.policy then 4 else if new.st == .line then 3 else 2

/-- The units of Table PRT-7 that an instruction of the data path has changed, as R133 needs them. A start and a stop of a DMA
channel both give way to a drop (R413). -/
def Chip.changes (old new : Chip) (q : Queue) (f : Insn) : List UnitNote :=
  let moved (k : Nat) (u : Nat → UnitId) (gen : Chip → Nat → BitVec 16) (rank : Nat → Nat) : List UnitNote :=
    ((List.range k).filter fun n => gen old n != gen new n).map fun n =>
      ⟨u n, gen old n, rank n, q, f, (old.queue q).rnext⟩
  moved 32 .frond (fun c n => (vget c.fronds n).gen) (fun n => (vget new.fronds n).st.rank)
    ++ moved 32 .cam (fun c n => (vget c.cams n).gen) (fun n => if (vget new.cams n).armed then 1 else 0)
    ++ moved 12 .bank (fun c n => (vget c.banks n).gen) (fun n => if old.bankFreed new n then 1 else 0)
    ++ moved 12 .dma (fun c n => (vget c.dma n).gen) (fun _ => 1)
    ++ if old.clk.gen != new.clk.gen || old.clk.switch != new.clk.switch then
        [⟨.clock, old.clk.gen, old.clk.rank new.clk, q, f, (old.queue q).rnext⟩] else []

/-- A management change wins over the data path's of the same cc: the generation advances once, the data path's instruction
completes STALE. -/
def Chip.overrule (c : Chip) (n : UnitNote) : Chip :=
  (match n.unit with
    | .frond k => c.modFrond k fun x => { x with gen := n.gen + 1 }
    | .cam k => c.modCam k fun x => { x with gen := n.gen + 1 }
    | .bank k => c.modBank k fun x => { x with gen := n.gen + 1 }
    | .dma k => c.modDma k fun x => { x with gen := n.gen + 1 }
    | .clock => { c with clk := { c.clk with gen := n.gen + 1 } }).restate n

/-! ### Ends of transactions (R165, R167) -/

/-- The staged table of a cam freed. -/
def Chip.freeShadow (c : Chip) (n : Nat) : Chip := c.modCam n fun k => { k with shadow := [], shadowOk := false }

/-- The cams of the stage set freed and the set cleared (R325). -/
def Chip.cancelStage (c : Chip) : Chip :=
  match c.scr.stg with
  | none => c
  | some (_, _, cams) =>
    let c := (maskList cams).foldl Chip.freeShadow c
    let c := c.setScrEvt 3
    { c with scr := { c.scr with stg := none } }

/-- The claims of a context end (R167). -/
def Chip.unclaim (c : Chip) (k : Fin 4) : Chip :=
  { c with
    fronds := vmapi (fun _ x => if x.claim = some k then { x with claim := none } else x) c.fronds
    cams := vmapi (fun _ x => if x.claim = some k then { x with claim := none } else x) c.cams }

/-- A context becomes free and its queue holds no transaction. -/
def Chip.closeCtx (c : Chip) (k : Fin 4) : Chip :=
  let o := (vget c.eng.ctxs k.val).owner
  let c := (c.unclaim k).modCtx k.val fun _ => Ctx.reset
  c.modQ o.val fun x => { x with txn := if x.txn = some k then none else x.txn }

/-- A transaction aborts: edited shadows are marked incomplete (R213), staged tables freed, everything else staged
discarded (R165). -/
def Chip.abortCtx (c : Chip) (k : Fin 4) : Chip :=
  let x := vget c.eng.ctxs k.val
  let c := x.fronds.foldl (fun c s => if s.kind = 0 then
    c.modFrond s.frond fun f => { f with shadowOk := false, shadowSig := 0 } else c) c
  let c := x.cams.foldl (fun c s => if s.kind = 0 then c.freeShadow s.cam else c) c
  c.closeCtx k

/-- The entries of a transaction as Table IMD-7 counts them. -/
def Chip.entries (c : Chip) (k : Fin 4) : Nat :=
  let x := vget c.eng.ctxs k.val
  let pages := x.nv.map (fun e => (e.1 - 0x30000000) / 256)
  x.regs.length + (x.fronds.map (·.frond)).dedup.length
    + (x.cams.map fun s => if s.kind = 0 then (vget c.cams s.cam).shadow.length else 1).sum
    + x.edges.length + pages.dedup.length + x.ctrs.length

/-- The store port held by a queue from issue is given back. -/
def Chip.dropPort (c : Chip) (q : Queue) : Chip :=
  if c.eng.nvQ = some q && !(c.queue q).posted then { c with eng := { c.eng with nvQ := none } } else c

/-! ### Waits (R162, R163) -/

/-- The head of a queue begins a wait. -/
def Chip.beginWait (c : Chip) (q : Queue) (code : BitVec 8) (f : Insn) (k : WaitKind) (t res : BitVec 64) : Chip :=
  { c with eng := { c.eng with
      serial := c.eng.serial + 1
      queues := vmod c.eng.queues q.val fun x => { x with wait := some ⟨k, code, f, t, c.eng.serial, res⟩ } } }

/-- The wait of a queue ends without retirement. -/
def Chip.endWait (c : Chip) (q : Queue) : Chip := c.modQ q.val fun x => { x with wait := none }

/-- What the end of a body leaves. An instruction that writes line time retires at the time before its write (R102). -/
def Chip.finish (q : Queue) (code : BitVec 8) (f : Insn) (l : LineTime) : Done → Chip
  | .done st res c => { { c with lt := l }.retire q f st res with lt := c.lt }
  | .wait k t res c => c.beginWait q code f k t res
  | .hold c => c

/-- The waiting head of a queue retires with a status. -/
def Chip.retireWait (c : Chip) (q : Queue) (st : Byte) (res : DWord) : Chip :=
  match (c.queue q).wait with
  | none => c
  | some w => (c.endWait q).retire q w.f st res

/-- The records beyond the first `n` describe an instruction. -/
def tellRecords (n : Nat) (info : BitVec 32) (l : List LicRec) : List LicRec :=
  l.take n ++ (l.drop n).map fun r => if r.info = 0 then { r with info := info } else r

/-- The records a body made since `old` describe its instruction (Table LIC-1, bytes 28 to 31), in the order of their
numbers (R376). -/
def Chip.describe (c old : Chip) (info : BitVec 32) : Chip :=
  old.sortRecords { c with lic := { c.lic with
    buf := tellRecords old.lic.buf.length info c.lic.buf
    wait := tellRecords old.lic.wait.length info c.lic.wait } }

/-- The records of a body that retires describe it. -/
def Done.describe (old : Chip) (q : Queue) (code tag : Byte) : Done → Done
  | .done st res c => .done st res (c.describe old (insnInfo q code tag st))
  | d => d

/-- The position has been passed (R286): only with any_cycle = 0 and while positions move. -/
def Chip.passed (c : Chip) (f : Insn) : Bool :=
  !f.ext.getLsbD 0 && c.moving && decide (0 ≤ signedGap (c.look.getD 0) f.op)

/-- The position of a TXN.COMMIT.AT or a PLANE.SWAP.AT had passed at its issue (R180, R286, R489): a wait for a resource keeps
that in its `t`. -/
def Chip.lateAt (c : Chip) (q : Queue) (f : Insn) : Bool :=
  match (c.queue q).wait with
  | some w => w.t == 1
  | none => c.passed f

/-- The NV store port, rank 5, is free. -/
def Chip.portFree (c : Chip) : Bool := c.nvs.store.isNone && c.nvs.recl.isNone && c.eng.nvQ.isNone

/-- A queue's waiting commit holds the port. -/
def Chip.holdsPort (c : Chip) (q : Queue) : Bool := c.eng.nvQ == some q && !(c.queue q).posted

/-- The context holds NV pages or counters. -/
def Ctx.journal (x : Ctx) : Bool := !x.nv.isEmpty || !x.ctrs.isEmpty

/-- The commit of a queue's transaction needs the port: its context has journal content, and no posted store of the queue has
claimed the port before it. -/
def Chip.needsPort (c : Chip) (q : Queue) : Bool :=
  match c.txnOf q with
  | some k => (vget c.eng.ctxs k.val).journal && !(c.queue q).posted
  | none => false

/-- What a commit that waits for the lichen writer holds: the port, if its journal needs it and it is free (R35, R175). -/
def Chip.keepPort (c : Chip) (q : Queue) (code : Byte) : Chip :=
  if (code == 0x81 || code == 0x83) && c.needsPort q && c.portFree then { c with eng := { c.eng with nvQ := some q } }
  else c

/-- What an instruction that waits for the lichen writer keeps of its issue: 1 for a TXN.COMMIT.AT whose position had
passed. -/
def Chip.writerMark (c : Chip) (q : Queue) (code : Byte) (f : Insn) : BitVec 64 :=
  if code == 0x83 && c.lateAt q f then 1 else 0

/-- An instruction that must write a record takes the lichen writer last (R36, R175): while its records find no entry it
has changed nothing and waits for one, holding what it has acquired before. The records of a transfer that a DMA.GO starts
are its channel's. `t` and `r` are what the wait keeps. -/
def Done.takeWriter (old : Chip) (q : Queue) (code : Byte) (t r : BitVec 64) (d : Done) : Done :=
  let stuck (c : Chip) : Bool := old.lic.wait.length < c.lic.wait.length && 0 < old.lic.general
  let first : Done := .wait .licWriter t r (old.keepPort q code)
  match d with
  | .done st _ c => if stuck c && (code != 0x70 || failed st) then first else d
  | .wait _ _ _ c => if stuck c then first else d
  | .hold _ => d

/-- Instructions still executing, other than those that wait under R162: stores, recalls, fuse and flash operations and
drains (R154). -/
def WaitKind.executing : WaitKind → Bool
  | .storeDone | .recl | .fuseDone | .flashDone | .boundary | .drain | .switch | .staging | .clkFree => true
  | _ => false

/-- Work issued before the next instruction of a queue has not retired: an instruction that executes, or a CALL of another
queue (R154). The CALLs of its own queue enclose the instruction (log entry 93). -/
def Chip.executing (c : Chip) (q : Queue) : Bool :=
  (List.finRange 8).any fun k =>
    let x := c.queue k
    (k != q && !x.calls.isEmpty) || (match x.wait with | some w => w.kind.executing | none => false)

/-! ### Stores: the snapshot (R346, R347) -/

/-- The numbers below `n` whose bit is set. -/
def bitList {w : Nat} (v : BitVec w) (n : Nat) : List Nat := (List.range n).filter v.getLsbD

/-- The bits of a list of numbers. -/
def listBits (w : Nat) (l : List Nat) : BitVec w := l.foldl (fun a n => a ||| BitVec.ofNat w (2 ^ n)) 0

/-- The device address of a store page (Table NVS-1). -/
def pageAddr (p : Nat) : Nat := if p < 1024 then 0x30000000 + 256 * p else 0x38000000 + 256 * (p - 1024)

/-- The majority of the three copies of a counter (R343). -/
def Chip.ctrVal (c : Chip) (k : Nat) : BitVec 48 :=
  let a := vget (vget c.nvs.ctrs 0) k
  let b := vget (vget c.nvs.ctrs 1) k
  let d := vget (vget c.nvs.ctrs 2) k
  (a &&& b) ||| (a &&& d) ||| (b &&& d)

/-- A counter written in all three copies. -/
def Chip.setCtr (c : Chip) (k : Nat) (v : BitVec 48) : Chip :=
  { c with nvs := { c.nvs with ctrs := vmapi (fun _ x => vset x k v) c.nvs.ctrs } }

/-- A counter read: the majority, with the copies that differ repaired and counted (R343). -/
def Chip.readCtr (c : Chip) (k : Nat) : BitVec 48 × Chip :=
  let v := c.ctrVal k
  let bad := (c.nvs.ctrs.toList.filter fun x => vget x k != v).length
  let c := if bad = 0 then c else c.setCtr k v
  (v, { c with nvs := { c.nvs with ctrfix := satAdd c.nvs.ctrfix bad } })

/-- The dirty pages and counters (R346). -/
def Chip.dirtyPages (c : Chip) : List Nat := bitList c.nvs.dirtyP 1088
def Chip.dirtyCtrs (c : Chip) : List Nat := bitList c.nvs.dirtyC 64

/-- Words among the pages as the sequencer reads them: a correctable error is corrected in the SRAM, an uncorrectable one
poisons its word (Table NVS-2). -/
def Chip.scrubPages (c : Chip) (pages : List Nat) : Chip :=
  (pages.flatMap fun p => (List.range 16).map fun i => pageAddr p + 16 * i).foldl (fun c a =>
    match c.eccAt a with
    | 1 => (c.setEcc a 0).logCorrect a
    | 2 => c.poisonWord a 2
    | _ => c) c

/-- The snapshot cc of a store: the set enters the latches in ascending order (R348), its dirty marks clear and its in-flight
marks set. The set must not be empty. -/
def Chip.snapshot (c : Chip) (kind : BitVec 3) (pages ctrs : List Nat) (q : Option Queue) (k : Option (Fin 4)) : Chip :=
  let bp := listBits 1088 pages
  let bc := listBits 64 ctrs
  let pages := bitList bp 1088
  let ctrs := bitList bc 64
  let c := ctrs.foldl (fun c n => (c.readCtr n).2) (c.scrubPages pages)
  let latch := pages.foldl (fun m p => memCopy 0 c.mem (pageAddr p) m (256 * p) 256) ([] : Mem)
  let lecc := pages.foldl (fun m p => memCopy 0 c.ecc (pageAddr p / 16) m (16 * p) 16) ([] : Mem)
  { c with nvs := { c.nvs with
      store := some ⟨kind, pages, ctrs, latch, lecc, ctrs.map fun n => (n, c.ctrVal n), q, k⟩
      dirtyP := c.nvs.dirtyP &&& ~~~bp
      flyP := c.nvs.flyP ||| bp
      dirtyC := c.nvs.dirtyC &&& ~~~bc
      flyC := c.nvs.flyC ||| bc } }

/-- A posted store claims the port from its NV.STORE on (R175): the first queue whose routine still runs takes it as it
frees. -/
def Chip.claimPort (c : Chip) : Chip :=
  if c.portFree then
    match (List.finRange 8).find? fun q => (c.queue q).posted with
    | some q => { c with eng := { c.eng with nvQ := some q } }
    | none => c
  else c

/-- The first queue whose posted store may start: its routine has ended and no other queue holds the port. -/
def Chip.readyStore (c : Chip) : Option Queue :=
  (List.finRange 8).find? fun q =>
    (c.queue q).posted && (c.queue q).calls.isEmpty && (c.eng.nvQ.isNone || c.eng.nvQ == some q)

/-- The posted store of a queue starts (R174); with nothing dirty there is none to make. -/
def Chip.startStore (c : Chip) (q : Queue) : Chip :=
  let c := { c.modQ q.val fun x => { x with posted := false } with eng :=
    { (c.modQ q.val fun x => { x with posted := false }).eng with nvQ := none } }
  if c.dirtyPages.isEmpty && c.dirtyCtrs.isEmpty then c else c.snapshot 1 c.dirtyPages c.dirtyCtrs none none

/-- Posted stores start while the port is free, at most one of each queue. -/
def Chip.startStores : Nat → Chip → Chip
  | 0, c => c
  | n + 1, c =>
    match c.nvs.store.isNone && c.nvs.recl.isNone, c.readyStore with
    | true, some q => Chip.startStores n (c.startStore q)
    | _, _ => c

/-- The store of the last activation starts once the port is free (R308). -/
def Chip.startActStore (c : Chip) : Chip :=
  if c.prs.rtStore && !c.prs.rtPages.isEmpty && c.portFree then
    { c.snapshot 3 c.prs.rtPages [] none none with
      prs := { (c.snapshot 3 c.prs.rtPages [] none none).prs with rtPages := [] } }
  else c

/-- The next store that waits outside an instruction starts when the port is free: a posted store whose routine has
ended (R174), then the store of an activation (R308), unless a posted store claims the port first. -/
def Chip.startPosted (c : Chip) : Chip := (c.startStores 8).claimPort.startActStore

/-! ### Routines (R172 to R174) -/

/-- The CALL whose routine ends retires with the count of its instructions. -/
def Chip.popCall (c : Chip) (q : Queue) : Chip :=
  match (c.queue q).calls with
  | [] => c
  | fr :: r =>
    let c := (c.modQ q.val fun x => { x with calls := r }).retire q fr.f
      (if fr.corr then St.corrected else St.ok) (BitVec.ofNat 64 (fr.count % 2 ^ 32))
    if r.isEmpty then c.startPosted else c

/-- A routine unwinds: inner CALLs complete ABORTED, the outermost with the fault's status (R173). -/
def Chip.unwind (c : Chip) (q : Queue) (st : Byte) : Chip :=
  let frames := (c.queue q).calls
  let c := c.modQ q.val fun x => { x with calls := [], chain := false }
  let c := frames.mapIdx (fun i fr => (i + 1 == frames.length, fr.f)) |>.foldl
    (fun c e => c.retire q e.2 (if e.1 then st else St.aborted) 0) c
  c.startPosted

/-- The word a routine issues next: its address when the fetch is good, the status of the unwinding otherwise. -/
def Chip.fetchFault (c : Chip) (a : Nat) : Option Byte :=
  if 0x30040000 ≤ a then some St.range else if 2 ≤ c.eccAt a then some St.eccUncorr else none

/-- The fetch of a routine's next word fails and its record finds no entry: the fetch waits for the lichen writer (R36,
R175). -/
def Chip.fetchWaits (c : Chip) (q : Queue) : Bool :=
  match (c.queue q).calls with
  | [] => false
  | fr :: _ => c.fetchFault fr.next == some St.eccUncorr && !c.lic.room && decide (0 < c.lic.general)

/-- A routine whose next fetch fails unwinds before anything else of its queue issues (R173). -/
def Chip.fetchCheck (c : Chip) (q : Queue) : Chip :=
  match (c.queue q).calls with
  | [] => c
  | fr :: _ =>
    match c.fetchFault fr.next with
    | none => c
    | some st =>
      if c.fetchWaits q then c else (if st = St.eccUncorr then c.poisonWord fr.next 4 else c).unwind q st

/-- The next word is fetched: a correctable error is corrected and marks every CALL of the queue (Table NVS-2). -/
def Chip.fetched (c : Chip) (q : Queue) (a : Nat) : Chip :=
  let bad := c.eccAt a = 1
  let c := if bad then (c.setEcc a 0).logCorrect a else c
  c.modQ q.val fun x => { x with lost := 0, calls := match x.calls with
    | [] => []
    | fr :: r => if bad then ({ fr with next := a + 16 } :: r).map fun y => { y with corr := true }
        else { fr with next := a + 16 } :: r }

/-! ### Issue (R146, R151 to R155) -/

/-- The outcome of taking the next instruction of a queue. -/
inductive Taken where
  | yes (c : Chip)
  | no (c : Chip)

/-- Whether the word is the next of its queue to issue, and the chip with it taken. A word that finds its queue empty
enters and issues at once; a word behind others enters the tail. -/
def Chip.take (c : Chip) (q : Queue) (w : QWord) : Taken :=
  let c := c.fetchCheck q
  let x := c.queue q
  if x.halted || x.wait.isSome || c.fetchWaits q then .no (c.enqueue q.val w)
  else match x.calls with
    | fr :: _ =>
      if c.getWord fr.next = w then .yes (c.fetched q fr.next) else .no (c.enqueue q.val w)
    | [] =>
      match x.words with
      | [] => .yes (if q = 5 ∨ q = 7 then c.modQ q.val (QState.note false) else c)
      | h :: r => if h = w then .yes (c.modQ q.val fun x => { x with words := r, lost := 0 }) else .no (c.enqueue q.val w)

/-- Checks 1 to 3 of R146: the status of the first that fails. -/
def Chip.precheck (c : Chip) (o : OpInfo) (q : Queue) (f : Insn) : Option Byte :=
  if !o.named f then some St.illegal
  else if !o.permits q || (q = 5 && o.code == 0x11 && !q5May f) then some St.priv
  else if f.tx && (!o.tx || (c.txnOf q).isNone) then some St.illegal
  else none

/-- A fence holds an instruction back: earlier work has not retired (R154). -/
def Chip.fenced (c : Chip) (q : Queue) (code : BitVec 8) (f : Insn) : Bool :=
  (f.fence || code == 0x01) && c.executing q && !(c.queue q).fenceOk

/-- The opcodes other than those of Table ISA-9 that change a unit of Table PRT-7 as they execute: ST and RMW, FROND.SAFE,
FROND.RUN, PLANE.SWAP, PIN.SAFE, CAM.ARM, CAM.DISARM, DMA.GO, DMA.STOP, CLK.SEL, CLK.FORCE. -/
def changesUnits (code : Byte) : Bool :=
  [0x11, 0x12, 0x22, 0x23, 0x24, 0x33, 0x41, 0x42, 0x70, 0x71, 0xB0, 0xB1].contains code.toNat

/-- The units that an instruction of the data path changes are noted for a management change of the same cc (R133). -/
def Done.noting (old : Chip) (q : Queue) (code : Byte) (f : Insn) (d : Done) : Done :=
  if q == 5 || !changesUnits code then d
  else match d with
    | .done st res c => .done st res (c.noteUnits (old.changes c q f))
    | .wait k t res c => .wait k t res (c.noteUnits (old.changes c q f))
    | d => d

/-- The body of an instruction with the writer taken last, its changes noted, its records told of it. -/
def runBody (body : Body) (q : Queue) (f : Insn) (die : Die) (code : BitVec 8) (c : Chip) : Done :=
  (((body q f die c).takeWriter c q code (c.writerMark q code f) 0).noting c q code f).describe c q code f.tag

/-- An instruction that has issued: the chain, the fence, the checks, the body (R146, R154, R155). -/
def Chip.issue (c : Chip) (o : OpInfo) (q : Queue) (f : Insn) (die : Die) (body : Body) : Chip :=
  if (c.queue q).chain then c.retire q f St.aborted 0
  else if c.fenced q o.code f then c.beginWait q o.code f .fence 0 0
  else
    let c := c.modQ q.val fun x => { x with fenceOk := false }
    match c.precheck o q f with
    | some st => c.retire q f st 0
    | none => Chip.finish q o.code f c.lt (runBody body q f die o.code c)

/-- An instruction row: the chip after queue `q` is given the word of `o` and `f`. -/
def runInsn (o : OpInfo) (q : Queue) (f : Insn) (die : Die) (body : Body) (c : Chip) : Chip :=
  if !c.coreOn then c
  else if !c.engineOn then c.enqueue q.val (encodeWord o.code f)
  else match c.take q (encodeWord o.code f) with
    | .no c => c
    | .yes c => c.issue o q f die body

/-! ### Requests of the recovery handler (R148, R424) -/

/-- One request of the handler: into Q7 where a slot of the right kind is free, else it is counted once as waiting. -/
def Chip.handlerPut (c : Chip) (r : HReq) : Chip :=
  if (c.slotFor7 r.word).isSome then { c with flt := { c.flt with list := c.flt.list.erase r } }.enqueue 7 r.word
  else if r.late then c
  else
    let c := { c with flt := { c.flt with list := c.flt.list.map fun x => if x = r then { x with late := true } else x } }
    { c.setFltEvt 2 with flt := { (c.setFltEvt 2).flt with waited := satAdd16 c.flt.waited 1 } }

/-- The handler passes its requests to Q7. -/
def Chip.handlerPass (c : Chip) : Chip := c.flt.list.foldl Chip.handlerPut c

/-- A request is presented to the handler; one for the same unit and action coalesces. -/
def Chip.handlerAsk (c : Chip) (w : QWord) : Chip :=
  if c.flt.list.any fun r => r.word == w then c
  else { c with flt := { c.flt with list := c.flt.list ++ [⟨w, false⟩] } }

/-- The conditions of FLT.COND (R426). -/
def Chip.cond (c : Chip) : Word :=
  bitW 0 (!c.nvs.vcapOk) ||| bitW 1 c.scr.paused ||| bitW 2 (c.flt.dbl != 0)
    ||| bitW 3 (decide (240 < c.lic.unstored.length)) ||| bitW 4 (!c.flt.list.isEmpty)

/-- A condition that has risen since `old` sets FLT.EVT.cond and its history bit (R426). -/
def Chip.condEdge (old new : Chip) : Chip :=
  let up := new.cond &&& ~~~old.cond
  if up = 0 then new
  else
    let c := new.setFltEvt 0
    { c with flt := { c.flt with condhist := c.flt.condhist ||| up } }

end Sys2Proof.Machine
end

