-- ==== Sys2Proof/Machine/Regs.lean ====
section
/-!
DEFINITION. Reading the registers: every register of the tables of each chapter, by block (R7, R8, R23, R37). `none`
is an offset that no table defines.
-/
namespace Sys2Proof.Machine

/-! ### Key derivation (R296, R453) -/

/-- The bytes of an ASCII label. -/
def ascii (l : List Nat) : List Byte := l.map (BitVec.ofNat 8)

/-- A 32-bit number, most significant byte first. -/
def be32 (n : Nat) : List Byte := (natBytes n 4).reverse

/-- KDF of R296. -/
def kdf (key label ctx : List Byte) : List Byte :=
  hmacSha256 key (be32 1 ++ label ++ [0] ++ ctx ++ be32 256)

/-- The device key as HMAC key bytes, byte 0 least significant (R296). -/
def Die.keyBytes (d : Die) : List Byte := natBytes d.key.toNat 32

/-- The key hash KH with the label "BRSK-KHASH"; zeros while no key is programmed (R453). -/
def Die.keyHash (d : Die) : List Byte :=
  if d.keyProg then kdf d.keyBytes (ascii [0x42, 0x52, 0x53, 0x4B, 0x2D, 0x4B, 0x48, 0x41, 0x53, 0x48]) []
  else List.replicate 32 0

/-! ### One function per block -/

/-- SEC.FUSE (Table SEC-6). -/
def Chip.secFuse (c : Chip) (d : Die) : Word :=
  if c.pwr.fuseRead then
    bitW 0 d.sealed ||| bitW 1 d.keyProg ||| bitW 2 d.readback ||| bitW 3 d.jtagLock ||| bitW 4 c.sec.jtagHold
      ||| bitW 5 (!d.keyProg && d.key != 0) ||| bitW 6 c.sec.op.isSome
  else bitW 4 c.sec.jtagHold

/-- SYS.ID (Table PWR-7). -/
def Die.sysId (d : Die) : Word := if d.xb then 0x48400012 else 0x48400002

/-- CLK.STAT (Table CLK-7). -/
def Clk.stat (k : Clk) : Word :=
  (match k.st with | .qualifying => 0 | .line => 1 | .hold => 2 | .fallback => 3 | .forced => 4)
    ||| bitW 3 k.lineOk ||| bitW 4 k.cdrLock ||| bitW 5 k.xtalOk ||| bitW 6 k.lineLost ||| bitW 7 k.selPending
    ||| fldW 8 k.passes ||| fldW 16 k.gen

/-- SYS (Table PWR-7). -/
def sysVal (c : Chip) (d : Die) (o : Nat) : Option Word :=
  match o with
  | 0x00 => some d.sysId
  | 0x04 => some c.pwr.syscfg
  | 0x08 => some c.pwr.rstcause
  | 0x0C => some c.pwr.boott
  | 0x10 => some (fldW 0 c.pwr.straps)
  | _ => none

/-- CLK (Tables CLK-6 to CLK-10). -/
def clkVal (c : Chip) (o : Nat) : Option Word :=
  match o with
  | 0x00 => some c.clk.stat
  | 0x04 => some c.clk.policy
  | 0x08 => some c.clk.evt
  | 0x0C => some c.clk.inten
  | 0x10 => some (fldW 0 c.clk.qerr ||| fldW 16 c.clk.windows)
  | 0x14 => some (c.clk.holdCnt.extractLsb' 0 32)
  | 0x18 => some c.clk.holds
  | 0x1C => some c.clk.gate
  | 0x20 => some (fldW 0 (c.clk.holdCnt.extractLsb' 32 16))
  | _ => none

/-- One port of LNK (Table LNK-10). -/
def portVal (c : Chip) (p o : Nat) : Option Word :=
  let x := vget c.ports p
  match o with
  | 0x00 => some x.ctrl
  | 0x04 => some (fldW 0 x.st ||| bitW 2 x.xoffRx ||| bitW 3 x.xoffTx ||| bitW 4 (p == 0 && c.lt.aligned)
      ||| fldW 8 x.lastHop)
  | 0x08 => some x.evt
  | 0x0C => some x.inten
  | 0x10 => some x.crcerr
  | 0x14 => some x.codeerr
  | 0x18 => some x.drop
  | 0x1C => some x.seqgap
  | 0x20 => some x.delay
  | 0x24 => some x.offset
  | 0x28 => some x.asym
  | 0x2C => some x.rxlast
  | 0x30 => some x.latefwd
  | _ => none

/-- LNK (Table LNK-9). -/
def lnkVal (c : Chip) (o : Nat) : Option Word :=
  if o = 0 then some c.syncper
  else if o = 4 then some c.lnkfwd
  else if 0x100 ≤ o ∧ o < 0x400 then portVal c (o / 0x100 - 1) (o % 0x100)
  else none

/-- The holding register an access uses: the management port's for its pointer reads, its queue's otherwise (R101). -/
def Src.hold (s : Src) : Nat := if s.ptr then 8 else s.queue.val

/-- LT registers but for the snapshot itself, which `Chip.readReg` takes. -/
def ltVal (c : Chip) (s : Src) (o : Nat) : Option Word :=
  let h := if s.fromQ then vget c.lt.hold s.hold else c.lt.word
  match o with
  | 0x00 => some (h.extractLsb' 96 32)
  | 0x04 => some (h.extractLsb' 62 32)
  | 0x08 => some (fldW 0 (h.extractLsb' 94 2))
  | 0x0C => some (fldW 0 (h.extractLsb' 0 12))
  | 0x10 => some (c.lt.word.extractLsb' 0 32)
  | 0x14 => some (c.lt.word.extractLsb' 32 32)
  | 0x18 => some (c.lt.word.extractLsb' 64 32)
  | 0x1C => some (c.lt.word.extractLsb' 96 32)
  | 0x20 => some c.lt.wsec
  | 0x24 => some c.lt.wtickl
  | 0x28 => some (fldW 0 c.lt.wtickh)
  | 0x2C => some (bitW 1 c.lt.alignEn)
  | 0x30 => some c.lt.slew
  | _ => none

/-- SPI (Table PRT-9). -/
def spiVal (c : Chip) (o : Nat) : Option Word :=
  match o with
  | 0x00 => some c.spi.ctrl
  | 0x04 => some (natW 0 (c.freeSlots 0) ||| natW 6 (c.freeSlots 1) ||| fldW 24 c.spi.lastAcc)
  | 0x08 => some c.spi.evt
  | 0x0C => some c.spi.inten
  | 0x10 => some c.spi.accept
  | 0x14 => some c.spi.refuse
  | 0x18 => some c.spi.frmerr
  | _ => none

/-- MGT.LAST (Table PRT-10). -/
def Chip.mgtLast (c : Chip) : Word :=
  fldW 0 c.mgt.lastSt ||| fldW 8 c.mgt.lastTag ||| bitW 16 c.q5Pending ||| bitW 17 c.mgt.lastQ5

/-- MGT (Table PRT-10). -/
def mgtVal (c : Chip) (o : Nat) : Option Word :=
  match o with
  | 0x00 => some (fldW 0 c.mgt.addr)
  | 0x10 => some (fldW 0 c.mgt.expGen ||| bitW 16 c.mgt.expValid)
  | 0x20 => some (c.mgt.iw.extractLsb' 0 32)
  | 0x24 => some (c.mgt.iw.extractLsb' 32 32)
  | 0x28 => some (c.mgt.iw.extractLsb' 64 32)
  | 0x2C => some (c.mgt.iw.extractLsb' 96 32)
  | 0x30 => some 0
  | 0x34 => some c.mgtLast
  | 0x40 => some (c.mgt.cmpl.extractLsb' 0 32)
  | 0x44 => some (c.mgt.cmpl.extractLsb' 32 32)
  | 0x48 => some (c.mgt.cmpl.extractLsb' 64 32)
  | 0x4C => some (c.mgt.cmpl.extractLsb' 96 32)
  | 0x50 => some c.mgt.nacks
  | 0x54 => some c.mgt.stale
  | _ => none

/-- JTG (Table PRT-11). -/
def jtgVal (c : Chip) (d : Die) (o : Nat) : Option Word :=
  match o with
  | 0x00 => some 0x24840A73
  | 0x04 => some (bitW 0 (c.pwr.fuseRead && d.jtagLock) ||| bitW 1 c.sec.jtagHold ||| bitW 2 c.jtg.isc
      ||| bitW 3 c.jtg.test)
  | 0x08 => some (fldW 0 c.jtg.code ||| bitW 8 c.jtg.busy)
  | _ => none

/-- PRT (Table PRT-12). -/
def prtVal (c : Chip) (o : Nat) : Option Word :=
  if o = 0 then some 0
  else if o = 4 then some (fldW 0 c.prt.epoch)
  else if 0x10 ≤ o ∧ o < 0x28 then some (vget c.prt.drop ((o - 0x10) / 4))
  else if 0x30 ≤ o ∧ o < 0x3C then some (vget c.prt.part ((o - 0x30) / 4))
  else none

/-- A mask of queues with a property, at bit `n`. -/
def qMask (c : Chip) (n : Nat) (p : QState → Bool) : Word :=
  (List.range 8).foldl (fun a q => a ||| bitW (n + q) (p (vget c.eng.queues q))) 0

/-- ENG.TXNn (Table IMD-9). -/
def Chip.txnReg (c : Chip) (k : Nat) : Word :=
  let x := vget c.eng.ctxs k
  if x.isOpen then
    bitW 0 true ||| natW 1 x.owner.val ||| bitW 4 x.waiting ||| bitW 5 x.storing ||| natW 8 x.regs.length
      ||| natW 16 (x.nv.map fun e => (e.1 - 0x30000000) / 256).dedup.length
  else 0

/-- The head of a queue waits under R162; one that still executes does not. -/
def QState.waiting (x : QState) : Bool := match x.wait with | some w => !w.kind.executing | none => false

/-- ENG (Table IMD-9). -/
def engVal (c : Chip) (o : Nat) : Option Word :=
  let q (b : Nat) := vget c.eng.queues ((o - b) / 4)
  if o = 0 then some (qMask c 0 (fun x => x.occupied != 0) ||| qMask c 8 (·.halted) ||| qMask c 16 QState.waiting
    ||| (List.range 4).foldl (fun a k => a ||| bitW (24 + k) (vget c.eng.ctxs k).isOpen) 0)
  else if o = 0x04 then some c.eng.waitmax
  else if o = 0x08 then some c.eng.evt
  else if o = 0x0C then some c.eng.inten
  else if o = 0x10 then some (c.eng.flags.extractLsb' 0 32)
  else if o = 0x14 then some (c.eng.flags.extractLsb' 32 32)
  else if o = 0x18 then some c.eng.circles
  else if o = 0x1C then some c.eng.timeouts
  else if o < 0x40 then some (fldW 0 (q 0x20).rcons)
  else if o < 0x60 then some (fldW 0 (q 0x40).rnext ||| fldW 16 (q 0x40).ovf)
  else if o < 0x80 then some (fldW 0 (q 0x60).errs ||| fldW 16 (q 0x60).warns)
  else if o < 0x100 then some (vget c.eng.evtsrc ((o - 0x80) / 4))
  else if o < 0x110 then some (c.txnReg ((o - 0x100) / 4))
  else none

/-- Whether the status registers show forces: from the end of start-up on (log entry 18). -/
def Chip.showsForces (c : Chip) : Bool := c.pwr.pgood && c.pwr.step == 0

/-- FRD.STATn (Table FRD-12). -/
def Chip.frdStat (c : Chip) (n : Nat) : Word :=
  let f := vget c.fronds n
  (match f.st with | .run => 0 | .safe => 1 | .reset => 2) ||| bitW 2 f.plane ||| bitW 3 f.activeOk
    ||| bitW 4 f.shadowOk ||| bitW 5 f.shadowBusy ||| bitW 6 f.claim.isSome
    ||| natW 7 (match f.claim with | some k => k.val | none => 0)
    ||| bitW 9 (c.scr.irpEn && c.scr.irpMast.toNat == n) ||| bitW 10 (c.showsForces && c.safeForce n) ||| fldW 16 f.gen

/-- A mask of fronds with a property. -/
def Chip.frdMask (c : Chip) (p : Frond → Bool) : Word :=
  (List.range 32).foldl (fun a n => a ||| bitW n (p (vget c.fronds n))) 0

/-- FRD (Table FRD-11). -/
def frdVal (c : Chip) (o : Nat) : Option Word :=
  if o < 0x80 then some (c.frdStat (o / 4))
  else if o < 0x100 then some (fldW 0 (vget c.fronds ((o - 0x80) / 4)).pol)
  else if o < 0x130 then some (vget c.banks ((o - 0x100) / 4)).safest
  else if 0x140 ≤ o ∧ o < 0x170 then
    let b := (o - 0x140) / 4
    some ((List.range 16).foldl (fun a i => a ||| bitW i (c.showsForces && c.forced (16 * b + i))) 0
      ||| fldW 16 (vget c.banks b).gen)
  else if o = 0x180 then some (c.frdMask fun f => f.st == .run)
  else if o = 0x184 then some (c.frdMask fun f => f.st == .safe)
  else if o = 0x188 then some (c.frdMask fun f => f.st == .reset)
  else if o = 0x18C then some (c.frdMask fun f => f.shadowOk)
  else none

/-- EDG (Tables EDG-7, EDG-8). -/
def edgVal (c : Chip) (o : Nat) : Option Word :=
  let p := vget c.pins (o % 0x400 / 4)
  let inPins := o % 0x400 < 0x300
  if o < 0x400 then if inPins then some p.cfg else none
  else if o < 0x800 then if inPins then some p.src else none
  else if o < 0xC00 then if inPins then some p.bind else none
  else if o < 0x1000 then if inPins then some p.boff else none
  else if o < 0x1400 then if inPins then
    some (natW 0 p.q.length ||| bitW 4 p.armed ||| bitW 5 (p.tcu != 0) ||| fldW 6 p.lvl
      ||| bitW 8 (c.showsForces && c.forced (o % 0x400 / 4))) else none
  else if o < 0x1430 then
    let b := vget c.banks ((o - 0x1400) / 4)
    some (bitW 0 b.calOk ||| bitW 1 b.lock ||| fldW 8 b.resid ||| fldW 16 b.passes)
  else match o with
    | 0x1440 => some c.edg.calctrl
    | 0x1444 => some c.edg.evt
    | 0x1448 => some c.edg.inten
    | 0x144C => some c.edg.late
    | 0x1450 => some c.edg.flushed
    | 0x1454 => some c.edg.skip
    | 0x1458 => some c.edg.miss
    | _ => none

/-- CAP (Table EDG-9). -/
def capVal (c : Chip) (o : Nat) : Option Word :=
  let b := vget c.banks (o % 0x40 / 4)
  let inB := o % 0x40 < 0x30
  match o with
  | 0x00 => some (fldW 0 c.edg.wptr)
  | 0x04 => some (fldW 0 c.edg.rptr)
  | 0x08 => some c.edg.cevt
  | 0x0C => some c.edg.cinten
  | _ =>
    if o < 0x40 ∨ 0x180 ≤ o ∨ !inB then none
    else if o < 0x80 then some (natW 0 b.fifo.length ||| fldW 16 b.seq)
    else if o < 0xC0 then some b.ovf
    else if o < 0x100 then some b.rate
    else if o < 0x140 then some b.hold
    else some ((List.range 16).foldl (fun a i => a ||| fldW (2 * i) (vget c.pins (16 * (o % 0x40 / 4) + i)).tcu) 0)

/-- The four words of a 128-bit register. -/
def quadVal (w : QWord) (o : Nat) : Option Word := some (w.extractLsb' (8 * (o % 16)) 32)

/-- CAM (Tables CAM-4 to CAM-6). -/
def camVal (c : Chip) (o : Nat) : Option Word :=
  if o < 0x100 then
    match o with
    | 0x00 => some ((match c.pos.st with | .none => 0 | .tracking => 1 | .coasting => 2 | .stopped => 3)
        ||| bitW 2 (c.pos.v.toInt < 0))
    | 0x04 => some c.pos.cfg
    | 0x30 => some c.pos.evt
    | 0x34 => some c.pos.inten
    | 0x38 => some c.pos.resyncs
    | 0x3C => some c.pos.vrej
    | 0x40 => some c.armMask
    | 0x44 => some (natW 0 (c.tabFree % 65536))
    | 0x48 => some c.pos.ecclog
    | _ =>
      if 0x10 ≤ o ∧ o < 0x20 then quadVal ((if c.pos.st == .none then (0 : DWord) else c.pos.v) ++ c.posNow) o
      else if 0x20 ≤ o ∧ o < 0x30 then quadVal (c.pos.ts ++ c.pos.p0) o
      else none
  else if o < 0x900 then
    let k := vget c.cams ((o - 0x100) / 0x40)
    match o % 0x40 with
    | 0x00 => some (bitW 0 k.armed ||| bitW 1 k.tabOk ||| bitW 2 k.shadowOk ||| bitW 3 k.claim.isSome
        ||| natW 4 (match k.claim with | some x => x.val | none => 0) ||| bitW 6 k.latch.isSome
        ||| natW 7 k.waiting.length ||| fldW 16 k.gen)
    | 0x04 => some k.cfg
    | 0x08 => some (natW 0 k.table.length)
    | 0x0C => some (natW 0 k.shadow.length)
    | 0x10 => some k.off
    | 0x14 => some k.pend
    | 0x18 => some k.fire
    | 0x1C => some k.coll
    | 0x20 => some k.drop
    | _ => if 0x30 ≤ o % 0x40 then quadVal k.last o else none
  else none

/-- PRS.STAT (Table PRS-10). -/
def Prs.stat (p : Prs) : Word :=
  (match p.ldr with | .boot => 0 | .user => 1 | .loader => 2) ||| bitW 2 p.actSlot.isSome
    ||| bitW 3 (p.actSlot.getD false)
    ||| (match p.staged with | some s => bitW 4 true ||| bitW 6 s.verified | none => 0) ||| bitW 5 p.stgSlot
    ||| bitW 7 p.varOk ||| bitW 9 p.op.isSome ||| bitW 10 p.rtStore

/-- PRS (Table PRS-9). -/
def prsVal (c : Chip) (o : Nat) : Option Word :=
  if 0x100 ≤ o ∧ o < 0x1C0 then
    let k := (o - 0x100) / 4
    some ((List.range 16).foldl (fun a i => a ||| fldW (2 * i) (memRead 0 c.prs.marks (16 * k + i))) 0)
  else match o with
    | 0x00 => some (c.prs.stat ||| bitW 8 (c.eng.queues.toList.any fun x =>
        match x.wait with | some w => w.kind == .staging | none => false))
    | 0x04 => some (match c.prs.bootpref with | some s => bitW 0 s ||| bitW 1 true | none => 0)
    | 0x08 => some c.prs.bootlog
    | 0x0C => some c.prs.actId
    | 0x10 => some c.prs.actBuild
    | 0x14 => some c.prs.stgId
    | 0x18 => some c.prs.stgBuild
    | 0x1C => some (c.prs.flashSt ||| bitW 8 c.prs.op.isSome)
    | 0x20 => some c.prs.evt
    | 0x24 => some c.prs.inten
    | 0x28 => some c.prs.flashCorr
    | _ => none

/-- The signature words of SCR.GOLDn; the shadow's reads 0 while it holds no complete image. -/
def Frond.gold (f : Frond) : QWord := (if f.shadowOk then f.shadowSig else 0) ++ f.golden

/-- SCR (Table CHG-7). -/
def scrVal (c : Chip) (o : Nat) : Option Word :=
  if 0x200 ≤ o ∧ o < 0x400 then quadVal (vget c.fronds ((o - 0x200) / 16)).gold o
  else if 0x180 ≤ o ∧ o < 0x200 then
    let f := vget c.fronds ((o - 0x180) / 4)
    some (fldW 0 f.check ||| bitW 2 f.waitBnd ||| fldW 3 f.gsrc ||| fldW 5 f.gvar ||| bitW 8 f.wasRun ||| fldW 16 f.mism)
  else if 0x100 ≤ o ∧ o < 0x180 then some (fldW 0 (vget c.fronds ((o - 0x100) / 4)).scrPol)
  else if 0x80 ≤ o ∧ o < 0xC0 then some (vget c.scr.irpRt ((o - 0x80) / 4))
  else if 0x40 ≤ o ∧ o < 0x80 then some (vget c.scr.irpGrp ((o - 0x40) / 4))
  else match o with
    | 0x00 => some (bitW 0 c.scr.paused ||| bitW 1 c.scr.onePass ||| fldW 2 c.scr.cur ||| bitW 7 c.scr.running.isSome
        ||| fldW 16 c.scr.passes)
    | 0x08 => some c.scr.evt
    | 0x0C => some c.scr.inten
    | 0x10 => some c.scr.mism
    | 0x14 => some c.scr.repairs
    | 0x18 => some c.scr.rfails
    | 0x1C => some c.scr.want
    | 0x20 => some (match c.scr.stg with | some (_, f, _) => f | none => 0)
    | 0x24 => some (match c.scr.stg with | some (_, _, m) => m | none => 0)
    | 0x28 => some (match c.scr.stg with | some (v, _, _) => fldW 0 v ||| bitW 3 true | none => 0)
    | 0x30 => some (bitW 0 c.scr.irpEn ||| fldW 1 c.scr.irpMast ||| fldW 8 c.scr.irpResp
        ||| bitW 16 (c.scr.irpEn && c.q6Busy) ||| bitW 17 (c.scr.irpEn && c.swapWait))
    | 0x34 => some c.scr.irpRej
    | _ => none

/-- NVS (Table NVS-10). -/
def nvsVal (c : Chip) (o : Nat) : Option Word :=
  let n := c.nvs
  match o with
  | 0x00 => some (bitW 0 n.store.isSome ||| bitW 1 n.recl.isSome ||| bitW 2 n.vcapOk ||| bitW 3 n.hostUnl
      ||| bitW 4 n.mgtUnl ||| bitW 5 n.hostOut ||| bitW 6 n.mgtOut
      ||| bitW 7 (c.eng.queues.toList.any (·.posted))
      ||| (match n.store with | some s => fldW 8 s.kind | none => 0))
  | 0x04 => some (fldW 0 n.bp ||| bitW 2 n.bpl)
  | 0x08 => some (fldW 0 n.hostMode ||| fldW 2 n.mgtMode ||| fldW 8 n.hostTry ||| fldW 12 n.mgtTry)
  | 0x0C => some n.gen
  | 0x10 => some (natW 0 c.dirtyPages.length ||| natW 16 c.dirtyCtrs.length)
  | 0x14 => some n.lastst
  | 0x18 => some n.evt
  | 0x1C => some n.inten
  | 0x20 => some n.ecclog
  | 0x24 => some n.poison
  | 0x28 => some n.ctrfix
  | 0x2C => some n.stores
  | _ => none

/-- LIC (Table LIC-5). -/
def licVal (c : Chip) (o : Nat) : Option Word :=
  let l := c.lic
  match o with
  | 0x00 => some (bitW 0 l.restored ||| bitW 1 l.pending ||| bitW 2 (decide (240 < l.unstored.length))
      ||| bitW 3 (decide (32 ≤ l.ffcount)) ||| bitW 4 c.clk.onLclk ||| natW 8 (min 255 l.unstored.length))
  | 0x04 => some l.last
  | 0x08 => some l.first
  | 0x0C => some 0
  | 0x10 => some l.next
  | 0x14 => some (natW 0 l.ffcount)
  | 0x18 => some l.coal
  | 0x1C => some l.badcell
  | 0x20 => some l.evt
  | 0x24 => some l.inten
  | _ => none

/-- DMA state code (Table DMA-3). -/
def DmaState.code : DmaState → Nat
  | .idle => 0 | .running => 1 | .draining => 2 | .halted => 3

/-- RUNNING or DRAINING. -/
def Dma.active (d : Dma) : Bool := d.st == .running || d.st == .draining

/-- DMA (Tables DMA-8, DMA-9). -/
def dmaVal (c : Chip) (o : Nat) : Option Word :=
  if o = 0 then
    some ((List.range 12).foldl (fun a i => a ||| bitW i (vget c.dma i).active) 0 ||| natW 16 c.credits)
  else if 0x100 ≤ o ∧ o < 0x400 then
    let d := vget c.dma ((o - 0x100) / 0x40)
    match o % 0x40 with
    | 0x00 => some d.src
    | 0x04 => some d.dst
    | 0x08 => some d.len
    | 0x0C => some d.cfg
    | 0x10 => some (bitW 0 d.active)
    | 0x14 => some (natW 0 d.st.code ||| fldW 8 d.last ||| fldW 16 d.gen)
    | 0x18 => some d.bytes
    | 0x1C => some d.rdbytes
    | 0x20 => some d.evt
    | 0x24 => some d.inten
    | 0x28 => some d.erraddr
    | 0x2C => some d.retries
    | 0x30 => some d.pos
    | _ => none
  else none

/-- FLT (Table FLT-10). -/
def fltVal (c : Chip) (o : Nat) : Option Word :=
  match o with
  | 0x00 => some c.intSrc
  | 0x04 => some c.dmaSrc
  | 0x08 => some c.cond
  | 0x0C => some c.flt.condhist
  | 0x10 => some c.flt.evt
  | 0x14 => some c.flt.inten
  | 0x18 => some (fldW 0 c.flt.resUsed ||| fldW 16 c.flt.waited)
  | 0x1C => some (fldW 0 c.flt.upFrond ||| fldW 16 c.flt.upsets)
  | _ => none

/-- PWR (Table PWR-8). A VCCAUX below the level of aux_warn is below that of power good too (R432, R433); the other terms follow
the supplies that the rows bring (DEDUCED, log entry 23). -/
def pwrVal (c : Chip) (o : Nat) : Option Word :=
  let p := c.pwr
  match o with
  | 0x00 => some (bitW 0 (p.pgood && !p.auxWarn) ||| bitW 1 p.pgood ||| bitW 2 (p.pgood && !p.auxWarn)
      ||| bitW 3 p.pgood ||| bitW 4 c.nvs.vcapOk
      ||| bitW 5 p.pfailN ||| bitW 6 p.resetN ||| bitW 7 p.safeN ||| fldW 8 p.step ||| bitW 11 p.auxWarn)
  | 0x04 => some (fldW 0 p.vio)
  | 0x08 => some p.evt
  | 0x0C => some p.inten
  | 0x10 => some (fldW 0 p.temp)
  | 0x14 => some p.tlim
  | _ => none

/-- A word of the key hash: byte 4k in bits [7:0]. -/
def Die.hashWord (d : Die) (k : Nat) : Word := BitVec.ofNat 32 (bytesNat ((d.keyHash.drop (4 * k)).take 4))

/-- SEC (Table SEC-6). -/
def secVal (c : Chip) (d : Die) (o : Nat) : Option Word :=
  match o with
  | 0x00 => some (c.secFuse d)
  | 0x04 => some (fldW 0 c.sec.locks)
  | 0x08 => some c.sec.viol
  | 0x0C => some c.sec.evt
  | 0x10 => some c.sec.inten
  | 0x14 => some c.sec.lastv
  | 0x18 => some c.sec.lastaddr
  | 0x1C => some (match c.sec.owner with
      | some q => bitW 0 true ||| natW 1 q.val ||| natW 4 c.sec.quarter
      | none => 0)
  | _ => if 0x20 ≤ o ∧ o < 0x40 then some (if c.pwr.fuseRead then d.hashWord ((o - 0x20) / 4) else 0) else none

/-- The value of the register at a 4-byte-aligned device address. -/
def Chip.regVal (c : Chip) (d : Die) (s : Src) (a : Nat) : Option Word :=
  let o := a % 0x10000
  match a / 0x10000 with
  | 0 => sysVal c d o
  | 1 => clkVal c o
  | 2 => lnkVal c o
  | 3 => ltVal c s o
  | 4 => spiVal c o
  | 5 => mgtVal c o
  | 6 => jtgVal c d o
  | 7 => prtVal c o
  | 8 => engVal c o
  | 9 => frdVal c o
  | 10 => edgVal c o
  | 11 => capVal c o
  | 12 => camVal c o
  | 13 => prsVal c o
  | 14 => scrVal c o
  | 15 => nvsVal c o
  | 16 => licVal c o
  | 17 => dmaVal c o
  | 18 => fltVal c o
  | 19 => pwrVal c o
  | 20 => secVal c d o
  | _ => none

/-- A register read with its side effects: the LT snapshot (R101) and the read of LIC.LAST (R390). -/
def Chip.readReg (c : Chip) (d : Die) (s : Src) (a : Nat) : Option (Word × Chip) :=
  let c := if s.fromQ && a == (if s.ptr then 0x30004 else 0x30000) then
      { c with lt := { c.lt with hold := vset c.lt.hold s.hold c.lt.word } }
    else if a == 0x100004 then { c with lic := { c.lic with coalSince := false } }
    else c
  (c.regVal d s a).map fun v => (v, c)

end Sys2Proof.Machine
end

