-- ==== Sys2Proof/Machine/Writes.lean ====
section
/-!
DEFINITION. Writing the registers: access types (Table SCO-3), register locks (R457), value checks of each chapter and
the actions a store starts.
-/
namespace Sys2Proof.Machine

/-- The outcome of a write: its status and the chip, which a failure changes only by a violation's counters. -/
abbrev Wr := Byte × Chip

/-- A W1C field cleared by the ones of a value. -/
def w1c (r v : Word) : Word := r &&& ~~~v

/-! ### Management generations (R132) -/

/-- A management change consumes MGT.EXPECT; it takes effect when the expected generation was valid and matches. An
access that would leave the unit as it stands counts as a change of it (DESIGN CHOICE, log entry 106). -/
def Chip.mgtExpect (c : Chip) (gen : BitVec 16) : Bool × Chip :=
  let good := c.mgt.expValid && c.mgt.expGen == gen
  (good, { c with mgt := { c.mgt with
      expValid := false
      stale := if good then c.mgt.stale else satAdd c.mgt.stale 1 } })

/-- The generation of a unit (Table PRT-7). -/
def Chip.unitGen (c : Chip) : UnitId → BitVec 16
  | .frond n => (vget c.fronds n).gen
  | .cam n => (vget c.cams n).gen
  | .bank n => (vget c.banks n).gen
  | .dma n => (vget c.dma n).gen
  | .clock => c.clk.gen

/-- A management change `g` of a unit whose generation is as MGT.EXPECT has it (R132). -/
def Chip.mgtAlone (c : Chip) (u : UnitId) (g : Chip → Chip) : Bool × Chip :=
  let (good, c) := c.mgtExpect (c.unitGen u)
  (good, if good then g c else c)

/-- A management change `g` of a unit that leads to a state of rank `r`, with R132 and R133 judged: expected at the
generation from before a change that the data path made in this cc, it acts when it is the safer, the generation
advanced once, and is done when it finds the unit in the state it leads to. -/
def Chip.mgtChange (c : Chip) (u : UnitId) (r : Nat) (g : Chip → Chip) : Bool × Chip :=
  match c.contest u r with
  | some (o, n) =>
    let (good, c') := c.mgtExpect n.gen
    if good && o == .lt then (true, (g c').overrule n)
    else if good && o == .eq && (g c').unitGen u == c'.unitGen u then (true, g c')
    else c.mgtAlone u g
  | none => c.mgtAlone u g

/-! ### A DMA channel dropped (R411) -/

/-- The drop of a channel: IDLE at once, buffered words discarded, counts undefined until the next DMA.GO, credits
returned, a draining DMA.STOP retired OK with result 0. -/
def Chip.dropDma (c : Chip) (ch : Nat) : Chip :=
  let d := vget c.dma ch
  if !d.active then c
  else
    let (v1, c) := c.free
    let (v2, c) := c.free
    let (v3, c) := c.free
    let c := { c with credits := c.credits + d.credits }
    let c := c.modDma ch fun d =>
      { d with
        st := .idle
        gen := d.gen + 1
        bytes := v1.setWidth 32
        rdbytes := v2.setWidth 32
        pos := v3.setWidth 32
        buf := []
        chk := []
        credits := 0
        fail := none
        tries := 0 }
    (List.range 8).foldl (fun c q =>
      match (vget c.eng.queues q).wait with
      | some w => if w.kind == .drain && w.t.toNat == ch then c.retireWait (Fin.ofNat 8 q) St.ok 0 else c
      | none => c) c

/-! ### Q5 from MGT.IGO (R129) -/

/-- A word pushed by MGT.IGO enters Q5 (R107, R129). -/
def Chip.pushQ5 (c : Chip) : Chip := c.enqueue 5 c.mgt.iw

/-! ### Link port enable (R98) -/

/-- A port leaves UP: the partly received frame is discarded, LNK.EVT.down sets, a record is written, the line port
clears aligned. `why` is byte 32 of the record. What the transmitter holds goes too, uncounted: frames to forward and
requests not answered (DESIGN CHOICE, log entry 105). -/
def Chip.leaveUp (c : Chip) (p why : Nat) : Chip :=
  if (vget c.ports p).st != 2 then c
  else
    let c := c.setLnkEvt p 1
    let c := if p = 0 then { c with lt := { c.lt with aligned := false } } else c
    let c := c.modPort p fun x => { x with fwdBuf := [], posBuf := none, rsp := [] }
    c.record 0x1301 6 p (ctxAt 32 why ||| ctxAt 36 (vget c.ports p).codeerr.toNat)

/-- The port leaves DOWN for TRAINING, or keeps its state. -/
def Chip.enablePort (c : Chip) (p : Nat) : Chip :=
  c.modPort p fun x => { x with ctrl := x.ctrl ||| 1, st := if x.st == 0 then 1 else x.st }

/-- The port enters DOWN. -/
def Chip.disablePort (c : Chip) (p : Nat) : Chip :=
  (c.leaveUp p 3).modPort p fun x => { x with ctrl := x.ctrl &&& ~~~1, st := 0 }

/-! ### Locks -/

/-- A write refused by a lock group (R457, Table SEC-5). -/
def Chip.lockedWrite (c : Chip) (s : Src) (a : Nat) : Wr :=
  (St.locked, c.violate s 0x3E01 0x0B (a / 0x10000) a)

/-- The fabric group is locked. -/
def Chip.fabricLocked (c : Chip) : Bool := c.sec.locks.getLsbD 0

/-! ### Writes by block -/

/-- A write of line time (LT.SET, apply): the slewer clears, its interval is 157 cc, source is 0x2 (R102). -/
def LineTime.written (l : LineTime) (sec : BitVec 32) (ticks : BitVec 34) : LineTime :=
  { l with sec := sec, ticks := ticks, slew := 0, interval := 157, slewCnt := 0, source := 2 }

/-- A write to SYS.CFG. -/
def wrSys (c : Chip) (o : Nat) (v : Word) : Wr :=
  if o = 4 then (St.ok, { c with pwr := { c.pwr with syscfg := v &&& 1 } }) else (St.ok, c)

/-- EDG.PINCFGp replaced: a change of mode advances the bank's generation once with the forces that follow (R131, R244). -/
def Chip.setPincfg (c : Chip) (p : Nat) (v : Word) : Chip :=
  let moved := v.extractLsb' 0 2 != (vget c.pins p).cfg.extractLsb' 0 2
  let c' := c.modPin p fun x => { x with cfg := v &&& 0x00FFFFFF }
  let c' := if moved then c'.modBank (p / 16) fun k => { k with gen := k.gen + 1 } else c'
  c.onceGen (c.settle c')

/-- A clock transition: the state, the generation, its event bits (R44). -/
def Chip.clkMove (c : Chip) (st : ClkState) (evt : Word) : Chip :=
  { c with clk :=
      { c.clk with
        st := st
        gen := c.clk.gen + 1
        evt := c.clk.evt ||| evt
        selPending := false } }

/-- Start-up has passed its clock decision (R46, R442). -/
def Chip.decided (c : Chip) : Bool := c.pwr.step == 0 || decide (5 < c.pwr.step.toNat)

/-- A glitch-free switch begun (Table CLK-3): four CCLK periods from cc0 to cc4. -/
def Chip.glitchFree (c : Chip) (line : Bool) (st : ClkState) (evt : Word) (by_ : SwitchBy) : Chip :=
  { c with clk := { c.clk with switch := some ⟨false, line, st, evt, c.clk.st, by_, 4⟩ } }

/-- QUALIFYING with the line good, outside start-up: the glitch-free switch to LINE (Table CLK-2). -/
def Chip.qualifyLine (c : Chip) : Chip :=
  if c.clk.st == .qualifying && c.clk.lineOk && c.decided && c.clk.switch.isNone then
    c.glitchFree true .line (bitW 3 true ||| bitW 4 true) .device
  else c

/-- FALLBACK with auto_return passes on to QUALIFYING at once (Table CLK-2). -/
def Chip.autoReturn (c : Chip) : Chip :=
  if c.clk.st == .fallback && c.clk.policy.getLsbD 1 then (c.clkMove .qualifying 0).qualifyLine else c

/-- CLK.POLICY takes a value: a new one advances the generation (R131). -/
def Chip.setPolicy (c : Chip) (v : Word) : Chip :=
  let c := if v = c.clk.policy then c else { c with clk := { c.clk with gen := c.clk.gen + 1 } }
  let c := { c with clk := { c.clk with policy := v }, mem := memPut 0 c.mem 0x38000000 v.toNat 4 }
  (c.dirty 1024).autoReturn

/-- A store to CLK.POLICY: lock, then the generation of a management store, then the value, which also enters page
1,024 (R47, R131, R344). -/
def wrPolicy (c : Chip) (s : Src) (a : Nat) (v : Word) : Wr :=
  let mgt := s.fromQ && s.queue == 5
  if c.sec.locks.getLsbD 1 then
    let c := if mgt then { c with mgt := { c.mgt with expValid := false } } else c
    c.lockedWrite s a
  else
    let (good, c) := if mgt then c.mgtChange .clock 4 (Chip.setPolicy · (v &&& 0x0000FF0F))
      else (true, c.setPolicy (v &&& 0x0000FF0F))
    (if good then St.ok else St.stale, c)

/-- A write to CLK. -/
def wrClk (c : Chip) (s : Src) (a : Nat) (v : Word) : Wr :=
  match a % 0x10000 with
  | 0x04 => wrPolicy c s a v
  | 0x08 => (St.ok, { c with clk := { c.clk with evt := w1c c.clk.evt v } })
  | 0x0C => (St.ok, { c with clk := { c.clk with inten := v &&& 0x1FF } })
  | 0x1C => (St.ok, { c with clk := { c.clk with gate := v &&& 1 } })
  | _ => (St.ok, c)

/-- LNK.CTRL.en set or cleared (R98). -/
def Chip.wrLnkCtrl (c : Chip) (p : Nat) (v : Word) : Chip :=
  let c := if v.getLsbD 0 then c.enablePort p else c.disablePort p
  c.modPort p fun x => { x with ctrl := v &&& 3 }

/-- A write to LNK. -/
def wrLnk (c : Chip) (o : Nat) (v : Word) : Wr :=
  if o = 0 then (St.ok, { c with syncper := v &&& 0xFFFF })
  else if o = 4 then (St.ok, { c with lnkfwd := v &&& 0xF })
  else
    let p := o / 0x100 - 1
    match o % 0x100 with
    | 0x00 => (St.ok, c.wrLnkCtrl p v)
    | 0x08 => (St.ok, c.modPort p fun x => { x with evt := w1c x.evt v })
    | 0x0C => (St.ok, c.modPort p fun x => { x with inten := v &&& 0x1FF })
    | 0x28 => (St.ok, c.modPort p fun x => { x with asym := v &&& 0xFFFF })
    | _ => (St.ok, c)

/-- Bit 0 applies the staged time, bit 1 is align_en (R93, R102). -/
def wrLtCtrl (c : Chip) (v : Word) : Wr :=
  let ticks : BitVec 34 := c.lt.wtickh ++ c.lt.wtickl
  if v.getLsbD 0 && 15999999999 < ticks.toNat then (St.range, c)
  else
    let l := if v.getLsbD 0 then c.lt.written c.lt.wsec ticks else c.lt
    let l := { l with alignEn := v.getLsbD 1, aligned := l.aligned && v.getLsbD 1 }
    (St.ok, if v.getLsbD 0 then c.withLt l else { c with lt := l })

/-- A write to LT. -/
def wrLt (c : Chip) (o : Nat) (v : Word) : Wr :=
  match o with
  | 0x20 => (St.ok, { c with lt := { c.lt with wsec := v } })
  | 0x24 => (St.ok, { c with lt := { c.lt with wtickl := v } })
  | 0x28 => (St.ok, { c with lt := { c.lt with wtickh := v.extractLsb' 0 2 } })
  | 0x2C => wrLtCtrl c v
  | _ => (St.ok, c)

/-- A write to SPI. -/
def wrSpi (c : Chip) (o : Nat) (v : Word) : Wr :=
  match o with
  | 0x00 => (St.ok, { c with spi := { c.spi with ctrl := v &&& 1 } })
  | 0x08 => (St.ok, { c with spi := { c.spi with evt := w1c c.spi.evt v } })
  | 0x0C => (St.ok, { c with spi := { c.spi with inten := v &&& 0x1F } })
  | _ => (St.ok, c)

/-- One word of MGT.IW replaced. -/
def setIw (w : QWord) (k : Nat) (v : Word) : QWord :=
  (w &&& ~~~((0xFFFFFFFF : QWord) <<< (32 * k))) ||| (v.setWidth 128 <<< (32 * k))

/-- A write to MGT: EXPECT sets valid, IGO pushes the instruction words. -/
def wrMgt (c : Chip) (o : Nat) (v : Word) : Wr :=
  if o = 0x10 then
    (St.ok, { c with mgt := { c.mgt with expGen := v.extractLsb' 0 16, expValid := true } })
  else if 0x20 ≤ o ∧ o < 0x30 then
    (St.ok, { c with mgt := { c.mgt with iw := setIw c.mgt.iw ((o - 0x20) / 4) v } })
  else if o = 0x30 then (St.ok, if v.getLsbD 0 then c.pushQ5 else c)
  else (St.ok, c)

/-- PRT.RESET: port-side resets (R106, Table PRT-1); the SPI front end. -/
def Chip.resetSpi (c : Chip) : Chip :=
  { c with spi := { c.spi with epoch := false, refused := false, armed := false, out := [] } }
/-- The I2C front end; the recorder snapshot of R388 is not part of it. -/
def Chip.resetMgt (c : Chip) : Chip :=
  { c with mgt := { c.mgt with out := [], stretch := false, more := [], rdLeft := 0, issued := false, cut := false } }
/-- The TAP: IDCODE selected, ISC mode and its code cleared (log entry 15); leaving test mode holds the outputs
(R137). -/
def Chip.resetJtag (c : Chip) : Chip :=
  let c := if c.jtg.test then c.settle { c.holdPins with jtg := { c.jtg with test := false } } else c
  { c with jtg := { c.jtg with ir := 0x004, idx := 0, slot := 0, dr := 0, isc := false, code := 0 } }

/-- A write to PRT.RESET. -/
def wrPrt (c : Chip) (o : Nat) (v : Word) : Wr :=
  if o = 0 then
    let c := if v.getLsbD 0 then c.resetSpi else c
    let c := if v.getLsbD 1 then c.resetMgt else c
    (St.ok, if v.getLsbD 2 then c.resetJtag else c)
  else (St.ok, c)

/-- A store to ENG.EVTSRCk: class and index within Table IMD-6 and reserved bits 0, else RANGE (R161). -/
def evtSrcOk (v : Word) : Bool :=
  let i := field v 0 8
  v.toNat < 4096 && match field v 8 4 with
    | 0 => i == 0 | 1 => i < 32 | 2 => i < 12 | 3 => i < 12 | 4 => i < 12 | 5 => i < 3 | 6 => 4 ≤ i && i < 32
    | _ => false

/-- A write to ENG.EVTSRCk. -/
def wrEvtSrc (c : Chip) (k : Nat) (v : Word) : Wr :=
  if evtSrcOk v then (St.ok, { c with eng := { c.eng with evtsrc := vset c.eng.evtsrc k v } }) else (St.range, c)

/-- A write to ENG. -/
def wrEng (c : Chip) (o : Nat) (v : Word) : Wr :=
  if o = 4 then
    let e := field v 0 6
    let p := field v 8 6
    if 10 ≤ e ∧ e ≤ 32 ∧ 10 ≤ p ∧ p ≤ 32 then (St.ok, { c with eng := { c.eng with waitmax := v &&& 0x3F3F } })
    else (St.range, c)
  else if o = 8 then (St.ok, { c with eng := { c.eng with evt := w1c c.eng.evt v } })
  else if o = 0xC then (St.ok, { c with eng := { c.eng with inten := v &&& 0x1F } })
  else if 0x20 ≤ o ∧ o < 0x40 then
    (St.ok, c.modQ ((o - 0x20) / 4) fun x => { x with rcons := v.extractLsb' 0 7 })
  else if 0x80 ≤ o ∧ o < 0x100 then wrEvtSrc c ((o - 0x80) / 4) v
  else (St.ok, c)

/-- FRD.POLn (R238, R242). -/
def wrFrdPol (c : Chip) (s : Src) (a n : Nat) (v : Word) : Wr :=
  if c.fabricLocked then c.lockedWrite s a
  else
    let p := v.extractLsb' 0 2
    let old := c
    let c := c.modFrond n fun f => { f with pol := p, gen := if f.pol = p then f.gen else f.gen + 1 }
    (St.ok, if old.safeForce n && !c.safeForce n then c.seatInit [n] else c)

/-- FRD.SAFESTb: a change advances the bank's generation (R241). -/
def wrSafest (c : Chip) (s : Src) (a b : Nat) (v : Word) : Wr :=
  if c.fabricLocked then c.lockedWrite s a
  else (St.ok, c.modBank b fun k => { k with safest := v, gen := if k.safest = v then k.gen else k.gen + 1 })

/-- A write to FRD. -/
def wrFrd (c : Chip) (s : Src) (a : Nat) (v : Word) : Wr :=
  let o := a % 0x10000
  if 0x80 ≤ o ∧ o < 0x100 then wrFrdPol c s a ((o - 0x80) / 4) v
  else if 0x100 ≤ o ∧ o < 0x130 then wrSafest c s a ((o - 0x100) / 4) v
  else (St.ok, c)

/-- EDG.PINCFGp: mode codes, lock, the armed EPU, the bank's generation (R243, R244). -/
def wrPincfg (c : Chip) (s : Src) (a p : Nat) (v : Word) : Wr :=
  let x := vget c.pins p
  let mode := x.cfg.extractLsb' 0 2
  if v.getLsbD 1 then (St.range, c)
  else if c.fabricLocked then c.lockedWrite s a
  else if v.extractLsb' 0 2 != mode && x.armed then (St.busy, c)
  else (St.ok, c.setPincfg p v)

/-- A write to EDG.PINSRCp. -/
def wrPinsrc (c : Chip) (s : Src) (a p : Nat) (v : Word) : Wr :=
  if c.fabricLocked then c.lockedWrite s a
  else (St.ok, c.settle (c.modPin p fun x => { x with src := v &&& 0x007FFFFF }))

/-- A width in ticks: unit 0 tick, 1 cc, 2 µs (R255). -/
def widthTicks (unit w : Nat) : Nat := if unit = 0 then w else if unit = 1 then 64 * w else 16000 * w

/-- EDG.BINDp takes the value (R261). -/
def bindOk (v : Word) : Bool :=
  let unit := field v 8 2
  let w := field v 10 20
  unit != 3 && !(0 < w && widthTicks unit w < 16) && !(v.getLsbD 7 && w == 0)

/-- A write to EDG.BINDp. -/
def wrBind (c : Chip) (p : Nat) (v : Word) : Wr :=
  if bindOk v then (St.ok, c.modPin p fun x => { x with bind := v &&& 0x3FFFFFFF }) else (St.range, c)

/-- cal_ok of every bank: the replica locked and every pin measured, while bg_en = 1 (R253). -/
def Chip.calUpdate (c : Chip) : Chip :=
  { c with banks := vmapi (fun b k =>
      { k with calOk := c.edg.calctrl.getLsbD 0 && k.lock &&
          (List.range 16).all fun i => (vget c.pins (16 * b + i)).measured }) c.banks }

/-- EDG.CALCTRL: clearing bg_en clears every cal_ok (R253). -/
def wrCalctrl (c : Chip) (v : Word) : Wr :=
  let lost := !v.getLsbD 0 && c.banks.toList.any (·.calOk)
  let c' := { c with edg := { c.edg with calctrl := v &&& 1 } }.calUpdate
  (St.ok, if lost then c'.setEdgEvt 3 else c')

/-- A write to EDG. -/
def wrEdg (c : Chip) (s : Src) (a : Nat) (v : Word) : Wr :=
  let o := a % 0x10000
  let p := o % 0x400 / 4
  if o < 0x400 then wrPincfg c s a p v
  else if o < 0x800 then wrPinsrc c s a p v
  else if o < 0xC00 then wrBind c p v
  else if o < 0x1000 then (St.ok, c.modPin p fun x => { x with boff := v })
  else match o with
    | 0x1440 => wrCalctrl c v
    | 0x1444 => (St.ok, { c with edg := { c.edg with evt := w1c c.edg.evt v } })
    | 0x1448 => (St.ok, { c with edg := { c.edg with inten := v &&& 0xF } })
    | _ => (St.ok, c)

/-- CAP.RPTR may not run ahead of CAP.WPTR nor fall a ring behind (R266). -/
def wrRptr (c : Chip) (v : Word) : Wr :=
  let r := v.extractLsb' 0 15
  if 16384 < (c.edg.wptr - r).toNat then (St.range, c) else (St.ok, { c with edg := { c.edg with rptr := r } })

/-- A write to CAP. -/
def wrCap (c : Chip) (o : Nat) (v : Word) : Wr :=
  match o with
  | 0x04 => wrRptr c v
  | 0x08 => (St.ok, { c with edg := { c.edg with cevt := w1c c.edg.cevt v } })
  | 0x0C => (St.ok, { c with edg := { c.edg with cinten := v &&& 0xF } })
  | _ => (St.ok, c)

/-- A write to CAM. -/
def wrCam (c : Chip) (o : Nat) (v : Word) : Wr :=
  match o with
  | 0x04 => if 30 < field v 16 5 then (St.range, c) else (St.ok, { c with pos := { c.pos with cfg := v &&& 0x001F01FF } })
  | 0x30 => (St.ok, { c with pos := { c.pos with evt := w1c c.pos.evt v } })
  | 0x34 => (St.ok, { c with pos := { c.pos with inten := v &&& 0x7F } })
  | _ =>
    if 0x100 ≤ o ∧ o % 0x40 = 4 then (St.ok, c.modCam ((o - 0x100) / 0x40) fun k => { k with cfg := v &&& 0xFFFF })
    else (St.ok, c)

/-- A write to PRS. -/
def wrPrs (c : Chip) (o : Nat) (v : Word) : Wr :=
  match o with
  | 0x20 => (St.ok, { c with prs := { c.prs with evt := w1c c.prs.evt v } })
  | 0x24 => (St.ok, { c with prs := { c.prs with inten := v &&& 0x7F } })
  | _ => (St.ok, c)

/-- SCR.POLn: a change advances the frond's generation (R337). -/
def wrScrPol (c : Chip) (s : Src) (a n : Nat) (v : Word) : Wr :=
  if c.fabricLocked then c.lockedWrite s a
  else
    let p := v.extractLsb' 0 2
    (St.ok, c.modFrond n fun f => { f with scrPol := p, gen := if f.scrPol = p then f.gen else f.gen + 1 })

/-- SCR.REPAIR: a 1 requests a repair of a frond in mismatch, other bits are ignored (Table CHG-7). -/
def Chip.wrRepair (c : Chip) (v : Word) : Chip :=
  { c with scr := { c.scr with want := c.scr.want ||| (v &&& c.frdMask fun f => f.check == 2) } }

/-- A write to SCR. -/
def wrScr (c : Chip) (s : Src) (a : Nat) (v : Word) : Wr :=
  let o := a % 0x10000
  if 0x100 ≤ o ∧ o < 0x180 then wrScrPol c s a ((o - 0x100) / 4) v
  else if 0x80 ≤ o ∧ o < 0xC0 then
    if v.toNat % 16 ≠ 0 ∨ v.toNat < 0x30000000 ∨ 0x30040000 ≤ v.toNat then (St.range, c)
    else if c.fabricLocked then c.lockedWrite s a
    else (St.ok, { c with scr := { c.scr with irpRt := vset c.scr.irpRt ((o - 0x80) / 4) v } })
  else if 0x40 ≤ o ∧ o < 0x80 then
    if c.fabricLocked then c.lockedWrite s a
    else (St.ok, { c with scr := { c.scr with irpGrp := vset c.scr.irpGrp ((o - 0x40) / 4) v } })
  else match o with
    | 0x08 => (St.ok, { c with scr := { c.scr with evt := w1c c.scr.evt v } })
    | 0x0C => (St.ok, { c with scr := { c.scr with inten := v &&& 0x3F } })
    | 0x1C => (St.ok, c.wrRepair v)
    | _ => (St.ok, c)

/-- A write to NVS. -/
def wrNvs (c : Chip) (o : Nat) (v : Word) : Wr :=
  match o with
  | 0x18 => (St.ok, { c with nvs := { c.nvs with evt := w1c c.nvs.evt v } })
  | 0x1C => (St.ok, { c with nvs := { c.nvs with inten := v &&& 0x7FF } })
  | _ => (St.ok, c)

/-- LIC.ACK (R390): a repeat coalesced since LIC.LAST was read, or a number lower than it, is STALE; the newest record
acknowledged clears pending; any other number is RANGE. Numbers compare modulo 2^32 as in R385. -/
def wrLicAck (c : Chip) (v : Word) : Wr :=
  if c.lic.coalSince || decide (0 < (c.lic.last - v).toInt) then (St.stale, c)
  else if v = c.lic.last then (St.ok, { c with lic := { c.lic with pending := false } })
  else (St.range, c)

/-- A write to LIC. -/
def wrLic (c : Chip) (o : Nat) (v : Word) : Wr :=
  match o with
  | 0x0C => wrLicAck c v
  | 0x20 => (St.ok, { c with lic := { c.lic with evt := w1c c.lic.evt v } })
  | 0x24 => (St.ok, { c with lic := { c.lic with inten := v &&& 0x3F } })
  | _ => (St.ok, c)

/-- A channel dropped by the management path, noted for a DMA.GO or DMA.STOP of the same cc (R413). -/
def Chip.mgtDrop (c : Chip) (ch : Nat) : Chip :=
  (c.dropDma ch).modMemo fun m => { m with drops := m.drops ||| BitVec.ofNat 12 (2 ^ ch) }

/-- DMA.CTRLc.en written with 1 drops the channel; from the management path under R132 and R133 (R411, R413). -/
def wrDmaCtrl (c : Chip) (s : Src) (ch : Nat) (v : Word) : Wr :=
  if !v.getLsbD 0 then (St.ok, c)
  else
    let (good, c) := if s.fromQ && s.queue == 5 then c.mgtChange (.dma ch) 0 (Chip.mgtDrop · ch) else (true, c.dropDma ch)
    (if good then St.ok else St.stale, c)

/-- A write to DMA. -/
def wrDma (c : Chip) (s : Src) (o : Nat) (v : Word) : Wr :=
  let ch := (o - 0x100) / 0x40
  if o < 0x100 then (St.ok, c)
  else match o % 0x40 with
    | 0x00 => (St.ok, c.modDma ch fun d => { d with src := v })
    | 0x04 => (St.ok, c.modDma ch fun d => { d with dst := v })
    | 0x08 => (St.ok, c.modDma ch fun d => { d with len := v })
    | 0x0C => (St.ok, c.modDma ch fun d => { d with cfg := v &&& 0x01FFFFFF })
    | 0x10 => wrDmaCtrl c s ch v
    | 0x20 => (St.ok, c.modDma ch fun d => { d with evt := w1c d.evt v })
    | 0x24 => (St.ok, c.modDma ch fun d => { d with inten := v &&& 0x1F })
    | _ => (St.ok, c)

/-- A write to FLT. -/
def wrFlt (c : Chip) (o : Nat) (v : Word) : Wr :=
  match o with
  | 0x0C => (St.ok, { c with flt := { c.flt with condhist := w1c c.flt.condhist v ||| c.cond } })
  | 0x10 => (St.ok, { c with flt := { c.flt with evt := w1c c.flt.evt v } })
  | 0x14 => (St.ok, { c with flt := { c.flt with inten := v &&& 7 } })
  | _ => (St.ok, c)

/-- A write to PWR. -/
def wrPwr (c : Chip) (o : Nat) (v : Word) : Wr :=
  match o with
  | 0x08 => (St.ok, { c with pwr := { c.pwr with evt := w1c c.pwr.evt v } })
  | 0x0C => (St.ok, { c with pwr := { c.pwr with inten := v &&& 7 } })
  | 0x14 => (St.ok, { c with pwr := { c.pwr with tlim := v &&& 0xFFFF } })
  | _ => (St.ok, c)

/-- A write to SEC. -/
def wrSec (c : Chip) (o : Nat) (v : Word) : Wr :=
  match o with
  | 0x0C => (St.ok, { c with sec := { c.sec with evt := w1c c.sec.evt v } })
  | 0x10 => (St.ok, { c with sec := { c.sec with inten := v &&& 0xF } })
  | _ => (St.ok, c)

/-- A write to the register at a 4-byte-aligned address: RANGE where no table defines one (R23), read-only registers
complete OK unchanged. -/
def Chip.writeReg (c : Chip) (d : Die) (s : Src) (a : Nat) (v : Word) : Wr :=
  let o := a % 0x10000
  if (c.regVal d s a).isNone then (St.range, c)
  else match a / 0x10000 with
    | 0 => wrSys c o v
    | 1 => wrClk c s a v
    | 2 => wrLnk c o v
    | 3 => wrLt c o v
    | 4 => wrSpi c o v
    | 5 => wrMgt c o v
    | 7 => wrPrt c o v
    | 8 => wrEng c o v
    | 9 => wrFrd c s a v
    | 10 => wrEdg c s a v
    | 11 => wrCap c o v
    | 12 => wrCam c o v
    | 13 => wrPrs c o v
    | 14 => wrScr c s a v
    | 15 => wrNvs c o v
    | 16 => wrLic c o v
    | 17 => wrDma c s o v
    | 18 => wrFlt c o v
    | 19 => wrPwr c o v
    | 20 => wrSec c o v
    | _ => (St.ok, c)

end Sys2Proof.Machine
end

