-- ==== Sys2Proof/Machine/Access.lean ====
section
/-!
DEFINITION. Accesses of the transport: loads and stores of 4, 8 and 16 bytes at a device address, by region (R22 to
R27, R185), the protection of the user area (R361 to R364) and destinations (R182).
-/
namespace Sys2Proof.Machine

/-! ### Protection of the user area (Table NVS-9) -/

/-- Mode and unlock state of the channel an access belongs to (R361). -/
def Chip.channel (c : Chip) (s : Src) : BitVec 2 × Bool :=
  if s.queue == 5 then (c.nvs.mgtMode, c.nvs.mgtUnl) else (c.nvs.hostMode, c.nvs.hostUnl)

/-- The address lies in the range that bp protects (Table NVS-8). -/
def Chip.bpRange (c : Chip) (a : Nat) : Bool :=
  match c.nvs.bp.toNat with
  | 0 => false
  | 1 => decide (0x30030000 ≤ a)
  | 2 => decide (0x30020000 ≤ a)
  | _ => true

/-- Whether a read of the user area is allowed. -/
def Chip.mayRead (c : Chip) (s : Src) : Bool := (c.channel s).1 != 2 || (c.channel s).2

/-- Whether a write to an address of the user area is allowed. -/
def Chip.mayWrite (c : Chip) (s : Src) (a : Nat) : Bool :=
  ((c.channel s).1 == 0 || (c.channel s).2) && !c.bpRange a

/-! ### Regions -/

/-- Configuration planes may be read: OPEN lifecycle and READBACK_OFF not blown (R27). -/
def Die.mayReadBack (d : Die) : Bool := !d.sealed && !d.readback

/-- The physical address of a configuration-plane view address (R25, R26). -/
def Chip.planeAddr (c : Chip) (a : Nat) : Nat :=
  let o := a - 0x40000000
  let n := o % 0x80000 / 0x4000
  (if o < 0x80000 then c.activeBase n else c.shadowBase n) + o % 0x4000

/-- The unmapped address check of a load: region, its status when refused without a violation (R22 to R25). -/
def loadRange (a : Nat) : Option Byte :=
  if a < 0x10000000 then none
  else if 0x38000000 ≤ a ∧ a < 0x38004000 then some St.priv
  else if 0x40000000 ≤ a ∧ a < 0x40100000 ∧ 12800 ≤ a % 0x4000 then some St.range
  else if (regionOf a).isNone then some St.range
  else none

/-- Bytes read from the registers, one word at a time: `n` words from a 4-byte-aligned address. -/
def Chip.readRegs (c : Chip) (d : Die) (s : Src) (a : Nat) : Nat → Option (Nat × Chip)
  | 0 => some (0, c)
  | n + 1 =>
    match c.readReg d s a with
    | none => none
    | some (v, c) =>
      match c.readRegs d s (a + 4) n with
      | none => none
      | some (r, c) => some (v.toNat + 2 ^ 32 * r, c)

/-- A load of `n` bytes within one 16-byte word: status, value, chip (R185, R190). -/
def Chip.load (c : Chip) (d : Die) (s : Src) (a n : Nat) : Byte × Nat × Chip :=
  match loadRange a with
  | some st => (st, 0, c)
  | none =>
    if a < 0x10000000 then
      match c.readRegs d s a (n / 4) with
      | none => (St.range, 0, c)
      | some (v, c) => (St.ok, v, c)
    else if regionOf a = some 6 then
      if d.mayReadBack then (St.ok, memNat 0 c.mem (c.planeAddr a) n, c)
      else (St.locked, 0, c.violate s 0x3E03 8 6 a)
    else if regionOf a = some 4 && !c.mayRead s then (St.locked, 0, c.violate s 0x3E03 8 4 a)
    else
      let (st, c) := c.readEcc a 0
      (st, if failed st then 0 else memNat 0 c.mem a n, c)

/-- The check of a store's address that ends without a violation. -/
def storeRange (a : Nat) : Option Byte :=
  if a < 0x10000000 then none
  else if 0x38000000 ≤ a ∧ a < 0x38004000 then some St.priv
  else match regionOf a with
    | some 1 | some 4 | some 8 | some 9 => none
    | _ => some St.range

/-- A write to the user area refused (Table SEC-5). -/
def Chip.refuseWrite (c : Chip) (s : Src) (a : Nat) : Wr := (St.locked, c.violate s 0x3E01 0x0B 15 a)

/-- The check of R146 that a failing status comes from. -/
def stCheck (st : Byte) : Nat :=
  if st = St.align then 4 else if st = St.range then 5 else if st = St.locked then 6 else if st = St.stale then 7 else 9

/-- Of the register words of one store the one whose failure decides: the earliest check of R146, then the lowest
address. Each entry is the outcome of a word stored alone. -/
def firstFail : List Wr → Option Wr
  | [] => none
  | r :: l =>
    match firstFail l with
    | none => if failed r.1 then some r else none
    | some b => if failed r.1 && stCheck r.1 ≤ stCheck b.1 then some r else some b

/-- Register words stored one after another: a word that fails behind a word before it ends them. -/
def writeSeq (word : Chip → Nat → Wr) (c : Chip) : List Nat → Wr
  | [] => (St.ok, c)
  | i :: l => if failed (word c i).1 then word c i else writeSeq word (word c i).2 l

/-- `n` register words stored from an address: all or none (R8, R146, R160), whether a word would fail alone or behind those
before it. -/
def Chip.writeRegs (c : Chip) (d : Die) (s : Src) (a v n : Nat) : Wr :=
  let word (c : Chip) (i : Nat) : Wr := c.writeReg d s (a + 4 * i) (BitVec.ofNat 32 (v / 2 ^ (32 * i)))
  match firstFail ((List.range n).map (word c)) with
  | some r => r
  | none =>
    let r := writeSeq word c (List.range n)
    if failed r.1 then (r.1, c) else r

/-- A store of 4 or 8 bytes (R8, R185, R190). A store of two register words changes both or none. -/
def Chip.store (c : Chip) (d : Die) (s : Src) (a n v : Nat) : Wr :=
  match storeRange a with
  | some st => (st, c)
  | none =>
    if a < 0x10000000 then c.writeRegs d s a v (n / 4)
    else if regionOf a = some 4 && !c.mayWrite s a then c.refuseWrite s a
    else c.partialWrite a n v

/-- A full 16-byte write by DMA or to a destination (R182, R185, R401). -/
def Chip.storeWord (c : Chip) (d : Die) (s : Src) (a : Nat) (w : QWord) : Wr :=
  match storeRange a with
  | some st => (st, c)
  | none =>
    if a < 0x10000000 then c.writeRegs d s a w.toNat 4
    else if regionOf a = some 4 && !c.mayWrite s a then c.refuseWrite s a
    else (St.ok, c.putWord a w)

/-! ### Destinations and sources of an instruction (R182) -/

/-- The status of a destination or an NV.WR source of `n` words; none when it is good. 0 names none where `zero`. -/
def destCheck (q : Queue) (a n : Nat) : Option Byte :=
  if q = 5 ∧ a ≠ 0 then some St.priv
  else if a % 16 ≠ 0 then some St.align
  else if (0x10000000 ≤ a ∧ a + 16 * n ≤ 0x10100000) ∨ (0x60000000 ≤ a ∧ a + 16 * n ≤ 0x6000C000)
      ∨ (0x70000000 ≤ a ∧ a + 16 * n ≤ 0x70010000) then none
  else some St.range

/-- Whole words written to a destination with fresh check bits. -/
def Chip.putWords (c : Chip) (a : Nat) (ws : List QWord) : Chip :=
  (ws.foldl (fun (p : Nat × Chip) w => (p.1 + 16, p.2.putWord p.1 w)) (a, c)).2

/-- Statuses of the parts of one instruction: the first failure, else OK_CORRECTED when any part met one. -/
def joinSt (a b : Byte) : Byte := if failed a then a else if failed b then b else if a = St.ok then b else a

/-- Words of a RAM read in order, stopping at the first failure. -/
def Chip.loadWords (c : Chip) (d : Die) (s : Src) (a : Nat) : Nat → Byte × List QWord × Chip
  | 0 => (St.ok, [], c)
  | n + 1 =>
    let (st, v, c) := c.load d s a 16
    if failed st then (st, [], c)
    else
      let (st', ws, c) := c.loadWords d s (a + 16) n
      (joinSt st st', BitVec.ofNat 128 v :: ws, c)

end Sys2Proof.Machine
end

