-- ==== Sys2Proof/Machine/Flow.lean ====
section
/-!
DEFINITION. The flow opcodes (R187 to R189, R490): NOP, FENCE, WAIT.POS, WAIT.TIME, WAIT.EVT, CALL, RET, HALT.Q,
SIG.EVT, and the ends of waits that every family shares.
-/
namespace Sys2Proof.Machine

/-! ### A waiting head ended from outside (R163, R164, R170, R173) -/

/-- The key staging and its ownership cleared (R454). -/
def Chip.clearKey (c : Chip) : Chip :=
  { c with sec := { c.sec with owner := none, quarter := 0, stageKey := 0 } }

/-- A DMA.GO that held its channel leaves it IDLE (R209). -/
def Chip.releaseGo (c : Chip) (w : Wait) : Chip :=
  if w.kind == .credits && w.res == 1 then
    c.modDma (field w.f.tgt 0 4) fun d => if d.st == .halted then { d with st := .idle, gen := d.gen + 1 } else d
  else c

/-- What a wait's end takes with it: a TXN.COMMIT.AT aborts its transaction, a PLANE.SWAP.AT frees its context, a
KEY.PROG quarter 3 that waits for the programmer or the writer clears the staging whatever its outcome (R454), a DMA.GO
releases its channel. An instruction held behind a fence has done nothing and does nothing else (R154). -/
def Chip.abortWaiter (c : Chip) (q : Queue) (w : Wait) : Chip :=
  let c := (if w.code == 0xA1 && w.kind != .fence then c.clearKey else c).releaseGo w
  match (c.queue q).txn with
  | none => c
  | some k => if (w.code == 0x83 && w.kind != .fence) || (w.code == 0x25 && w.kind == .position) then c.abortCtx k else c

/-- The waiting head of a queue completes with a failure; a routine whose transaction that aborted unwinds (R173). R173
gives ABORTED to the outermost CALL for a flush and for the rest the fault's status; for an abort of the transaction by
TIMEOUT it names none, and the model gives ABORTED (DESIGN CHOICE, log entry 90). -/
def Chip.killWait (c : Chip) (q : Queue) (st : Byte) : Chip :=
  match (c.queue q).wait with
  | none => c
  | some w =>
    let had := (c.queue q).txn
    let c := ((c.dropPort q).abortWaiter q w).retireWait q st 0
    let c := if had.isSome && (c.queue q).txn.isNone && w.code == 0x83 && !(c.queue q).calls.isEmpty
      then c.unwind q St.aborted else c
    c.startPosted

/-! ### Bodies -/

/-- NOP and FENCE (Table ISA-2): nothing but retirement. -/
def nopBody : Body := fun _ _ _ c => .done St.ok 0 c

/-- WAIT.POS (R180, R286). -/
def waitPosBody : Body := fun _ f _ c =>
  if c.passed f then .done St.late c.posNow c else .wait .position f.op (c.look.getD 0) c

/-- The time a WAIT.TIME names: absolute, or a count added to line time at issue (R490). -/
def waitUntil (f : Insn) (c : Chip) : BitVec 64 := if f.ext.getLsbD 0 then c.now + f.op else f.op

/-- WAIT.TIME (R490): met in the first cc in which T falls before the end of that cc. -/
def waitTimeBody : Body := fun _ f _ c =>
  let t := waitUntil f c
  let d := signedGap t c.now
  if d < 0 then .done St.late c.now c
  else if signedGap t c.next < 0 then .done St.ok c.now c
  else .wait .time t 0 c

/-- The flags a WAIT.EVT consumes: those of its mask that are set, cleared (R188). -/
def Chip.consume (c : Chip) (mask : BitVec 64) : BitVec 64 × Chip :=
  (c.eng.flags &&& mask, { c with eng := { c.eng with flags := c.eng.flags &&& ~~~mask } })

/-- WAIT.EVT (R188). -/
def waitEvtBody : Body := fun _ f _ c =>
  if f.op = 0 then .fail St.range c
  else if c.eng.flags &&& f.op = 0 then .wait .event f.op 0 c
  else .done St.ok (c.consume f.op).1 (c.consume f.op).2

/-- CALL (R172, R173, R355). -/
def callBody : Body := fun q f _ c =>
  let a := f.tgt.toNat
  if a % 16 ≠ 0 then .fail St.align c
  else if a < 0x30000000 ∨ 0x30040000 ≤ a ∨ 4 ≤ (c.queue q).calls.length then .fail St.range c
  else if c.nvs.recl.isSome then .wait .recallCall 0 0 c
  else .hold (c.modQ q.val fun x => { x with calls := ⟨f, a, 0, false⟩ :: x.calls })

/-- RET (R172): the RET retires, then its CALL. -/
def retBody : Body := fun q f _ c =>
  if (c.queue q).calls.isEmpty then .fail St.illegal c else .hold ((c.retire q f St.ok 0).popCall q)

/-- A queue flushed: a waiting head, a routine and every word not yet issued complete ABORTED (R150, R173). Answers
how many instructions that were: the head and the words, not the CALLs that unwind (DESIGN CHOICE, log entry 94). -/
def Chip.flushQueue (c : Chip) (q : Queue) : Nat × Chip :=
  let x := c.queue q
  let head := match x.wait with | some w => !w.kind.executing | none => false
  let c := if head then c.killWait q St.aborted else c
  let c := if x.calls.isEmpty then c else c.unwind q St.aborted
  let c := c.modQ q.val fun x => { x with words := [], lost := 0 }
  (x.words.length + (if head then 1 else 0), x.words.foldl (fun c w => c.retire q (wordFields w) St.aborted 0) c)

/-- HALT.Q (R150, R189). -/
def haltQBody : Body := fun q f _ c =>
  let n : Queue := Fin.ofNat 8 (field f.tgt 0 3)
  if n = 7 then .fail St.priv c
  else if n = q ∧ (f.ext.getLsbD 0 ∨ f.ext.getLsbD 1) then .fail St.busySelf c
  else
    let (k, c) := if f.ext.getLsbD 1 then c.flushQueue n else (0, c)
    .done St.ok (BitVec.ofNat 64 k) (c.modQ n.val fun x => { x with halted := f.ext.getLsbD 0 })

/-- SIG.EVT (Table ISA-2): sets and clears E0 to E31. -/
def sigEvtBody : Body := fun _ f _ c =>
  let s := f.op &&& 0xFFFFFFFF
  let k := f.op >>> (32 : Nat)
  if s &&& k ≠ 0 then .fail St.range c
  else
    let c := { c with eng := { c.eng with flags := (c.eng.flags ||| s) &&& ~~~k } }
    .done St.ok (c.eng.flags &&& 0xFFFFFFFF) c

end Sys2Proof.Machine
end

