-- ==== Sys2Proof/Machine/Register.lean ====
section
/-!
DEFINITION. The register-access opcodes (R190 to R193): LD, ST, RMW, LD.SNAP, and their staging (Table IMD-7).
-/
namespace Sys2Proof.Machine

/-! ### Reading through the staging (R166) -/

/-- The staged byte of a register word or of the NV journal, where the queue's own transaction holds one. -/
def Ctx.stagedByte (x : Ctx) (a : Nat) : Option Byte :=
  match x.regs.reverse.find? fun e => e.1 == a / 4 * 4 with
  | some e => some (e.2.extractLsb' (8 * (a % 4)) 8)
  | none => (x.nv.reverse.find? fun e => e.1 == a).map (·.2)

/-- `n` bytes read live with the staged bytes laid over them. -/
def Ctx.overlay (x : Ctx) (a v : Nat) : Nat → Nat
  | 0 => 0
  | n + 1 => ((x.stagedByte a).getD (BitVec.ofNat 8 v)).toNat + 256 * x.overlay (a + 1) (v / 256) n

/-- Every one of `n` bytes is staged. -/
def Ctx.covers (x : Ctx) (a n : Nat) : Bool := (List.range n).all fun i => (x.stagedByte (a + i)).isSome

/-- A load of the user area whose bytes are all staged by the queue's own transaction, which reads no live word. -/
def Chip.covered (c : Chip) (q : Queue) (f : Insn) (a n : Nat) : Bool :=
  match f.tx, c.txnOf q with
  | true, some k => (vget c.eng.ctxs k.val).covers a n && regionOf a == some 4 && c.mayRead (Src.ofQueue q)
  | _, _ => false

/-- A value read with tx, seen through the transaction. -/
def Chip.through (c : Chip) (q : Queue) (f : Insn) (a v n : Nat) : Nat :=
  match f.tx, c.txnOf q with
  | true, some k => (vget c.eng.ctxs k.val).overlay a v n
  | _, _ => v

/-! ### Staging registers (Table IMD-7) -/

/-- A register word in the staging file: an entry of its own or a new value of the entry it has. -/
def Ctx.stageWord (x : Ctx) (a : Nat) (v : Word) : Ctx :=
  if x.regs.any fun e => e.1 == a then { x with regs := x.regs.map fun e => if e.1 = a then (a, v) else e }
  else { x with regs := x.regs ++ [(a, v)] }

/-- Register words of `n` bytes staged for commit: refused as the live store would be, BUSY when the file lacks room for
all of them, and then nothing is staged (R160, R166). -/
def Chip.stageReg (c : Chip) (d : Die) (q : Queue) (a n v : Nat) : Wr :=
  match c.txnOf q with
  | none => (St.illegal, c)
  | some k =>
    let r := c.store d (Src.ofQueue q) a n v
    if failed r.1 then r
    else
      let x := (vget c.eng.ctxs k.val).stageWord a (BitVec.ofNat 32 v)
      let x := if n = 4 then x else x.stageWord (a + 4) (BitVec.ofNat 32 (v / 2 ^ 32))
      if 64 < x.regs.length then (St.busy, c) else (St.ok, c.modCtx k.val fun _ => x)

/-! ### Bodies -/

/-- The source of an LD: in Q5 the management pointer's own or an instruction of MGT.IGO, as its slot tells (R101, R126). -/
def Chip.ldSrc (c : Chip) (q : Queue) : Src :=
  let x := c.queue q
  if q = 5 && (x.kinds.drop (x.kinds.length - x.words.length - 1)).headD false then Src.mgt else Src.ofQueue q

/-- LD (Table ISA-3). -/
def ldBody : Body := fun q f d c =>
  let a := f.tgt.toNat
  let w := field f.ext 0 2
  let n := 4 * 2 ^ w
  let dest := field f.op 0 32
  if w = 3 then .fail St.range c
  else if a % n ≠ 0 then .fail St.align c
  else
    match (if w = 2 ∧ dest ≠ 0 then destCheck q dest 1 else none) with
    | some st => .fail st c
    | none =>
      let (st, v, c) := if c.covered q f a n then (St.ok, 0, c) else c.load d (c.ldSrc q) a n
      if failed st then .fail st c
      else
        let v := c.through q f a v n
        let c := if w = 2 ∧ dest ≠ 0 then c.putWord dest (BitVec.ofNat 128 v) else c
        .done st (BitVec.ofNat 64 v) c

/-- ST (Table ISA-3). -/
def stBody : Body := fun q f d c =>
  let a := f.tgt.toNat
  let n := if f.ext.getLsbD 0 then 8 else 4
  if f.tx ∧ 0x10000000 ≤ a then .fail St.illegal c
  else if a % n ≠ 0 then .fail St.align c
  else
    let r := if f.tx then c.stageReg d q a n f.op.toNat else c.store d (Src.ofQueue q) a n f.op.toNat
    .done r.1 0 r.2

/-- The new value of a read-modify-write (R191): merge, add, set, clear. -/
def rmwVal (kind : Nat) (old v mask : Word) : Word :=
  match kind with
  | 0 => (old &&& ~~~mask) ||| (v &&& mask)
  | 1 => old + v
  | 2 => old ||| v
  | _ => old &&& ~~~v

/-- RMW (Table ISA-3): one access at the target. -/
def rmwBody : Body := fun q f d c =>
  let a := f.tgt.toNat
  let s := Src.ofQueue q
  let v : Word := f.op.extractLsb' 0 32
  let mask : Word := f.op.extractLsb' 32 32
  if f.tx ∧ 0x10000000 ≤ a then .fail St.illegal c
  else if a % 4 ≠ 0 then .fail St.align c
  else if a < 0x10000000 then
    match c.readReg d s a with
    | none => .fail St.range c
    | some (old, c') =>
      let old := BitVec.ofNat 32 (c'.through q f a old.toNat 4)
      let new := rmwVal (field f.ext 0 2) old v mask
      let r := if f.tx then c'.stageReg d q a 4 new.toNat else c'.writeReg d s a new
      .done r.1 (if failed r.1 || f.tx then 0 else new ++ old) r.2
  else
    let old := BitVec.ofNat 32 (memNat 0 c.mem a 4)
    let new := rmwVal (field f.ext 0 2) old v mask
    let r := c.store d s a 4 new.toNat
    .done r.1 (if failed r.1 then 0 else new ++ old) r.2

/-- A number cut into 16-byte words. -/
def cutWords (v : Nat) (n : Nat) : List QWord := (List.range n).map fun i => BitVec.ofNat 128 (v / 2 ^ (128 * i))

/-- LD.SNAP of words of the recorder region, which Table LIC-4 names beside LD (R185, R387). -/
def ldSnapRecorder (q : Queue) (d : Die) (c : Chip) (a n dest : Nat) : Done :=
  let (st, ws, c) := c.loadWords d (Src.ofQueue q) a n
  if failed st then .fail st c
  else .done st ((ws.headD 0).setWidth 64) (if dest ≠ 0 then c.putWords dest ws else c)

/-- LD.SNAP (R192): up to 16 words of one block in one sample, or of the recorder region. Of the persistent system area R24 and
R185 have a load complete PRIV and Table ISA-3 one outside a block RANGE: it completes PRIV (DESIGN CHOICE, log entry 115). -/
def ldSnapBody : Body := fun q f d c =>
  let a := f.tgt.toNat
  let n := field f.ext 0 4 + 1
  let dest := field f.op 0 32
  if a % 16 ≠ 0 then .fail St.align c
  else
    match (if dest ≠ 0 then destCheck q dest n else none) with
    | some st => .fail st c
    | none =>
      if 0x50000000 ≤ a ∧ a + 16 * n ≤ 0x50008000 then ldSnapRecorder q d c a n dest
      else if loadRange a = some St.priv then .fail St.priv c
      else if 0x10000 < a % 0x10000 + 16 * n ∨ 0x150000 ≤ a then .fail St.range c
      else
        match c.readRegs d (Src.ofQueue q) a (4 * n) with
        | none => .fail St.range c
        | some (v, c) =>
          let v := c.through q f a v (16 * n)
          .done St.ok (BitVec.ofNat 64 v) (if dest ≠ 0 then c.putWords dest (cutWords v n) else c)

end Sys2Proof.Machine
end

