-- ==== Sys2Proof/Machine/Fabric.lean ====
section
/-!
DEFINITION. The fabric opcodes (R194 to R197): TERM.WR, MC.CFG, FROND.SAFE, FROND.RUN, PLANE.SWAP, PLANE.SWAP.AT; with
them claims (R167), the plane swap (R235), the frond state changes (R237) and the stage set at a swap (R323 to R325).
-/
namespace Sys2Proof.Machine

/-! ### Claims and contexts (R165, R167) -/

/-- A claim bars an instruction of queue `q`: any claim when it does not stage, another context's when it does. -/
def Chip.barred (c : Chip) (q : Queue) (tx : Bool) (claim : Option (Fin 4)) : Bool :=
  match claim with
  | none => false
  | some k => !tx || c.txnOf q != some k

/-- A context claims a frond, with the generation at the claim. -/
def Chip.claimFrond (c : Chip) (k : Fin 4) (n : Nat) : Chip :=
  if (vget c.fronds n).claim = some k then c
  else (c.modFrond n fun f => { f with claim := some k }).modCtx k.val fun x =>
    { x with fclaims := x.fclaims ++ [(n, (vget c.fronds n).gen)] }

/-- A context claims a cam, with the generation at the claim. -/
def Chip.claimCam (c : Chip) (k : Fin 4) (n : Nat) : Chip :=
  if (vget c.cams n).claim = some k then c
  else (c.modCam n fun m => { m with claim := some k }).modCtx k.val fun x =>
    { x with cclaims := x.cclaims ++ [(n, (vget c.cams n).gen)] }

/-- The generations of every claimed unit are those recorded at the claims (R168). -/
def Chip.claimsGood (c : Chip) (k : Fin 4) : Bool :=
  let x := vget c.eng.ctxs k.val
  (x.fclaims.all fun e => (vget c.fronds e.1).gen == e.2) && x.cclaims.all fun e => (vget c.cams e.1).gen == e.2

/-- A frond operation staged and its frond claimed; the last of the states staged for a frond is the one it enters. -/
def Chip.stageFrond (c : Chip) (k : Fin 4) (kind n : Nat) : Chip :=
  (c.claimFrond k n).modCtx k.val fun x =>
    { x with fronds :=
        if 0 < kind ∧ kind < 4 then (x.fronds.filter fun s => s.frond != n || s.kind = 0 || s.kind = 4) ++ [⟨n, kind⟩]
        else if x.fronds.contains ⟨n, kind⟩ then x.fronds else x.fronds ++ [⟨n, kind⟩] }

/-- A free context, the lowest. -/
def Chip.freeCtx (c : Chip) : Option (Fin 4) := (List.finRange 4).find? fun k => !(vget c.eng.ctxs k.val).isOpen

/-- A context opened by a queue; `serial` orders the openings (R171). -/
def Chip.openCtx (c : Chip) (q : Queue) (k : Fin 4) : Chip :=
  let n := c.eng.serial
  let c := c.modCtx k.val fun _ => { Ctx.reset with isOpen := true, owner := q, serial := n }
  let c := c.modQ q.val fun x => { x with txn := some k }
  { c with eng := { c.eng with serial := n + 1 } }

/-! ### Shadow edits (R195) -/

/-- A frond of the stage set is written: the set is cancelled (R325). -/
def Chip.touchStage (c : Chip) (n : Nat) : Chip :=
  match c.scr.stg with
  | some (_, f, _) => if f.getLsbD n then c.cancelStage else c
  | none => c

/-- The shadow tables of cams freed, but for those of the stage set. -/
def Chip.freeTables (c : Chip) (cams : Word) : Chip :=
  let keep : Word := match c.scr.stg with | some (_, _, m) => m | none => 0
  (maskList (cams &&& ~~~keep)).foldl Chip.freeShadow c

/-- A staged stream is discarded when a shadow or a plane changes before its activation (R303): staged and verified clear,
and the room of its cam tables is freed (log entry 102). -/
def Chip.dropStaged (c : Chip) : Chip :=
  match c.prs.staged with
  | none => c
  | some s =>
    let c := c.freeTables s.cams
    { c with prs := { c.prs with staged := none } }

/-- An edit of a shadow plane: the copy of the active plane when `base`, then `len` bytes of `v` at offset `off`. -/
def Chip.editShadow (c : Chip) (n : Nat) (base : Bool) (off v len : Nat) : Chip :=
  let c := (c.touchStage n).dropStaged
  let sh := c.shadowBase n
  let mem := if base then memCopy 0 c.mem (c.activeBase n) c.mem sh 13024 else c.mem
  { c with mem := memPut 0 mem (sh + off) v len }.modFrond n fun f =>
    { f with shadowOk := f.shadowOk || base, ssrc := 3, svar := 0, shadowSig := 0 }

/-- LOCKED in the SEALED lifecycle, then BUSY by a writer or a claim (Table ISA-4). The violation's context is the
shadow window address (Table SEC-5). -/
def editBody (q : Queue) (f : Insn) (d : Die) (c : Chip) (n off v len : Nat) : Done :=
  let x := vget c.fronds n
  if d.sealed then
    .fail St.locked (c.violate (Src.ofQueue q) 0x3E01 0x0B 9 (0x40080000 + n * 0x4000 + off / 16 * 16))
  else if x.shadowBusy || c.barred q f.tx x.claim then .fail St.busy c
  else
    let c := match f.tx, c.txnOf q with
      | true, some k => c.stageFrond k 0 n
      | _, _ => c
    .done St.ok 0 (c.editShadow n (f.ext.getLsbD 0) off v len)

/-- TERM.WR: one 64-literal-bit slice of a term; slice 4 has 32 bits. -/
def termWrBody : Body := fun q f d c =>
  let t := field f.tgt 8 9
  let s := field f.tgt 17 3
  if 351 < t ∨ 4 < s then .fail St.range c
  else editBody q f d c (field f.tgt 0 5) (36 * t + 8 * s) f.op.toNat (if s = 4 then 4 else 8)

/-- The expander fields of a configuration word name existing expanders (R226). -/
def mcCfgOk (v : BitVec 16) : Bool := decide (field v 11 5 ≤ 20) && decide (field v 6 5 + field v 11 5 ≤ 32)

/-- MC.CFG: the configuration word of a macrocell. -/
def mcCfgBody : Body := fun q f d c =>
  let m := field f.tgt 8 6
  let v : BitVec 16 := f.op.setWidth 16
  if !mcCfgOk v then .fail St.range c
  else editBody q f d c (field f.tgt 0 5) (12672 + 2 * m) v.toNat 2

/-! ### Frond states (R237) -/

/-- The IRP takes no request in the cc after a change of its master frond (R330). -/
def Chip.hushIrp (c : Chip) (mask : Word) : Chip :=
  if c.scr.irpEn && mask.getLsbD c.scr.irpMast.toNat then { c with scr := { c.scr with hush := true } } else c

/-- The fronds of a mask that a change to a state would change: a frond enters RUN only with an active plane and while no
repair of it runs (R237). -/
def Chip.changing (c : Chip) (mask : Word) (st : FrondState) : Word :=
  (List.range 32).foldl (fun a n =>
    let f := vget c.fronds n
    a ||| bitW n (mask.getLsbD n && f.st != st && (st != .run || (f.activeOk && f.check != 3)))) 0

/-- Fronds placed in a state, generations advanced, flip-flops at init when they enter RUN. -/
def Chip.placeFronds (c : Chip) (mask : Word) (st : FrondState) : Chip :=
  let ns := maskList (c.changing mask st)
  let c' := ns.foldl (fun c n => c.modFrond n fun f => { f with st := st, gen := f.gen + 1 }) c
  (if st == .run then c'.seatInit ns else c').hushIrp (c.changing mask st)

/-- Fronds placed in a state, pins settled. -/
def Chip.setFronds (c : Chip) (mask : Word) (st : FrondState) : Chip := c.settle (c.placeFronds mask st)

/-- Fronds of a mask barred by a claim. -/
def Chip.barredMask (c : Chip) (q : Queue) (tx : Bool) (mask : Word) : Bool :=
  (maskList mask).any fun n => c.barred q tx (vget c.fronds n).claim

/-- Operations on the fronds of a mask staged. -/
def Chip.stageMask (c : Chip) (k : Fin 4) (kind : Nat) (mask : Word) : Chip :=
  (maskList mask).foldl (fun c n => c.stageFrond k kind n) c

/-- A FROND.SAFE from the management path meets what the data path has done to a frond in this cc (R133): whether its change
gives way, and the chip. -/
def Chip.safeContest (c : Chip) (st : FrondState) (n : Nat) : Bool × Chip :=
  match c.contest (.frond n) (if st == .safe then 0 else 1) with
  | some (.lt, u) => (false, (c.setFronds (bitW n true) st).overrule u)
  | some (.gt, _) => (true, c)
  | _ => (false, c)

/-- FROND.SAFE from the management path: the fronds that the data path has changed in this cc are judged first. -/
def Chip.safeMgt (c : Chip) (mask : Word) (st : FrondState) : Bool × Chip :=
  (maskList mask).foldl (fun (r : Bool × Chip) n =>
    let (lost, c) := r.2.safeContest st n
    (r.1 || lost, c)) (false, c)

/-- FROND.SAFE (R196). -/
def frondSafeBody : Body := fun q f _ c =>
  let mask : Word := f.op.setWidth 32
  let st := if f.ext.getLsbD 0 then FrondState.reset else FrondState.safe
  if mask = 0 then .fail St.range c
  else match f.tx, c.txnOf q with
    | true, some k =>
      if c.barredMask q true mask then .fail St.busy c
      else .done St.ok 0 (c.stageMask k (if f.ext.getLsbD 0 then 2 else 1) mask)
    | _, _ =>
      let r := if q = 5 then c.safeMgt mask st else (false, c)
      if r.1 then .fail St.stale { c with mgt := { c.mgt with stale := satAdd c.mgt.stale 1 } }
      else .done St.ok ((c.changing mask st).setWidth 64) (r.2.setFronds mask st)

/-- A named frond is in mismatch or under repair (Table ISA-4). -/
def Chip.suspect (c : Chip) (mask : Word) : Bool := c.anyFrond mask fun f => f.check.getLsbD 1

/-- FROND.RUN (R196, R237). -/
def frondRunBody : Body := fun q f _ c =>
  let mask : Word := f.op.setWidth 32
  if mask = 0 then .fail St.range c
  else if c.prs.ldr == .loader then .fail St.illegal c
  else if c.suspect mask then .fail St.busy c
  else match f.tx, c.txnOf q with
    | true, some k =>
      if c.barredMask q true mask then .fail St.busy c else .done St.ok 0 (c.stageMask k 3 mask)
    | _, _ => .done St.ok ((c.changing mask .run).setWidth 64) (c.onceGen (c.settle ((c.setFronds mask .run).releasePins)))

/-! ### Plane swaps (R235, R323 to R326) -/

/-- One frond's planes swap: signatures and their sources exchange (R334), the shadow holds the outgoing plane (R234),
swap_load seats the incoming init values. -/
def Chip.swapPlane (c : Chip) (n : Nat) : Chip :=
  let c := c.modFrond n fun f =>
    { f with
      plane := !f.plane
      golden := f.shadowSig
      shadowSig := f.golden
      gsrc := f.ssrc
      gvar := f.svar
      ssrc := f.gsrc
      svar := f.gvar
      shadowOk := f.planeOk
      planeOk := f.shadowOk
      gen := f.gen + 1 }
  if (vget c.fronds n).pol.getLsbD 1 then c.seatInit [n] else c

/-- A cam's shadow table becomes active: the latch and waiting crossings clear, the generation advances, and the
window of this cc is the first that the new table sees (R283). -/
def Cam.activate (c : Chip) (k : Cam) : Cam :=
  { k with
    prevQ := c.windowStart k.prevQ
    table := k.shadow
    tabOk := true
    shadow := []
    shadowOk := false
    latch := none
    waiting := []
    gen := k.gen + 1 }

/-- The fronds whose planes swap at a commit. -/
def Ctx.swaps (x : Ctx) : Word :=
  x.fronds.foldl (fun a s => if s.kind = 0 ∨ s.kind = 4 then a ||| bitW s.frond true else a) 0

/-- The fronds that swap with those of a mask at the commit of the transaction of a queue. -/
def Chip.swapsWith (c : Chip) (q : Queue) (tx : Bool) (mask : Word) : Word :=
  match tx, c.txnOf q with
  | true, some k => (vget c.eng.ctxs k.val).swaps ||| mask
  | _, _ => mask

/-- The cams that a swap of the fronds of a mask makes active with it (R323). -/
def Chip.stageCams (c : Chip) (mask : Word) : Word :=
  match c.scr.stg with
  | some (_, f, m) => if f &&& mask != 0 && f &&& ~~~mask == 0 then m else 0
  | none => 0

/-- What a swap of the fronds of a mask does to the stage set. -/
def Chip.swapStage (c : Chip) (mask : Word) : Chip :=
  match c.scr.stg with
  | none => c
  | some (_, f, m) =>
    if f &&& mask = 0 then c
    else if f &&& ~~~mask = 0 then
      let c := (maskList m).foldl (fun (c : Chip) n => c.modCam n (Cam.activate c)) c
      let c := c.setScrEvt 5
      { c with scr := { c.scr with stg := none } }
    else c.cancelStage

/-- Every frond of a mask swaps on one edge. -/
def Chip.swapMask (c : Chip) (mask : Word) : Chip :=
  ((((maskList mask).foldl Chip.swapPlane c).swapStage mask).dropStaged).hushIrp mask

/-- A named shadow holds no complete image or is being written. -/
def Chip.shadowBad (c : Chip) (mask : Word) : Bool := c.anyFrond mask fun f => !f.shadowOk || f.shadowBusy

/-- The statuses of PLANE.SWAP that refuse it (Table ISA-4, R324). -/
def Chip.swapCheck (c : Chip) (q : Queue) (tx : Bool) (mask : Word) : Option Byte :=
  if q = 6 && c.scr.irpEn && mask.getLsbD c.scr.irpMast.toNat then some St.busySelf
  else if c.shadowBad mask || c.barredMask q tx mask
      || (maskList (c.stageCams (c.swapsWith q tx mask))).any fun n => c.barred q tx (vget c.cams n).claim then some St.busy
  else none

/-- A swap claims its fronds and the cams that would become active with them and with the fronds that the context swaps
already (R324). -/
def Chip.claimSwap (c : Chip) (k : Fin 4) (mask : Word) : Chip :=
  (maskList (c.stageCams ((vget c.eng.ctxs k.val).swaps ||| mask))).foldl (fun c n => c.claimCam k n)
    ((maskList mask).foldl (fun c n => c.claimFrond k n) c)

/-- PLANE.SWAP. -/
def planeSwapBody : Body := fun q f _ c =>
  let mask : Word := f.op.setWidth 32
  if mask = 0 then .fail St.range c
  else match c.swapCheck q f.tx mask with
    | some st => .fail st c
    | none =>
      match f.tx, c.txnOf q with
      | true, some k => .done St.ok 0 ((c.claimSwap k mask).stageMask k 4 mask)
      | _, _ => .done St.ok (mask.setWidth 64) (c.swapMask mask)

/-- The swap of a PLANE.SWAP.AT at its position: generations, shadows, then the swap; the context and the claims end
(R197). Answers status, result, chip. -/
def Chip.swapAt (c : Chip) (k : Fin 4) (mask : Word) (ok : Byte) : Byte × DWord × Chip :=
  if !c.claimsGood k then (St.stale, 0, c.closeCtx k)
  else if c.shadowBad mask then (St.busy, 0, c.closeCtx k)
  else (ok, mask.setWidth 64, (c.swapMask mask).closeCtx k)

/-- PLANE.SWAP.AT (R197, R326): whether its position has passed is judged at issue (R180, R286). -/
def planeSwapAtBody : Body := fun q f _ c =>
  let mask : Word := f.tgt
  if mask = 0 then .fail St.range c
  else if (c.txnOf q).isSome then .fail St.illegal c
  else if (c.queue q).posted then .fail St.order c
  else match c.freeCtx with
    | none => .wait .context (if c.lateAt q f then 1 else 0) 0 c
    | some k =>
      match c.swapCheck q true mask with
      | some st => .fail st c
      | none =>
        let late := c.lateAt q f
        let c := ((c.openCtx q k).claimSwap k mask).modCtx k.val fun x => { x with waiting := true }
        if late then
          let (st, res, c) := c.swapAt k mask St.late
          .done st res c
        else .wait .position f.op (c.look.getD 0) c

end Sys2Proof.Machine
end

