-- ==== Sys2Proof/Machine/Edge.lean ====
section
/-!
DEFINITION. The edge and capture opcodes (R198 to R200, R254 to R256): EDGE.SET, EDGE.PULSE, EDGE.CAL, PIN.SAFE,
CAP.ARM, CAP.READ.
-/
namespace Sys2Proof.Machine

/-! ### The request queue (R254, R255) -/

/-- A time T as the EPU of a pin with board delay `dly` takes it in the cc that ends at line time `next`: a transition that
falls at the ball before the end of the cc moves to step 0 of the next, and it or a T before that end is late (R199, R250,
R256). -/
def dueTime (next dly t : BitVec 64) : BitVec 64 × Bool :=
  if signedGap (t - dly) next < 0 then (next + dly, true) else (t, decide (signedGap t next < 0))

/-- The board delay of a pin in ticks (R250). -/
def Pin.delay (p : Pin) : BitVec 64 := (p.cfg.extractLsb' 16 8).signExtend 64

/-- A request that reaches the head of its queue: the leading edge of an absolute or immediate one is known then. An
immediate edge falls at step 0 of a cc at the ball and is never late. -/
def EdgeReq.atHead (r : EdgeReq) (next dly : BitVec 64) : EdgeReq :=
  match r.mode.toNat with
  | 0 =>
    let (t, late) := dueTime next dly r.t
    { r with edge := some ⟨t, r.lead, late, r.trail⟩ }
  | 1 => r
  | _ => { r with edge := some ⟨(dueTime next dly r.t).1, r.lead, false, r.trail⟩ }

/-- A request that becomes the head when the last edge of another has fallen at `last`: its edge falls at its T where that
lies at least 1 ns later, in the same cc too, else 1 ns after it, late (R256). -/
def EdgeReq.follow (r : EdgeReq) (last dly : BitVec 64) : EdgeReq :=
  if r.mode == 1 then r
  else if signedGap (r.t - dly) last < 16 then { r with edge := some ⟨last + 16 + dly, r.lead, true, r.trail⟩ }
  else { r with edge := some ⟨r.t, r.lead, false, r.trail⟩ }

/-- A request enters a pin's queue in the cc that ends at line time `next`. -/
def Pin.enter (p : Pin) (next : BitVec 64) (r : EdgeReq) : Pin :=
  { p with q := if p.q.isEmpty then [r.atHead next p.delay] else p.q ++ [r] }

/-- The pin has been given to its EPU. -/
def Chip.epuPin (c : Chip) (n : Nat) : Bool := n < 192 && (vget c.pins n).cfg.extractLsb' 0 2 == 1

/-- The request of an EDGE.SET or EDGE.PULSE accepted in the cc that ends at line time `next` by a pin with board
delay `dly`: an immediate edge falls at the ball at step 0 of the next cc (Table ISA-5, R255). -/
def edgeReq (code : BitVec 8) (f : Insn) (next dly : BitVec 64) : EdgeReq :=
  let mode := f.ext.extractLsb' 0 2
  let t : BitVec 64 := if mode == 1 then BitVec.ofNat 64 (field f.op 32 31) else if mode == 2 then next + dly else f.op
  let cam : BitVec 5 := f.op.extractLsb' 0 5
  if code == 0x30 then ⟨mode, cam, t, f.tgt.extractLsb' 8 2, none, none⟩
  else
    let high := f.tgt.getLsbD 8
    let w := widthTicks (field f.ext 2 2) (field f.tgt 12 20)
    ⟨mode, cam, t, if high then 1 else 0, some (BitVec.ofNat 64 w, if high then 0 else 1), none⟩

/-- The RANGE checks of an edge request (Table ISA-5). -/
def edgeRange (c : Chip) (code : BitVec 8) (f : Insn) : Bool :=
  c.epuPin (field f.tgt 0 8) && f.ext.extractLsb' 0 2 != 3
    && (if code == 0x30 then f.tgt.extractLsb' 8 2 != 3
      else f.ext.extractLsb' 2 2 != 3 && decide (16 ≤ widthTicks (field f.ext 2 2) (field f.tgt 12 20)))

/-- An accepted request: status (late for an absolute time inside the cc), the time of the edge, the chip. -/
def Chip.acceptEdge (c : Chip) (code : BitVec 8) (f : Insn) : Byte × DWord × Chip :=
  let dly := (vget c.pins (field f.tgt 0 8)).delay
  let r := edgeReq code f c.next dly
  let late := r.mode == 0 && decide (signedGap r.t c.next < 0)
  (if late then St.late else St.ok, if r.mode == 1 then 0 else (dueTime c.next dly r.t).1,
    c.modPin (field f.tgt 0 8) fun p => p.enter c.next r)

/-- One more request staged; BUSY past 32 (Table IMD-7). -/
def Chip.stageEdge (c : Chip) (k : Fin 4) (pin : Nat) (code : BitVec 8) (f : Insn) : Done :=
  if 32 ≤ (vget c.eng.ctxs k.val).edges.length then .fail St.busy c
  else .done St.ok 0 (c.modCtx k.val fun x => { x with edges := x.edges ++ [⟨pin, code, f⟩] })

/-- EDGE.SET and EDGE.PULSE. -/
def edgeBody (code : BitVec 8) : Body := fun q f _ c =>
  let p := field f.tgt 0 8
  if !edgeRange c code f then .fail St.range c
  else match f.tx, c.txnOf q with
    | true, some k => c.stageEdge k p code f
    | _, _ =>
      if 8 ≤ (vget c.pins p).q.length then .fail St.busy c
      else
        let (st, t, c) := c.acceptEdge code f
        .done st t c

/-- EDGE.SET. -/
def edgeSetBody : Body := edgeBody 0x30
/-- EDGE.PULSE. -/
def edgePulseBody : Body := edgeBody 0x31

/-! ### Calibration (R200, R252, R253) -/

/-- Neither the EPU nor the TCU of a pin is armed. -/
def Pin.idle (p : Pin) : Bool := !p.armed && p.tcu == 0

/-- The pins of a bank that a pass measures. -/
def Chip.idlePins (c : Chip) (b : Nat) : Word :=
  (List.range 16).foldl (fun a i => a ||| bitW i (vget c.pins (16 * b + i)).idle) 0

/-- The end of a pass over a bank: the residual it found is a physical quantity, a free value (log entry 2). -/
def Chip.passEnd (c : Chip) (b : Nat) : Chip :=
  let (r, c) := c.free
  c.modBank b fun k => { k with passes := k.passes + 1, resid := r.setWidth 8 }

/-- EDGE.CAL. -/
def edgeCalBody : Body := fun _ f _ c =>
  let b := field f.tgt 0 4
  if 11 < b then .fail St.range c
  else
    let m := c.idlePins b
    let c := (maskList m).foldl (fun c i => c.modPin (16 * b + i) fun p => { p with measured := true }) c
    .done St.ok (m.setWidth 64) (c.passEnd b).calUpdate

/-! ### PIN.SAFE (R200, R241) -/

/-- The pins of a bank whose PIN.SAFE force a force or a release would change. -/
def Chip.pinMask (c : Chip) (b : Nat) (mask : Nat) (release : Bool) : Word :=
  (List.range 16).foldl (fun a i => a ||| bitW i (mask.testBit i && (vget c.pins (16 * b + i)).psafe == release)) 0

/-- The force of PIN.SAFE set on the pins of a mask or cleared. -/
def Chip.setPinSafe (c : Chip) (b mask : Nat) (release : Bool) : Chip :=
  c.settle ((maskList (c.pinMask b mask release)).foldl (fun c i =>
    c.modPin (16 * b + i) fun p => { p with psafe := !release }) c)

/-- PIN.SAFE; from Q5 it carries the bank's generation (R132). -/
def pinSafeBody : Body := fun q f _ c =>
  let b := field f.tgt 0 4
  let mask := field f.op 0 16
  let release := f.ext.getLsbD 0
  if 11 < b ∨ mask = 0 then .fail St.range c
  else match f.tx, c.txnOf q with
    | true, some k => c.stageEdge k b 0x33 f
    | _, _ =>
      let m : DWord := (c.pinMask b mask release).setWidth 64
      if q = 5 then
        let (good, c) := c.mgtChange (.bank b) (if release then 1 else 0) fun c => c.setPinSafe b mask release
        .done (if good then St.ok else St.stale) (if good then m else 0) c
      else .done St.ok m (c.setPinSafe b mask release)

/-! ### Captures (R198, R262) -/

/-- CAP.ARM: an arming from disarmed forgets the last capture. -/
def capArmBody : Body := fun _ f _ c =>
  let p := field f.tgt 0 8
  let e := f.ext.extractLsb' 0 2
  if 191 < p then .fail St.range c
  else .done St.ok 0 (c.modPin p fun x =>
    { x with tcu := e, cap := if x.tcu == 0 && e != 0 then none else x.cap })

/-- What CAP.READ returns: T modulo 2^63 with bit 63 for a rising edge, all ones when there has been none. -/
def capValue : Option (BitVec 64 × Bool) → DWord
  | none => 0xFFFFFFFFFFFFFFFF
  | some (t, rising) => (t.extractLsb' 0 63).setWidth 64 ||| (if rising then 0x8000000000000000 else 0)

/-- CAP.READ. -/
def capReadBody : Body := fun _ f _ c =>
  let p := field f.tgt 0 8
  if 191 < p then .fail St.range c else .done St.ok (capValue (vget c.pins p).cap) c

end Sys2Proof.Machine
end

