-- ==== Sys2Proof/Machine/Cam.lean ====
section
/-!
DEFINITION. The cam opcodes (R201 to R203, R275 to R277, R283): CAM.LOAD, CAM.ARM, CAM.DISARM, CAM.NUDGE.
-/
namespace Sys2Proof.Machine

/-! ### Tables (R275, R276) -/

/-- A breakpoint entry; none when a reserved field is not 0 (Table CAM-2). -/
def bpOf (w : QWord) : Option Bp :=
  if w.extractLsb' 34 14 == 0 && w.extractLsb' 64 64 == 0 then
    some ⟨w.extractLsb' 0 32, w.extractLsb' 32 2, w.extractLsb' 48 16, 0⟩
  else none

/-- The angles strictly increase. -/
def anglesRise : List Bp → Bool
  | a :: b :: r => decide (a.angle.toNat < b.angle.toNat) && anglesRise (b :: r)
  | _ => true

/-- The table check of R276 on the words of a table. -/
def tableOf (ws : List QWord) : Option (List Bp) :=
  match ws.mapM bpOf with
  | some t => if anglesRise t then some t else none
  | none => none

/-- A cam's new active table, loaded without a transaction (R202, R283). -/
def Cam.load (k : Cam) (t : List Bp) : Cam :=
  { k with table := t, tabOk := true, latch := none, waiting := [], gen := k.gen + 1 }

/-- A staged cam operation; a new table replaces the one staged before, nudges accumulate as entries. -/
def Chip.stageCam (c : Chip) (k : Fin 4) (n kind : Nat) (v : Word) : Chip :=
  (c.claimCam k n).modCtx k.val fun x =>
    { x with cams := if kind = 0 && x.cams.contains ⟨n, 0, v⟩ then x.cams else x.cams ++ [⟨n, kind, v⟩] }

/-- The stage set is cancelled when a staged load names one of its cams (R325). -/
def Chip.touchStageCam (c : Chip) (n : Nat) : Chip :=
  match c.scr.stg with
  | some (_, _, m) => if m.getLsbD n then c.cancelStage else c
  | none => c

/-- CAM.LOAD: alignment, range, then BUSY, then the read and the table check (R202). The room it needs counts the
table it replaces as freed. -/
def camLoadBody : Body := fun q f d c =>
  let n := field f.tgt 0 5
  let a := field f.op 0 32
  let count := field f.op 32 13
  let k := vget c.cams n
  if a % 16 ≠ 0 then .fail St.align c
  else if count = 0 ∨ 4096 < count ∨ a < 0x10000000 ∨ 0x10100000 < a + 16 * count then .fail St.range c
  else if (!f.tx && k.armed) || c.barred q f.tx k.claim
      || decide (c.tabFree + (if f.tx then k.shadow else k.table).length < count) then .fail St.busy c
  else
    let (st, ws, c) := c.loadWords d (Src.ofQueue q) a count
    if failed st then .fail st c
    else match tableOf ws with
      | none => .fail St.range c
      | some t =>
        match f.tx, c.txnOf q with
        | true, some x =>
          let c := ((c.touchStageCam n).dropStaged).modCam n fun k => { k with shadow := t, shadowOk := true }
          .done st 0 (c.stageCam x n 0 0)
        | _, _ => .done st (BitVec.ofNat 64 count) (c.modCam n (·.load t))

/-! ### Arming (R202, R283) -/

/-- A cam armed: its latch empties and its first window opens now; an armed cam stays as it is. -/
def Cam.arm (k : Cam) (look : BitVec 64) : Cam :=
  if k.armed then k else { k with armed := true, latch := none, waiting := [], prevQ := look, gen := k.gen + 1 }

/-- A table for the cam is staged in a context. -/
def Ctx.hasTable (x : Ctx) (n : Nat) : Bool := x.cams.any fun s => s.cam == n && s.kind == 0

/-- CAM.ARM. -/
def camArmBody : Body := fun q f _ c =>
  let n := field f.tgt 0 5
  let k := vget c.cams n
  match f.tx, c.txnOf q with
  | true, some x =>
    if !k.tabOk && !(vget c.eng.ctxs x.val).hasTable n then .fail St.range c
    else if c.barred q true k.claim then .fail St.busy c
    else .done St.ok 0 (c.stageCam x n 1 0)
  | _, _ =>
    if !k.tabOk then .fail St.range c
    else if c.barred q true k.claim then .fail St.busy c
    else .done St.ok 0 (c.modCam n (·.arm (c.look.getD 0)))

/-- CAM.DISARM; from Q5 it carries the cam's generation (R132), from the recovery handler it shows as auto_disarm
(R283). -/
def camDisarmBody : Body := fun q f _ c =>
  let n := field f.tgt 0 5
  match f.tx, c.txnOf q with
  | true, some x =>
    if c.barred q true (vget c.cams n).claim then .fail St.busy c else .done St.ok 0 (c.stageCam x n 2 0)
  | _, _ =>
    if q = 5 then
      let (good, c) := c.mgtChange (.cam n) 0 fun c => c.modCam n Cam.disarm
      .done (if good then St.ok else St.stale) 0 c
    else
      let c := if q = 7 && (vget c.cams n).armed then c.setCamEvt 6 else c
      .done St.ok 0 (c.modCam n Cam.disarm)

/-- An offset added to the pending offset, modulo 2^32 (R203). -/
def Cam.nudge (k : Cam) (v : Word) : Cam := { k with pend := k.pend + v }

/-- CAM.NUDGE. -/
def camNudgeBody : Body := fun q f _ c =>
  let n := field f.tgt 0 5
  let v : Word := f.op.setWidth 32
  let k := vget c.cams n
  if c.barred q true k.claim then .fail St.busy c
  else match f.tx, c.txnOf q with
    | true, some x => .done St.ok 0 (c.stageCam x n 3 v)
    | _, _ => .done St.ok ((k.pend + v).setWidth 64) (c.modCam n (·.nudge v))

end Sys2Proof.Machine
end

