-- ==== Sys2Proof/Machine/Store.lean ====
section
/-!
DEFINITION. The persistent-store opcodes (R204 to R207, R342 to R367): NV.WR, NV.RD, NV.STORE, NV.RECALL, CTR.INC, CTR.RD,
NV.UNLOCK, NV.PROT; with the NV journal, the program of a store into the shadow (R348) and the recall (R352).
-/
namespace Sys2Proof.Machine

/-! ### The journal (Table IMD-7) -/

/-- A journal with bytes laid over it, the latest at the end. -/
def journalPut (j : List (Nat × Byte)) (a : Nat) (bs : List Byte) : List (Nat × Byte) :=
  (j.filter fun e => !(a ≤ e.1 && e.1 < a + bs.length)) ++ bs.mapIdx fun i b => (a + i, b)

/-- The pages a journal touches. -/
def Ctx.pages (x : Ctx) : List Nat := (x.nv.map fun e => (e.1 - 0x30000000) / 256).dedup

/-- Bytes staged into the NV journal of a context; `full` marks a whole word. None when a seventeenth page would be
needed. -/
def Chip.stageNv (c : Chip) (k : Fin 4) (a : Nat) (bs : List Byte) (full : Bool) : Option Chip :=
  let x := vget c.eng.ctxs k.val
  let x := { x with
    nv := journalPut x.nv a bs
    nvFull := if full && !x.nvFull.contains a then x.nvFull ++ [a] else x.nvFull }
  if 16 < x.pages.length then none else some (c.modCtx k.val fun _ => x)

/-! ### NV.WR and NV.RD (R204, R205) -/

/-- The address of word `k` of a burst, wrapping within its page (R205). -/
def burstAddr (a k : Nat) : Nat := a / 256 * 256 + (a + 16 * k) % 256

/-- The user area. -/
def inUser (a n : Nat) : Bool := decide (0x30000000 ≤ a ∧ a + n ≤ 0x30040000)

/-- NV.WR with imm = 1: eight bytes (Table NVS-2). -/
def nvWrImm (q : Queue) (f : Insn) (c : Chip) : Done :=
  let a := f.tgt.toNat
  let s := Src.ofQueue q
  if a % 8 ≠ 0 then .fail St.align c
  else if !inUser a 8 then .fail St.range c
  else if !c.mayWrite s a then
    let r := c.refuseWrite s a
    .fail r.1 r.2
  else match f.tx, c.txnOf q with
    | true, some k =>
      if 2 ≤ c.eccAt a then .fail St.poison (c.poisonWord a 1)
      else match c.stageNv k a (natBytes f.op.toNat 8) false with
        | some c => .done St.ok 0 c
        | none => .fail St.busy c
    | _, _ =>
      let r := c.partialWrite a 8 f.op.toNat
      .done r.1 0 r.2

/-- NV.WR with imm = 0: a burst of 1 to 16 whole words. -/
def nvWrBurst (q : Queue) (f : Insn) (d : Die) (c : Chip) : Done :=
  let a := f.tgt.toNat
  let s := Src.ofQueue q
  let n := field f.ext 0 5
  let src := field f.op 0 32
  if a % 16 ≠ 0 ∨ src % 16 ≠ 0 then .fail St.align c
  else if n = 0 ∨ 16 < n ∨ !inUser a 16 then .fail St.range c
  else match destCheck q src n with
    | some st => .fail st c
    | none =>
      if !c.mayWrite s a then
        let r := c.refuseWrite s a
        .fail r.1 r.2
      else
        let (st, ws, c) := c.loadWords d s src n
        if failed st then .fail st c
        else match f.tx, c.txnOf q with
          | true, some k =>
            match ws.mapIdx (fun i w => (burstAddr a i, w)) |>.foldl (fun (o : Option Chip) e =>
                o.bind fun c => c.stageNv k e.1 (natBytes e.2.toNat 16) true) (some c) with
            | some c => .done st 0 c
            | none => .fail St.busy c
          | _, _ =>
            .done st 0 ((ws.mapIdx fun i w => (burstAddr a i, w)).foldl (fun c e => c.putWord e.1 e.2) c)

/-- NV.WR. -/
def nvWrBody : Body := fun q f d c => if f.ext.getLsbD 7 then nvWrImm q f c else nvWrBurst q f d c

/-- NV.RD: eight bytes of the user area. -/
def nvRdBody : Body := fun q f d c =>
  let a := f.tgt.toNat
  if a % 8 ≠ 0 then .fail St.align c
  else if !inUser a 8 then .fail St.range c
  else
    let (st, v, c) := if c.covered q f a 8 then (St.ok, 0, c) else c.load d (Src.ofQueue q) a 8
    if failed st then .fail st c else .done st (BitVec.ofNat 64 (c.through q f a v 8)) c

/-! ### Counters (R207, R343, R360) -/

/-- The amount staged for a counter by a context. -/
def Ctx.staged (x : Ctx) (k : Nat) : BitVec 48 := ((x.ctrs.find? fun e => e.1 == k).map (·.2)).getD 0

/-- An amount staged for a counter. -/
def Ctx.stageCtr (x : Ctx) (k : Nat) (v : BitVec 48) : Ctx :=
  { x with ctrs := if x.ctrs.any fun e => e.1 == k
    then x.ctrs.map fun e => if e.1 = k then (k, e.2 + v) else e else x.ctrs ++ [(k, v)] }

/-- A counter advanced, with its dirty mark. Answers the new value and the chip. -/
def Chip.addCtr (c : Chip) (k : Nat) (v : BitVec 48) : BitVec 48 × Chip :=
  let (old, c) := c.readCtr k
  let c := c.setCtr k (old + v)
  (old + v, { c with nvs := { c.nvs with dirtyC := c.nvs.dirtyC ||| BitVec.ofNat 64 (2 ^ k) } })

/-- CTR.INC. -/
def ctrIncBody : Body := fun q f _ c =>
  let k := field f.tgt 0 6
  let v : BitVec 48 := f.op.setWidth 48
  match f.tx, c.txnOf q with
  | true, some x => .done St.ok 0 (c.modCtx x.val fun x => x.stageCtr k v)
  | _, _ =>
    let wrapped := decide (2 ^ 48 ≤ (c.ctrVal k).toNat + v.toNat)
    let (new, c) := c.addCtr k v
    .done St.ok (new.setWidth 64 ||| (if wrapped then 0x0001000000000000 else 0)) c

/-- CTR.RD. -/
def ctrRdBody : Body := fun q f _ c =>
  let k := field f.tgt 0 6
  let (v, c) := c.readCtr k
  match f.tx, c.txnOf q with
  | true, some x => .done St.ok ((v + (vget c.eng.ctxs x.val).staged k).setWidth 64) c
  | _, _ => .done St.ok (v.setWidth 64) c

/-! ### Stores (R206, R346, R348) -/

/-- The result of a store: pages stored in [18:8]. -/
def storeResult (pages : Nat) : DWord := BitVec.ofNat 64 (pages % 2048 * 256)

/-- NV.STORE: posted inside a routine, with the port claimed as soon as it is free (R174, R175); else it waits for the
port and for its commit record. -/
def nvStoreBody : Body := fun q _ _ c =>
  if !(c.queue q).calls.isEmpty then
    .done St.ok 1 ((c.modQ q.val fun x => { x with posted := true }).claimPort)
  else if (c.queue q).posted then .fail St.order c
  else if !c.portFree then .wait .storePort 0 0 c
  else
    let pages := c.dirtyPages
    let ctrs := c.dirtyCtrs
    if pages.isEmpty && ctrs.isEmpty then .done St.ok 0 c
    else .wait .storeDone 0 (storeResult pages.length) (c.snapshot 0 pages ctrs (some q) none)

/-- Some queue is inside a routine. -/
def Chip.inRoutine (c : Chip) : Bool := c.eng.queues.toList.any fun x => !x.calls.isEmpty

/-- NV.RECALL: its read phase begins once it holds the port. -/
def nvRecallBody : Body := fun q _ _ c =>
  if !(c.queue q).calls.isEmpty then .fail St.busySelf c
  else if c.inRoutine then .fail St.busy c
  else if (c.queue q).posted then .fail St.order c
  else if !c.portFree then .wait .storePort 0 0 c
  else .wait .recl 0 0 { c with nvs := { c.nvs with recl := some (some q) } }

/-- The newest valid record and its slot (R351, R352). -/
def Nvs.newest (n : Nvs) : Option (CommitRec × Nat) :=
  let a := vget n.slots 0
  let b := vget n.slots 1
  match a.valid, b.valid with
  | true, true => if a.gen.toNat < b.gen.toNat then some (b, 1) else some (a, 0)
  | true, false => some (a, 0)
  | false, true => some (b, 1)
  | false, false => none

/-- The cell that the next store of a counter programs, the one after its current cell modulo 16, with a content (R360). -/
def Nvs.putCell (n : Nvs) (k : Nat) (x : CtrCell) : Nvs :=
  { n with cells := vmod n.cells k fun r => vset r (vget n.cur k + 1).toNat x }

/-- The copy map of the newest valid record, or of the shipped image. -/
def Nvs.base (n : Nvs) : CommitRec := (n.newest.map (·.1)).getD CommitRec.shipped

/-- What a store programs before its record: pages into the copies that the map does not name, counters into their next
cells (R348). -/
def Nvs.putItems (n : Nvs) (s : StoreOp) (pages : List Nat) (vals : List (Nat × BitVec 48)) : Nvs :=
  let toB := pages.filter fun p => !n.base.map.getLsbD p
  let toA := pages.filter fun p => n.base.map.getLsbD p
  let put (src dst : Mem) (l : List Nat) (w : Nat) : Mem :=
    l.foldl (fun m p => memCopy 0 src (w * p) m (w * p) w) dst
  let m := vals.foldl (fun m e => m.putCell e.1 (CtrCell.seal e.1 e.2 n.nextGen)) n
  { m with
    copyA := put s.latch n.copyA toA 256
    copyB := put s.latch n.copyB toB 256
    eccA := put s.lecc n.eccA toA 16
    eccB := put s.lecc n.eccB toB 16 }

/-- A store that stops after `k` of its pages and counters (R348, R358). -/
def Nvs.stopAt (n : Nvs) (s : StoreOp) (k : Nat) : Nvs := n.putItems s (s.pages.take k) (s.vals.take (k - s.pages.length))

/-- A store programmed with its record in the other slot: the current cells, the marks, the generation (R348). -/
def Nvs.program (n : Nvs) (s : StoreOp) : Nvs :=
  let g := n.nextGen
  let slot := match n.newest with | some (_, 0) => 1 | _ => 0
  let map := n.base.map ^^^ listBits 1088 s.pages
  { n.putItems s s.pages s.vals with
    cur := s.vals.foldl (fun v e => vset v e.1 (vget v e.1 + 1)) n.cur
    slots := vset n.slots slot (CommitRec.seal g (BitVec.ofNat 16 s.pages.length) (BitVec.ofNat 8 s.ctrs.length)
      (s.kind.setWidth 8) map (s.ctrs.foldl (fun v k => vset v k g) n.base.seqs))
    flyP := n.flyP &&& ~~~listBits 1088 s.pages
    flyC := n.flyC &&& ~~~listBits 64 s.ctrs
    gen := g
    nextGen := g + 1
    lastst := natW 0 s.pages.length ||| natW 16 s.ctrs.length ||| fldW 24 s.kind
    stores := satAdd n.stores 1
    store := none }

/-! ### Recall (R352 to R354) -/

/-- The value a recall gives a counter: the named cell, else the highest correct cell below it, else 0. Answers the
value, the cell's number and whether it fell back. -/
def Nvs.cellFor (n : Nvs) (k : Nat) (seq : Word) : Option (CtrCell × Nat) × Bool :=
  let good := ((vget n.cells k).toList.mapIdx fun i x => (x, i)).filter fun e => e.1.good k
  match good.find? fun e => e.1.seq == seq with
  | some e => (some e, false)
  | none =>
    let below := good.filter fun e => decide (e.1.seq.toNat < seq.toNat)
    (below.foldl (fun (o : Option (CtrCell × Nat)) e =>
      match o with | some b => if b.1.seq.toNat < e.1.seq.toNat then some e else o | none => some e) none, true)

/-- One counter loaded by a recall of a record. -/
def Chip.recallCtr (c : Chip) (r : CommitRec) (k : Nat) : Chip :=
  let seq := vget r.seqs k
  let (cell, fell) := c.nvs.cellFor k seq
  let c := c.setCtr k (match cell with | some e => e.1.value | none => 0)
  let c := { c with nvs := { c.nvs with cur := vset c.nvs.cur k (match cell with
    | some e => BitVec.ofNat 4 e.2
    | none => vget c.nvs.cur k) } }
  if fell then
    (c.setNvsEvt 10).record 0x1C02 0x0C k (ctxAt 32 seq.toNat ||| ctxAt 36 (match cell with
      | some e => e.1.seq.toNat
      | none => 0))
  else c

/-- One page loaded by a recall from its copy, words with errors handled as Table NVS-2. -/
def Chip.recallPage (c : Chip) (r : CommitRec) (p : Nat) : Chip :=
  let b := r.map.getLsbD p
  let src := if b then c.nvs.copyB else c.nvs.copyA
  let err := if b then c.nvs.eccB else c.nvs.eccA
  let a := pageAddr p
  let c := { c with mem := memCopy 0 src (256 * p) c.mem a 256 }
  (List.range 16).foldl (fun c i =>
    let w := a + 16 * i
    match (memRead 0 err (16 * p + i)).toNat with
    | 0 => c.setEcc w 0
    | 1 => (c.setEcc w 0).logCorrect w
    | _ => ((c.setEcc w 0).poisonWord w 3).setNvsEvt 3) c

/-- The shipped image of R354, with its event and record. -/
def Chip.recallShipped (c : Chip) : Chip :=
  let c := { c with
    mem := (c.mem.filter fun e => !((0x30000000 ≤ e.1 && e.1 < 0x30040000) || (0x38000000 ≤ e.1 && e.1 < 0x38004000)))
    ecc := c.ecc.filter fun e => !((0x3000000 ≤ e.1 && e.1 < 0x3004000) || (0x3800000 ≤ e.1 && e.1 < 0x3800400)) }
  let c := { c with mem := memPut 0 c.mem 0x38000000 0x0A06 4 }
  let c := { c with nvs := { c.nvs with ctrs := Vector.replicate 3 (Vector.replicate 64 0) } }
  (c.setNvsEvt 8).record 0x1C03 0 0 0

/-- The highest sequence of any correct cell. -/
def Nvs.topSeq (n : Nvs) : Nat :=
  ((n.cells.toList.mapIdx fun k r => (r.toList.filter (·.good k)).map fun x => x.seq.toNat).flatten).foldl max 0

/-- The larger generation among the valid records. -/
def Nvs.topGen (n : Nvs) : Nat := ((n.slots.toList.filter (·.valid)).map fun r => r.gen.toNat).foldl max 0

/-- The settings that a recall takes from pages 1,024 and 1,025; with bpl the live bp stays (R355). -/
def Chip.loadSettings (c : Chip) : Chip :=
  let m := c.mem
  let mode (a : Nat) : BitVec 2 := (memRead 0 m a).setWidth 2
  let pref := memNat 0 m 0x38000004 4
  let policy : Word := BitVec.ofNat 32 (memNat 0 m 0x38000000 4)
  { c with
    clk := { c.clk with policy := policy }
    mem := if c.nvs.bpl then memPut 0 m 0x38000008 c.nvs.bp.toNat 1 else m
    prs := { c.prs with bootpref := if pref.testBit 1 then some (pref.testBit 0) else none }
    nvs := { c.nvs with
      bp := if c.nvs.bpl then c.nvs.bp else mode 0x38000008
      hostMode := mode 0x3800000C
      mgtMode := mode 0x3800000D
      hostPw := BitVec.ofNat 64 (memNat 0 m 0x38000100 8)
      mgtPw := BitVec.ofNat 64 (memNat 0 m 0x38000110 8) } }

/-- The recall of R352: the newest committed generation replaces the SRAM and the counter file, in one cc, whose records are
numbered by cause (R376). -/
def Chip.recallAll (c : Chip) : Chip :=
  let old := c
  let c := match c.nvs.newest with
    | none => { c.recallShipped with nvs := { c.recallShipped.nvs with
        gen := 0, nextGen := BitVec.ofNat 32 (1 + c.nvs.topSeq) } }
    | some (r, _) =>
      let c := (List.range 1088).foldl (fun (c : Chip) p => c.recallPage r p) c
      let c := (List.range 64).foldl (fun (c : Chip) k => c.recallCtr r k) c
      let c := if r.gen.toNat < c.nvs.topSeq then c.setNvsEvt 7 else c
      { c with nvs := { c.nvs with
          gen := r.gen
          nextGen := BitVec.ofNat 32 (1 + max (max r.gen.toNat c.nvs.topGen) c.nvs.topSeq) } }
  old.sortRecords { c with nvs := { c.nvs with dirtyP := 0, flyP := 0, dirtyC := 0, flyC := 0 } }.loadSettings

/-! ### Passwords and protection (R366, R367) -/

/-- The state of a store channel: mode, password, unlocked, attempts, locked out. `m` is the management channel. -/
def Nvs.chan (n : Nvs) (m : Bool) : BitVec 2 × BitVec 64 × Bool × BitVec 4 × Bool :=
  if m then (n.mgtMode, n.mgtPw, n.mgtUnl, n.mgtTry, n.mgtOut)
  else (n.hostMode, n.hostPw, n.hostUnl, n.hostTry, n.hostOut)

/-- Unlock state, attempts and lockout of a channel set. -/
def Nvs.setChan (n : Nvs) (m unl : Bool) (try_ : BitVec 4) (out : Bool) : Nvs :=
  if m then { n with mgtUnl := unl, mgtTry := try_, mgtOut := out }
  else { n with hostUnl := unl, hostTry := try_, hostOut := out }

/-- NV.UNLOCK (R207, R366). -/
def nvUnlockBody : Body := fun q f _ c =>
  let m := q == 5
  let ch := if m then 1 else 0
  let s := Src.ofQueue q
  let (_, pw, _, n, out) := c.nvs.chan m
  if f.ext.getLsbD 0 then .done St.ok (n.setWidth 64) { c with nvs := c.nvs.setChan m false n out }
  else if out then .done St.locked 0 (c.violate s 0x3E05 0x0A ch 0)
  else if f.op = pw then .done St.ok 8 { c with nvs := c.nvs.setChan m true 8 false }
  else
    let left := n - 1
    let c := (c.setNvsEvt 5).violate s 0x3E04 0x0A ch left.toNat
    let c := { c with nvs := c.nvs.setChan m false left (left == 0) }
    .done St.locked (left.setWidth 64) (if left = 0 then (c.setNvsEvt 4).record 0x3E05 0x0A ch 0 else c)

/-- The host channel is open or unlocked (R367). -/
def Chip.hostMay (c : Chip) : Bool := c.nvs.hostMode == 0 || c.nvs.hostUnl

/-- NV.PROT (R367). -/
def nvProtBody : Body := fun q f _ c =>
  let bp : BitVec 2 := f.op.extractLsb' 0 2
  if c.nvs.bpl || !c.hostMay then .fail St.locked (c.violate (Src.ofQueue q) 0x3E01 0x0B 15 0)
  else
    let old := c.nvs.bp
    let c' := { c with nvs := { c.nvs with bp := bp, bpl := f.op.getLsbD 2 } }
    let c' := if bp = old then c'
      else { c' with mem := memPut 0 c'.mem 0x38000008 bp.toNat 1 }.dirty 1024
    .done St.ok (old.setWidth 64) c'

end Sys2Proof.Machine
end

