-- ==== Sys2Proof/Machine/DmaInsn.lean ====
section
/-!
DEFINITION. The DMA engine (R392 to R412) and its opcodes DMA.GO, DMA.STOP, DMA.STAT (R208, R209, R395, R410): addresses,
bursts, reads, writes, acknowledges and halts, which the engine's own event rows share.
-/
namespace Sys2Proof.Machine

/-! ### Sides of a descriptor (R392, R395, R400) -/

/-- The first address of a circular buffer. -/
def circBase (start clog : Nat) : Nat := start / 2 ^ clog * 2 ^ clog

/-- The address of word `k` of a side (Table DMA-1). -/
def sideAddr (mode start clog k : Nat) : Nat :=
  match mode with
  | 0 => start + 16 * k
  | 1 => start
  | _ => circBase start clog + (start - circBase start clog + 16 * k) % 2 ^ clog

/-- The addresses a side spans: first and one past the last (check 6). An endless incrementing side is checked for its
first word. -/
def sideSpan (mode start clog len : Nat) : Nat × Nat :=
  match mode with
  | 0 => (start, start + max 16 len)
  | 1 => (start, start + 16)
  | _ => (circBase start clog, circBase start clog + 2 ^ clog)

/-- The words of one transaction of a side at word `k`, `left` of them still to move (R400). -/
def burstLen (mode start clog bl k left : Nat) : Nat :=
  if mode = 1 then min 1 left
  else
    let a := sideAddr mode start clog k
    let m := min (min (2 ^ bl) left) ((1024 - a % 1024) / 16)
    if mode = 2 then min m ((circBase start clog + 2 ^ clog - a) / 16) else m

/-- Fields of the latched configuration. -/
def Dma.smode (d : Dma) : Nat := field d.lcfg 0 2
def Dma.dmode (d : Dma) : Nat := field d.lcfg 2 2
def Dma.sclog (d : Dma) : Nat := field d.lcfg 4 5
def Dma.dclog (d : Dma) : Nat := field d.lcfg 9 5
def Dma.paced (d : Dma) : Bool := field d.lcfg 23 2 == 1

/-- The address of word `k` at the source and at the destination. -/
def Dma.srcAddr (d : Dma) (k : Nat) : Nat := sideAddr d.smode d.lsrc.toNat d.sclog k
def Dma.dstAddr (d : Dma) (k : Nat) : Nat := sideAddr d.dmode d.ldst.toNat d.dclog k

/-- Words the channel still has to read. An endless channel always has some. -/
def Dma.left (d : Dma) : Nat := if d.llen = 0 then 2 ^ 20 else d.llen.toNat / 16 - d.rd

/-- The records of the capture ring that CAP.WPTR has passed and a paced channel has not read: at most the ring's 16,384, since a
position further off lies ahead of CAP.WPTR (R402; DEDUCED, log entry 128). -/
def Chip.pacedRecords (c : Chip) (d : Dma) : Nat :=
  let n := (c.edg.wptr - d.capPos).toNat
  if 16384 < n then 0 else n

/-- The next read burst of a channel: R400, and for a paced channel the records that CAP.WPTR has passed (R402). -/
def Chip.nextBurst (c : Chip) (ch : Nat) : Nat :=
  let d := vget c.dma ch
  let n := burstLen d.smode d.lsrc.toNat d.sclog (field d.lcfg 20 3) d.rd d.left
  if d.paced then min n (c.pacedRecords d) else n

/-- The bytes of a word rearranged (Table DMA-5). -/
def swapWord (code : Nat) (w : QWord) : QWord :=
  let x := match code with | 1 => 1 | 2 => 3 | 3 => 7 | 4 => 2 | _ => 0
  BitVec.ofNat 128 (bytesNat ((List.range 16).map fun n => w.extractLsb' (8 * (n ^^^ x)) 8))

/-! ### The reference buffer (R404, R405) -/

/-- Base, size and start of the reference buffer; none when no side is circular. -/
def Dma.ref (d : Dma) : Option (Nat × Nat × Nat) :=
  if d.dmode = 2 then some (circBase d.ldst.toNat d.dclog, 2 ^ d.dclog, d.ldst.toNat)
  else if d.smode = 2 then some (circBase d.lsrc.toNat d.sclog, 2 ^ d.sclog, d.lsrc.toNat)
  else none

/-- DMA.POSc once `k` words are written. -/
def Dma.posAt (d : Dma) (k : Nat) : Word :=
  match d.ref with
  | some (b, n, s) => BitVec.ofNat 32 ((s - b + 16 * k) % n)
  | none => BitVec.ofNat 32 (16 * k)

/-- One of words `a` to `b - 1` ends at an offset of the reference buffer. -/
def Dma.passes (d : Dma) (a b offset : Nat) : Bool :=
  match d.ref with
  | some (base, n, s) => (List.range (b - a)).any fun i => (s - base + 16 * (a + i)) % n + 16 == offset
  | none => false

/-! ### Ends of a transfer -/

/-- Every DMA.STOP that drains a channel retires. -/
def Chip.retireDrains (c : Chip) (ch : Nat) (st : Byte) (res : DWord) : Chip :=
  (List.range 8).foldl (fun c q =>
    match (vget c.eng.queues q).wait with
    | some w => if w.kind == .drain && w.t.toNat == ch then c.retireWait (Fin.ofNat 8 q) st res else c
    | none => c) c

/-- A channel event with its hardware flag (Table DMA-6). -/
def Chip.dmaEvent (c : Chip) (ch bit cls : Nat) : Chip := (c.setDmaEvt ch bit).fireSource cls ch

/-- The credits a channel holds go back. -/
def Chip.returnCredits (c : Chip) (ch : Nat) : Chip :=
  { c with credits := c.credits + (vget c.dma ch).credits }.modDma ch fun d => { d with credits := 0 }

/-- A channel becomes idle at the end of a transfer or a drain. -/
def Chip.dmaIdle (c : Chip) (ch : Nat) : Chip :=
  (c.returnCredits ch).modDma ch fun d =>
    { d with st := .idle, gen := d.gen + 1, last := if d.corr then St.corrected else St.ok }

/-- The acknowledge of every word handed over: half and full in a channel that runs, since a drain sets no event; the counts and
the position (R404, R405). -/
def Chip.ackWords (c : Chip) (ch : Nat) : Chip :=
  let d := vget c.dma ch
  let size := match d.ref with | some (_, n, _) => n | none => 0
  let runs := d.st == .running
  let c := if runs && d.passes d.acked d.wr (size / 2) then c.dmaEvent ch 2 4 else c
  let c := if runs && d.passes d.acked d.wr size then c.dmaEvent ch 3 4 else c
  c.modDma ch fun x => { x with
    acked := d.wr
    bytes := satAdd x.bytes (16 * (d.wr - d.acked))
    pos := d.posAt d.wr }

/-- Nothing of a channel is left to drain: every word read is written and acknowledged, and no read awaits its retry (R410). -/
def Dma.drained (d : Dma) : Bool := d.buf.isEmpty && d.wr == d.acked && d.fail.isNone

/-- The write acknowledge of every word handed over, then done or the end of a drain (R394, R404, R410). -/
def Chip.dmaAck (c : Chip) (ch : Nat) : Chip :=
  if !(vget c.dma ch).active then c
  else
    let c := c.ackWords ch
    let d := vget c.dma ch
    if d.st == .draining then
      if d.drained then (c.dmaIdle ch).retireDrains ch St.ok (d.bytes.setWidth 64) else c
    else if d.llen ≠ 0 ∧ 16 * d.wr = d.llen.toNat then (c.dmaIdle ch).dmaEvent ch 0 3
    else c

/-- Words of the buffer written in order until `n` are written or one fails: its status, its address, the chip. The
buffer's own code corrects one bit; a word it cannot correct halts the channel as an uncorrectable read does (R30,
R408; log entry 107). -/
def Chip.dmaPut (c : Chip) (die : Die) (ch : Nat) : Nat → Option (Byte × Nat) × Chip
  | 0 => (none, c)
  | n + 1 =>
    let d := vget c.dma ch
    match d.buf with
    | [] => (none, c)
    | w :: r =>
      let a := d.dstAddr d.wr
      let k := d.chk.headD 0
      let res := if 2 ≤ k then (St.eccUncorr, c) else c.storeWord die (Src.dma d.queue) a w
      if failed res.1 then (some (res.1, a), res.2)
      else
        let c := res.2.modDma ch fun x =>
          { x with
            buf := r
            chk := x.chk.tail
            wr := x.wr + 1
            credits := x.credits - 1
            corr := x.corr || k == 1 }
        ({ c with credits := c.credits + (if d.credits = 0 then 0 else 1) }).dmaPut die ch n

/-- A channel halts (R409): the words read before a failing read are written and acknowledged, the rest discarded; a write that
failed is not tried again. -/
def Chip.dmaHalt (c : Chip) (die : Die) (ch : Nat) (st : Byte) (a : Nat) (write : Bool) : Chip :=
  let c := if write then c else (c.dmaPut die ch (vget c.dma ch).buf.length).2
  let c := ((c.ackWords ch).returnCredits ch).modDma ch fun x =>
    { x with
      st := .halted
      gen := x.gen + 1
      last := st
      erraddr := BitVec.ofNat 32 a
      buf := []
      chk := []
      fail := none
      tries := 0 }
  (c.dmaEvent ch 1 3).retireDrains ch st 0

/-- A failed access: LOCKED and ECC_UNCORR halt at once; any other failure is a bus error, retried up to the channel's
limit (R407, R408). A read that awaits its retry keeps the credits of its burst. -/
def Chip.dmaFail (c : Chip) (die : Die) (ch : Nat) (st : Byte) (a : Nat) (write : Bool) : Chip :=
  if st = St.locked ∨ st = St.eccUncorr then c.dmaHalt die ch st a write
  else if field (vget c.dma ch).lcfg 17 3 ≤ (vget c.dma ch).tries then c.dmaHalt die ch St.busErr a write
  else c.modDma ch fun d => { d with fail := some (St.busErr, BitVec.ofNat 32 a), failW := write }

/-! ### Reads and writes (R399 to R403) -/

/-- Words read in order into the buffer until `n` are read or one fails. -/
def Chip.dmaGet (c : Chip) (die : Die) (ch : Nat) : Nat → Option (Byte × Nat) × Chip
  | 0 => (none, c)
  | n + 1 =>
    let d := vget c.dma ch
    let a := d.srcAddr d.rd
    let (st, v, c) := c.load die (Src.dma d.queue) a 16
    if failed st then (some (st, a), c)
    else
      let w := swapWord (field d.lcfg 14 3) (BitVec.ofNat 128 v)
      (c.modDma ch fun x => { x with
        buf := x.buf ++ [w]
        chk := x.chk ++ [0]
        rd := x.rd + 1
        rdbytes := satAdd x.rdbytes 16
        corr := x.corr || st == St.corrected
        capPos := x.capPos + 1 }).dmaGet die ch n

/-- The channel may be served: it runs, has words to read, and the pool and its own share have room (R399). -/
def Chip.dmaReady (c : Chip) (ch : Nat) : Bool :=
  let d := vget c.dma ch
  let n := c.nextBurst ch
  d.st == .running && d.fail.isNone && n != 0 && decide (n ≤ c.credits) && decide (d.credits + n ≤ 256)

/-- The write engine has a word of the channel to write. -/
def Chip.dmaHolds (c : Chip) (ch : Nat) : Bool :=
  let d := vget c.dma ch
  d.active && d.fail.isNone && !d.buf.isEmpty

/-- The channel an engine serves next: in the round that begins at channel `k`, the first that it may serve (R399, R401). -/
def turnOf (k : Nat) (may : Nat → Bool) : Option Nat := ((List.range 12).map fun i => (k + i) % 12).find? may

/-- What follows the accesses of a transaction: nothing is left to try again, or its failure is. -/
def Chip.dmaTried (die : Die) (ch : Nat) (write : Bool) : Option (Byte × Nat) × Chip → Chip
  | (none, c) => c.modDma ch fun d => { d with tries := 0 }
  | (some (st, a), c) => c.dmaFail die ch st a write

/-- The words of the channel's next write transaction. -/
def Dma.writeLen (d : Dma) : Nat := burstLen d.dmode d.ldst.toNat d.dclog (field d.lcfg 20 3) d.wr d.buf.length

/-- One read burst of a channel; the round goes on after it. -/
def Chip.dmaRead (c : Chip) (die : Die) (ch : Nat) : Chip :=
  if !c.dmaReady ch then c
  else
    let n := c.nextBurst ch
    let c := { c with credits := c.credits - n, rdTurn := (ch + 1) % 12 }.modDma ch fun d => { d with credits := d.credits + n }
    Chip.dmaTried die ch false (c.dmaGet die ch n)

/-- One write burst of a channel; the round goes on after it. -/
def Chip.dmaWrite (c : Chip) (die : Die) (ch : Nat) : Chip :=
  if !c.dmaHolds ch then c
  else Chip.dmaTried die ch true ({ c with wrTurn := (ch + 1) % 12 }.dmaPut die ch (vget c.dma ch).writeLen)

/-! ### DMA.GO (R395, R209) -/

/-- Check 3 of Table DMA-2. -/
def dmaCfgOk (ch : Nat) (src cfg : Word) : Bool :=
  let sm := field cfg 0 2
  let dm := field cfg 2 2
  let circ (m cl : Nat) : Bool := m != 2 || (decide (ch < 4) && decide (8 ≤ cl ∧ cl ≤ 20))
  sm != 3 && dm != 3 && circ sm (field cfg 4 5) && circ dm (field cfg 9 5) && decide (field cfg 14 3 ≤ 4)
    && decide (field cfg 20 3 ≤ 6)
    && (match field cfg 23 2 with
      | 0 => true
      | 1 => sm == 2 && field cfg 4 5 == 18 && regionOf src.toNat == some 2
      | _ => false)

/-- A span names the persistent system area (check 5). -/
def inSystem (s : Nat × Nat) : Bool := decide (s.1 < 0x38004000 ∧ 0x38000000 < s.2)

/-- A span lies wholly within one region, one of `ok` when a list is given (check 6). -/
def spanOk (ok : List Nat) (s : Nat × Nat) : Bool :=
  match regionOf s.1 with
  | some r => regionOf (s.2 - 1) == some r && ok.contains r
  | none => false

/-- Checks 1 to 7 of Table DMA-2: the status of the first that fails and whether it is the violation of check 7. -/
def dmaGoCheck (die : Die) (ch : Nat) (d : Dma) : Option (Byte × Bool) :=
  let cfg := d.cfg
  let ss := sideSpan (field cfg 0 2) d.src.toNat (field cfg 4 5) d.len.toNat
  let ds := sideSpan (field cfg 2 2) d.dst.toNat (field cfg 9 5) d.len.toNat
  if ch < 12 ∧ (d.src.toNat % 16 ≠ 0 ∨ d.dst.toNat % 16 ≠ 0 ∨ d.len.toNat % 16 ≠ 0) then some (St.align, false)
  else if 11 < ch then some (St.range, false)
  else if !dmaCfgOk ch d.src cfg then some (St.range, false)
  else if d.len = 0 ∧ field cfg 0 2 ≠ 2 ∧ field cfg 2 2 ≠ 2 then some (St.range, false)
  else if inSystem ss || inSystem ds then some (St.priv, false)
  else if !spanOk [0, 1, 2, 3, 4, 6, 7, 8, 9] ss || !spanOk [0, 1, 4, 8, 9] ds then some (St.range, false)
  else if regionOf ss.1 = some 6 ∧ !die.mayReadBack then some (St.locked, true)
  else none

/-- DMA.GO latches the descriptor (R208). -/
def Dma.latch (d : Dma) (q : Queue) : Dma :=
  { d with
    lsrc := d.src
    ldst := d.dst
    llen := d.len
    lcfg := d.cfg
    queue := q }

/-- The channel RUNNING on its latched descriptor, its counts restarted. -/
def Dma.start (d : Dma) : Dma :=
  let d := { d with
    st := .running
    gen := d.gen + 1
    bytes := 0
    rdbytes := 0
    rd := 0
    wr := 0
    acked := 0
    buf := []
    chk := []
    credits := 0
    corr := false
    fail := none
    failW := false
    tries := 0
    capPos := BitVec.ofNat 15 (d.lsrc.toNat / 16 % 16384) }
  { d with pos := d.posAt 0 }

/-- Another queue's DMA.GO, begun before, holds the channel while it waits for credits. -/
def Chip.goWaits (c : Chip) (q : Queue) (ch : Nat) : Bool :=
  let own := ((c.queue q).wait.map (·.since)).getD c.eng.serial
  (List.range 8).any fun k => k != q.val && match (vget c.eng.queues k).wait with
    | some w => w.kind == .credits && field w.f.tgt 0 4 == ch && decide (w.since < own)
    | none => false

/-- The head of a queue is a DMA.GO that holds its channel, with the descriptor latched, and waits for credits. -/
def Chip.goHolds (c : Chip) (q : Queue) : Bool :=
  match (c.queue q).wait with
  | some w => w.kind == .credits && w.res == 1
  | none => false

/-- A DMA.GO that holds its channel, with the chip `c` as the channel's latched descriptor leaves it: it starts when
it is paced or its first burst has credits, else it waits (R209). -/
def Chip.goStart (c : Chip) (die : Die) (ch : Nat) : Done :=
  let c' := c.modDma ch Dma.start
  if (vget c'.dma ch).paced then .done St.ok 0 c'
  else if c.credits < c'.nextBurst ch then .wait .credits 0 1 c
  else .done St.ok 0 (c'.dmaRead die ch)

/-- The management path has dropped a channel in this cc, the safer change (check 9 of Table DMA-2, R413). -/
def Chip.dropsNow (c : Chip) (ch : Nat) : Bool := c.memo.drops.getLsbD ch

/-- DMA.GO. A channel that another queue's DMA.GO holds is waited for (rank 3), then the credits (rank 4). -/
def dmaGoBody : Body := fun q f die c =>
  let ch := field f.tgt 0 4
  let d := vget c.dma ch
  if c.goHolds q then c.goStart die ch
  else match dmaGoCheck die ch d with
    | some (st, true) => .fail st (c.violate (Src.ofQueue q) 0x3E03 8 6 d.src.toNat)
    | some (st, false) => .fail st c
    | none =>
      if (c.queue q).posted then .fail St.order c
      else if d.active then .fail St.busy c
      else if c.dropsNow ch then .fail St.stale c
      else if c.goWaits q ch then .wait .credits 0 0 c
      else (c.modDma ch (·.latch q)).goStart die ch

/-! ### DMA.STOP and DMA.STAT -/

/-- DMA.STOP: a drop at once, or a drain. -/
def dmaStopBody : Body := fun _ f _ c =>
  let ch := field f.tgt 0 4
  let d := vget c.dma ch
  if 11 < ch then .fail St.range c
  else if c.dropsNow ch then .fail St.stale c
  else if f.ext.getLsbD 0 then .done St.ok 0 (c.dropDma ch)
  else if !d.active then .done St.ok (d.bytes.setWidth 64) c
  else
    let c := if d.st == .running then c.modDma ch fun x => { x with st := .draining, gen := x.gen + 1 } else c
    if d.drained then .done St.ok (d.bytes.setWidth 64) (c.dmaIdle ch)
    else .wait .drain (BitVec.ofNat 64 ch) 0 c

/-- DMA.STAT. -/
def dmaStatBody : Body := fun _ f _ c =>
  let ch := field f.tgt 0 4
  let d := vget c.dma ch
  if 11 < ch then .fail St.range c
  else .done St.ok (d.gen ++ d.last ++ (0 : BitVec 4) ++ BitVec.ofNat 4 d.st.code ++ d.bytes) c

end Sys2Proof.Machine
end

