-- ==== Sys2Proof/Machine/Txn.lean ====
section
/-!
DEFINITION. The transaction opcodes (R165 to R171, R210, R211): TXN.BEGIN, TXN.COMMIT, TXN.ABORT, TXN.COMMIT.AT, and the
commit itself.
-/
namespace Sys2Proof.Machine

/-! ### The checks of a commit (R211) -/

/-- The first staged register word that a lock refuses: the chip with the violation. -/
def Chip.lockedReg (c : Chip) (die : Die) (q : Queue) : List (Nat × Word) → Option Chip
  | [] => none
  | (a, v) :: r =>
    let w := c.writeReg die (Src.ofQueue q) a v
    if w.1 = St.locked then some w.2 else c.lockedReg die q r

/-- Every EPU named by a staged request has room. -/
def Chip.edgeRoom (c : Chip) (x : Ctx) : Bool :=
  let pins := (x.edges.filter fun e => e.code != 0x33).map (·.pin)
  pins.all fun p => decide ((vget c.pins p).q.length + pins.count p ≤ 8)

/-- The first check that fails: its status and the chip it leaves. -/
def Chip.commitCheck (c : Chip) (die : Die) (q : Queue) (k : Fin 4) : Option (Byte × Chip) :=
  let x := vget c.eng.ctxs k.val
  match c.lockedReg die q x.regs with
  | some c => some (St.locked, c)
  | none =>
    match x.nv.find? fun e => !c.mayWrite (Src.ofQueue q) e.1 with
    | some e => some (c.refuseWrite (Src.ofQueue q) e.1)
    | none =>
      if !c.claimsGood k then some (St.stale, c.abortCtx k)
      else if x.journal && (c.queue q).posted then some (St.order, c)
      else if !c.edgeRoom x then some (St.busy, c)
      else none

/-! ### Applying -/

/-- A staged frond state entered. -/
def Chip.commitFrond (c : Chip) (s : FrondStage) : Chip :=
  match s.kind with
  | 1 => c.setFronds (bitW s.frond true) .safe
  | 2 => c.setFronds (bitW s.frond true) .reset
  | 3 => c.setFronds (bitW s.frond true) .run
  | _ => c

/-- A staged cam operation applied. -/
def Chip.commitCam (c : Chip) (s : CamStage) : Chip :=
  match s.kind with
  | 0 => c.modCam s.cam (Cam.activate c)
  | 1 => c.modCam s.cam (·.arm (c.look.getD 0))
  | 2 => c.modCam s.cam Cam.disarm
  | _ => c.modCam s.cam (·.nudge s.val)

/-- A staged edge request applied. -/
def Chip.commitEdge (c : Chip) (e : EdgeStage) : Chip :=
  if e.code = 0x33 then c.setPinSafe e.pin (field e.f.op 0 16) (e.f.ext.getLsbD 0) else (c.acceptEdge e.code e.f).2.2

/-- One word of the journal merged into the store (Table NVS-2). -/
def Chip.commitWord (c : Chip) (x : Ctx) (a : Nat) : Chip :=
  let bs := x.nv.filter fun e => e.1 / 16 * 16 == a
  if x.nvFull.contains a then
    c.putWord a (BitVec.ofNat 128 (memNat 0
      (bs.foldl (fun (m : Mem) (e : Nat × Byte) => memWrite 0 m e.1 e.2) []) a 16))
  else if 2 ≤ c.eccAt a then c.poisonWord a 1
  else
    let c := if c.eccAt a = 1 then (c.setEcc a 0).logCorrect a else c
    { c with mem := bs.foldl (fun (m : Mem) (e : Nat × Byte) => memWrite 0 m e.1 e.2) c.mem }.dirty ((a - 0x30000000) / 256)

/-- One staged register word written at the commit: an armed EPU, which bars a store to EDG.PINCFGp, does not bar it. -/
def Chip.commitReg (c : Chip) (die : Die) (q : Queue) (a : Nat) (v : Word) : Wr :=
  if a / 0x10000 = 10 ∧ a % 0x10000 < 0x300 then (St.ok, c.setPincfg (a % 0x400 / 4) v) else c.writeReg die (Src.ofQueue q) a v

/-- The staged register words of a transaction written: how many, and the chip. In a cc that its commands name, a word that a
transaction begun later has written keeps that value (R171). A word whose register takes no such value any more is not
counted. -/
def Chip.commitRegs (c : Chip) (die : Die) (q : Queue) (x : Ctx) (named : Bool) : Nat × Chip :=
  x.regs.foldl (fun (r : Nat × Chip) e =>
    if named && r.2.memo.words.any (fun w => w.1 == e.1 && decide (x.serial < w.2)) then (r.1 + 1, r.2)
    else
      let w := r.2.commitReg die q e.1 e.2
      if failed w.1 then (r.1, w.2)
      else (r.1 + 1, if named then w.2.modMemo fun m => { m with words := m.words ++ [(e.1, x.serial)] } else w.2)) (0, c)

/-- Every staged effect applied on one edge (R168): the register words written and the chip. -/
def Chip.applyTxn (c : Chip) (die : Die) (q : Queue) (x : Ctx) (named : Bool) : Nat × Chip :=
  let c1 := if x.swaps = 0 then c else c.swapMask x.swaps
  let c1 := x.fronds.foldl Chip.commitFrond c1
  let c1 := x.cams.foldl Chip.commitCam c1
  let c1 := x.edges.foldl Chip.commitEdge c1
  let (n, c1) := c1.commitRegs die q x named
  let c1 := ((x.nv.map fun e => e.1 / 16 * 16).dedup).foldl (fun (c : Chip) a => c.commitWord x a) c1
  let c1 := x.ctrs.foldl (fun c e => (c.addCtr e.1 e.2).2) c1
  let c1 := if q = 0 || x.fronds.any (fun s => s.kind == 3) then c1.settle c1.releasePins else c1
  let c1 := c.onceGen c1
  (n, if named then c.camOnce c1 else c1)

/-- The entries a commit applies, as the last column of Table IMD-7 counts them; `n` register words were written. -/
def Ctx.applied (x : Ctx) (n : Nat) (old new : Chip) : Nat :=
  n
    + ((x.fronds.map (·.frond)).dedup.filter fun n =>
        (vget old.fronds n).plane != (vget new.fronds n).plane || (vget old.fronds n).st != (vget new.fronds n).st).length
    + (x.cams.map fun s => if s.kind = 0 then (vget old.cams s.cam).shadow.length else 1).sum
    + x.edges.length + x.pages.length + x.ctrs.length

/-- The units that a commit has changed, as R133 needs them. -/
def Ctx.notes (x : Ctx) (q : Queue) (f : Insn) (old new : Chip) : List UnitNote :=
  ((x.fronds.map (·.frond)).dedup.map fun n =>
      ⟨.frond n, (vget old.fronds n).gen, (vget new.fronds n).st.rank, q, f, (old.queue q).rnext⟩)
    ++ ((x.cams.map (·.cam)).dedup.map fun n =>
      ⟨.cam n, (vget old.cams n).gen, if (vget new.cams n).armed then 1 else 0, q, f, (old.queue q).rnext⟩)
    ++ ((x.edges.filter fun e => e.code = 0x33).map fun e =>
      ⟨.bank e.pin, (vget old.banks e.pin).gen, if e.f.ext.getLsbD 0 then 1 else 0, q, f, (old.queue q).rnext⟩)

/-- The commit cc of a transaction: checks, effects, then retirement or the store of the journal. Its claims end with its
staged effects, in the commit cc, also while its journal is being stored: R167 ties them to the transaction, and no rule says
whether it still runs then (DESIGN CHOICE, log entry 98). `named` says that the command names its cc. -/
def Chip.commit (c : Chip) (die : Die) (q : Queue) (k : Fin 4) (f : Insn) (ok : Byte) (named : Bool) : Done :=
  let x := vget c.eng.ctxs k.val
  match c.commitCheck die q k with
  | some (st, c) =>
    .done st 0 (((c.modCtx k.val fun x => { x with waiting := false }).dropPort q).startPosted)
  | none =>
    let (r, c') := c.applyTxn die q x named
    let n := BitVec.ofNat 64 (x.applied r c c' % 65536)
    let c' := if named then c'.noteUnits (x.notes q f c c') else c'
    if x.journal then
      let c' := (c'.unclaim k).modCtx k.val fun y =>
        { Ctx.reset with isOpen := true, owner := q, serial := y.serial, storing := true }
      let c' := c'.snapshot 2 x.pages (x.ctrs.map (·.1)) (some q) (some k)
      .wait .storeDone 0 (n ||| 0x100000000) { c' with eng := { c'.eng with nvQ := none } }
    else .done ok n (c'.closeCtx k)

/-! ### Bodies -/

/-- TXN.BEGIN. -/
def txnBeginBody : Body := fun q _ _ c =>
  if (c.txnOf q).isSome then .fail St.illegal c
  else if (c.queue q).posted then .fail St.order c
  else match c.freeCtx with
    | none => .wait .context 0 0 c
    | some k => .done St.ok (BitVec.ofNat 64 k.val) (c.openCtx q k)

/-- TXN.COMMIT. -/
def txnCommitBody : Body := fun q f die c =>
  match c.txnOf q with
  | none => .fail St.illegal c
  | some k =>
    if c.needsPort q && !c.portFree && !c.holdsPort q then .wait .storePort 0 0 c
    else c.commit die q k f St.ok false

/-- The status a commit keeps across the store of its journal: 1 in the wait's `t` for late. -/
def markLate : Done → Done
  | .wait .storeDone _ res c => .wait .storeDone 1 res c
  | d => d

/-- TXN.COMMIT.AT (R169): the port from issue, ORDER where a posted store of the queue has claimed it before (R175), then the
position; whether that has passed is judged at issue (R180), and a late one meets the checks of R211 in their order at
once. -/
def txnCommitAtBody : Body := fun q f die c =>
  match c.txnOf q with
  | none => .fail St.illegal c
  | some k =>
    let late := c.lateAt q f
    if !late && (vget c.eng.ctxs k.val).journal && (c.queue q).posted then .fail St.order c
    else if c.needsPort q && !c.portFree && !c.holdsPort q then .wait .storePort (if late then 1 else 0) 0 c
    else
      let c := if c.needsPort q then { c with eng := { c.eng with nvQ := some q } } else c
      if late then markLate (c.commit die q k f St.late false)
      else .wait .position f.op (c.look.getD 0) (c.modCtx k.val fun x => { x with waiting := true })

/-- A transaction aborted from outside its own end: a commit or swap that waits completes ABORTED, and a routine whose
instruction waits unwinds (R170, R173). -/
def Chip.abortTxn (c : Chip) (k : Fin 4) : Chip :=
  let q := (vget c.eng.ctxs k.val).owner
  let routine := !(c.queue q).calls.isEmpty
  match (c.queue q).wait with
  | none => c.abortCtx k
  | some w =>
    let own := w.code == 0x81 || w.code == 0x83 || (w.code == 0x25 && w.kind == .position)
    if own || (routine && !w.kind.executing) then
      let c := (((c.dropPort q).abortCtx k).retireWait q St.aborted 0)
      (if routine then c.unwind q St.aborted else c).startPosted
    else c.abortCtx k

/-- TXN.ABORT (R170). A context whose journal is being stored reads open in ENG.TXNk, but its transaction has committed: R170
names no status for it, and the model gives RANGE (DESIGN CHOICE, log entry 98). -/
def txnAbortBody : Body := fun q f _ c =>
  let k : Fin 4 := Fin.ofNat 4 (field f.tgt 0 2)
  let x := vget c.eng.ctxs k.val
  if !x.isOpen || x.storing then .fail St.range c
  else if x.owner ≠ q ∧ q ≠ 0 ∧ q ≠ 1 ∧ q ≠ 7 then .fail St.priv c
  else .done St.ok (BitVec.ofNat 64 (c.entries k % 65536)) (c.abortTxn k)

end Sys2Proof.Machine
end

