-- ==== Sys2Proof/Machine/Stream.lean ====
section
/-!
DEFINITION. The Bruesk stream (R290 to R301): flash reads, header and segment-table checks, keys, decryption, content
checks and trailers, in the verification order of R300.
-/
namespace Sys2Proof.Machine

/-- A reader of the flash: a status on failure, and the count of corrected words. -/
abbrev Rd := ExceptT Byte (StateM Nat)

/-- The first address of a flash region: slot A, slot B, variant bank (R140). -/
def regionBase (r : Nat) : Nat := 0x100000 * r

/-- A program or erase runs in a region. -/
def Prs.busyIn (p : Prs) (r : Nat) : Bool := match p.op with | some o => o.sector / 256 == r | none => false

/-- `n` bytes of flash and the corrected words among them: none at an uncorrectable word, at a sector not VALID or in a
region with an operation (R300, R310). -/
def Prs.flashRead (p : Prs) (a n : Nat) : Option (List Byte × Nat) :=
  let secs := (List.range (n / 4096 + 2)).map (fun i => a / 4096 + i) |>.filter fun s => decide (s * 4096 < a + n)
  let ecc := (List.range (n / 16 + 2)).map (fun i => a / 16 + i) |>.filter (fun w => decide (w * 16 < a + n))
    |>.map fun w => (memRead 0 p.flashEcc w).toNat
  if secs.all (fun s => memRead 0 p.marks s == 1 && !p.busyIn (s / 256)) && ecc.all (· < 2) then
    some (memBytes 0xFF p.flash a n, (ecc.filter (· == 1)).length)
  else none

/-- A flash read inside a check. -/
def Prs.fread (p : Prs) (a n : Nat) : Rd (List Byte) :=
  match p.flashRead a n with
  | some (bs, k) => do
    modify (· + k)
    pure bs
  | none => throw St.eccUncorr

/-- A check with its status on failure. -/
def need (ok : Bool) (st : Byte) : Rd Unit := if ok then pure () else throw st

/-- A little-endian field of a byte list. -/
def le (bs : List Byte) (off n : Nat) : Nat := bytesNat ((bs.drop off).take n)

/-- The bytes of a range are all 0. -/
def zeros (bs : List Byte) (off n : Nat) : Bool := ((bs.drop off).take n).all (· == 0)

/-! ### Header and table (R292 to R295) -/

/-- A stream header (Table PRS-2). -/
structure Hdr where
  mode     : Nat
  n        : Nat
  length   : Nat
  persId   : Nat
  build    : Nat
  flags    : Byte
  irp      : Byte
  variants : Nat
  nonce    : List Byte
  vmac     : List Byte
  runMask  : Nat
  deriving DecidableEq, Repr

/-- A segment table entry (Table PRS-3). `aad` holds its bytes 0 to 15. -/
structure Seg where
  kind    : Nat
  target  : Nat
  variant : Nat
  offset  : Nat
  len     : Nat
  dest    : Nat
  tag     : List Byte
  aad     : List Byte
  deriving DecidableEq, Repr

/-- Steps 1 to 5 of Table PRS-5. `vb` is true for the variant bank. -/
def readHeader (bs : List Byte) (vb : Bool) : Rd Hdr := do
  need (le bs 0 4 == 0x4B535242 && le bs 4 1 == 1) St.range
  need (decide (le bs 5 1 ≤ 1) && le bs 6 1 == (if vb then 1 else 0)) St.range
  need (zeros bs 7 1 && zeros bs 10 2 && zeros bs 19 1 && zeros bs 31 1 && zeros bs 48 16 && zeros bs 100 156
    && decide (le bs 28 1 < 2) && le bs 29 1 / 32 % 4 == 0) St.range
  need (le bs 16 2 == 0x4840 && decide (le bs 18 1 ≤ 2)) St.range
  need (decide (1 ≤ le bs 8 2 ∧ le bs 8 2 ≤ 512) && le bs 12 4 % 16 == 0 && decide (le bs 12 4 ≤ 1048576)) St.range
  pure
    { mode := le bs 5 1
      n := le bs 8 2
      length := le bs 12 4
      persId := le bs 20 4
      build := le bs 24 4
      flags := BitVec.ofNat 8 (le bs 28 1)
      irp := BitVec.ofNat 8 (le bs 29 1)
      variants := le bs 30 1
      nonce := (bs.drop 32).take 16
      vmac := (bs.drop 64).take 32
      runMask := le bs 96 4 }

/-- A table entry from its 32 bytes. -/
def segOf (bs : List Byte) : Seg :=
  { kind := le bs 0 1
    target := le bs 1 1
    variant := le bs 2 1
    offset := le bs 4 4
    len := le bs 8 4
    dest := le bs 12 4
    tag := (bs.drop 16).take 16
    aad := bs.take 16 }

/-- Steps 6 and 7 of Table PRS-5 for one entry. -/
def checkSeg (h : Hdr) (vb : Bool) (s : Seg) : Rd Unit := do
  need (decide (s.len ≤ 16384)) St.keyroll
  need (s.kind == 1 || s.kind == 2 || (!vb && (s.kind == 3 || s.kind == 4))) St.range
  need (if s.kind ≤ 2 then decide (s.target < 32) else s.target == 0) St.range
  need (if vb then decide (s.variant < h.variants) else s.variant == 0) St.range
  need (if s.kind = 4 then inUser s.dest s.len && s.dest % 16 == 0 else s.dest == 0) St.range
  need (s.len % 16 == 0 && decide (16 ≤ s.len) && zeros s.aad 3 1) St.range
  need (h.mode == 1 || zeros s.tag 0 16) St.range

/-- Step 8: the segments follow each other to the trailer. -/
def checkLayout (h : Hdr) (a : Nat) : List Seg → Bool
  | [] => a + 64 == h.length
  | s :: r => s.offset == a && checkLayout h (a + s.len) r

/-- The entries of a cam's table, of one variant, together hold at most 4,096 breakpoints. -/
def camsFit (segs : List Seg) : Bool :=
  segs.all fun s => s.kind != 2 ||
    decide (((segs.filter fun x => x.kind == 2 && x.target == s.target && x.variant == s.variant).map (·.len)).sum ≤ 65536)

/-- The store pages of the ROUTINE segments. -/
def routPages (segs : List Seg) : List Nat :=
  ((segs.filter fun s => s.kind == 4).flatMap fun s =>
    (List.range (s.len / 16)).map fun i => (s.dest + 16 * i - 0x30000000) / 256).dedup

/-- ROUTINE segments do not overlap. -/
def routApart (segs : List Seg) : Bool :=
  let r := segs.filter fun s => s.kind == 4
  (r.mapIdx fun i s => (r.drop (i + 1)).all fun x => decide (s.dest + s.len ≤ x.dest ∨ x.dest + x.len ≤ s.dest)).all id

/-- Step 9: the counts and limits of R294. -/
def checkCounts (vb : Bool) (segs : List Seg) : Bool :=
  (segs.all fun s => s.kind != 1 || s.len == 13024) && camsFit segs
    && (vb || ((List.range 32).all (fun n => ((segs.filter fun s => s.kind == 1 && s.target == n).length == 1))
      && decide ((((segs.filter fun s => s.kind == 3).map (·.len)).sum) ≤ 16384)
      && routApart segs && decide ((routPages segs).length ≤ 16)))

/-- Step 1 of R300: the header and the segment table of a region, checked. -/
def Prs.readStream (p : Prs) (r : Nat) : Rd (Hdr × List Seg) := do
  let bs ← p.fread (regionBase r) 256
  let h ← readHeader bs (r == 2)
  let tab ← p.fread (regionBase r + 256) (32 * h.n)
  let segs := (List.range h.n).map fun i => segOf ((tab.drop (32 * i)).take 32)
  segs.forM (checkSeg h (r == 2))
  need (checkLayout h (256 + 32 * h.n) segs) St.range
  need (checkCounts (r == 2) segs) St.range
  pure (h, segs)

/-- Steps 1 and 2 of R300: the header checks of a region and admission (Table PRS-1). -/
def Prs.openStream (p : Prs) (die : Die) (r : Nat) : Rd (Hdr × List Seg) := do
  let (h, segs) ← p.readStream r
  need (if h.mode = 1 then die.keyProg else !die.sealed) St.authFail
  pure (h, segs)

/-! ### Keys and segments (R296, R297) -/

/-- The context of the first derivations. -/
def Hdr.ctx (h : Hdr) : List Byte := h.nonce ++ natBytes h.persId 4

/-- K_auth with the label "BRSK-AUTH". -/
def Hdr.authKey (h : Hdr) (die : Die) : List Byte :=
  kdf die.keyBytes (ascii [0x42, 0x52, 0x53, 0x4B, 0x2D, 0x41, 0x55, 0x54, 0x48]) h.ctx

/-- K[i], walking the tags with the labels "BRSK-SEG0" and "BRSK-ROLL". -/
def Hdr.key (h : Hdr) (die : Die) (segs : List Seg) : Nat → List Byte
  | 0 => kdf die.keyBytes (ascii [0x42, 0x52, 0x53, 0x4B, 0x2D, 0x53, 0x45, 0x47, 0x30]) h.ctx
  | i + 1 => kdf (h.key die segs i) (ascii [0x42, 0x52, 0x53, 0x4B, 0x2D, 0x52, 0x4F, 0x4C, 0x4C])
      (((segs[i]?).map (·.tag)).getD [] ++ be32 i)

/-- The keys that follow `key` along the tags of segments from number `i` on. -/
def keyList (key : List Byte) (i : Nat) : List Seg → List (List Byte)
  | [] => []
  | s :: r => key :: keyList (kdf key (ascii [0x42, 0x52, 0x53, 0x4B, 0x2D, 0x52, 0x4F, 0x4C, 0x4C]) (s.tag ++ be32 i)) (i + 1) r

/-- The variant key table of R319: K[i] for every segment of a sealed variant stream. -/
def Hdr.keyTable (h : Hdr) (die : Die) (segs : List Seg) : List (List Byte) :=
  if h.mode = 1 then keyList (h.key die segs 0) 0 segs else []

/-- The key of segment `i` of a region: found along the tags for a slot, in the variant key table for the bank. -/
def Prs.segKey (p : Prs) (die : Die) (r : Nat) (h : Hdr) (segs : List Seg) (i : Nat) : List Byte :=
  if r = 2 then (p.varKeys[i]?).getD [] else h.key die segs i

/-- The content of segment `i` of a region: read, and in a sealed stream decrypted with its tag compared. -/
def Prs.segment (p : Prs) (die : Die) (r : Nat) (h : Hdr) (segs : List Seg) (i : Nat) (s : Seg) : Rd (List Byte) := do
  let bs ← p.fread (regionBase r + s.offset) s.len
  if h.mode = 0 then pure bs
  else match aesGcmOpen (p.segKey die r h segs i) (h.nonce.take 8 ++ be32 i) s.aad bs s.tag with
    | some x => pure x
    | none => throw St.authFail

/-! ### Content checks (R301) -/

/-- Every input select is a source and the spare bits are 0. -/
def imageOk (bs : List Byte) : Bool :=
  let sel := bs.drop 12800
  (List.range 144).all (fun i => decide ((le sel (12 * i / 8) 3 >>> (12 * i % 8)) % 4096 ≤ 2303)) && zeros sel 216 8

/-- The 16-byte words of a byte list. -/
def wordsOf (bs : List Byte) : List QWord := (List.range (bs.length / 16)).map fun i => BitVec.ofNat 128 (le bs (16 * i) 16)

/-- A REGINIT entry: address, value, mask, reserved. -/
def regEntry (w : QWord) : Word × Word × Word × Word :=
  (w.extractLsb' 0 32, w.extractLsb' 32 32, w.extractLsb' 64 32, w.extractLsb' 96 32)

/-- A REGINIT entry names a defined register outside PRS and SEC. -/
def regEntryOk (c : Chip) (die : Die) (w : QWord) : Bool :=
  let (a, _, _, z) := regEntry w
  z == 0 && a.toNat % 4 == 0 && (c.regVal die Src.unit a.toNat).isSome && a.toNat / 0x10000 != 13
    && a.toNat / 0x10000 != 20

/-! ### Trailers (R298, R299) -/

/-- The check value of the covered bytes of a stream, as trailer bytes 32 to 63 hold it. -/
def Hdr.mac (h : Hdr) (die : Die) (covered : List Byte) : List Byte :=
  if h.mode = 1 then hmacSha256 (h.authKey die) covered
  else natBytes (crc32c covered).toNat 4 ++ List.replicate 28 0

/-- The covered bytes of a region's stream. -/
def Prs.covered (p : Prs) (r len : Nat) : List Byte := memBytes 0xFF p.flash (regionBase r) (len - 64)

/-- The trailer check (step 4). -/
def Prs.checkTrailer (p : Prs) (r len : Nat) (isSealed : Bool) (mac : List Byte) : Rd Unit := do
  let bs ← p.fread (regionBase r + len - 64) 64
  need (bs == [0x42, 0x45, 0x4E, 0x44] ++ natBytes len 4 ++ List.replicate 24 0 ++ mac)
    (if isSealed then St.authFail else St.crcFail)

/-- The limits of one variant (R318). -/
def variantLimits (h : Hdr) (segs : List Seg) : Bool :=
  (List.range h.variants).all fun v =>
    let own := segs.filter fun s => s.variant == v
    decide ((own.filter fun s => s.kind == 1).length ≤ 32)
      && decide (((own.filter fun s => s.kind == 2).map (·.len)).sum ≤ 16 * 16384)

/-- Step 5 of R300 for a personality with variants: the variant stream's own checks and its binding (R299). A failed
binding reports AUTH_FAIL, a bank with an operation BUSY (R310). Answers the variant key table. -/
def Prs.checkVariants (p : Prs) (die : Die) (persId variants mode : Nat) (vmac : List Byte) : Rd (List (List Byte)) := do
  need (!p.busyIn 2) St.busy
  let (h, segs) ← p.openStream die 2
  need (variantLimits h segs) St.range
  let head := 256 + 32 * h.n
  let _ ← p.fread (regionBase 2 + head) (h.length - 64 - head)
  let mac := h.mac die (p.covered 2 h.length)
  p.checkTrailer 2 h.length (h.mode == 1) mac
  need (h.persId == persId && h.variants == variants && h.flags == 0 && h.irp == 0 && h.vmac.all (· == 0)
    && h.runMask == 0 && h.mode == mode && vmac == mac) St.authFail
  pure (h.keyTable die segs)

end Sys2Proof.Machine
end

