-- ==== Sys2Proof/Machine/Pers.lean ====
section
/-!
DEFINITION. The personality opcodes (R212, R213, R300 to R320): PERS.STAGE, PERS.VERIFY, PERS.ACTIVATE, PERS.SLOT,
PERS.PROG, PERS.ERASE, VARIANT.STAGE; with staging, activation and flash operations as the other units use them.
-/
namespace Sys2Proof.Machine

/-! ### Staging (R300 step 3, R301) -/

/-- A staging under way: the chip, corrected flash words, fronds and cams begun, cam tables so far, register entries,
routine bytes. -/
structure Work where
  chip   : Chip
  corr   : Nat
  fronds : Word
  cams   : Word
  tabs   : List (Nat × QWord)
  regs   : List (Word × Word × Word)
  rout   : List (Nat × Byte)

/-- Nothing staged yet. -/
def Work.start (c : Chip) : Work :=
  { chip := c, corr := 0, fronds := 0, cams := 0, tabs := [], regs := [], rout := [] }

/-- Corrected flash words counted. -/
def Chip.flashCorrected (c : Chip) (n : Nat) : Chip :=
  { c with prs := { c.prs with flashCorr := satAdd c.prs.flashCorr n } }

/-- The shadow of a frond holds no complete image. -/
def Chip.spoil (c : Chip) (mask : Word) : Chip :=
  (maskList mask).foldl (fun c n => c.modFrond n fun f => { f with shadowOk := false, shadowSig := 0 }) c

/-- A staging that failed: the shadows begun hold no complete image, the cam tables written are freed (R213). -/
def Work.undo (w : Work) : Chip :=
  ((maskList w.cams).foldl Chip.freeShadow (w.chip.spoil w.fronds)).flashCorrected w.corr

/-- A frond image that passes its check written to the shadow plane with its signature (Table PRS-7). `src` and `var` are
the source that the golden signature will carry. -/
def Work.image (w : Work) (n : Nat) (bs : List Byte) (src : BitVec 2) (var : BitVec 3) : Byte × Work :=
  if !imageOk bs then (St.range, w)
  else
    let c := w.chip.touchStage n
    let c := { c with mem := memPutBytes 0 c.mem (c.shadowBase n) bs }
    (St.ok, { w with fronds := w.fronds ||| bitW n true, chip := c.modFrond n fun f =>
      { f with
        shadowOk := true
        shadowSig := crc64 bs
        ssrc := src
        svar := var } })

/-- A segment of a cam's table; the last one joins the table, checks it and takes its room. -/
def Work.table (w : Work) (n : Nat) (bs : List Byte) (last : Bool) : Byte × Work :=
  let w := { w with tabs := w.tabs ++ (wordsOf bs).map fun x => (n, x) }
  if !last then (St.ok, w)
  else match tableOf ((w.tabs.filter fun e => e.1 == n).map (·.2)) with
    | none => (St.range, w)
    | some t =>
      if w.chip.tabFree + (vget w.chip.cams n).shadow.length < t.length then (St.busy, w)
      else
        (St.ok, { w with
          cams := w.cams ||| bitW n true
          chip := (w.chip.touchStageCam n).modCam n fun k => { k with shadow := t, shadowOk := true } })

/-- One segment's plaintext staged. `rest` are the segments after it. -/
def Work.segment (w : Work) (die : Die) (s : Seg) (rest : List Seg) (bs : List Byte) (src : BitVec 2)
    (var : BitVec 3) : Byte × Work :=
  match s.kind with
  | 1 => w.image s.target bs src var
  | 2 => w.table s.target bs !(rest.any fun x => x.kind == 2 && x.target == s.target)
  | 3 =>
    let ws := wordsOf bs
    if ws.all (regEntryOk w.chip die) then
      (St.ok, { w with regs := w.regs ++ ws.map fun e => let (a, v, m, _) := regEntry e
                                                        (a, v, m) })
    else (St.range, w)
  | _ => (St.ok, { w with rout := w.rout ++ bs.mapIdx fun i b => (s.dest + i, b) })

/-- Segments staged in order until one fails. -/
def Work.segments (die : Die) (r : Nat) (h : Hdr) (segs : List Seg) (src : BitVec 2) (var : BitVec 3) :
    List (Nat × Seg) → Work → Byte × Work
  | [], w => (St.ok, w)
  | (i, s) :: rest, w =>
    let (o, k) := ((w.chip.prs.segment die r h segs i s).run.run 0 : Except Byte (List Byte) × Nat)
    let w := { w with corr := w.corr + k }
    match o with
    | .error st => (st, w)
    | .ok bs =>
      let (st, w) := w.segment die s (rest.map (·.2)) bs src var
      if failed st then (st, w) else Work.segments die r h segs src var rest w

/-- The status of a flash operation that succeeds with `k` words corrected. -/
def okFlash (k : Nat) : Byte := if k = 0 then St.ok else St.corrected

/-- Any frond or cam is claimed. -/
def Chip.anyClaim (c : Chip) : Bool :=
  (c.fronds.toList.any fun f => f.claim.isSome) || c.cams.toList.any fun k => k.claim.isSome

/-- Steps 1 to 3 of R300 on a slot: status, the step that failed, segments staged, chip. -/
def Chip.stageSlot (c : Chip) (die : Die) (slot : Bool) : Byte × Nat × Nat × Chip :=
  let r := if slot then 1 else 0
  let (o, k) := ((c.prs.openStream die r).run.run 0 : Except Byte (Hdr × List Seg) × Nat)
  match o with
  | .error st => (st, if st = St.authFail then 2 else 1, 0, (c.flashCorrected k).setPrsEvt 3)
  | .ok (h, segs) =>
    let (st, w) := Work.segments die r h segs 0 0 (segs.mapIdx fun i s => (i, s)) (Work.start c)
    if failed st then (st, 3, 0, (w.undo.flashCorrected k).setPrsEvt 3)
    else
      let c := (w.chip.flashCorrected (k + w.corr)).setPrsEvt 0
      let c := match c.prs.staged with | some s => c.freeTables (s.cams &&& ~~~w.cams) | none => c
      (okFlash (k + w.corr), 0, segs.length, { c with prs := { c.prs with
        staged := some
          { slot := slot
            sealed := h.mode == 1
            verified := false
            persId := BitVec.ofNat 32 h.persId
            build := BitVec.ofNat 32 h.build
            release := h.flags.getLsbD 0
            irp := h.irp
            variants := h.variants
            runMask := BitVec.ofNat 32 h.runMask
            vmac := h.vmac
            length := h.length
            mac := h.mac die (c.prs.covered r h.length)
            cams := w.cams
            regs := w.regs
            rout := w.rout }
        stgSlot := slot
        stgId := BitVec.ofNat 32 h.persId
        stgBuild := BitVec.ofNat 32 h.build } })

/-! ### Verification (R300 steps 4 and 5, R302) -/

/-- Step 5: var_ok set or cleared for a stream; a failure leaves its record and event. Answers the corrected words. -/
def Chip.bindVariants (c : Chip) (die : Die) (s : Staged) : Nat × Chip :=
  if s.variants = 0 then (0, { c with prs := { c.prs with varOk := false, varKeys := [] } })
  else
    let (o, k) := ((c.prs.checkVariants die s.persId.toNat s.variants (if s.sealed then 1 else 0) s.vmac).run.run 0
      : Except Byte (List (List Byte)) × Nat)
    match o with
    | .ok keys => (k, { c with prs := { c.prs with varOk := true, varKeys := keys } })
    | .error st =>
      (k, ({ c with prs := { c.prs with varOk := false, varKeys := [] } }.setPrsEvt 6).record 0x1B01 9 2 (ctxAt 32 st.toNat))

/-- Steps 4 and 5 on the staged stream: status and chip. -/
def Chip.verifyStaged (c : Chip) (die : Die) (s : Staged) : Byte × Chip :=
  let (o, k) := ((c.prs.checkTrailer (if s.slot then 1 else 0) s.length s.sealed s.mac).run.run 0
    : Except Byte Unit × Nat)
  match o with
  | .error st => (st, (((maskList s.cams).foldl Chip.freeShadow (c.spoil 0xFFFFFFFF)).flashCorrected k).setPrsEvt 3)
  | .ok _ =>
    let c := { c with prs := { c.prs with staged := some { s with verified := true } } }
    let (k', c) := c.bindVariants die s
    (okFlash (k + k'), (c.flashCorrected (k + k')).setPrsEvt 1)

/-- PERS.VERIFY mode 1: steps 1 to 5 on a copy of the chip, of which the corrected words remain (R302). -/
def Chip.verifySlot (c : Chip) (die : Die) (slot : Bool) : Byte × Chip :=
  let (st, _, _, x) := c.stageSlot die slot
  let (st, x) := match failed st, x.prs.staged with
    | false, some s =>
      let (st', y) := x.verifyStaged die s
      (joinSt st st', y)
    | _, _ => (st, x)
  let var := match failed st, x.prs.staged with
    | false, some s =>
      if s.variants = 0 then St.ok
      else match (((x.prs.checkVariants die s.persId.toNat s.variants (if s.sealed then 1 else 0) s.vmac).run.run 0
          : Except Byte (List (List Byte)) × Nat)).1 with
        | .ok _ => St.ok
        | .error e => e
    | _, _ => St.ok
  let st := if var = St.ok then st else joinSt st var
  let c := { c with prs := { c.prs with flashCorr := x.prs.flashCorr } }
  (st, if failed st then c.setPrsEvt 3 else c.setPrsEvt 1)

/-! ### Stages and verifies in flight (R212, R234, R310, R339; log entry 101) -/

/-- A stage or a verify of a queue has begun and not ended. -/
def QState.stages (x : QState) : Bool := match x.wait with | some w => w.kind == .staging | none => false

/-- A PERS.STAGE, PERS.VERIFY or VARIANT.STAGE runs. -/
def Chip.staging (c : Chip) : Bool := c.eng.queues.toList.any QState.stages

/-- The flash regions that a stage or verify in flight reads: its slot, for a verify the variant bank as well. -/
def Wait.reads (w : Wait) (r : Nat) : Bool :=
  if w.kind != .staging then false
  else if w.code == 0x94 then r == 2
  else r == (if w.f.tgt.getLsbD 0 then 1 else 0) || (w.code == 0x91 && r == 2)

/-- A stage or verify in flight reads a region. -/
def Chip.stageReads (c : Chip) (r : Nat) : Bool :=
  c.eng.queues.toList.any fun x => match x.wait with | some w => w.reads r | none => false

/-- PERS.STAGE's BUSY: a claim, a stage, VARIANT.STAGE or repair that runs, a flash operation in the slot (Table ISA-10). -/
def Chip.stageBusy (c : Chip) (r : Nat) : Bool :=
  c.anyClaim || c.staging || c.scr.running.isSome || c.prs.busyIn r

/-- The shadows of fronds marked as being written, or no longer. -/
def Chip.markBusy (c : Chip) (mask : Word) (on : Bool) : Chip :=
  (maskList mask).foldl (fun c n => c.modFrond n fun f => { f with shadowBusy := on }) c

/-- Every shadow while the loader writes it: busy, and no complete image (R234). -/
def Chip.markStage (c : Chip) : Chip :=
  { c with fronds := vmapi (fun _ f => { f with shadowBusy := true, shadowOk := false }) c.fronds }

/-- The shadows as the loader found them, those of `was` complete: what it has written it marks itself (R213). -/
def Chip.unmarkStage (c : Chip) (was : Word) : Chip :=
  { c with fronds := vmapi (fun n f => { f with shadowBusy := false, shadowOk := was.getLsbD n }) c.fronds }

/-- PERS.STAGE: steps 1 and 2 decide at once, a stream that passes them is staged until the loader has ended; the wait keeps
which shadows were complete. -/
def persStageBody : Body := fun _ f die c =>
  let slot := f.tgt.getLsbD 0
  if c.stageBusy (if slot then 1 else 0) then .fail St.busy c
  else match ((c.prs.openStream die (if slot then 1 else 0)).run.run 0 : Except Byte (Hdr × List Seg) × Nat).1 with
    | .error _ =>
      let (st, _, n, c) := c.stageSlot die slot
      .done st (BitVec.ofNat 64 n) c
    | .ok _ => .wait .staging 0 ((c.frdMask (·.shadowOk)).setWidth 64) c.markStage

/-- PERS.VERIFY: its checks at once, the reading until the loader has ended. -/
def persVerifyBody : Body := fun _ f _ c =>
  let slot := f.tgt.getLsbD 0
  let r := if slot then 1 else 0
  if f.ext.getLsbD 0 then if c.stageBusy r then .fail St.busy c else .wait .staging 0 0 c
  else match c.prs.staged with
    | none => .fail St.illegal c
    | some s =>
      if s.slot != slot then .fail St.illegal c
      else if c.stageBusy r || (s.variants != 0 && c.prs.busyIn 2) then .fail St.busy c
      else .wait .staging 0 0 c

/-- The end of a PERS.STAGE that found the shadows of `was` complete. -/
def Chip.stageEnds (c : Chip) (die : Die) (f : Insn) (was : Word) : Done :=
  let (st, _, n, c) := (c.unmarkStage was).stageSlot die (f.tgt.getLsbD 0)
  .done st (BitVec.ofNat 64 n) c

/-- The end of a PERS.VERIFY; a stream whose staging a change of the chip has ended meanwhile fails ILLEGAL. -/
def Chip.verifyEnds (c : Chip) (die : Die) (f : Insn) : Done :=
  if f.ext.getLsbD 0 then
    let (st, c) := c.verifySlot die (f.tgt.getLsbD 0)
    .done st 0 c
  else match c.prs.staged with
    | none => .fail St.illegal c
    | some s =>
      let (st, c) := c.verifyStaged die s
      .done st (if failed st then 0 else 1) c

/-! ### Activation (R305 to R308) -/

/-- Some unit is claimed, some queue is inside a routine, or a PLANE.SWAP.AT waits, for its position or for a context. -/
def Chip.actBusy (c : Chip) : Bool :=
  c.anyClaim || c.inRoutine || c.eng.queues.toList.any fun q =>
    match q.wait with | some w => w.code == 0x25 && w.kind != .fence | none => false

/-- The first check of R305 that fails: its status and chip. -/
def Chip.actCheck (c : Chip) (src : Src) (s : Staged) : Option (Byte × Chip) :=
  if !s.verified || !(c.allFronds 0xFFFFFFFF (·.shadowOk)) || !((maskList s.cams).all fun n => (vget c.cams n).shadowOk) then
    some (St.illegal, c)
  else if c.actBusy then some (St.busy, c)
  else if c.fabricLocked then some (St.locked, c.violate src 0x3E01 0x0B 9 0)
  else if c.sec.locks.getLsbD 1 && s.regs.any (fun e => e.1 == 0x00010004) then
    some (St.locked, c.violate src 0x3E01 0x0B 1 0x00010004)
  else match s.rout.find? fun e => c.bpRange e.1 with
    | some e => some (St.locked, c.violate src 0x3E01 0x0B 15 e.1)
    | none => none

/-- One frond at the activation edge: SAFE, planes swapped, source slot, no mismatch (Table PRS-8, R334, R340). -/
def Frond.activate (f : Frond) : Frond :=
  { f with
    st := .safe
    plane := !f.plane
    golden := f.shadowSig
    shadowSig := f.golden
    gsrc := 0
    gvar := 0
    ssrc := f.gsrc
    svar := f.gvar
    shadowOk := f.planeOk
    activeOk := true
    planeOk := true
    shadowBusy := false
    check := 0
    waitBnd := false
    gen := f.gen + 1 }

/-- One cam at the activation edge: disarmed, its staged table or none active, offsets 0. -/
def Cam.activation (k : Cam) (tab : Bool) : Cam :=
  { k with
    armed := false
    tabOk := tab
    table := if tab then k.shadow else []
    shadow := []
    shadowOk := false
    off := 0
    pend := 0
    latch := none
    waiting := []
    gen := k.gen + 1 }

/-- One pin at the activation edge: EPU queue discarded, TCU disarmed, binding off, configuration at reset. -/
def Pin.activation (p : Pin) : Pin :=
  { p with
    q := []
    bedges := []
    tcu := 0
    bind := p.bind &&& ~~~0x20
    cfg := 0x00004000
    src := 0 }

/-- A bank at the activation edge: its safe states at reset; a pin whose mode changes, or a safe state, advances its generation
(R241, R244). -/
def Chip.bankActivation (c : Chip) (b : Nat) (k : Bank) : Bank :=
  let moved := (List.range 16).any fun i => (vget c.pins (16 * b + i)).cfg.extractLsb' 0 2 != 0
  { k with safest := 0xAAAAAAAA, gen := if moved || k.safest != 0xAAAAAAAA then k.gen + 1 else k.gen }

/-- The activation edge (cc2 of Table PRS-8). -/
def Chip.actEdge (c : Chip) (s : Staged) : Chip :=
  let c := c.cancelStage
  c.settle { c with
    fronds := vmapi (fun _ f => Frond.activate f) c.fronds
    cams := vmapi (fun n k => Cam.activation k (s.cams.getLsbD n)) c.cams
    pins := vmapi (fun _ p => Pin.activation p) c.pins
    banks := vmapi c.bankActivation c.banks
    scr := { c.scr with running := none, want := 0, auto := 0 } }

/-- One REGINIT entry applied. -/
def Chip.regInit (c : Chip) (die : Die) (e : Word × Word × Word) : Chip :=
  let old := (c.regVal die Src.unit e.1.toNat).getD 0
  (c.writeReg die Src.unit e.1.toNat ((old &&& ~~~e.2.2) ||| (e.2.1 &&& e.2.2))).2

/-- The routine words of a stream written to the store SRAM (R308). -/
def Chip.putRoutine (c : Chip) (rout : List (Nat × Byte)) : Chip :=
  let words := (rout.map fun e => e.1 / 16).dedup
  words.foldl (fun (c : Chip) w => c.putWord (16 * w) (BitVec.ofNat 128
    (bytesNat ((rout.filter fun e => e.1 / 16 == w).map (·.2))))) c

/-- The activation of a stream that passed its checks (R306 to R308). Generations advance once in cc2, in the cc of each
entry, and in cc m + 3 (R131); pins that LOADER held by its own are released or held there (R241). The IRP takes no request
in the cc after the swap of its master frond (R330). -/
def Chip.activate (c : Chip) (die : Die) (s : Staged) : Chip :=
  let c := (c.onceGen (c.actEdge s)).putRoutine s.rout
  let c := s.regs.foldl (fun (c : Chip) e => c.regInit die e) c
  let user := { c with
    prs := { c.prs with
      ldr := .user
      actSlot := some s.slot
      actId := s.persId
      actBuild := s.build
      actVars := s.variants
      actSealed := s.sealed
      actVmac := s.vmac
      rtPages := (c.prs.rtPages ++ (s.rout.map fun (e : Nat × Byte) => (e.1 - 0x30000000) / 256)).dedup
      rtStore := c.prs.rtStore || !s.rout.isEmpty
      staged := none }
    scr := { c.scr with irpEn := s.irp.getLsbD 7, irpMast := s.irp.setWidth 5, hush := true } }
  let run := user.placeFronds s.runMask .run
  let c := c.onceGen (c.settle (if !s.release then run.holdPins else run.releasePins))
  let c := (c.setPrsEvt 2).record 0x0002 9 (if s.slot then 1 else 0)
    (ctxAt 32 s.persId.toNat ||| ctxAt 36 s.build.toNat ||| ctxAt 40 (if s.release then 1 else 0))
  c.startPosted

/-- PERS.ACTIVATE. -/
def persActivateBody : Body := fun q _ die c =>
  match c.prs.staged with
  | none => .fail St.illegal c
  | some s =>
    match c.actCheck (Src.ofQueue q) s with
    | some (st, c) => .fail st c
    | none => .done St.ok (if s.slot then 1 else 0) (c.activate die s)

/-! ### Boot preference (R313) -/

/-- The preference as PERS.SLOT's result gives it: [0] slot, [1] cleared. -/
def prefBits (p : Option Bool) : DWord := match p with | some s => if s then 1 else 0 | none => 2

/-- PERS.SLOT. -/
def persSlotBody : Body := fun _ f _ c =>
  let new := if f.op.getLsbD 1 then none else some (f.op.getLsbD 0)
  let w : Nat := match new with | some s => 2 + (if s then 1 else 0) | none => 0
  let c' := { c with mem := memPut 0 c.mem 0x38000004 w 4, prs := { c.prs with bootpref := new } }
  .done St.ok (prefBits c.prs.bootpref) (c'.dirty 1024)

/-! ### Flash operations (R309 to R312, R319) -/

/-- A program or erase starts: a staged stream of that slot is discarded, a variant-bank operation clears var_ok and
cancels the stage set. -/
def Chip.flashStart (c : Chip) (o : FlashOp) : Chip :=
  let r := o.sector / 256
  let c := match c.prs.staged with
    | some s => if (if s.slot then 1 else 0) = r then c.dropStaged else c
    | none => c
  let c := if r = 2 then { c.cancelStage with prs := { c.cancelStage.prs with varOk := false, varKeys := [] } } else c
  { c with prs := { c.prs with
      op := some o
      flashSt := bitW 9 o.prog ||| natW 12 o.sector } }

/-- BUSY_SELF of R311: the active slot, or the variant bank while an active plane holds one of its images; neither in
LOADER. -/
def Chip.flashSelf (c : Chip) (sector : Nat) : Bool :=
  if c.prs.ldr == .loader then false
  else match sector / 256 with
  | 0 => c.prs.actSlot == some false
  | 1 => c.prs.actSlot == some true
  | _ => c.anyFrond 0xFFFFFFFF fun f => f.gsrc == 1

/-- The statuses that refuse a flash operation on a sector (R21, R212). -/
def Chip.flashCheck (c : Chip) (sector : Nat) : Option Byte :=
  if c.prs.op.isSome || c.stageReads (sector / 256) then some St.busy else if c.flashSelf sector then some St.busySelf else none

/-- PERS.PROG: it retires at FLASH_OP_DONE, with OK_CORRECTED when its source needed correction. -/
def persProgBody : Body := fun q f die c =>
  let a := field f.tgt 0 24
  let src := field f.op 0 32
  if a % 4096 ≠ 0 ∨ src % 16 ≠ 0 then .fail St.align c
  else if 0x300000 ≤ a ∨ src < 0x70000000 ∨ 0x70010000 < src + 4096 then .fail St.range c
  else match c.flashCheck (a / 4096) with
    | some st => .fail st c
    | none =>
      let (st, ws, c) := c.loadWords die (Src.ofQueue q) src 256
      if failed st then .fail st c
      else .wait .flashDone (st.setWidth 64) 0 (c.flashStart
        { prog := true
          sector := a / 4096
          data := ws.flatMap fun w => natBytes w.toNat 16
          jtag := false
          queue := some q })

/-- PERS.ERASE: it retires at FLASH_OP_DONE. -/
def persEraseBody : Body := fun q f _ c =>
  let a := field f.tgt 0 24
  if a % 4096 ≠ 0 then .fail St.align c
  else if 0x300000 ≤ a then .fail St.range c
  else match c.flashCheck (a / 4096) with
    | some st => .fail st c
    | none => .wait .flashDone 0 0 (c.flashStart
        { prog := false
          sector := a / 4096
          data := []
          jtag := false
          queue := some q })

/-! ### VARIANT.STAGE (R320 to R322) -/

/-- The fronds with an image among segments. -/
def imageMask (segs : List Seg) : Word := (segs.filter fun s => s.kind == 1).foldl (fun a s => a ||| bitW s.target true) 0
/-- The cams with a table among segments. -/
def tableMask (segs : List Seg) : Word := (segs.filter fun s => s.kind == 2).foldl (fun a s => a ||| bitW s.target true) 0

/-- The segments of variant `v` in the order of R320: the images of the fronds of `mask`, then every cam table. -/
def variantSegs (segs : List Seg) (v : Nat) (mask : Word) : List (Nat × Seg) :=
  let own := (segs.mapIdx fun i s => (i, s)).filter fun e => e.2.variant == v
  (own.filter fun e => e.2.kind == 1 && mask.getLsbD e.2.target) ++ own.filter fun e => e.2.kind == 2

/-- Steps 3 to 5 of VARIANT.STAGE for the fronds of `mask`. A failure leaves the earlier stage set unless it has lost a
shadow of that set (R213, R320; log entry 103). -/
def Chip.stageVariant (c : Chip) (die : Die) (h : Hdr) (segs : List Seg) (v : BitVec 3) (mask : Word) :
    Byte × Chip :=
  let old := c.scr.stg
  let start := { c.markBusy mask false with scr := { c.scr with stg := none } }
  let (st, w) := Work.segments die 2 h segs 1 v (variantSegs segs v.toNat mask) (Work.start start)
  if failed st then
    let c := { w.undo with scr := { w.undo.scr with stg := old } }
    match old with
    | some (_, fs, cs) => (st, if fs &&& mask != 0 || cs &&& w.cams != 0 then c.cancelStage else c)
    | none => (st, c)
  else
    let c := w.chip.flashCorrected w.corr
    let gone : Word := match old with | some (_, _, m) => m &&& ~~~w.cams | none => 0
    let c := (maskList gone).foldl Chip.freeShadow c
    (okFlash w.corr, { c with scr := { c.scr with stg := some (v, mask, w.cams) } })

/-- The segment table of the variant bank, read again at each VARIANT.STAGE. -/
def Chip.bankTable (c : Chip) : Except Byte (Hdr × List Seg) × Nat :=
  ((c.prs.readStream 2).run.run 0 : Except Byte (Hdr × List Seg) × Nat)

/-- VARIANT.STAGE: step 1 decides at once; step 2 marks the shadows, which are written until the loader has ended. -/
def variantStageBody : Body := fun q f _ c =>
  let v : BitVec 3 := f.tgt.extractLsb' 0 3
  let want : Word := f.op.setWidth 32
  if !c.prs.varOk then .fail St.authFail c
  else if c.prs.actVars ≤ v.toNat then .fail St.range c
  else match c.bankTable with
    | (.error st, k) => .fail st (c.flashCorrected k)
    | (.ok (_, segs), k) =>
      let own := segs.filter fun s => s.variant == v.toNat
      let all := imageMask own
      let mask := if want = 0 then all else want
      if want &&& ~~~all ≠ 0 then .fail St.range (c.flashCorrected k)
      else if q = 6 && c.scr.irpEn && mask.getLsbD c.scr.irpMast.toNat then .fail St.busySelf (c.flashCorrected k)
      else if c.barredMask q false mask || ((maskList (tableMask own)).any fun n => (vget c.cams n).claim.isSome)
          || c.staging || c.scr.running.isSome then .fail St.busy (c.flashCorrected k)
      else .wait .staging 0 (mask.setWidth 64) (((c.dropStaged).spoil mask).markBusy mask true)

/-- The end of a VARIANT.STAGE of the fronds of `mask`. -/
def Chip.variantEnds (c : Chip) (die : Die) (f : Insn) (mask : Word) : Done :=
  match c.bankTable with
  | (.error st, k) => .fail st ((c.markBusy mask false).flashCorrected k)
  | (.ok (h, segs), k) =>
    let (st, c) := c.stageVariant die h segs (f.tgt.extractLsb' 0 3) mask
    .done (if failed st then st else joinSt st (okFlash k)) (if failed st then 0 else mask.setWidth 64) (c.flashCorrected k)

/-- The end of the stage or verify that the head of a queue waits for. -/
def Chip.stagingEnds (c : Chip) (die : Die) (w : Wait) : Done :=
  match w.code.toNat with
  | 0x90 => c.stageEnds die w.f (w.res.setWidth 32)
  | 0x91 => c.verifyEnds die w.f
  | _ => c.variantEnds die w.f (w.res.setWidth 32)

end Sys2Proof.Machine
end

