-- ==== Sys2Proof/Machine/Security.lean ====
section
/-!
DEFINITION. The security opcodes (R214, R215, R449 to R460): LOCK.SET, KEY.PROG, PW.SET, SEC.STAT.
-/
namespace Sys2Proof.Machine

/-! ### LOCK.SET (R450) -/

/-- The confirmation that kinds 2 to 4 carry. -/
def confirmed (f : Insn) : Bool := f.op.extractLsb' 48 16 == 0x5EA1

/-- A fuse operation starts; its instruction retires at FUSE_OP_DONE. -/
def Chip.fuseStart (c : Chip) (q : Queue) (kind : Nat) (key : BitVec 256) : Done :=
  .wait .fuseDone 0 0 { c with sec := { c.sec with op := some ⟨kind, some q, key⟩ } }

/-- A kind that blows a fuse: confirmation, already set, programmer busy, the key that SEALED needs. -/
def fuseKind (q : Queue) (f : Insn) (die : Die) (c : Chip) (kind : Nat) (isSet : Bool) : Done :=
  if !confirmed f then .fail St.range c
  else if isSet then .done St.ok ((c.secFuse die).setWidth 64) c
  else if c.sec.op.isSome then .wait .fuse 0 0 c
  else if kind = 1 && !die.keyProg then .fail St.range c
  else c.fuseStart q kind 0

/-- LOCK.SET. -/
def lockSetBody : Body := fun q f die c =>
  match field f.tgt 0 4 with
  | 0 =>
    let m : Word := f.op.setWidth 32
    if m &&& ~~~3 ≠ 0 then .fail St.range c
    else
      let c := if c.sec.locks ||| m.setWidth 2 = c.sec.locks then c else c.setSecEvt 3
      let c := { c with sec := { c.sec with locks := c.sec.locks ||| m.setWidth 2 } }
      .done St.ok (c.sec.locks.setWidth 64) c
  | 1 =>
    let c := { c with sec := { c.sec with jtagHold := true } }
    .done St.ok ((c.secFuse die).setWidth 64) c
  | 2 => fuseKind q f die c 1 die.sealed
  | 3 => fuseKind q f die c 2 die.readback
  | 4 => fuseKind q f die c 3 die.jtagLock
  | _ => .fail St.range c

/-! ### KEY.PROG (R454, R455) -/

/-- The first eight bytes of the key hash. -/
def Die.hash8 (d : Die) : DWord := BitVec.ofNat 64 (bytesNat (d.keyHash.take 8))

/-- The staged key with one quarter replaced. -/
def stageQuarter (key : BitVec 256) (n : Nat) (v : DWord) : BitVec 256 :=
  (key &&& ~~~((0xFFFFFFFFFFFFFFFF : BitVec 256) <<< (64 * n))) ||| (v.setWidth 256 <<< (64 * n))

/-- A refused key: the WOP row of Table SCO-3. -/
def Chip.refuseKey (c : Chip) (q : Queue) : Done :=
  .fail St.locked (c.clearKey.violate (Src.ofQueue q) 0x3E02 0x0B 20 0x140020)

/-- Quarter 3 with the whole key staged. -/
def keyQuarter3 (q : Queue) (die : Die) (c : Chip) (key : BitVec 256) : Done :=
  if die.keyProg then
    if key = die.key then .done St.ok die.hash8 c.clearKey else c.refuseKey q
  else if c.sec.op.isSome then .wait .fuse 0 0 c
  else if die.key &&& ~~~key ≠ 0 then c.refuseKey q
  else c.clearKey.fuseStart q 4 key

/-- KEY.PROG. -/
def keyProgBody : Body := fun q f die c =>
  let n := field f.tgt 0 2
  match n, c.sec.owner with
  | 0, o =>
    if o.isSome && o != some q then .fail St.busy c
    else .done St.ok 0 { c with sec := { c.sec with
      owner := some q, quarter := 1, stageKey := stageQuarter 0 0 f.op } }
  | _, none => .fail St.range c
  | _, some o =>
    if o ≠ q then .fail St.busy c
    else if c.sec.quarter ≠ n then .fail St.range c.clearKey
    else
      let key := stageQuarter c.sec.stageKey n f.op
      if n = 3 then keyQuarter3 q die c key
      else .done St.ok 0 { c with sec := { c.sec with quarter := n + 1, stageKey := key } }

/-! ### PW.SET and SEC.STAT -/

/-- PW.SET (R367): password and mode into pages 1,024 and 1,025, the channel relocked, its attempts at 8. -/
def pwSetBody : Body := fun q f _ c =>
  let m := f.tgt.getLsbD 0
  let mode : BitVec 2 := f.ext.extractLsb' 0 2
  if mode = 3 then .fail St.range c
  else if !c.hostMay then .fail St.locked (c.violate (Src.ofQueue q) 0x3E01 0x0B 15 0)
  else
    let mem := memPut 0 c.mem (if m then 0x3800000D else 0x3800000C) mode.toNat 1
    let mem := memPut 0 mem (if m then 0x38000110 else 0x38000100) f.op.toNat 8
    let n := c.nvs.setChan m false 8 (c.nvs.chan m).2.2.2.2
    let n := if m then { n with mgtMode := mode, mgtPw := f.op } else { n with hostMode := mode, hostPw := f.op }
    .done St.ok 0 (({ c with mem := mem, nvs := n }.dirty 1024).dirty 1025)

/-- SEC.STAT (Table ISA-11). -/
def secStatBody : Body := fun _ _ die c =>
  let w := c.secFuse die
  let b (n : Nat) (x : Bool) : DWord := if x then BitVec.ofNat 64 (2 ^ n) else 0
  .done St.ok ((w &&& 0x1F).setWidth 64 ||| b 5 c.nvs.hostOut ||| b 6 c.nvs.mgtOut
    ||| (c.nvs.hostTry.setWidth 64 <<< (8 : Nat)) ||| (c.nvs.mgtTry.setWidth 64 <<< (12 : Nat))
    ||| (c.sec.viol.setWidth 64 <<< (16 : Nat))) c

/-! ### The end of a fuse operation (R448, R449) -/

/-- The fuses after an operation. -/
def Die.blow (d : Die) (o : FuseOp) : Die :=
  match o.kind with
  | 1 => { d with sealed := true }
  | 2 => { d with readback := true }
  | 3 => { d with jtagLock := true }
  | _ => { d with key := d.key ||| o.key, keyProg := true }

/-- The chip once its fuse operation has ended: SEC.EVT.key for the device key, else SEC.EVT.fuse (R450, R455), a plain
staged stream discarded by sealing (R303), the instruction retired. -/
def Chip.fuseDone (c : Chip) (d : Die) (o : FuseOp) : Chip :=
  let c := { c with sec := { c.sec with op := none } }
  let c := if o.kind = 4 then c.setSecEvt 2 else c.setSecEvt 1
  let c := match c.prs.staged with
    | some s => if o.kind = 1 && !s.sealed then c.dropStaged else c
    | none => c
  match o.queue with
  | none => c
  | some q =>
    match (c.queue q).wait with
    | some w =>
      if w.kind == .fuseDone then
        c.retireWait q St.ok (if o.kind = 4 then d.hash8 else (c.secFuse d).setWidth 64)
      else c
    | none => c

end Sys2Proof.Machine
end

