-- ==== Sys2Proof/Machine/Frames.lean ====
section
/-!
DEFINITION. Frames that a port sends (R77, R78), the SYNC request (R91), and a port that leaves UP for TRAINING (R98).
-/
namespace Sys2Proof.Machine

/-! ### Frames sent -/

/-- The header of a frame with the len of its payload (Table LNK-1). -/
def headerBytes (typ route seq : Byte) (payload : List Byte) : List Byte :=
  [typ, route, seq, BitVec.ofNat 8 (payload.length / 4)]

/-- A frame with its CRC (R78). -/
def frameOf (typ route seq : Byte) (payload : List Byte) : Frame :=
  { typ := typ
    route := route
    seq := seq
    len := BitVec.ofNat 8 (payload.length / 4)
    payload := payload
    crc := crc32 (headerBytes typ route seq payload ++ payload)
    codeErrs := 0 }

/-- A frame sent on a port: it takes the next seq of its direction. -/
def Chip.sendFrame (c : Chip) (p : Nat) (typ route : Byte) (payload : List Byte) : Chip :=
  c.modPort p fun x => { x with sent := some (frameOf typ route x.txSeq payload), txSeq := x.txSeq + 1 }

/-- The packed LT word of a moment near now as frames carry it: line time then, its seconds field whole, with the flags of
line time now (R100, R179). -/
def Chip.ltBytes (c : Chip) (t : BitVec 64) : List Byte := natBytes (c.lt.plus (signedGap t c.now)).word.toNat 16

/-- A SYNC exchange begun at t1; one that runs is discarded (R91). -/
def Chip.startSync (c : Chip) (t : BitVec 64) : Chip :=
  let c := if c.syncT1.isSome then c.setLnkEvt 0 6 else c
  { c.sendFrame 0 4 0 (c.ltBytes t) with syncT1 := some t }

/-- A port leaves UP for TRAINING. `why` is the reason of record 0x1301. -/
def Chip.retrain (c : Chip) (p why : Nat) : Chip :=
  if (vget c.ports p).st != 2 then c else (c.leaveUp p why).modPort p fun x => { x with st := 1 }

end Sys2Proof.Machine
end

