-- ==== Sys2Proof/Machine/Reset.lean ====
section
/-!
DEFINITION. Warm reset and CORE.RESET (R105, R436 to R440, Table PWR-4) and the resumption of the core from a gated
clock (R56, R57, R267, R273), which a latched warm reset follows (R439).
-/
namespace Sys2Proof.Machine

/-- One queue after a core-side reset: empty, RUN, ring positions and overwrite count reset; ENG.QCNTn stays (R150,
R177). -/
def QState.cleared (x : QState) : QState := { QState.reset with errs := x.errs, warns := x.warns }

/-- The engine after a core-side reset: transactions aborted, queues emptied without completions, registers at reset but
for the counts. Stores past their snapshot, fuse and flash operations past their start go on without an instruction (R312,
R350, R449); a store that waits, posted or of an activation, is cancelled and its pages stay dirty (R350). -/
def Chip.resetEngine (c : Chip) : Chip :=
  let c := ((List.finRange 4).foldl (fun (c : Chip) k => c.abortCtx k) c).dropStaged
  { c with
    eng :=
      { Eng.reset with
        circles := c.eng.circles
        timeouts := c.eng.timeouts
        queues := vmapi (fun _ x => QState.cleared x) c.eng.queues
        serial := c.eng.serial }
    nvs := { c.nvs with
      store := c.nvs.store.map fun o => { o with queue := none, ctx := none }
      recl := match c.nvs.recl with | some (some _) => none | r => r
      hostUnl := false
      mgtUnl := false }
    sec := { c.sec with
      op := c.sec.op.map fun o => { o with queue := none }
      owner := none
      quarter := 0
      stageKey := 0 }
    prs := { c.prs with
      op := c.prs.op.map fun o => { o with queue := none }
      stgSlot := false
      rtStore := match c.nvs.store with | some o => c.prs.rtStore && o.kind == 3 | none => false
      rtPages := [] } }

/-- Cams, extrapolator, EPUs, TCUs and captures after a core-side reset (R268, R273, R288). R268 names neither EDG.EVT,
EDG.INTEN, EDG.CALCTRL, CAP.EVT, CAP.INTEN nor the sequence of a bank's captures: they stay as they are (DESIGN CHOICE, log entry
123). -/
def Chip.resetEdges (c : Chip) : Chip :=
  let c := c.disarmAll.freezePos
  { c with
    cams := vmapi (fun _ k => { k with pend := 0, latch := none, waiting := [], firedAt := none }) c.cams
    pins := vmapi (fun _ p => { p with q := [], bedges := [], tcu := 0, blind := none, cap := none }) c.pins
    banks := vmapi (fun _ b => { b with fifo := [] }) c.banks
    edg := { c.edg with wptr := 0, rptr := 0 }
    pulses := 0 }

/-- The scrubber and the IRP after a core-side reset: an abandoned repair leaves a mismatch, which a SAFE_REPAIR policy at
the mismatch takes up anew (R325, R337, R341). The spec does not say what SCR.REPAIR reads then: the bit of an abandoned
repair clears, that of a request not yet begun stays (DESIGN CHOICE, log entry 113). Every response line is 0, and the
request lines as sampled now are the previous values of the next cc (R330, R332). -/
def Chip.resetScrub (c : Chip) : Chip :=
  let c := c.cancelStage
  let again := c.frdMask fun f => f.check == 3 && f.mpol.getLsbD 0
  { c with
    fronds := vmapi (fun _ f =>
      { f with
        check := if f.check == 3 then 2 else f.check
        waitBnd := false
        shadowOk := f.shadowOk && !f.shadowBusy
        shadowSig := if f.shadowBusy then 0 else f.shadowSig
        shadowBusy := false }) c.fronds
    scr := { c.scr with
      paused := false
      onePass := false
      running := none
      want := c.scr.want &&& ~~~(c.frdMask (·.check == 3))
      auto := c.scr.auto ||| again
      irpResp := 0
      resps := []
      lines := c.masterLines
      hush := true
      ack := false
      reject := false
      done := false }
    flt := { c.flt with list := [] } }

/-- One port after a core-side reset: its LNK registers at reset but for the frames dropped while the core was held (R99,
R103). With LNK.STAT.xoff_rx at its reset value the pause of a received XOFF ends, where R97 has it last until XON: the spec
does not say which holds (DESIGN CHOICE, log entry 118). -/
def Port.afterReset (line held : Bool) (x : Port) : Port :=
  { Port.reset line with
    st := if line && x.st == 0 then 1 else x.st
    drop := if held then x.drop else 0
    evt := if held then x.evt &&& 8 else 0
    rxSeq := x.rxSeq
    txSeq := x.txSeq
    sent := x.sent
    rd := x.rd
    errT := x.errT }

/-- The links after a core-side reset: a neighbour held off is released, a peer port whose en returns to 0 goes DOWN, the
others keep lock and a line port whose en returns to 1 trains (R96, R98, R99); LNK registers, LT staging, LT.CTRL and
holding registers at reset, line time kept (R103). -/
def Chip.resetLinks (c : Chip) : Chip :=
  let down (c : Chip) (p : Nat) : Chip := if (vget c.ports p).ctrl.getLsbD 0 then c.disablePort p else c
  let c := down (down (((c.flowControl 0).flowControl 1).flowControl 2) 1) 2
  { c with
    ports := vmapi (fun p x => Port.afterReset (p == 0) c.pwr.held x) c.ports
    syncper := 0x3E8
    lnkfwd := 0
    syncT1 := none
    syncDue := false
    lt := { c.lt with wsec := 0, wtickl := 0, wtickh := 0, alignEn := true, hold := Vector.replicate 9 0 } }

/-! ### The ports (R104 to R107, R124) -/

/-- A partial instruction or word discarded at a port: 0 SPI, 1 management, 2 JTAG (R107). -/
def Chip.partialAt (c : Chip) (p : Nat) : Chip :=
  { c with prt := { c.prt with part := vmod c.prt.part p fun n => satAdd n 1 } }

/-- A partial instruction or word discarded at the management port (R107, R124). -/
def Chip.mgtPartial (c : Chip) : Chip := if c.mgt.cut then { c with mgt := { c.mgt with cut := false } }.partialAt 1 else c

/-- The management front end at a core-side reset: a store that waits for a slot of Q5 has not entered the crossing, and counts
as the partly received instruction of its port (R105, R128; DEDUCED, log entry 127); the rest of the frame is discarded. -/
def Chip.cutMgt (c : Chip) : Chip := (if c.mgt.more.isEmpty then c else c.partialAt 1).resetMgt

/-- The front ends and the crossings at a core-side reset: partly received instructions are cleared and counted, whole words
stay with the epoch they carry, to be discarded when the reset ends (R104, R105). -/
def Chip.cutFrames (c : Chip) (part : BitVec 3) (cross : List (BitVec 3 × BitVec 128)) : Chip :=
  let c := (List.range 3).foldl (fun (c : Chip) p => if part.getLsbD p then c.partialAt p else c) c
  { c with prt := { c.prt with cross := c.prt.cross ++ cross.map fun e => (e.1.toNat, c.prt.epoch, 0, e.2) } }

/-- The words that wait in the crossings reach the core: one whose epoch is the core's enters its queue, every other is
discarded and counted (R104). -/
def Chip.crossAll (c : Chip) : Chip :=
  c.prt.cross.foldl (fun (c : Chip) e =>
    if e.2.1 = c.prt.epoch then c.enqueue e.2.2.1.val e.2.2.2
    else
      { c with
        prt := { c.prt with drop := vmod c.prt.drop e.1 fun n => satAdd n 1 }
        spi := if e.1 = 0 then { c.spi with refused := true } else c.spi })
    { c with prt := { c.prt with cross := [] } }

/-- The ports after a core-side reset: the epoch advances and READ_STATUS will show it, stale words are discarded; SPI, MGT,
JTG and PRT registers at reset but for the PRT counters; the TAP controller itself is unchanged (R105, R144, Table PWR-4;
log entry 99). -/
def Chip.resetPorts (c : Chip) : Chip :=
  let c := c.cutMgt
  { c with
    spi := { Spi.reset with epoch := true }
    mgt := { Mgt.reset with addr := c.mgt.addr, ptr := c.mgt.ptr, held := c.mgt.held, heldBad := c.mgt.heldBad }
    jtg := { c.jtg with isc := false, test := false, code := 0, busy := false }
    prt := { c.prt with epoch := c.prt.epoch + 1 } }.crossAll

/-- Every frond SAFE and every user output in the hold of R57. -/
def Chip.resetOutputs (c : Chip) : Chip := c.settle ((c.placeFronds 0xFFFFFFFF .safe).holdPins)

/-- The core held in reset: no instruction of it is left to retire, the links count anew the frames they discard (R99, R350,
R437). -/
def Chip.holdReset (c : Chip) : Chip :=
  let c := c.resetEngine.cutMgt
  { c with
    pwr := { c.pwr with held := true }
    ports := vmapi (fun _ x => { x with drop := 0, evt := x.evt &&& ~~~8 }) c.ports }

/-- The block resets of a core-side reset, SYS.RSTCAUSE, and record 0x0003. `kind` is 2 for RESET_N, 3 for CORE.RESET
(Tables PWR-4, PWR-5, PWR-7). -/
def Chip.coreReset (c : Chip) (kind : BitVec 3) (tag : Byte) (latched : Bool) : Chip :=
  let c := c.resetOutputs.resetEngine.resetEdges
  let c := (List.range 12).foldl (fun (c : Chip) ch => c.dropDma ch) c
  let c := c.resetScrub.resetLinks.resetPorts
  let n := satAdd16 (c.pwr.rstcause.extractLsb' 16 16) 1
  let c := { c with
    pwr := { c.pwr with
      held := false
      latched := false
      rstcause := fldW 0 kind ||| bitW 3 latched ||| fldW 8 tag ||| fldW 16 n }
    prs := if c.pwr.syscfg.getLsbD 0 then { c.prs with reload := true, tried := 0 } else c.prs }
  (c.record 0x0003 0 0 (ctxAt 32 (if kind = 2 then 0 else 1))).startPosted

/-! ### Resumption (R56, R57, R267) -/

/-- Line time advanced by the hold count in crystal periods of 640 ticks, with the holdover flag. -/
def Chip.holdTime (c : Chip) : Chip :=
  let c := (c.ltAdd (c.clk.holdCnt.toNat * 640)).passTimes
  let c := { c with lt := { c.lt with holdover := true } }
  if c.clk.holdSat then c.setClkEvt 8 else c

/-- The lost edges of the hold entered in CAP.HOLD, with CAP.EVT.hold_lost (R267). -/
def Chip.holdCaptures (c : Chip) : Chip :=
  let c := if c.banks.toList.any fun b => b.holdCtr != 0 then c.setCapEvt 3 else c
  { c with banks := vmapi (fun _ b =>
      { b with hold := satAdd b.hold b.holdCtr.toNat, holdCtr := 0, gap := true }) c.banks }

/-- The ports whose input was lost while the core stood still leave UP. -/
def Chip.lostPorts (c : Chip) : Chip :=
  (List.range 3).foldl (fun (c : Chip) p =>
    if (vget c.ports p).lost then (c.modPort p fun x => { x with lost := false }).retrain p 0 else c) c

/-- The links after HOLD: an exchange in progress times out, an input lost in the hold takes its port out of UP, and a
new exchange is due once the port is UP (R91, R93, R98). -/
def Chip.resumeLinks (c : Chip) : Chip :=
  let c := if c.syncT1.isSome then { c.setLnkEvt 0 6 with syncT1 := none } else c
  let c := c.lostPorts
  if (vget c.ports 0).st = 2 then c.startSync c.now else { c with syncDue := true }

/-- Every CLK.SEL and CLK.FORCE that waits for its switch completes. -/
def Chip.switchDone (c : Chip) (st : Byte) : Chip :=
  (List.finRange 8).foldl (fun (c : Chip) q =>
    match (c.queue q).wait with
    | some w => if w.kind == .switch then c.retireWait q st 0 else c
    | none => c) c

/-- Step 5 ends. -/
def Chip.endDecision (c : Chip) : Chip :=
  { c with clk := { c.clk with deciding := false }, pwr := { c.pwr with step := 6 } }

/-- The first cc after HOLD: a decision that waits is over (R442); the new clock state, line time, captures, cams disarmed,
the extrapolator STOPPED; pins forced in the hold flush their EPUs; a CLK.SEL that the hold cut short completes CLOCK_HOLD
(R51); a latched warm reset acts (R439). -/
def Chip.resume (c : Chip) (st : ClkState) (evt : Word) : Chip :=
  let old := c
  let c := (c.freezePos.autoDisarm.clkMove st evt).holdTime.holdCaptures
  let c := old.settle { c with clk := { c.clk with holdSat := false } }
  let c := (c.autoReturn.resumeLinks).switchDone St.clockHold
  let c := if c.clk.deciding then c.endDecision else c
  if c.pwr.latched then if c.pwr.resetN then c.coreReset 2 0 true else c.holdReset
  else c

end Sys2Proof.Machine
end

