-- ==== Sys2Proof/Machine/ClockInsn.lean ====
section
/-!
DEFINITION. The clock and time opcodes (R48 to R51, R58 to R61, R94, R102, R216, R492): CLK.SEL, CLK.FORCE, LT.SET, LT.ADJ;
with the switches in flight that the clock events and the management island meet too, cc by cc.
-/
namespace Sys2Proof.Machine

/-! ### CLK.SEL (R48) -/

/-- The line is lost: its detector has fired, or the CDR is not locked. -/
def Clk.lineGone (k : Clk) : Bool := k.lineLost || !k.cdrLock

/-- The core runs on the crystal. -/
def Clk.onXtal (k : Clk) : Bool := k.st == .qualifying || k.st == .fallback || k.st == .forced

/-- CLK.SEL to the crystal, past the loss checks: whether a switch has begun, and the chip. -/
def Chip.selXtal (c : Chip) (q : Queue) : Bool × Chip :=
  match c.clk.st with
  | .forced => (false, c)
  | .line => (true, c.glitchFree false .forced (bitW 4 true) (.queue q))
  | _ => (false, c.clkMove .forced (bitW 4 true))

/-- CLK.SEL to the line, past the loss checks: whether a switch has begun, the result, and the chip. -/
def Chip.selLine (c : Chip) (q : Queue) : Bool × DWord × Chip :=
  if c.clk.st == .line then (false, 0, c)
  else if !c.clk.lineOk then
    let c := if c.clk.st == .qualifying then c else c.clkMove .qualifying 0
    (false, 1, { c with clk := { c.clk with selPending := true } })
  else (true, 0, c.glitchFree true .line (bitW 4 true ||| bitW 3 (c.clk.st == .qualifying)) (.queue q))

/-- CLK.SEL: it retires at once, or in cc4 of its switch (Table CLK-3); while a switch is in flight it waits, to be judged on
the state that the switch leaves (R492). -/
def clkSelBody : Body := fun q f _ c =>
  let t := field f.op 0 2
  if t = 0 ∨ t = 3 then .fail St.range c
  else if c.clk.switch.isSome then .wait .clkFree 0 0 c
  else if ((t = 2 ∨ c.clk.st = .line) ∧ c.clk.lineGone) ∨ ((t = 1 ∨ c.clk.st ≠ .line) ∧ !c.clk.xtalOk) then
    .fail St.clockHold c
  else
    let r := if t = 1 then ((c.selXtal q).1, 0, (c.selXtal q).2) else c.selLine q
    if r.1 then .wait .switch 0 0 r.2.2 else .done St.ok r.2.1 r.2.2

/-! ### Switches in flight (R49 to R51, R61, R491, R492) -/

/-- A completion that the management island reports without Q5 (R130). -/
def Chip.islandLast (c : Chip) (st tag : Byte) : Chip :=
  { c with mgt :=
      { c.mgt with
        lastSt := st
        lastTag := tag
        lastQ5 := false
        cmpl := completion tag st 5 false c.lt 0 } }

/-- Whoever asked for a switch is told how it ended. -/
def Chip.tellCaller (c : Chip) (caller : SwitchBy) (st : Byte) : Chip :=
  match caller with
  | .device => c
  | .queue q =>
    match (c.queue q).wait with
    | some w => if w.kind == .switch then c.retireWait q st 0 else c
    | none => c
  | .island tag => c.islandLast st tag

/-- No switch is in flight any more. -/
def Chip.noSwitch (c : Chip) : Chip := { c with clk := { c.clk with switch := none } }

/-- A glitch-free switch runs to its end: line time adds the stretched cycle where it is still to come, the state moves, the
CLK.SEL retires OK (R48, R50). -/
def Chip.endGlitchFree (c : Chip) (s : Switch) : Chip :=
  let c := if 1 < s.left then (c.stretch.2.ltAdd c.stretch.1).clkMove s.into s.evt else c
  c.noSwitch.tellCaller s.caller St.ok

/-- Crystal periods added to the hold count, which saturates (R55). -/
def Clk.holdPlus (k : Clk) (n : Nat) : Clk :=
  let m := k.holdCnt.toNat + n
  { k with holdCnt := BitVec.ofNat 48 (min m (2 ^ 48 - 1)), holdSat := k.holdSat || decide (2 ^ 48 - 1 ≤ m) }

/-- Crystal periods from the closing to the reopening of the leaf gates in the sequence of R61 (log entry 12). -/
def forcePeriods : Nat := 7

/-- The sequence of R61 begins, from a running core or from HOLD: step 1 forces the outputs, step 2 closes the leaf gates and
begins the hold count, and the core's terms of INT_N freeze (Table FLT-9). -/
def Chip.beginForce (c : Chip) (line : Bool) (into : ClkState) (evt : Word) (caller : SwitchBy) : Chip :=
  let s : Switch := ⟨true, line, into, evt, c.clk.st, caller, forcePeriods⟩
  if c.clk.st == .hold then { c with clk := { c.clk with switch := some s } }
  else c.settle { c.freezeInt.holdPins with clk := { c.clk with switch := some s, holdCnt := 0, holdSat := false } }

/-- The sequence of R61 ends: from HOLD the core resumes, a running core goes on with line time corrected and the captures of
the gap lost (R56, R267). The sequence that returns to the old source of a CLK.SEL is no transition, and the CLK.SEL
completes CLOCK_HOLD (R51). -/
def Chip.endForce (c : Chip) (s : Switch) : Chip :=
  let k := c.clk.holdPlus s.left
  let new := { c with clk := { k with switch := none } }
  let back := s.into == s.start
  let done := if s.start == .hold then new.resume s.into s.evt
    else
      let new := ((if back then new else new.clkMove s.into s.evt).holdTime).holdCaptures
      (c.settle { new with clk := { new.clk with holdSat := false } }).lostPorts
  done.tellCaller s.caller (if back then St.clockHold else St.ok)

/-- The switch in flight runs to its end; one that ends a HOLD needs the crystal (R64). -/
def Chip.runSwitch (c : Chip) : Chip :=
  match c.clk.switch with
  | none => c
  | some s =>
    if !s.forced then c.endGlitchFree s
    else if c.clk.st == .hold && !c.clk.xtalOk then c
    else c.endForce s

/-- Switches run to their end: a resumption with auto_return can begin one more, that of QUALIFYING (Table CLK-2). -/
def Chip.endSwitch (c : Chip) : Chip := c.runSwitch.runSwitch

/-- A glitch-free switch in flight is pre-empted while its new clock is not applied: its CLK.SEL completes STALE (R492). -/
def Chip.preempt (c : Chip) : Chip :=
  match c.clk.switch with
  | some s =>
    if s.forced then c
    else if s.left < 2 then c.endGlitchFree s
    else c.noSwitch.tellCaller s.caller St.stale
  | none => c

/-- A CLK.FORCE waits for a forced switch in flight, and meets a glitch-free one (R492). -/
def Chip.beforeForce (c : Chip) : Chip :=
  match c.clk.switch with
  | some s => if s.forced then c.endSwitch else c
  | none => c

/-! ### CLK.FORCE (R58 to R61) -/

/-- CLK.FORCE to a target, 1 crystal or 2 line: its status, or none where the sequence of R61 runs. One that makes the state
FORCED at once ends the device's own switch to the line, since FORCED never returns to it unasked (R44, R60). A sequence
that waits for the crystal in HOLD goes on for the later CLK.FORCE to the line (R64; log entry 96). -/
def Chip.forceClock (c : Chip) (caller : SwitchBy) (t : Nat) : Option Byte × Chip :=
  if t = 0 ∨ t = 3 then (some St.range, c)
  else if (t = 1 ∧ !c.clk.xtalOk) ∨ (t = 2 ∧ !c.clk.lineOk) then (some St.clockHold, c.setClkEvt 5)
  else if t = 1 then
    match c.clk.st with
    | .forced => (some St.ok, c)
    | .qualifying | .fallback => (some St.ok, c.preempt.clkMove .forced (bitW 4 true))
    | _ => (none, c.preempt.beginForce false .forced (bitW 4 true) caller)
  else
    match c.clk.st with
    | .line => (some St.ok, c)
    | _ => (none, c.preempt.beginForce true .line (bitW 4 true) caller)

/-- A management CLK.FORCE that meets a change `n` of the clock by the data path in its cc (R133): one that leads to the state
`n` has led to is done, any other takes its place. -/
def Chip.forceOver (c : Chip) (n : UnitNote) (caller : SwitchBy) (t : Nat) : Option Byte × Chip :=
  let r := c.forceClock caller t
  if r.1.isSome || c.notRetired n then r else (none, r.2.overrule n)

/-- CLK.FORCE with the generation of a management change (R132), judged against the data path's change of the same cc (R133,
Table PRT-7): an operand that names no source changes no unit. -/
def Chip.forceFrom (c : Chip) (mgt : Bool) (caller : SwitchBy) (t : Nat) : Option Byte × Chip :=
  let alone (good : Bool × Chip) : Option Byte × Chip :=
    if good.1 then good.2.forceClock caller t else (some St.stale, good.2)
  if t = 0 ∨ t = 3 then (some St.range, c)
  else if !mgt then c.forceClock caller t
  else match c.contest .clock (if t = 1 then 0 else 1) with
    | some (.lt, n) =>
      if n.rank != 4 && (c.mgtExpect n.gen).1 then (c.mgtExpect n.gen).2.forceOver n caller t
      else alone (c.mgtExpect c.clk.gen)
    | _ => alone (c.mgtExpect c.clk.gen)

/-- CLK.FORCE: it retires at once, or in the first cc after its sequence, on the new time (R61). -/
def clkForceBody : Body := fun q f _ c =>
  match c.forceFrom (q == 5) (.queue q) (field f.op 0 2) with
  | (some st, c) => .done st 0 c
  | (none, c) => .wait .switch 0 0 c

/-! ### The cc of a glitch-free switch (Table CLK-3) -/

/-- One CCLK period of a glitch-free switch: the clock moves at the end of cc2, and the CLK.SEL retires in cc4 (Table
CLK-3). -/
def Chip.switchTick (c : Chip) : Chip :=
  match c.clk.switch with
  | none => c
  | some s =>
    let c' := { c with clk := { c.clk with switch := some { s with left := s.left - 1 } } }
    if s.forced then c
    else if s.left ≤ 1 then c.noSwitch.tellCaller s.caller St.ok
    else if s.left = 2 then c'.clkMove s.into s.evt
    else c'

/-- A glitch-free switch is in flight. -/
def Clk.switching (k : Clk) : Bool := match k.switch with | some s => !s.forced | none => false

/-- A cc of a glitch-free switch passes. -/
def Chip.passCc (c : Chip) : Chip :=
  let r := c.nextTime
  { (r.2.advance r.1.stamp) with lt := r.1 }.switchTick

/-- Line time carried to the cc of `t` through the cc of a glitch-free switch in flight, at most the four of Table CLK-3. -/
def Chip.reachIn : Nat → Chip → BitVec 64 → Chip
  | 0, c, t => c.advance t
  | n + 1, c, t => if c.clk.switching && decide (0 ≤ signedGap t c.next) then Chip.reachIn n c.passCc t else c.advance t

/-- Line time carried to the cc of `t`. -/
def Chip.reach (c : Chip) (t : BitVec 64) : Chip := c.reachIn 4 t

/-! ### LT.SET and LT.ADJ -/

/-- LT.SET (R102). -/
def ltSetBody : Body := fun _ f _ c =>
  let ticks : BitVec 34 := f.op.extractLsb' 0 34
  if 15999999999 < ticks.toNat then .fail St.range c
  else .done St.ok 0 (c.withLt (c.lt.written f.tgt ticks))

/-- The slewer's remainder after an addition: where the sum leaves the 32-bit format the spec states no value, and it is
free (log entry 2). -/
def Chip.slewAdd (c : Chip) (v : Word) : Word × Chip :=
  let s := c.lt.slew.toInt + v.toInt
  if -(2 ^ 31) ≤ s ∧ s < 2 ^ 31 then (c.lt.slew + v, c)
  else
    let (x, c) := c.free
    (x.setWidth 32, c)

/-- LT.ADJ (R94). Its 64-bit result is the slewer's 32-bit remainder with zeros above: the spec does not give the extension
(DESIGN CHOICE, log entry 100). -/
def ltAdjBody : Body := fun _ f _ c =>
  let n := field f.tgt 0 16
  if 0 < n ∧ n < 157 then .fail St.range c
  else
    let (s, c) := c.slewAdd (f.op.setWidth 32)
    let l := { c.lt with slew := s, interval := if n = 0 then c.lt.interval else BitVec.ofNat 16 n }
    .done St.ok (s.setWidth 64) { c with lt := l }

end Sys2Proof.Machine
end

