-- ==== Sys2Proof/Machine/Link.lean ====
section
/-!
DEFINITION. The LINK.CTL functions (R85, R86) and the frames a port sends (R77, R78, R91).
-/
namespace Sys2Proof.Machine

/-! ### LINK.CTL -/

/-- DISABLE and RETRAIN of the line port while the core runs on the line (R86). -/
def Chip.lineInUse (c : Chip) (p : Nat) : Bool := p == 0 && c.clk.st == .line

/-- Frames that leave a port before those of LINK.CTL: a forwarded POS frame, answers to SYNC_REQ, forwarded CMD
frames (R87). XOFF, XON and SYNC_REQ leave as they become ready. -/
def Port.held (x : Port) : Bool := x.posBuf.isSome || !x.rsp.isEmpty || !x.fwdBuf.isEmpty

/-- SEND_DATA: ranges, then the port, then the words of the transmit area. A word with an ECC error is read as an LD reads it
(DESIGN CHOICE, log entry 105). -/
def sendData (q : Queue) (f : Insn) (d : Die) (c : Chip) (p : Nat) : Done :=
  let src := field f.op 8 8
  let n := field f.op 16 5
  let dest := field f.op 32 10
  let x := vget c.ports p
  if n = 0 ∨ 16 < n ∨ 256 < src + n ∨ 768 < dest + n then .fail St.range c
  else if x.st != 2 then .fail St.busy c
  else if x.xoffRx then .wait .xoff 0 0 c
  else if x.held then .wait .boundary 0 0 c
  else
    let (st, ws, c) := c.loadWords d (Src.ofQueue q) (0x60003000 + p * 0x4000 + 16 * src) n
    if failed st then .fail st c
    else .done st (x.txSeq.setWidth 64)
      (c.sendFrame p 3 0 (natBytes (16 * dest) 2 ++ [0, 0] ++ ws.flatMap fun w => natBytes w.toNat 16))

/-- SEND_CMD: one instruction word of the transmit area with its distance, read as SEND_DATA reads. -/
def sendCmd (q : Queue) (f : Insn) (d : Die) (c : Chip) (p : Nat) : Done :=
  let src := field f.op 8 8
  let x := vget c.ports p
  if x.st != 2 then .fail St.busy c
  else if x.xoffRx then .wait .xoff 0 0 c
  else if x.held then .wait .boundary 0 0 c
  else
    let (st, ws, c) := c.loadWords d (Src.ofQueue q) (0x60003000 + p * 0x4000 + 16 * src) 1
    if failed st then .fail st c
    else .done st (x.txSeq.setWidth 64)
      (c.sendFrame p 2 (BitVec.ofNat 8 (field f.op 4 3)) (ws.flatMap fun w => natBytes w.toNat 16))

/-- LINK.CTL: the port, then the function (Table LNK-5a). -/
def linkCtlBody : Body := fun q f d c =>
  let p := field f.tgt 0 2
  if p = 3 then .fail St.range c
  else match field f.op 0 4 with
    | 1 => .done St.ok 0 (c.enablePort p)
    | 2 => if c.lineInUse p then .fail St.clockHold c else .done St.ok 0 (c.disablePort p)
    | 3 => if c.lineInUse p then .fail St.clockHold c else .done St.ok 0 (c.retrain p 2)
    | 4 => sendData q f d c p
    | 5 => sendCmd q f d c p
    | 6 =>
      if p ≠ 0 then .fail St.range c
      else if (vget c.ports 0).st != 2 then .fail St.busy c
      else .done St.ok 0 (c.startSync c.now)
    | _ => .fail St.range c

end Sys2Proof.Machine
end

