-- ==== Sys2Proof/Machine/Recorder.lean ====
section
/-!
DEFINITION. The lichen recorder (R371 to R382): record bytes, numbering, coalescing, first-fault copies; and the scrub
comparison of one frond (R334 to R338), which SCRUB.CTL and the scrubber share.
-/
namespace Sys2Proof.Machine

/-! ### Records (R379, Table LIC-1) -/

/-- Bytes 0 to 59 of a record. -/
def LicRec.body (r : LicRec) (seq : Word) (count : BitVec 16) (last : Word) (flags : Byte) : List Byte :=
  natBytes 0x4C1C 2 ++ natBytes r.cause.toNat 2 ++ natBytes seq.toNat 4 ++ natBytes r.lt.toNat 16
    ++ [r.cls, r.idx] ++ natBytes count.toNat 2
    ++ [flags ||| r.info.extractLsb' 0 8] ++ natBytes (r.info.toNat / 256) 3
    ++ natBytes r.ctx.toNat 24 ++ natBytes last.toNat 4

/-- A record with its CRC. -/
def sealRecord (body : List Byte) : List Byte := body ++ natBytes (crc32 body).toNat 4

/-- The address of a recorder slot. -/
def slotAddr (i : Nat) : Nat := 0x50000000 + 64 * i

/-- The 64 bytes of a slot as they stand. -/
def Chip.slotBytes (c : Chip) (i : Nat) : List Byte := memBytes 0 c.mem (slotAddr i) 64

/-- A slot written with fresh check bits, awaiting its program into the shadow. -/
def Chip.writeSlot (c : Chip) (i : Nat) (bs : List Byte) : Chip :=
  let c := { c with mem := memPutBytes 0 c.mem (slotAddr i) bs }
  let c := (List.range 4).foldl (fun (c : Chip) k => c.setEcc (slotAddr i + 16 * k) 0) c
  let old := c.lic.unstored.length
  let c := { c with lic := { c.lic with
    unstored := if c.lic.unstored.contains i then c.lic.unstored else c.lic.unstored ++ [i] } }
  if old ≤ 240 ∧ 240 < c.lic.unstored.length then c.setLicEvt 3 else c

/-- The stamp in a slot's line time. -/
def recStamp (bs : List Byte) : BitVec 64 := ltStamp (BitVec.ofNat 128 (le bs 8 16))

/-- A record repeats the record in a slot (R380). -/
def LicRec.repeats (r : LicRec) (bs : List Byte) : Bool :=
  let d := signedGap (ltStamp r.lt) (recStamp bs)
  r.cause != 0x0F00 && le bs 2 2 == r.cause.toNat && le bs 24 1 == r.cls.toNat && le bs 25 1 == r.idx.toNat
    && decide (0 ≤ d ∧ d < 16000000)

/-- The slot a record coalesces into: among the 16 newest numbered since power-on, the newest first. -/
def Chip.repeatSlot (c : Chip) (r : LicRec) : Option Nat :=
  ((List.range (min 16 c.lic.since)).map fun i => (c.lic.next - 1 - BitVec.ofNat 32 i).toNat % 480).find? fun s =>
    r.repeats (c.slotBytes s)

/-- Pending set by a record or a repeat (R390); a record that sets it enters LIC.FIRST. -/
def Chip.setPending (c : Chip) (seq : Option Word) : Chip :=
  let first := match seq with | some s => if c.lic.pending then c.lic.first else s | none => c.lic.first
  { c with lic := { c.lic with first := first, pending := true } }

/-- A repeat coalesced into a slot. -/
def Chip.coalesce (c : Chip) (r : LicRec) (i : Nat) : Chip :=
  let bs := c.slotBytes i
  let n := le bs 26 2
  let flags : Byte := BitVec.ofNat 8 (le bs 28 1) ||| (if n = 0xFFFF then 0x20 else 0)
  let d := ltStamp r.lt - recStamp bs
  let body := bs.take 26 ++ natBytes (min (n + 1) 0xFFFF) 2 ++ [flags] ++ (bs.drop 29).take 27 ++ natBytes d.toNat 4
  let c := (c.writeSlot i (sealRecord body)).setPending none
  { c with lic := { c.lic with coal := satAdd c.lic.coal 1, coalSince := true } }

/-- The first-fault copy of a fault-class record (R377). -/
def Chip.firstFault (c : Chip) (r : LicRec) (seq : Word) : Chip :=
  if r.cause.extractLsb' 12 4 != 2 then c
  else
    let c := c.setLicEvt 1
    if 32 ≤ c.lic.ffcount then c
    else
      let c := c.writeSlot (480 + c.lic.ffcount) (sealRecord (r.body seq 1 0 0x10))
      let c := { c with lic := { c.lic with ffcount := c.lic.ffcount + 1 } }
      if c.lic.ffcount = 32 then c.setLicEvt 4 else c

/-- A new record numbered and written (R375, R378). -/
def Chip.newRecord (c : Chip) (r : LicRec) : Chip :=
  let seq := c.lic.next
  let c := (c.writeSlot (seq.toNat % 480) (sealRecord (r.body seq 1 0 0))).setLicEvt 0
  let c := { c with lic := { c.lic with next := seq + 1, since := c.lic.since + 1 } }
  let c := if r.cause.extractLsb' 12 4 == 3 then c.setLicEvt 2 else c
  if r.cause = 0x0F00 then c
  else
    let c := c.setPending (some seq)
    let c := { c with lic := { c.lic with last := seq } }
    c.firstFault r seq

/-- One entry of the writer's buffer drained; a record that waits takes the entry (R374). -/
def Chip.drainOne (c : Chip) : Chip :=
  match c.lic.buf with
  | [] => c
  | r :: rest =>
    let c := { c with lic := { c.lic with buf := rest }.refill r.entry }
    match c.repeatSlot r with
    | some i => c.coalesce r i
    | none => c.newRecord r

/-- The sequence number that the newest record given to the writer will take. -/
def Chip.lastSeq (c : Chip) : Word := (c.lic.given.foldl (fun (x : Chip) _ => Chip.drainOne x) c).lic.next - 1

/-! ### The scrub comparison (R334, R335, R338) -/

/-- The scrubber reads a frond: a complete active plane, outside LOADER. -/
def Chip.scrubReads (c : Chip) (n : Nat) : Bool := (vget c.fronds n).activeOk && c.prs.ldr != .loader

/-- A mismatch of a frond (R338, R426). Under SAFE_REPAIR the device asks for the repair itself, in `auto`: the bit of
SCR.REPAIR, which a write of 1 sets, reads 0 for it. The spec does not say what the bit reads then (DESIGN CHOICE, log
entry 100). -/
def Chip.mismatch (c : Chip) (n : Nat) (sig : BitVec 64) : Chip :=
  let old := c
  let f := vget c.fronds n
  let c := c.modFrond n fun f =>
    { f with
      check := 2
      mpol := f.scrPol
      wasRun := f.st == .run
      mism := if f.mism = 255 then 255 else f.mism + 1
      window := false }
  let c := c.setScrEvt 0
  let c := { c with scr := { c.scr with
    mism := satAdd c.scr.mism 1
    auto := if f.scrPol.getLsbD 0 then c.scr.auto ||| bitW n true else c.scr.auto } }
  let c := if f.window then { c with flt := { c.flt with
      dbl := c.flt.dbl ||| bitW n true
      upFrond := BitVec.ofNat 5 n
      upsets := satAdd16 c.flt.upsets 1 } } else c
  let c := (c.handlerAsk (encodeWord 0x22
    { tx := false, fence := false, cmpl := true, chain := false, rsv := 0, tag := BitVec.ofNat 8 (0x80 + n), ext := 0,
      tgt := 0, op := BitVec.ofNat 64 (2 ^ n) })).handlerPass
  let c := c.record 0x2A01 1 n
    (ctxAt 32 f.golden.toNat ||| ctxAt 40 sig.toNat ||| ctxAt 48 f.scrPol.toNat)
  old.condEdge c

/-- One frond read and compared: whether a mismatch was found, and the chip. A pending golden signature is learned; a
frond already in mismatch or under repair is not judged again. The spec does not say when the SCR.REPAIR bit of a request not
yet begun clears if its frond so leaves the mismatch: it stays (DESIGN CHOICE, log entry 114). -/
def Chip.scrubFrond (c : Chip) (n : Nat) : Bool × Chip :=
  let f := vget c.fronds n
  let sig := c.signature (c.activeBase n)
  if f.gsrc = 3 then (false, c.modFrond n fun f => { f with golden := sig, gsrc := 2, check := 1 })
  else if f.check.getLsbD 1 then (false, c)
  else if sig = f.golden then (false, c.modFrond n fun f => { f with check := 1 })
  else (true, c.mismatch n sig)

end Sys2Proof.Machine
end

