-- ==== Sys2Proof/Machine/Diag.lean ====
section
/-!
DEFINITION. The diagnostic opcodes (R217, R218, R387, R389): LIC.MARK, LIC.READ, SNAP, SCRUB.CTL, CORE.RESET.
-/
namespace Sys2Proof.Machine

/-- LIC.MARK (R389): its record reaches the writer; while no entry is free the instruction waits, as every one that must
record does (R374). -/
def licMarkBody : Body := fun q f _ c =>
  let c := c.record 0x0F00 0 0 (ctxAt 32 (field f.tgt 0 16) ||| ctxAt 34 f.op.toNat) (insnInfo q 0xC0 f.tag St.ok)
  .done St.ok (c.lastSeq.setWidth 64) c

/-- A slot's CRC is that of its bytes 0 to 59. -/
def slotGood (bs : List Byte) : Bool := le bs 60 4 == (crc32 (bs.take 60)).toNat

/-- LIC.READ (R387, Table LIC-4): a slot of zeros reads OK; a failed CRC poisons nothing. -/
def licReadBody : Body := fun q f d c =>
  let slot := field f.op 0 9
  let dest := f.tgt.toNat
  match (if dest ≠ 0 then destCheck q dest 4 else none) with
  | some st => .fail st c
  | none =>
    let (st, ws, c) := c.loadWords d (Src.ofQueue q) (slotAddr slot) 4
    if failed st then .fail st c
    else
      let bs := ws.flatMap fun w => natBytes w.toNat 16
      if bs.any (· != 0) && !slotGood bs then .fail St.eccUncorr c
      else
        let res := le bs 4 4 + 2 ^ 32 * le bs 2 2 + 2 ^ 48 * le bs 0 2
        .done st (BitVec.ofNat 64 res) (if dest ≠ 0 then c.putWords dest ws else c)

/-- The 18 words of SNAP: flip-flops, then pin levels (R218). -/
def Chip.snapWords (c : Chip) : List QWord :=
  let ffs := (List.range 32).foldl (fun a n => a + (c.ffNow n).toNat * 2 ^ (64 * n)) 0
  let pins := (List.range 192).foldl (fun a p => if c.padLevel p then a + 2 ^ (2048 + p) else a) 0
  cutWords (ffs + pins) 18

/-- SNAP. -/
def snapBody : Body := fun q f die c =>
  let dest := field f.op 0 32
  if dest = 0 then .fail St.range c
  else match destCheck q dest 18 with
    | some st => .fail st c
    | none =>
      if die.readback then .fail St.locked (c.violate (Src.ofQueue q) 0x3E03 8 6 0)
      else .done St.ok 0 (c.putWords dest c.snapWords)

/-- Scrubbing paused or resumed. -/
def Chip.setPause (c : Chip) (on : Bool) : Chip := c.condEdge { c with scr := { c.scr with paused := on } }

/-- One scrub pass over the fronds of a mask: mismatches found, chip. The spec does not say whether such a pass counts in
SCR.STAT.passes: it does not (DESIGN CHOICE, log entry 121). -/
def Chip.scrubPass (c : Chip) (mask : Word) : Nat × Chip :=
  (maskList mask).foldl (fun (r : Nat × Chip) n =>
    if r.2.scrubReads n then
      let (bad, c) := r.2.scrubFrond n
      (if bad then r.1 + 1 else r.1, c)
    else r) (0, c)

/-- SCRUB.CTL by function (Table ISA-13). A pass asked for while scrubbing is paused runs, and the pause stays: the spec does not
say (DESIGN CHOICE, log entry 122). -/
def scrubCtlBody : Body := fun _ f _ c =>
  match field f.ext 0 2 with
  | 0 => .done St.ok 0 (c.setPause true)
  | 1 => .done St.ok 0 (c.setPause false)
  | 2 =>
    let m : Word := f.op.setWidth 32
    let r := c.scrubPass (if m = 0 then 0xFFFFFFFF else m)
    .done St.ok (BitVec.ofNat 64 r.1) r.2
  | _ => .fail St.range c

/-- CORE.RESET: its completion, then the reset (R218, R438), which finds the front ends and the crossings as told (R105). -/
def coreResetWith (part : BitVec 3) (cross : List (BitVec 3 × BitVec 128)) : Body := fun q f _ c =>
  .hold (((c.retire q f St.ok 0).cutFrames part cross).coreReset 3 f.tag false)

/-- A CORE.RESET that issues from its queue, with nothing on its way in the front ends. -/
def coreResetBody : Body := coreResetWith 0 []

end Sys2Proof.Machine
end

