-- ==== Sys2Proof/Machine/Meaning.lean ====
section
/-!
DEFINITION. What every command does around its own effect, and the meanings of the instructions: a command finds a switch of
the clock source ended, unless the spec says what it does while one is in flight (R51, R491, R492; log entry 96).
-/
namespace Sys2Proof.Machine

/-- A meaning whose command acts although a switch may be in flight: the chip changes, the fuses and the queue of commands
stay, the outcome is a next state. -/
def inFlight (s : State) (g : Die → Chip → Chip) : Host.Outcome State Fault Refusal := .next { s with chip := g s.die s.chip }

/-- A meaning: a switch in flight has ended before the command acts. -/
def onChip (s : State) (g : Die → Chip → Chip) : Host.Outcome State Fault Refusal :=
  inFlight s fun die c => g die c.endSwitch

/-- The meaning of an instruction row. -/
def insn (o : OpInfo) (body : Body) (q : Queue) (f : Insn) (s : State) : Host.Outcome State Fault Refusal :=
  onChip s fun die c => runInsn o q f die body c

/-! ### Flow (R187 to R189, R490) -/

/-- NOP. -/
def execNop (q : Queue) (f : Insn) (s : State) : Host.Outcome State Fault Refusal := insn Op.nop nopBody q f s
/-- FENCE: NOP that issues as with fence = 1 (R154). -/
def execFence (q : Queue) (f : Insn) (s : State) : Host.Outcome State Fault Refusal := insn Op.fence nopBody q f s
/-- WAIT.POS. -/
def execWaitPos (q : Queue) (f : Insn) (s : State) : Host.Outcome State Fault Refusal := insn Op.waitPos waitPosBody q f s
/-- WAIT.TIME. -/
def execWaitTime (q : Queue) (f : Insn) (s : State) : Host.Outcome State Fault Refusal :=
  insn Op.waitTime waitTimeBody q f s
/-- WAIT.EVT. -/
def execWaitEvt (q : Queue) (f : Insn) (s : State) : Host.Outcome State Fault Refusal := insn Op.waitEvt waitEvtBody q f s
/-- CALL. -/
def execCall (q : Queue) (f : Insn) (s : State) : Host.Outcome State Fault Refusal := insn Op.call callBody q f s
/-- RET. -/
def execRet (q : Queue) (f : Insn) (s : State) : Host.Outcome State Fault Refusal := insn Op.ret retBody q f s
/-- HALT.Q. -/
def execHaltQ (q : Queue) (f : Insn) (s : State) : Host.Outcome State Fault Refusal := insn Op.haltQ haltQBody q f s
/-- SIG.EVT. -/
def execSigEvt (q : Queue) (f : Insn) (s : State) : Host.Outcome State Fault Refusal := insn Op.sigEvt sigEvtBody q f s

/-! ### Registers (R190 to R193) -/

/-- LD. -/
def execLd (q : Queue) (f : Insn) (s : State) : Host.Outcome State Fault Refusal := insn Op.ld ldBody q f s
/-- ST. -/
def execSt (q : Queue) (f : Insn) (s : State) : Host.Outcome State Fault Refusal := insn Op.st stBody q f s
/-- RMW. -/
def execRmw (q : Queue) (f : Insn) (s : State) : Host.Outcome State Fault Refusal := insn Op.rmw rmwBody q f s
/-- LD.SNAP. -/
def execLdSnap (q : Queue) (f : Insn) (s : State) : Host.Outcome State Fault Refusal := insn Op.ldSnap ldSnapBody q f s

/-! ### Fronds (R194 to R196) -/

/-- TERM.WR. -/
def execTermWr (q : Queue) (f : Insn) (s : State) : Host.Outcome State Fault Refusal := insn Op.termWr termWrBody q f s
/-- MC.CFG. -/
def execMcCfg (q : Queue) (f : Insn) (s : State) : Host.Outcome State Fault Refusal := insn Op.mcCfg mcCfgBody q f s
/-- FROND.SAFE. -/
def execFrondSafe (q : Queue) (f : Insn) (s : State) : Host.Outcome State Fault Refusal :=
  insn Op.frondSafe frondSafeBody q f s
/-- FROND.RUN. -/
def execFrondRun (q : Queue) (f : Insn) (s : State) : Host.Outcome State Fault Refusal :=
  insn Op.frondRun frondRunBody q f s
/-- PLANE.SWAP. -/
def execPlaneSwap (q : Queue) (f : Insn) (s : State) : Host.Outcome State Fault Refusal :=
  insn Op.planeSwap planeSwapBody q f s
/-- PLANE.SWAP.AT. -/
def execPlaneSwapAt (q : Queue) (f : Insn) (s : State) : Host.Outcome State Fault Refusal :=
  insn Op.planeSwapAt planeSwapAtBody q f s

/-! ### Edges (R199 to R201) -/

/-- EDGE.SET. -/
def execEdgeSet (q : Queue) (f : Insn) (s : State) : Host.Outcome State Fault Refusal := insn Op.edgeSet edgeSetBody q f s
/-- EDGE.PULSE. -/
def execEdgePulse (q : Queue) (f : Insn) (s : State) : Host.Outcome State Fault Refusal :=
  insn Op.edgePulse edgePulseBody q f s
/-- EDGE.CAL. -/
def execEdgeCal (q : Queue) (f : Insn) (s : State) : Host.Outcome State Fault Refusal := insn Op.edgeCal edgeCalBody q f s
/-- PIN.SAFE. -/
def execPinSafe (q : Queue) (f : Insn) (s : State) : Host.Outcome State Fault Refusal := insn Op.pinSafe pinSafeBody q f s
/-- CAP.ARM. -/
def execCapArm (q : Queue) (f : Insn) (s : State) : Host.Outcome State Fault Refusal := insn Op.capArm capArmBody q f s
/-- CAP.READ. -/
def execCapRead (q : Queue) (f : Insn) (s : State) : Host.Outcome State Fault Refusal := insn Op.capRead capReadBody q f s

/-! ### Cams and captures (R198, R202, R203, R262, R283) -/

/-- CAM.LOAD. -/
def execCamLoad (q : Queue) (f : Insn) (s : State) : Host.Outcome State Fault Refusal := insn Op.camLoad camLoadBody q f s
/-- CAM.ARM. -/
def execCamArm (q : Queue) (f : Insn) (s : State) : Host.Outcome State Fault Refusal := insn Op.camArm camArmBody q f s
/-- CAM.DISARM. -/
def execCamDisarm (q : Queue) (f : Insn) (s : State) : Host.Outcome State Fault Refusal :=
  insn Op.camDisarm camDisarmBody q f s
/-- CAM.NUDGE. -/
def execCamNudge (q : Queue) (f : Insn) (s : State) : Host.Outcome State Fault Refusal :=
  insn Op.camNudge camNudgeBody q f s

/-! ### The store (R204 to R207) -/

/-- NV.WR. -/
def execNvWr (q : Queue) (f : Insn) (s : State) : Host.Outcome State Fault Refusal := insn Op.nvWr nvWrBody q f s
/-- NV.RD. -/
def execNvRd (q : Queue) (f : Insn) (s : State) : Host.Outcome State Fault Refusal := insn Op.nvRd nvRdBody q f s
/-- NV.STORE. -/
def execNvStore (q : Queue) (f : Insn) (s : State) : Host.Outcome State Fault Refusal := insn Op.nvStore nvStoreBody q f s
/-- NV.RECALL. -/
def execNvRecall (q : Queue) (f : Insn) (s : State) : Host.Outcome State Fault Refusal :=
  insn Op.nvRecall nvRecallBody q f s
/-- CTR.INC. -/
def execCtrInc (q : Queue) (f : Insn) (s : State) : Host.Outcome State Fault Refusal := insn Op.ctrInc ctrIncBody q f s
/-- CTR.RD. -/
def execCtrRd (q : Queue) (f : Insn) (s : State) : Host.Outcome State Fault Refusal := insn Op.ctrRd ctrRdBody q f s
/-- NV.UNLOCK. -/
def execNvUnlock (q : Queue) (f : Insn) (s : State) : Host.Outcome State Fault Refusal :=
  insn Op.nvUnlock nvUnlockBody q f s
/-- NV.PROT. -/
def execNvProt (q : Queue) (f : Insn) (s : State) : Host.Outcome State Fault Refusal := insn Op.nvProt nvProtBody q f s

/-! ### DMA (R208 to R210) -/

/-- DMA.GO. -/
def execDmaGo (q : Queue) (f : Insn) (s : State) : Host.Outcome State Fault Refusal := insn Op.dmaGo dmaGoBody q f s
/-- DMA.STOP. -/
def execDmaStop (q : Queue) (f : Insn) (s : State) : Host.Outcome State Fault Refusal := insn Op.dmaStop dmaStopBody q f s
/-- DMA.STAT. -/
def execDmaStat (q : Queue) (f : Insn) (s : State) : Host.Outcome State Fault Refusal := insn Op.dmaStat dmaStatBody q f s

/-! ### Transactions (R165 to R171) -/

/-- TXN.BEGIN. -/
def execTxnBegin (q : Queue) (f : Insn) (s : State) : Host.Outcome State Fault Refusal :=
  insn Op.txnBegin txnBeginBody q f s
/-- TXN.COMMIT. -/
def execTxnCommit (q : Queue) (f : Insn) (s : State) : Host.Outcome State Fault Refusal :=
  insn Op.txnCommit txnCommitBody q f s
/-- TXN.ABORT. -/
def execTxnAbort (q : Queue) (f : Insn) (s : State) : Host.Outcome State Fault Refusal :=
  insn Op.txnAbort txnAbortBody q f s
/-- TXN.COMMIT.AT. -/
def execTxnCommitAt (q : Queue) (f : Insn) (s : State) : Host.Outcome State Fault Refusal :=
  insn Op.txnCommitAt txnCommitAtBody q f s

/-! ### Personalities and variants (R211 to R213) -/

/-- PERS.STAGE. -/
def execPersStage (q : Queue) (f : Insn) (s : State) : Host.Outcome State Fault Refusal :=
  insn Op.persStage persStageBody q f s
/-- PERS.VERIFY. -/
def execPersVerify (q : Queue) (f : Insn) (s : State) : Host.Outcome State Fault Refusal :=
  insn Op.persVerify persVerifyBody q f s
/-- PERS.ACTIVATE. -/
def execPersActivate (q : Queue) (f : Insn) (s : State) : Host.Outcome State Fault Refusal :=
  insn Op.persActivate persActivateBody q f s
/-- PERS.SLOT. -/
def execPersSlot (q : Queue) (f : Insn) (s : State) : Host.Outcome State Fault Refusal :=
  insn Op.persSlot persSlotBody q f s
/-- PERS.PROG. -/
def execPersProg (q : Queue) (f : Insn) (s : State) : Host.Outcome State Fault Refusal :=
  insn Op.persProg persProgBody q f s
/-- PERS.ERASE. -/
def execPersErase (q : Queue) (f : Insn) (s : State) : Host.Outcome State Fault Refusal :=
  insn Op.persErase persEraseBody q f s
/-- VARIANT.STAGE. -/
def execVariantStage (q : Queue) (f : Insn) (s : State) : Host.Outcome State Fault Refusal :=
  insn Op.variantStage variantStageBody q f s

/-! ### Security (R214, R215) -/

/-- LOCK.SET. -/
def execLockSet (q : Queue) (f : Insn) (s : State) : Host.Outcome State Fault Refusal :=
  insn Op.lockSet lockSetBody q f s
/-- KEY.PROG. -/
def execKeyProg (q : Queue) (f : Insn) (s : State) : Host.Outcome State Fault Refusal :=
  insn Op.keyProg keyProgBody q f s
/-- PW.SET. -/
def execPwSet (q : Queue) (f : Insn) (s : State) : Host.Outcome State Fault Refusal := insn Op.pwSet pwSetBody q f s
/-- SEC.STAT. -/
def execSecStat (q : Queue) (f : Insn) (s : State) : Host.Outcome State Fault Refusal :=
  insn Op.secStat secStatBody q f s

/-! ### Clock and time (R216) -/

/-- CLK.SEL. -/
def execClkSel (q : Queue) (f : Insn) (s : State) : Host.Outcome State Fault Refusal := insn Op.clkSel clkSelBody q f s
/-- CLK.FORCE: its sequence pre-empts a glitch-free switch in flight (R492). -/
def execClkForce (q : Queue) (f : Insn) (s : State) : Host.Outcome State Fault Refusal :=
  inFlight s fun die c => runInsn Op.clkForce q f die clkForceBody c.beforeForce
/-- LT.SET. -/
def execLtSet (q : Queue) (f : Insn) (s : State) : Host.Outcome State Fault Refusal := insn Op.ltSet ltSetBody q f s
/-- LT.ADJ. -/
def execLtAdj (q : Queue) (f : Insn) (s : State) : Host.Outcome State Fault Refusal := insn Op.ltAdj ltAdjBody q f s

/-! ### Links (R85, R86) -/

/-- LINK.CTL ENABLE. -/
def execLinkCtlEnable (q : Queue) (f : Insn) (s : State) : Host.Outcome State Fault Refusal :=
  insn Op.linkCtl linkCtlBody q f s
/-- LINK.CTL DISABLE. -/
def execLinkCtlDisable (q : Queue) (f : Insn) (s : State) : Host.Outcome State Fault Refusal :=
  insn Op.linkCtl linkCtlBody q f s
/-- LINK.CTL RETRAIN. -/
def execLinkCtlRetrain (q : Queue) (f : Insn) (s : State) : Host.Outcome State Fault Refusal :=
  insn Op.linkCtl linkCtlBody q f s
/-- LINK.CTL SEND_DATA. -/
def execLinkCtlSendData (q : Queue) (f : Insn) (s : State) : Host.Outcome State Fault Refusal :=
  insn Op.linkCtl linkCtlBody q f s
/-- LINK.CTL SEND_CMD. -/
def execLinkCtlSendCmd (q : Queue) (f : Insn) (s : State) : Host.Outcome State Fault Refusal :=
  insn Op.linkCtl linkCtlBody q f s
/-- LINK.CTL SYNC_NOW. -/
def execLinkCtlSyncNow (q : Queue) (f : Insn) (s : State) : Host.Outcome State Fault Refusal :=
  insn Op.linkCtl linkCtlBody q f s

/-! ### Diagnostics (R217, R218) -/

/-- LIC.MARK. -/
def execLicMark (q : Queue) (f : Insn) (s : State) : Host.Outcome State Fault Refusal :=
  insn Op.licMark licMarkBody q f s
/-- LIC.READ. -/
def execLicRead (q : Queue) (f : Insn) (s : State) : Host.Outcome State Fault Refusal :=
  insn Op.licRead licReadBody q f s
/-- SNAP. -/
def execSnap (q : Queue) (f : Insn) (s : State) : Host.Outcome State Fault Refusal := insn Op.snap snapBody q f s
/-- SCRUB.CTL pause. -/
def execScrubCtlPause (q : Queue) (f : Insn) (s : State) : Host.Outcome State Fault Refusal :=
  insn Op.scrubCtl scrubCtlBody q f s
/-- SCRUB.CTL resume. -/
def execScrubCtlResume (q : Queue) (f : Insn) (s : State) : Host.Outcome State Fault Refusal :=
  insn Op.scrubCtl scrubCtlBody q f s
/-- SCRUB.CTL one pass. -/
def execScrubCtlPass (q : Queue) (f : Insn) (s : State) : Host.Outcome State Fault Refusal :=
  insn Op.scrubCtl scrubCtlBody q f s
/-- CORE.RESET, with what the front ends and the crossings hold. -/
def execCoreReset (q : Queue) (f : Insn) (s : State) (part : BitVec 3 := 0) (cross : List (BitVec 3 × BitVec 128) := []) :
    Host.Outcome State Fault Refusal :=
  insn Op.coreReset (coreResetWith part cross) q f s

end Sys2Proof.Machine
end

