-- ==== Sys2Proof/Machine/HostPort.lean ====
section
/-!
DEFINITION. The host port frames (R105, R107 to R121): PUSH_Q0, PUSH_Q1, READ_STATUS, READ_RING, READ_STREAM,
WRITE_STREAM, READ_ID, RESET_ENABLE, RESET. `spi.out` holds the bytes the device drove in the frame's data phase.
-/
namespace Sys2Proof.Machine

/-! ### Serving (R112, R121, R434, R444) -/

/-- The port answers: powered, before power fail, after step 2 of start-up. -/
def Chip.spiServed (c : Chip) : Bool := c.pwr.pgood && c.pwr.pf == 0 && (c.pwr.step == 0 || decide (2 < c.pwr.step.toNat))

/-- The clock source is in HOLD. -/
def Chip.inHold (c : Chip) : Bool := c.clk.st == .hold

/-- Q0 and Q1 take nothing from the port: HOLD or start-up. -/
def Chip.hostShut (c : Chip) : Bool := c.inHold || c.pwr.step != 0

/-- Free slots as the port shows them. -/
def Chip.hostFree (c : Chip) (q : Nat) : Nat := if c.hostShut then 0 else c.freeSlots q

/-- The status byte (Table PRT-3). -/
def Chip.statusByte (c : Chip) : Byte :=
  let b (n : Nat) (v : Bool) : Byte := if v then BitVec.ofNat 8 (2 ^ n) else 0
  b 7 (c.hostFree 0 == 0) ||| b 6 (c.hostFree 1 == 0) ||| b 5 c.inHold ||| b 4 c.intAsserted ||| b 3 c.spi.epoch
    ||| b 2 c.spi.refused ||| 1

/-- The status word (Table PRT-4). -/
def Chip.statusWord (c : Chip) : Word :=
  natW 0 (c.hostFree 0) ||| natW 6 (c.hostFree 1) ||| natW 12 (field (c.queue 0).rnext 0 6)
    ||| natW 18 (field (c.queue 1).rnext 0 6) ||| fldW 24 c.spi.lastAcc ||| bitW 30 c.inHold ||| bitW 31 c.spi.epoch

/-- A frame: served or not, the status byte sampled as it begins, RESET disarmed. -/
def spiFrame (s : State) (g : Die → Chip → Chip) : Host.Outcome State Fault Refusal :=
  onChip s fun die c =>
    if !c.spiServed then c
    else g die { c with spi := { c.spi with status := c.statusByte, out := [], armed := false } }

/-- A frame error (R111). -/
def Chip.frameError (c : Chip) : Chip :=
  (c.setSpiEvt 0) |> fun c => { c with spi := { c.spi with frmerr := satAdd c.spi.frmerr 1 } }

/-- A whole instruction through a crossing, `ptr` for a management pointer access: it enters its queue, or waits in the
crossing with its epoch while the core is held in reset (R104, R105). -/
def Chip.crossing (c : Chip) (port : Nat) (q : Queue) (ptr : Bool) (w : QWord) : Chip :=
  if c.pwr.held then { c with prt := { c.prt with cross := c.prt.cross ++ [(port, c.prt.epoch, q, w)] } }
  else if ptr then c.enqueue5 true w
  else c.enqueue q.val w

/-- Instructions or stream words refused. -/
def Chip.refuse (c : Chip) (n : Nat) : Chip := { c with spi := { c.spi with refuse := satAdd c.spi.refuse n } }

/-! ### PUSH (R113, R114) -/

/-- A PUSH frame to Q0 or Q1: whole instructions in order while slots are free. -/
def Chip.push (c : Chip) (q : Queue) (ws : List QWord) (part : Bool) : Chip :=
  let k := min ws.length (c.hostFree q.val)
  let c := (ws.take k).foldl (fun (c : Chip) w => c.crossing 0 q false w) c
  let c := { c with spi := { c.spi with accept := satAdd c.spi.accept k, lastAcc := BitVec.ofNat 6 k } }
  let c := if k < ws.length then
      let c := (c.setSpiEvt 1).refuse (ws.length - k)
      { c with spi := { c.spi with refused := true } }
    else c
  if part then (c.setSpiEvt 2).partialAt 0 else c

/-! ### Reads of the rings and the window (R116, R117, R120, R121) -/

/-- Words read through the front end's port from a region of `size` bytes, wrapping: bytes and chip. -/
def Chip.portRead (c : Chip) (base size off : Nat) : Nat → List Byte × Chip
  | 0 => ([], c)
  | n + 1 =>
    let a := base + off % size
    let (st, c) := c.readEcc a 0
    let bs := if failed st then List.replicate 16 0 else natBytes (c.getWord a).toNat 16
    let c := if failed st then c.setSpiEvt 3 else c
    let (r, c) := c.portRead base size (off + 16) n
    (bs ++ r, c)

/-- A read frame of `n` bytes from an offset. -/
def Chip.spiRead (c : Chip) (base size off n : Nat) : Chip :=
  if c.hostShut then { c with spi := { c.spi with out := if c.inHold then List.replicate n 0 else [] } }
  else
    let (bs, c) := c.portRead base size off ((n + 15) / 16)
    { c with spi := { c.spi with out := bs.take n } }

/-- WRITE_STREAM past its address check (R118, R121). -/
def Chip.spiWrite (c : Chip) (off : Nat) (ws : List QWord) (part : Bool) : Chip :=
  let c := if c.inHold || !c.spi.ctrl.getLsbD 0 then c.refuse ws.length
    else if c.hostShut then c
    else (ws.foldl (fun (r : Nat × Chip) w => (r.1 + 16, r.2.putWord (0x70000000 + r.1 % 0x10000) w)) (off, c)).2
  if part then (c.setSpiEvt 2).partialAt 0 else c

/-! ### Meanings -/

/-- PUSH_Q0. -/
def execPushQ0 (ws : List (BitVec 128)) (part : Bool) (s : State) : Host.Outcome State Fault Refusal :=
  spiFrame s fun _ c => c.push 0 ws part
/-- PUSH_Q1. -/
def execPushQ1 (ws : List (BitVec 128)) (part : Bool) (s : State) : Host.Outcome State Fault Refusal :=
  spiFrame s fun _ c => c.push 1 ws part

/-- READ_STATUS: the word as it stands, then epoch and refused clear (R112). -/
def Chip.readStatus (c : Chip) : Chip :=
  { c with spi := { c.spi with out := natBytes c.statusWord.toNat 4, epoch := false, refused := false } }

/-- READ_ID. -/
def Chip.readId (c : Chip) (die : Die) : Chip := { c with spi := { c.spi with out := natBytes die.sysId.toNat 4 } }

/-- A frame that ends after its command byte and dummy clocks: the command of Table PRT-2 that the byte names, with no
address and no data in; a byte that the table does not hold is a frame error (R110, R111). `armed` tells that the frame
before was RESET_ENABLE. -/
def Chip.spiCommand (c : Chip) (die : Die) (armed : Bool) (cmd : Byte) : Chip :=
  match cmd.toNat with
  | 0x01 => c.push 0 [] false
  | 0x02 => c.push 1 [] false
  | 0x05 => c.readStatus
  | 0x0B => c
  | 0x0D => c
  | 0x0E => c
  | 0x9F => c.readId die
  | 0x66 => { c with spi := { c.spi with armed := true } }
  | 0x99 => if armed then c.resetSpi else c
  | _ => c.frameError

/-- READ_STATUS, or the frame of another command byte that brings no data (R110 to R112). -/
def execReadStatus (s : State) (cmd : Byte := 0x05) : Host.Outcome State Fault Refusal :=
  spiFrame s fun die c => c.spiCommand die s.chip.endSwitch.spi.armed cmd

/-- READ_RING. -/
def execReadRing (addr : BitVec 24) (bytes : Nat) (s : State) : Host.Outcome State Fault Refusal :=
  spiFrame s fun _ c =>
    if addr.toNat % 16 ≠ 0 ∨ 0x2000 ≤ addr.toNat then c.frameError
    else c.spiRead 0x28000000 0x2000 addr.toNat bytes

/-- READ_STREAM. -/
def execReadStream (addr : BitVec 24) (bytes : Nat) (s : State) : Host.Outcome State Fault Refusal :=
  spiFrame s fun _ c =>
    if addr.toNat % 16 ≠ 0 ∨ 0x10000 ≤ addr.toNat then c.frameError
    else c.spiRead 0x70000000 0x10000 addr.toNat bytes

/-- WRITE_STREAM. -/
def execWriteStream (addr : BitVec 24) (ws : List (BitVec 128)) (part : Bool) (s : State) :
    Host.Outcome State Fault Refusal :=
  spiFrame s fun _ c =>
    if addr.toNat % 16 ≠ 0 ∨ 0x10000 ≤ addr.toNat then c.frameError else c.spiWrite addr.toNat ws part

/-- READ_ID. -/
def execReadId (s : State) : Host.Outcome State Fault Refusal :=
  spiFrame s fun die c => c.readId die

/-- RESET_ENABLE: arms RESET for the next frame (R111). -/
def execResetEnable (s : State) : Host.Outcome State Fault Refusal :=
  spiFrame s fun _ c => { c with spi := { c.spi with armed := true } }

/-- RESET: the port-side reset when the previous frame was RESET_ENABLE (R106, R111). -/
def execReset (s : State) : Host.Outcome State Fault Refusal :=
  onChip s fun _ c =>
    if !c.spiServed then c
    else
      let armed := c.spi.armed
      let c := { c with spi := { c.spi with status := c.statusByte, out := [], armed := false } }
      if armed then c.resetSpi else c

end Sys2Proof.Machine
end

