-- ==== Sys2Proof/Machine/MgtPort.lean ====
section
/-!
DEFINITION. The management port (R31, R122 to R134, R388): MGT_WRITE, MGT_READ, MGT_STRETCH_TIMEOUT, MGT_SCL_TIMEOUT,
MGT_IGO, MGT_EXPECT, MGT_LAST_READ, LIC_MGT_SLOT_READ, and what the island serves itself.
-/
namespace Sys2Proof.Machine

/-! ### Serving -/

/-- The management island is clocked: the crystal runs, or LCLK where the island runs on it (R63, R64). -/
def Chip.islandOn (c : Chip) : Bool := c.clk.xtalRuns || c.clk.lclk

/-- The port acknowledges: powered, before power fail, clocked, after step 3 of start-up (R434, R444). -/
def Chip.mgtServed (c : Chip) : Bool :=
  c.pwr.pgood && c.pwr.pf == 0 && c.islandOn && (c.pwr.step == 0 || decide (3 < c.pwr.step.toNat))

/-- The island serves an address itself: CLK, MGT, LIC, PWR, the recorder region (R126). -/
def island (a : Nat) : Bool :=
  (a < 0x150000 && [1, 5, 16, 19].contains (a / 0x10000)) || (0x50000000 ≤ a && a < 0x50008000)

/-- The address of MGT.IGO. -/
def igoAddr : Nat := 0x50030
/-- The address of MGT.LAST. -/
def lastAddr : Nat := 0x50034

/-! ### Stores -/

/-- MGT.IGO during HOLD (R58, R130): CLK.FORCE runs in the island, any other instruction completes CLOCK_HOLD. -/
def Chip.islandExec (c : Chip) : Chip :=
  let f := wordFields c.mgt.iw
  if c.mgt.iw.extractLsb' 120 8 != 0xB1 then c.islandLast St.clockHold f.tag
  else if !Op.clkForce.named f || f.tx then c.islandLast St.illegal f.tag
  else
    match c.forceFrom true (.island f.tag) (field f.op 0 2) with
    | (some st, c) => c.islandLast st f.tag
    | (none, c) => c

/-- The ST that a store through Q5 is (R126). -/
def storeInsn (a : Nat) (v : Word) : QWord :=
  encodeWord 0x11
    { tx := false, fence := false, cmpl := false, chain := false, rsv := 0, tag := 0, ext := 0, tgt := BitVec.ofNat 32 a,
      op := v.setWidth 64 }

/-- The LD that a read through Q5 is. -/
def loadInsn (a : Nat) : QWord :=
  encodeWord 0x10
    { tx := false, fence := false, cmpl := false, chain := false, rsv := 0, tag := 0, ext := 0, tgt := BitVec.ofNat 32 a,
      op := 0 }

/-- One 4-byte group stored at a pointer: none while it must wait for a slot of Q5 (R128). -/
def Chip.mgtStore (c : Chip) (die : Die) (a : Nat) (v : Word) : Option Chip :=
  if a = igoAddr ∧ v.getLsbD 0 ∧ c.inHold then some c.islandExec
  else if a = igoAddr ∧ v.getLsbD 0 then
    if c.freeSlots 5 = 0 then none else some (c.crossing 1 5 false c.mgt.iw)
  else if island a then some (if a < 0x150000 then (c.writeReg die Src.mgt a v).2 else c)
  else if c.inHold then some (c.islandLast St.clockHold 0)
  else if c.freeSlots 5 = 0 then none
  else some (c.crossing 1 5 true (storeInsn a v))

/-- Groups stored in order from an address; where one must wait, MGT_SCL is held low with the rest (R124, R128). A group
that the write cuts short counts once those before it are stored. -/
def Chip.mgtStores (die : Die) : List Word → Nat → Chip → Chip
  | [], _, c => { c with mgt := { c.mgt with stretch := false, more := [] } }.mgtPartial
  | v :: vs, a, c =>
    match c.mgtStore die a v with
    | some c => Chip.mgtStores die vs (a + 4) c
    | none => { c with mgt := { c.mgt with stretch := true, more := v :: vs, cur := BitVec.ofNat 32 a } }

/-! ### Reads -/

/-- A group of a read as it goes out: the data, most significant byte first, then the status (R125). -/
def groupOut (v : Word) (st : Byte) : List Byte := be32 v.toNat ++ [st]

/-- The snapshot of a slot (R388): its four words read, those that could not be corrected noted. Answers the status of the
first. -/
def Chip.snapSlot (c : Chip) (slot : Nat) : Byte × Chip :=
  let (st, c) := c.readEcc (slotAddr slot) 0
  let (bad, c) := [1, 2, 3].foldl (fun (r : BitVec 4 × Chip) k =>
    let (st, c) := r.2.readEcc (slotAddr slot + 16 * k) 0
    (if failed st then r.1 ||| BitVec.ofNat 4 (2 ^ k) else r.1, c)) (if failed st then 1 else 0, c)
  (st, { c with mgt := { c.mgt with held := some (BitVec.ofNat 9 slot, c.slotBytes slot), heldBad := bad } })

/-- The buffer when it holds a slot. -/
def Mgt.buffer (m : Mgt) (slot : Nat) : Option (List Byte) :=
  m.held.bind fun h => if h.1.toNat = slot then some h.2 else none

/-- A group of the recorder region (R388): offset 0 of a slot takes the snapshot, the other offsets of the held slot come from
the buffer, those of a slot that is not held from the SRAM. A word of the snapshot that could not be corrected answers
ECC_UNCORR (Table LIC-4). -/
def Chip.recorderRead (c : Chip) (a : Nat) : Word × Byte × Chip :=
  let slot := (a - 0x50000000) / 64
  let off := (a - 0x50000000) % 64
  match decide (off = 0), c.mgt.buffer slot with
  | false, some bs =>
    if c.mgt.heldBad.getLsbD (off / 16) then (0, St.eccUncorr, c) else (BitVec.ofNat 32 (le bs off 4), St.ok, c)
  | first, _ =>
    let (st, c) := if first then c.snapSlot slot else c.readEcc a 0
    (if failed st then 0 else BitVec.ofNat 32 (le (c.slotBytes slot) off 4), st, c)

/-- A read the island answers at once; none for an address that Q5 serves, or for MGT.LAST while Q5 has accesses, in HOLD
as when the core runs (R31, R127). -/
def Chip.islandRead (c : Chip) (die : Die) (a : Nat) : Option (Word × Byte × Chip) :=
  if a = lastAddr ∧ c.q5Pending then none
  else if 0x50000000 ≤ a ∧ a < 0x50008000 then some (c.recorderRead a)
  else if island a then
    match c.readReg die Src.mgt a with
    | some (v, c) => some (v, St.ok, c)
    | none => some (0, St.range, c)
  else if c.inHold then some (0, St.clockHold, c)
  else none

/-- A group handed to the bus. -/
def Chip.mgtOut (c : Chip) (v : Word) (st : Byte) : Chip :=
  { c with mgt := { c.mgt with out := c.mgt.out ++ groupOut v st, cur := c.mgt.cur + 4, issued := false } }

/-- The groups of a read made ready from the current address. Where one must wait, MGT_SCL is held low before the
acknowledge of the address byte, and no group has gone out (R128; log entry 104). -/
def Chip.mgtReads (die : Die) : Nat → Chip → Chip
  | 0, c => { c with mgt := { c.mgt with stretch := false, rdLeft := 0, issued := false } }
  | n + 1, c =>
    match c.islandRead die c.mgt.cur.toNat with
    | some (v, st, c) => Chip.mgtReads die n (c.mgtOut v st)
    | none =>
      let wait := { c with mgt := { c.mgt with stretch := true, rdLeft := n + 1 } }
      if c.mgt.cur.toNat = lastAddr || c.freeSlots 5 = 0 then wait
      else
        let c := c.crossing 1 5 true (loadInsn c.mgt.cur.toNat)
        { c with mgt := { c.mgt with stretch := true, rdLeft := n + 1, issued := true } }

/-- What a stretch waits for has come: a slot of Q5 for a store, the completion of an LD for a read (R127, R128). -/
def Chip.mgtResume (c : Chip) (die : Die) : Chip :=
  if !c.mgt.stretch || c.frozen then c
  else match c.mgt.more, c.mgt.rdLeft with
    | v :: vs, _ => Chip.mgtStores die (v :: vs) c.mgt.cur.toNat c
    | [], 0 => c
    | [], n + 1 =>
      if c.mgt.issued then
        if c.q5Pending then c
        else Chip.mgtReads die n (c.mgtOut (c.mgt.cmpl.extractLsb' 64 32) c.mgt.lastSt)
      else Chip.mgtReads die (n + 1) c

/-! ### Meanings -/

/-- A transaction: served, with MGT_SCL not held. -/
def mgtFrame (s : State) (g : Die → Chip → Chip) : Host.Outcome State Fault Refusal :=
  onChip s fun die c => if !c.mgtServed || c.mgt.stretch then c else g die c

/-- MGT_WRITE: a pointer that is not a multiple of 4 is not acknowledged (R124). -/
def execMgtWrite (ptr : BitVec 32) (groups : List (BitVec 32)) (cut : Bool) (s : State) :
    Host.Outcome State Fault Refusal :=
  mgtFrame s fun die c =>
    if ptr.toNat % 4 ≠ 0 then c
    else
      Chip.mgtStores die groups ptr.toNat { c with mgt := { c.mgt with ptr := ptr, out := [], cut := cut } }

/-- MGT_READ: groups from the pointer last written. -/
def execMgtRead (groups : Nat) (s : State) : Host.Outcome State Fault Refusal :=
  mgtFrame s fun die c => Chip.mgtReads die groups { c with mgt := { c.mgt with out := [], cur := c.mgt.ptr } }

/-- MGT_LAST_READ: one group of MGT.LAST, once every earlier access has retired (R127). -/
def execMgtLastRead (s : State) : Host.Outcome State Fault Refusal :=
  mgtFrame s fun die c =>
    Chip.mgtReads die 1 { c with mgt := { c.mgt with out := [], ptr := 0x50034, cur := 0x50034 } }

/-- LIC_MGT_SLOT_READ: one group from offset 0 of a slot, which takes the snapshot (R388). -/
def execLicMgtSlotRead (slot : BitVec 9) (s : State) : Host.Outcome State Fault Refusal :=
  mgtFrame s fun die c =>
    let a := BitVec.ofNat 32 (slotAddr slot.toNat)
    Chip.mgtReads die 1 { c with mgt := { c.mgt with out := [], ptr := a, cur := a } }

/-- MGT_STRETCH_TIMEOUT: MGT_SCL is released and the byte not acknowledged; a store that waited changes nothing, a read
sends nothing (R128). -/
def execMgtStretchTimeout (byteOfStore : Bool) (s : State) : Host.Outcome State Fault Refusal :=
  onChip s fun _ c =>
    if c.mgt.stretch && byteOfStore == !c.mgt.more.isEmpty then
      { c with mgt :=
          { c.mgt with
            stretch := false
            more := []
            rdLeft := 0
            issued := false
            cut := false
            out := []
            nacks := satAdd c.mgt.nacks 1 } }
    else c

/-- MGT_SCL_TIMEOUT: the I2C front end resets (R106); a group cut short by it counts. -/
def execMgtSclTimeout (part : Bool) (s : State) : Host.Outcome State Fault Refusal :=
  onChip s fun _ c =>
    if !c.mgtServed then c else if part then c.resetMgt.partialAt 1 else c.resetMgt

/-- MGT_IGO: a store of a value to MGT.IGO (R129, R130). -/
def execMgtIgo (v : BitVec 32) (s : State) : Host.Outcome State Fault Refusal :=
  mgtFrame s fun die c => Chip.mgtStores die [v] igoAddr { c with mgt := { c.mgt with ptr := 0x50030, out := [] } }

/-- MGT_EXPECT: a store of a value to MGT.EXPECT (R132). -/
def execMgtExpect (v : BitVec 32) (s : State) : Host.Outcome State Fault Refusal :=
  mgtFrame s fun die c => Chip.mgtStores die [v] 0x50010 { c with mgt := { c.mgt with ptr := 0x50010, out := [] } }

end Sys2Proof.Machine
end

