-- ==== Sys2Proof/Machine/Jtag.lean ====
section
/-!
DEFINITION. The JTAG port (R135 to R143): one row for each instruction of Table PRT-8, with its update of the instruction
register, its data register where it has one, and the entry into Run-Test/Idle where it acts there; and TAP_RESET.
-/
namespace Sys2Proof.Machine

/-! ### Instruction updates -/

/-- The codes of Table PRT-8 that keep or enter test mode; PRV_EDGELOOP works within it (R137, R143). -/
def testCode (ir : BitVec 10) : Bool := ir == 0x000 || ir == 0x006 || ir == 0x007 || ir == 0x303

/-- Test mode ends: the outputs go to their safe states in the hold of R57 (R137). -/
def Chip.leaveTest (c : Chip) : Chip :=
  if c.jtg.test then c.settle { c.holdPins with jtg := { c.jtg with test := false } } else c

/-- An instruction register scan without its action: the capture of JTG.ISCSTAT.code with 0b01 below it, the update
(R135). Where it loads PRV_LICREAD anew, the slot named is 0 (R143). -/
def Chip.irUpdate (c : Chip) (ir : BitVec 10) : Chip :=
  let cap := c.jtg.code ++ (1 : BitVec 2)
  let c := if testCode ir then c else c.leaveTest
  { c with jtg := { c.jtg with
      ir := ir
      irCap := cap
      dr := 0
      slot := if ir == 0x302 && c.jtg.ir != 0x302 then 0 else c.jtg.slot } }

/-- The part takes the IEEE 1532 and private instructions: end of start-up step 2 (R444). -/
def Chip.jtagServed (c : Chip) : Bool := c.pwr.step == 0 || decide (2 < c.pwr.step.toNat)

/-- A locked instruction: BYPASS, code LOCKED, the violation of R138 (Table SEC-5). -/
def Chip.lockedIr (c : Chip) (ir : BitVec 10) : Chip :=
  let c := c.irUpdate 0x3FF
  { c with jtg := { c.jtg with code := St.locked } }.violate Src.unit 0x3E06 0x0D 0 ir.toNat

/-- A TAP row: nothing happens without power. -/
def tap (s : State) (g : Die → Chip → Chip) : Host.Outcome State Fault Refusal :=
  onChip s fun die c => if c.pwr.pgood then g die c else c

/-- A row of an IEEE 1532 or private instruction: locked, not yet served, or updated and acted on (R138, R444). -/
def tapIsc (ir : BitVec 10) (s : State) (g : Die → Chip → Chip) : Host.Outcome State Fault Refusal :=
  tap s fun die c =>
    if !c.jtagServed then c.irUpdate 0x3FF
    else if die.jtagLock || c.sec.jtagHold then c.lockedIr ir
    else g die (c.irUpdate ir)

/-! ### Test mode (R137) -/

/-- What the boundary-scan register captures: at each pin the level of the pad, and the level and the enable of what it
drives; at the 29 control cells free values (R136; log entries 2 and 95). -/
def Chip.captureCells (c : Chip) : BitVec 605 × Chip :=
  let pin (p : Nat) : Nat :=
    (if c.padLevel p then 1 else 0) + (if c.pinDrive p == 1 then 2 else 0) + (if c.pinDrive p == 2 then 0 else 4)
  let pins := (List.range 192).foldl (fun a p => a + pin p * 2 ^ (3 * p)) 0
  (BitVec.ofNat 605 (pins + c.free.1.toNat % 2 ^ 29 * 2 ^ 576), c.free.2)

/-- A scan of the boundary-scan register: its capture is shifted out, the cells update with what is shifted in. -/
def Chip.scanCells (c : Chip) (scan : BitVec 605) : Chip :=
  let (dr, c) := c.captureCells
  { c with jtg := { c.jtg with dr := dr, cells := scan } }

/-- An EPU disarmed: its queue and its binding (R244). -/
def Pin.disarm (p : Pin) : Pin := { p with q := [], bedges := [], bind := p.bind &&& ~~~0x20 }

/-- Entry into test mode: fronds SAFE, the forced EPUs flushed (R259), EPUs and cams disarmed, a record when the mode was not
on. -/
def Chip.enterTest (c : Chip) (ir : BitVec 10) : Chip :=
  let was := c.jtg.test
  let new := (c.setFronds 0xFFFFFFFF .safe).disarmAll
  let on := new.settle { new with jtg := { new.jtg with test := true } }
  let c := c.onceGen { on with pins := vmapi (fun _ p => Pin.disarm p) on.pins }
  if was then c else c.record 0x1701 0x0D 0 (ctxAt 32 ir.toNat)

/-- EXTEST, HIGHZ or CLAMP, which the JTAG_LOCK fuse blocks (R138). -/
def testRow (ir : BitVec 10) (scan : Option (BitVec 605)) (s : State) : Host.Outcome State Fault Refusal :=
  tap s fun die c =>
    if die.jtagLock then c.lockedIr ir
    else
      let c := (c.irUpdate ir).enterTest ir
      match scan with | some b => c.scanCells b | none => c

/-! ### In-system programming (R139 to R142) -/

/-- JTG.ISCSTAT.code set. -/
def Chip.iscCode (c : Chip) (st : Byte) : Chip := { c with jtg := { c.jtg with code := st } }

/-- The sector the port addresses. -/
def Jtg.sector (j : Jtg) : Nat := j.addr.toNat / 4096

/-- ISC_PROGRAM or ISC_ERASE: outside ISC mode ILLEGAL, refused by an operation or an active sector, else started; the
code follows at FLASH_OP_DONE. -/
def Chip.iscFlash (c : Chip) (prog : Bool) : Chip :=
  if !c.jtg.isc then c.iscCode St.illegal
  else match c.flashCheck c.jtg.sector with
    | some st => c.iscCode st
    | none =>
      let c := { c with jtg := { c.jtg with busy := true } }
      c.flashStart
        { prog := prog
          sector := c.jtg.sector
          data := if prog then memBytes 0 c.jtg.buf 0 4096 else []
          jtag := true
          queue := none }

/-- The index of the sector buffer advanced, wrapping from 255 to 0. -/
def Chip.iscNext (c : Chip) : Chip := { c with jtg := { c.jtg with idx := c.jtg.idx + 1 } }

/-- ISC_READ past its lock: a word with a correctable error is corrected and counted (R30); for one that cannot be
corrected the spec states no value, and it is free. -/
def Chip.iscWord (c : Chip) : QWord × Chip :=
  let a := c.jtg.addr.toNat + 16 * c.jtg.idx.toNat
  match memRead 0 c.prs.flashEcc (a / 16) with
  | 0 => (BitVec.ofNat 128 (memNat 0xFF c.prs.flash a 16), c)
  | 1 =>
    (BitVec.ofNat 128 (memNat 0xFF c.prs.flash a 16),
      { c.flashCorrected 1 with prs :=
        { (c.flashCorrected 1).prs with flashEcc := memWrite 0 c.prs.flashEcc (a / 16) 0 } })
  | _ =>
    let (x, c) := c.free
    let (y, c) := c.free
    (x ++ y, c)

/-- ISC_READ in ISC mode (R142). -/
def Chip.iscReadWord (c : Chip) (die : Die) : Chip :=
  if !die.mayReadBack then
    (c.iscCode St.locked).violate Src.unit 0x3E03 0x0D 0 (c.jtg.addr.toNat + 16 * c.jtg.idx.toNat)
  else
    let (w, c) := c.iscWord
    { c.iscNext with jtg := { c.iscNext.jtg with dr := w.setWidth 605 } }

/-! ### Private instructions (R143) -/

/-- The word of PRV_STATUS, with SYS.ID bits [15:0] (R446). The spec does not say whether the last record may be an annotation:
the sequence number is that of LIC.LAST, which leaves annotations out (DESIGN CHOICE, log entry 120). -/
def Chip.prvWord (c : Chip) (die : Die) : BitVec 64 :=
  let ldr : Nat := match c.prs.ldr with | .boot => 0 | .user => 1 | .loader => 2
  let low := (c.clk.stat &&& 7) ||| bitW 3 c.safeAct ||| bitW 4 die.sealed ||| natW 5 ldr
    ||| ((die.sysId &&& 0xFFFF) <<< 16)
  c.lic.last ++ low

/-- The last captured data register. -/
def Chip.capture (c : Chip) (v : BitVec 605) : Chip := { c with jtg := { c.jtg with dr := v } }

/-! ### Meanings -/

/-- EXTEST with a scan of its register. -/
def execExtest (s : State) (scan : BitVec 605 := 0) : Host.Outcome State Fault Refusal := testRow 0x000 (some scan) s
/-- HIGHZ. -/
def execHighz (s : State) : Host.Outcome State Fault Refusal := testRow 0x006 none s
/-- CLAMP: the cells keep what they drove. -/
def execClamp (s : State) : Host.Outcome State Fault Refusal := testRow 0x007 none s

/-- SAMPLE/PRELOAD with a scan of its register. -/
def execSamplePreload (s : State) (scan : BitVec 605 := 0) : Host.Outcome State Fault Refusal :=
  tap s fun _ c => (c.irUpdate 0x001).scanCells scan
/-- IDCODE (R135). -/
def execIdcode (s : State) : Host.Outcome State Fault Refusal := tap s fun _ c => (c.irUpdate 0x004).capture 0x24840A73
/-- BYPASS, by its own code or by any that Table PRT-8 does not list (R136). -/
def execBypass (s : State) (ir : BitVec 10 := 0x3FF) : Host.Outcome State Fault Refusal :=
  tap s fun _ c => if listedCode ir then c else c.irUpdate 0x3FF

/-- ISC_ENABLE. -/
def execIscEnable (s : State) : Host.Outcome State Fault Refusal :=
  tapIsc 0x0E8 s fun _ c => { c with jtg := { c.jtg with isc := true } }
/-- ISC_DISABLE. -/
def execIscDisable (s : State) : Host.Outcome State Fault Refusal :=
  tapIsc 0x0E9 s fun _ c => { c with jtg := { c.jtg with isc := false } }
/-- ISC_PROGRAM. -/
def execIscProgram (s : State) : Host.Outcome State Fault Refusal := tapIsc 0x0EA s fun _ c => c.iscFlash true
/-- ISC_ERASE. -/
def execIscErase (s : State) : Host.Outcome State Fault Refusal := tapIsc 0x0EB s fun _ c => c.iscFlash false
/-- ISC_READ. -/
def execIscRead (s : State) : Host.Outcome State Fault Refusal :=
  tapIsc 0x0EC s fun die c => if c.jtg.isc then c.iscReadWord die else c.iscCode St.illegal
/-- ISC_ADDRESS_SHIFT: a multiple of 4 KiB in the flash, and the index 0; any other address is RANGE (R140). -/
def execIscAddressShift (a : BitVec 24) (s : State) : Host.Outcome State Fault Refusal :=
  tapIsc 0x0ED s fun _ c =>
    if a.toNat % 4096 ≠ 0 ∨ 0x300000 ≤ a.toNat then c.iscCode St.range
    else { c with jtg := { c.jtg with addr := a, idx := 0 } }
/-- ISC_DATA_SHIFT: one word into the sector buffer (R140). -/
def execIscDataShift (w : BitVec 128) (s : State) : Host.Outcome State Fault Refusal :=
  tapIsc 0x0EE s fun _ c =>
    if !c.jtg.isc then c.iscCode St.illegal
    else { c with jtg := { c.jtg with buf := memPut 0 c.jtg.buf (16 * c.jtg.idx.toNat) w.toNat 16 } }.iscNext
/-- ISC_NOOP. -/
def execIscNoop (s : State) : Host.Outcome State Fault Refusal := tapIsc 0x0EF s fun _ c => c

/-- PRV_STATUS. -/
def execPrvStatus (s : State) : Host.Outcome State Fault Refusal :=
  tapIsc 0x300 s fun die c => c.capture ((c.prvWord die).setWidth 605)
/-- PRV_KEYHASH. -/
def execPrvKeyhash (s : State) : Host.Outcome State Fault Refusal :=
  tapIsc 0x301 s fun die c => c.capture (BitVec.ofNat 605 (bytesNat die.keyHash))
/-- PRV_LICREAD: Update-DR, where the scan has one, names the slot; Capture-DR takes the record of the slot named last as it is
stored (Table LIC-4). -/
def execPrvLicread (dr : BitVec 9) (s : State) (update : Bool := true) : Host.Outcome State Fault Refusal :=
  tapIsc 0x302 s fun _ c =>
    let slot := if update then dr else c.jtg.slot
    { c with jtg := { c.jtg with slot := slot } }.capture (BitVec.ofNat 605 (bytesNat (c.slotBytes slot.toNat)))
/-- PRV_EDGELOOP: works only in test mode; the spec states no loop time, and it is free (log entry 2). -/
def execPrvEdgeloop (dr : BitVec 8) (s : State) : Host.Outcome State Fault Refusal :=
  tapIsc 0x303 s fun _ c =>
    if c.jtg.test && dr.toNat < 192 then
      let (t, c) := c.free
      c.capture ((t.extractLsb' 0 34).setWidth 605)
    else c

/-- TAP_RESET: Test-Logic-Reset (R106, Table PRT-1). -/
def execTapReset (s : State) : Host.Outcome State Fault Refusal := tap s fun _ c => c.resetJtag

end Sys2Proof.Machine
end

