-- ==== Sys2Proof/Machine/RegWrites.lean ====
section
/-!
DEFINITION. The rows of single registers (R8, R47, R98, R101, R102, R106, R161, R241 to R244, R261, R266, R337, R338, R390,
R411): the store to that register from a queue, with its completion status in `eng.lastSt`.
-/
namespace Sys2Proof.Machine

/-- A register can be reached: the engine runs, or the management island serves the block itself (R31, R126). -/
def Chip.reaches (c : Chip) (q : Queue) (a : Nat) : Bool := c.engineOn || (q == 5 && island a && c.mgtServed)

/-- A store of one word from a queue: aligned, permitted to Q5 (Table PRT-6), then as the transport has it (R8, R190). -/
def Chip.regStore (c : Chip) (die : Die) (q : Queue) (a : Nat) (v : Word) : Wr :=
  if q = 5 ∧ !q5Store a v then (St.priv, c)
  else if a % 4 ≠ 0 then (St.align, c)
  else c.store die (Src.ofQueue q) a 4 v.toNat

/-- A row of a register store. -/
def regRow (q : Queue) (a : Nat) (v : Word) (s : State) : Host.Outcome State Fault Refusal :=
  onChip s fun die c =>
    if !c.reaches q a then c
    else
      let r := c.regStore die q a v
      { r.2 with eng := { r.2.eng with lastSt := r.1 } }

/-! ### Addresses of registers (Table ARC-5 and each chapter's tables) -/

/-- LNK.CTRL of a port. -/
def lnkCtrlAddr (p : Nat) : Nat := 0x20100 + 0x100 * p
/-- ENG.EVTSRCk. -/
def evtSrcAddr (k : Nat) : Nat := 0x80080 + 4 * k
/-- EDG.PINCFGp. -/
def pincfgAddr (p : Nat) : Nat := 0xA0000 + 4 * p
/-- EDG.BINDp, or EDG.BOFFp. -/
def bindAddr (p : Nat) (off : Bool) : Nat := (if off then 0xA0C00 else 0xA0800) + 4 * p
/-- FRD.POLn. -/
def polAddr (n : Nat) : Nat := 0x90080 + 4 * n
/-- FRD.SAFESTb. -/
def safestAddr (b : Nat) : Nat := 0x90100 + 4 * b
/-- SCR.POLn. -/
def scrPolAddr (n : Nat) : Nat := 0xE0100 + 4 * n
/-- DMA.CTRLc. -/
def dmaCtrlAddr (ch : Nat) : Nat := 0x110110 + 0x40 * ch

/-- Channel or unit numbers that do not exist: no register lies there (R23). -/
def unitRow (exist : Bool) (q : Queue) (a : Nat) (v : Word) (s : State) : Host.Outcome State Fault Refusal :=
  if exist then regRow q a v s
  else onChip s fun _ c => if c.engineOn then { c with eng := { c.eng with lastSt := St.range } } else c

/-! ### Meanings -/

/-- LT_SNAPSHOT: LT.SEC read from a queue, or LT.TICKL read from the management port (R101). -/
def execLtSnapshot (src : Option Queue) (s : State) : Host.Outcome State Fault Refusal :=
  onChip s fun die c =>
    if !c.engineOn then c
    else match src with
      | some q => ((c.readReg die (Src.ofQueue q) 0x30000).map (·.2)).getD c
      | none => ((c.readReg die Src.mgt 0x30004).map (·.2)).getD c

/-- LT_APPLY: LT.CTRL.apply written with 1, align_en as it stands (R102). -/
def execLtApply (q : Queue) (s : State) : Host.Outcome State Fault Refusal :=
  regRow q 0x3002C (if s.chip.lt.alignEn then 3 else 1) s

/-- CLK_POLICY_WRITE (R47, R131). -/
def execClkPolicyWrite (q : Queue) (v : BitVec 32) (s : State) : Host.Outcome State Fault Refusal := regRow q 0x10004 v s
/-- LIC_ACK (R390). -/
def execLicAck (q : Queue) (v : BitVec 32) (s : State) : Host.Outcome State Fault Refusal := regRow q 0x10000C v s
/-- SCR_REPAIR (R338). -/
def execScrRepair (q : Queue) (v : BitVec 32) (s : State) : Host.Outcome State Fault Refusal := regRow q 0xE001C v s
/-- CAP_RPTR_WRITE (R266). -/
def execCapRptrWrite (q : Queue) (v : BitVec 32) (s : State) : Host.Outcome State Fault Refusal := regRow q 0xB0004 v s
/-- DMA_CTRL_DROP (R411). -/
def execDmaCtrlDrop (q : Queue) (ch : BitVec 4) (s : State) : Host.Outcome State Fault Refusal :=
  unitRow (decide (ch.toNat < 12)) q (dmaCtrlAddr ch.toNat) 1 s
/-- ENG_EVTSRC_WRITE (R161). -/
def execEngEvtsrcWrite (q : Queue) (n : BitVec 5) (v : BitVec 32) (s : State) : Host.Outcome State Fault Refusal :=
  regRow q (evtSrcAddr n.toNat) v s
/-- EDG_PINCFG_WRITE (R244). -/
def execEdgPincfgWrite (q : Queue) (p : BitVec 8) (v : BitVec 32) (s : State) : Host.Outcome State Fault Refusal :=
  unitRow (decide (p.toNat < 192)) q (pincfgAddr p.toNat) v s
/-- EDG_BIND_WRITE (R261). -/
def execEdgBindWrite (q : Queue) (p : BitVec 8) (off : Bool) (v : BitVec 32) (s : State) :
    Host.Outcome State Fault Refusal :=
  unitRow (decide (p.toNat < 192)) q (bindAddr p.toNat off) v s
/-- FRD_SAFEST_WRITE (R241). -/
def execFrdSafestWrite (q : Queue) (b : BitVec 4) (v : BitVec 32) (s : State) : Host.Outcome State Fault Refusal :=
  unitRow (decide (b.toNat < 12)) q (safestAddr b.toNat) v s
/-- FRD_POL_WRITE (R242). -/
def execFrdPolWrite (q : Queue) (n : BitVec 5) (v : BitVec 32) (s : State) : Host.Outcome State Fault Refusal :=
  regRow q (polAddr n.toNat) v s
/-- SCR_POL_WRITE (R337). -/
def execScrPolWrite (q : Queue) (n : BitVec 5) (v : BitVec 32) (s : State) : Host.Outcome State Fault Refusal :=
  regRow q (scrPolAddr n.toNat) v s
/-- LNK_CTRL_WRITE (R98). -/
def execLnkCtrlWrite (q : Queue) (p : BitVec 2) (v : BitVec 32) (s : State) : Host.Outcome State Fault Refusal :=
  unitRow (decide (p.toNat < 3)) q (lnkCtrlAddr p.toNat) v s
/-- PRT_RESET_SPI (R106). -/
def execPrtResetSpi (q : Queue) (s : State) : Host.Outcome State Fault Refusal := regRow q 0x70000 1 s
/-- PRT_RESET_MGT (R106). -/
def execPrtResetMgt (q : Queue) (s : State) : Host.Outcome State Fault Refusal := regRow q 0x70000 2 s
/-- PRT_RESET_JTAG (R106). -/
def execPrtResetJtag (q : Queue) (s : State) : Host.Outcome State Fault Refusal := regRow q 0x70000 4 s
/-- REGISTER_WRITE (R8). -/
def execRegisterWrite (q : Queue) (addr : BitVec 32) (v : BitVec 32) (s : State) : Host.Outcome State Fault Refusal :=
  regRow q addr.toNat v s

end Sys2Proof.Machine
end

