-- ==== Sys2Proof/Machine/Persist.lean ====
section
/-!
DEFINITION. The ends of operations on non-volatile cells: STORE_COMMIT, RECALL_TRANSFER, FLASH_OP_DONE, the recorder's
LIC_DRAIN and LIC_SHADOW_PROGRAM, and FUSE_OP_DONE (R309, R310, R312, R348, R355, R374, R382, R449).
-/
namespace Sys2Proof.Machine

/-- The store and flash sequencers are clocked: powered, before power fail, not in HOLD (R55). -/
def Chip.storeOn (c : Chip) : Bool := c.pwr.pgood && c.pwr.pf == 0 && c.clk.st != .hold

/-- The recorder is clocked and restored (R373, R385). -/
def Chip.recorderOn (c : Chip) : Bool := c.pwr.pgood && c.pwr.pf == 0 && c.islandOn && c.lic.restored

/-- The wait of a queue retires when it is of a kind; its status follows from the wait. -/
def Chip.retireKind (c : Chip) (q : Option Queue) (k : WaitKind) (st : Wait → Byte) : Chip :=
  match q with
  | none => c
  | some q =>
    match (c.queue q).wait with
    | some w => if w.kind == k then c.retireWait q (st w) w.res else c
    | none => c

/-! ### The store (R348, R355) -/

/-- A store commits: record programmed, in-flight marks clear, its context and its instruction end; rt_store clears with the
record of an activation's store, unless another activation has posted one since (R308). -/
def Chip.storeCommit (c : Chip) (o : StoreOp) : Chip :=
  let c := { c with
    nvs := c.nvs.program o
    prs := { c.prs with rtStore := if o.kind == 3 then !c.prs.rtPages.isEmpty else c.prs.rtStore } }.setNvsEvt 0
  let c := match o.ctx with | some k => c.closeCtx k | none => c
  (c.retireKind o.queue .storeDone fun w => if w.t = 1 then St.late else St.ok).startPosted

/-- The transfer cc of NV.RECALL. -/
def Chip.recallTransfer (c : Chip) (q : Option Queue) : Chip :=
  let pages := if c.nvs.newest.isSome then 1088 else 0
  let c := c.recallAll.setNvsEvt 1
  let c := { c with nvs := { c.nvs with recl := none } }.autoReturn
  let c := match q with
    | some q => match (c.queue q).wait with
      | some w => if w.kind == WaitKind.recl then c.retireWait q St.ok (storeResult pages) else c
      | none => c
    | none => c
  c.startPosted

/-! ### The configuration flash (R309, R310, R312) -/

/-- The first byte of a sector. -/
def sectorBase (s : Nat) : Nat := 4096 * s

/-- Storage with the entries of an address range removed, which then read as the default. -/
def memDrop (m : Mem) (a n : Nat) : Mem := m.filter fun e => !(decide (a ≤ e.1) && decide (e.1 < a + n))

/-- `n` times eight free bytes. -/
def Chip.freeBytes (c : Chip) : Nat → List Byte × Chip
  | 0 => ([], c)
  | n + 1 =>
    let (v, c) := c.free
    let (r, c) := c.freeBytes n
    (natBytes v.toNat 8 ++ r, c)

/-- A sector left INVALID: its bytes are free (log entry 2). -/
def Chip.spoilSector (c : Chip) (s : Nat) : Chip :=
  let (bs, c) := c.freeBytes 512
  { c with prs := { c.prs with
      flash := memPutBytes 0xFF c.prs.flash (sectorBase s) bs
      marks := memWrite 0 c.prs.marks s 2 } }

/-- The sector after an operation that ran to its end, with its mark as the last act. -/
def Chip.flashSector (c : Chip) (o : FlashOp) : Chip :=
  let blank := { c with prs := { c.prs with
    flash := memDrop c.prs.flash (sectorBase o.sector) 4096
    flashEcc := memDrop c.prs.flashEcc (256 * o.sector) 256 } }
  if !o.prog then { blank with prs := { blank.prs with marks := memWrite 0 blank.prs.marks o.sector 0 } }
  else if memRead 0 c.prs.marks o.sector = 0 then
    { blank with prs := { blank.prs with
        flash := memPutBytes 0xFF blank.prs.flash (sectorBase o.sector) o.data
        marks := memWrite 0 blank.prs.marks o.sector 1 } }
  else (c.spoilSector o.sector).setPrsEvt 5

/-- A flash operation ends: the sector, PRS.FLASH, the event, the JTAG code or the waiting instruction. -/
def Chip.flashDone (c : Chip) (o : FlashOp) : Chip :=
  let st := match o.queue with
    | some q => match (c.queue q).wait with
      | some w => if w.kind == WaitKind.flashDone && w.t = 1 then St.corrected else St.ok
      | none => St.ok
    | none => St.ok
  let c := (c.flashSector o).setPrsEvt 4
  let c := { c with
    prs := { c.prs with op := none, flashSt := (c.prs.flashSt &&& ~~~0xFF) ||| fldW 0 st }
    jtg := if o.jtag then { c.jtg with code := St.ok, busy := false } else c.jtg }
  c.retireKind o.queue .flashDone fun _ => st

/-! ### The recorder's shadow (R372, R382) -/

/-- The unstored slot whose record has the lowest sequence number, the ring slot before its first-fault copy. -/
def Chip.nextUnstored (c : Chip) : Option Nat :=
  let age (i : Nat) : Nat := (c.lic.next - BitVec.ofNat 32 (le (c.slotBytes i) 4 4)).toNat
  c.lic.unstored.foldl (fun (o : Option Nat) i =>
    match o with | some b => if age b < age i then some i else o | none => some i) none

/-- The cell of a slot that its next program takes: the one not last programmed. -/
def Lic.target (l : Lic) (i : Nat) : Nat :=
  if !l.prog.getLsbD (2 * i) && !l.prog.getLsbD (2 * i + 1) then 0 else if l.newer.getLsbD i then 0 else 1

/-- 128 free bits that are not all 0: the error pattern of a word, of which the spec says only that the slot fails its CRC
with it. -/
def Chip.freePattern (c : Chip) : QWord × Chip :=
  let (x, c) := c.free
  let (y, c) := c.free
  (if x ++ y = (0 : BitVec 128) then 1 else x ++ y, c)

/-- A word of a slot with an error pattern. -/
def withPattern (bs : List Byte) (k : Nat) (e : QWord) : List Byte :=
  bs.take (16 * k) ++ natBytes (BitVec.ofNat 128 (le bs (16 * k) 16) ^^^ e).toNat 16 ++ bs.drop (16 * k + 16)

/-- The words of a slot that hold uncorrectable errors. -/
def Chip.badWords (c : Chip) (i : Nat) : List Nat :=
  (List.range 4).filter fun k => decide (2 ≤ c.eccAt (slotAddr i + 16 * k))

/-- The bytes a program writes: the slot as it stands, each word that cannot be corrected with its error pattern, so that the
slot fails its CRC (R382): a pattern that would leave the CRC good has one more bit. -/
def Chip.programBytes (c : Chip) (i : Nat) : List Byte × Chip :=
  let r := (c.badWords i).foldl (fun (r : List Byte × Chip) k =>
    let e := r.2.freePattern
    (withPattern r.1 k e.1, e.2)) (c.slotBytes i, c)
  match c.badWords i with
  | [] => r
  | k :: _ => (if slotGood r.1 then withPattern r.1 k 1 else r.1, r.2)

/-- A cell of a slot written. -/
def Lic.putCell (l : Lic) (i t : Nat) (bs : List Byte) : Lic :=
  let bit : BitVec 512 := BitVec.ofNat 512 (2 ^ i)
  { l with
    shadow := memPutBytes 0 l.shadow (64 * (2 * i + t)) bs
    prog := l.prog ||| BitVec.ofNat 1024 (2 ^ (2 * i + t))
    newer := if t = 1 then l.newer ||| bit else l.newer &&& ~~~bit
    unstored := l.unstored.erase i }

/-- The next unstored slot programmed. -/
def Chip.shadowProgram (c : Chip) : Chip :=
  match c.nextUnstored with
  | none => c
  | some i =>
    let (bs, c) := c.programBytes i
    { c with lic := c.lic.putCell i (c.lic.target i) bs }

/-! ### Meanings -/

/-- STORE_COMMIT. -/
def execStoreCommit (s : State) : Host.Outcome State Fault Refusal :=
  onChip s fun _ c =>
    match c.nvs.store with
    | some o => if c.storeOn then c.storeCommit o else c
    | none => c

/-- RECALL_TRANSFER. -/
def execRecallTransfer (s : State) : Host.Outcome State Fault Refusal :=
  onChip s fun _ c =>
    match c.nvs.recl with
    | some q => if c.coreOn then c.recallTransfer q else c
    | none => c

/-- FUSE_OP_DONE: the fuses read as blown from the end of the operation; none ends in HOLD or after power fail (R55). -/
def execFuseOpDone (s : State) : Host.Outcome State Fault Refusal :=
  let c := s.chip.endSwitch
  match c.sec.op, c.storeOn with
  | some o, true => .next { s with die := s.die.blow o, chip := c.fuseDone (s.die.blow o) o }
  | _, _ => .next { s with chip := c }

/-- FLASH_OP_DONE. -/
def execFlashOpDone (s : State) : Host.Outcome State Fault Refusal :=
  onChip s fun _ c =>
    match c.prs.op with
    | some o => if c.storeOn then c.flashDone o else c
    | none => c

/-- LIC_DRAIN: one buffered record enters the recorder. -/
def execLicDrain (s : State) : Host.Outcome State Fault Refusal :=
  onChip s fun _ c => if c.recorderOn then c.condEdge c.drainOne else c

/-- LIC_SHADOW_PROGRAM: one record's cell. -/
def execLicShadowProgram (s : State) : Host.Outcome State Fault Refusal :=
  onChip s fun _ c => if c.recorderOn then c.condEdge c.shadowProgram else c

end Sys2Proof.Machine
end

