-- ==== Sys2Proof/Machine/Power.lean ====
section
/-!
DEFINITION. Supplies, start-up, power fail and the reset balls (R428 to R446, R46, R314 to R316, R352, R357, R358, R383 to
R385, R238, R239).
-/
namespace Sys2Proof.Machine

/-! ### Power good (R432, R435, R440) -/

/-- The chip as power good rises: every register at its reset value; flash, non-volatile cells and what the balls show are
kept. -/
def Chip.powerOn (c : Chip) : Chip :=
  { Chip.reset with
    pins := vmapi (fun p x => { x with padIn := (vget c.pins p).padIn }) Chip.reset.pins
    prs := { Prs.reset with flash := c.prs.flash, flashEcc := c.prs.flashEcc, marks := c.prs.marks }
    nvs := { Nvs.reset with
      slots := c.nvs.slots
      copyA := c.nvs.copyA
      copyB := c.nvs.copyB
      eccA := c.nvs.eccA
      eccB := c.nvs.eccB
      cells := c.nvs.cells }
    lic := { Lic.reset with shadow := c.lic.shadow, prog := c.lic.prog, newer := c.lic.newer }
    pwr := { Pwr.reset with
      pgood := true
      step := 1
      resetN := c.pwr.resetN
      safeN := c.pwr.safeN
      vio := c.pwr.vio
      temp := c.pwr.temp
      rstcause := if c.pwr.pf = 2 then 1 else 0 }
    scr := { Scr.reset with lines := c.scr.lines }
    freeIx := c.freeIx }

/-- POWER_GOOD: not while power is good or the power-fail sequence runs. -/
def execPowerGood (s : State) : Host.Outcome State Fault Refusal :=
  onChip s fun _ c => if c.pwr.pgood || c.pwr.pf == 1 then c else c.powerOn

/-! ### Steps 1 to 3 of start-up (R53, R123, R385, R441) -/

/-- A loss record that waited for a clock is written once a source returns (R64). -/
def Chip.lossRecord (c : Chip) : Chip :=
  match c.clk.lossWait with
  | none => c
  | some (cause, left, gen) =>
    { c with clk := { c.clk with lossWait := none } }.record cause 5 0 (ctxAt 32 left.toNat ||| ctxAt 34 gen.toNat) 0 .clock

/-- Step 1 ends and step 2 follows: fuses read, straps sampled. -/
def Chip.startCore (c : Chip) (straps : BitVec 3) : Chip :=
  { c with
    clk := { c.clk with xtalOk := true, xtalRuns := true }
    mgt := { c.mgt with addr := 0x58 ||| ((straps >>> 1).setWidth 7) }
    pwr := { c.pwr with fuseRead := true, straps := straps, step := 3 } }

/-- The crystal returns: the island goes back to it, and qualification resumes at passes 0 (R63). The 65,536 periods before
xtal_ok that fall in a HOLD belong to its count (R53, R55). -/
def Chip.xtalBack (c : Chip) : Chip :=
  let k := if c.clk.st == .hold && !c.clk.xtalOk then c.clk.holdPlus 65536 else c.clk
  let k := { k with xtalOk := true, xtalRuns := true, onLclk := false }
  { c with clk := if c.clk.onLclk then { k with passes := 0 } else k }.lossRecord

/-- XTAL_OK. In the power-fail sequence only the recorder sees it. -/
def execXtalOk (straps : BitVec 3) (s : State) : Host.Outcome State Fault Refusal :=
  onChip s fun _ c =>
    if c.pwr.pf == 1 then { c with clk := { c.clk with xtalOk := true, xtalRuns := true, onLclk := false } }
    else if !c.pwr.pgood then c
    else if c.pwr.step = 1 then c.startCore straps
    else c.xtalBack

/-- A shadow cell of a slot qualifies for its restore: its magic, its CRC, in the ring its number (R385). -/
def cellGood (i : Nat) (bs : List Byte) : Bool :=
  le bs 0 2 == 0x4C1C && slotGood bs && (480 ≤ i || le bs 4 4 % 480 == i)

/-- A sequence number is higher than another (R385). -/
def seqHigher (s t : Word) : Bool := decide (0 < (s - t).toInt)

/-- What a slot is restored to: its bytes, and whether they come from a qualifying cell; none for a slot never
programmed. -/
def Lic.restoreSlot (l : Lic) (i : Nat) : Option (List Byte × Bool) :=
  let cell (t : Nat) := memBytes 0 l.shadow (64 * (2 * i + t)) 64
  let has (t : Nat) := l.prog.getLsbD (2 * i + t)
  let good (t : Nat) := has t && cellGood i (cell t)
  let seq (t : Nat) : Word := BitVec.ofNat 32 (le (cell t) 4 4)
  if good 0 && good 1 then some (if seqHigher (seq 1) (seq 0) then cell 1 else cell 0, true)
  else if good 0 then some (cell 0, true)
  else if good 1 then some (cell 1, true)
  else if has 0 || has 1 then some (cell (if l.newer.getLsbD i then 1 else 0), false)
  else none

/-- The highest of a list of sequence numbers, judged pairwise modulo 2^32. -/
def seqMax : List Word → Option Word
  | [] => none
  | s :: r => some (r.foldl (fun a b => if seqHigher b a then b else a) s)

/-- The recorder restored (R385), with the power-on record ahead of every record that waits. The restore sets LIC.FIRST too
(R391), to a value the spec does not state: a free one (log entry 64). -/
def Chip.licRestore (c : Chip) : Chip :=
  let got := (List.range 512).map fun i => (i, c.lic.restoreSlot i)
  let good := got.filterMap fun (e : Nat × Option (List Byte × Bool)) =>
    match e.2 with | some (bs, true) => some (e.1, bs) | _ => none
  let ring := good.filter fun (e : Nat × List Byte) => decide (e.1 < 480)
  let seqs (l : List (Nat × List Byte)) : List Word := l.map fun e => BitVec.ofNat 32 (le e.2 4 4)
  let bad := (got.filter fun (e : Nat × Option (List Byte × Bool)) =>
    match e.2 with | some (_, false) => true | _ => false).length
  let mem := got.foldl (fun (m : Mem) (e : Nat × Option (List Byte × Bool)) => match e.2 with
    | some (bs, _) => memPutBytes 0 m (slotAddr e.1) bs
    | none => m) c.mem
  let early := c.lic.given
  let (v, c) := c.free
  let c := { c with
    mem := mem
    lic := { c.lic with
      buf := []
      wait := []
      restored := true
      first := v.setWidth 32
      next := match seqMax (seqs ring) with | some s => s + 1 | none => 0
      last := (seqMax (seqs (ring.filter fun (e : Nat × List Byte) => le e.2 2 2 != 0x0F00))).getD 0
      ffcount := (got.filter fun (e : Nat × Option (List Byte × Bool)) => decide (480 ≤ e.1) && e.2.isSome).length
      badcell := BitVec.ofNat 32 bad }
    pwr := { c.pwr with step := 4 } }
  let c := if bad = 0 then c else c.setLicEvt 5
  let c := c.record 0x0001 0 0 (ctxAt 32 bad ||| ctxAt 34 (c.pwr.straps.toNat % 2))
  { c with lic := early.foldl Lic.give c.lic }

/-- LIC_RESTORE: step 3 of start-up. -/
def execLicRestore (s : State) : Host.Outcome State Fault Refusal :=
  onChip s fun _ c => if c.pwr.pgood && c.pwr.step == 3 && c.islandOn then c.licRestore else c

/-! ### VCAP and the recall (R352, R353, R357) -/

/-- VCAP_OK. -/
def execVcapOk (s : State) : Host.Outcome State Fault Refusal :=
  onChip s fun _ c => if c.pwr.pgood then c.condEdge { c with nvs := { c.nvs with vcapOk := true } } else c

/-- VCAP_LOW: NVS.EVT.vcap_low and record 0x1C01 when vcap_ok clears. -/
def execVcapLow (s : State) : Host.Outcome State Fault Refusal :=
  onChip s fun _ c =>
    if c.pwr.pgood && c.nvs.vcapOk then
      c.condEdge (({ c with nvs := { c.nvs with vcapOk := false } }.setNvsEvt 9).record 0x1C01 0 0 0)
    else c

/-- RECALL: step 4 of start-up. -/
def execRecall (s : State) : Host.Outcome State Fault Refusal :=
  onChip s fun _ c =>
    if c.pwr.pgood && c.pwr.step == 4 && c.nvs.vcapOk && c.clk.st != .hold then
      let auto := match c.nvs.newest with | some (r, _) => r.kind == 4 | none => false
      let c := c.recallAll.setNvsEvt 1
      let c := if auto then c.setNvsEvt 6 else c
      { c with pwr := { c.pwr with step := 5 } }
    else c

/-! ### The clock decision (R46, R442) -/

/-- The start-up timeout has expired, or is 0 ms. -/
def Chip.timedOut (c : Chip) : Bool := c.clk.tmoExpired || field c.clk.policy 2 2 == 3

/-- The decision of R442: it ends step 5, or waits in QUALIFYING. -/
def Chip.clockDecision (c : Chip) : Chip :=
  if c.clk.st != .qualifying then c.endDecision
  else if c.clk.lineOk then c.endDecision.glitchFree true .line (bitW 3 true ||| bitW 4 true) .device
  else if c.timedOut then (c.endDecision.clkMove .fallback (bitW 7 true)).autoReturn
  else { c with clk := { c.clk with deciding := true } }

/-- CLOCK_DECISION. -/
def execClockDecision (s : State) : Host.Outcome State Fault Refusal :=
  onChip s fun _ c => if c.pwr.pgood && c.pwr.step == 5 then c.clockDecision else c

/-- BOOT_TIMEOUT: counts in start-up only; a decision that waits is taken. -/
def execBootTimeout (s : State) : Host.Outcome State Fault Refusal :=
  onChip s fun _ c =>
    if !c.pwr.pgood || c.decided then c
    else
      let c := { c with clk := { c.clk with tmoExpired := true } }
      if c.clk.deciding then c.clockDecision else c

/-! ### Slot attempts (R313 to R316, R443) -/

/-- The first slot tried: in a warm reload the active slot, else the preference, else the strap. -/
def Chip.firstSlot (c : Chip) : Bool :=
  match c.prs.reload, c.prs.actSlot, c.prs.bootpref with
  | true, some s, _ => s
  | _, _, some s => s
  | _, _, none => c.pwr.straps.getLsbD 0

/-- PRS.BOOTLOG with the outcome of one attempt. -/
def Chip.bootLog (c : Chip) (slot : Bool) (st : Byte) : Chip :=
  let n := if slot then 8 else 0
  let base : Word := if c.prs.tried = 0 then 0 else c.prs.bootlog
  { c with prs := { c.prs with
      bootlog := (base &&& 0x0003FFFF) ||| fldW n st ||| bitW (if slot then 17 else 16) true
        ||| bitW 18 (c.pwr.straps.getLsbD 0) ||| bitW 19 (c.prs.bootpref.isSome && !(c.prs.reload && c.prs.actSlot.isSome))
        ||| bitW 20 c.firstSlot } }

/-- Start-up ends: the step, and SYS.BOOTT, whose time is free since the model counts none (log entry 7). -/
def Chip.endStartup (c : Chip) (last : Nat) (loader : Bool) : Chip :=
  let c := { c with prs := { c.prs with tried := 0, reload := false } }
  if c.pwr.step = 0 then c
  else
    let (t, c) := c.free
    { c with pwr := { c.pwr with
        step := 0
        boott := (t.setWidth 32 &&& 0xFFFFF) ||| natW 20 last ||| bitW 24 loader } }

/-- LOADER entered (R315). -/
def Chip.enterLoader (c : Chip) : Chip :=
  let c := c.dropStaged.setFronds 0xFFFFFFFF .safe
  let c := { c with
    fronds := vmapi (fun _ f => { f with activeOk := false }) c.fronds
    pins := vmapi (fun _ p => { p with drv := 2 }) c.pins
    prs := { c.prs with ldr := .loader, actSlot := none } }
  (c.record 0x2B02 0 0 (ctxAt 32 (field c.prs.bootlog 0 16))).endStartup 6 true

/-- An attempt that failed, and LOADER after the second. -/
def Chip.slotFailed (c : Chip) (slot : Bool) (step : Byte) (st : Byte) : Chip :=
  let c := (c.bootLog slot st).record 0x2B01 9 (if slot then 1 else 0) (ctxAt 32 step.toNat ||| ctxAt 33 st.toNat)
  let c : Chip := { c.dropStaged with prs := { c.dropStaged.prs with tried := c.prs.tried + 1 } }
  if c.prs.tried = 2 then c.enterLoader else c

/-- Activation of the slot just verified, or its failure: the spec numbers the activation with no step of R300, so the
step byte of that record is free (log entry 2). -/
def Chip.slotActivate (c : Chip) (die : Die) (slot : Bool) (st : Byte) (s : Staged) : Chip :=
  match c.actCheck Src.unit s with
  | some (st, c) =>
    let (v, c) := c.free
    c.slotFailed slot (v.setWidth 8) st
  | none => ((c.bootLog slot st).activate die s).endStartup 7 false

/-- One slot attempt: stage, check, activate; a slot in which a flash operation still runs is busy (R310). -/
def Chip.slotAttempt (c : Chip) (die : Die) : Chip :=
  let slot := if c.prs.tried = 0 then c.firstSlot else !c.firstSlot
  let (st, step, _, c) := if c.prs.busyIn (if slot then 1 else 0) then (St.busy, 1, 0, c) else c.stageSlot die slot
  match failed st, c.prs.staged with
  | false, some s =>
    let (st', c) := c.verifyStaged die s
    if failed st' then c.slotFailed slot 4 st'
    else match c.prs.staged with
      | some s => c.slotActivate die slot (joinSt st st') s
      | none => c
  | _, _ => c.slotFailed slot (BitVec.ofNat 8 step) st

/-- BOOT_SLOT_ATTEMPT: step 6 of start-up with RESET_N high, or the loader run of R316. -/
def execBootSlotAttempt (s : State) : Host.Outcome State Fault Refusal :=
  onChip s fun die c =>
    if c.pwr.pgood && c.coreOn && ((c.pwr.step == 6 && c.pwr.resetN) || (c.pwr.step == 0 && c.prs.reload)) then
      c.slotAttempt die
    else c

/-! ### Power fail (R312, R358, R383, R433 to R435, R448) -/

/-- Programs up to `n` unstored records. -/
def Chip.programRecords : Nat → Chip → Chip
  | 0, c => c
  | n + 1, c => Chip.programRecords n c.shadowProgram

/-- Every record given to the recorder drained. -/
def Chip.drainAll (c : Chip) : Chip := c.lic.given.foldl (fun (c : Chip) _ => c.drainOne) c

/-- The recorder in the power-fail sequence: a loss record that waited, what the buffer holds, then up to `n` of the unstored
records (R64, R383). Before the restore no record can be numbered, and none is written (log entry 16); without a clock the
recorder writes nothing (R373). -/
def Chip.storeRecorder (c : Chip) (n : Nat) : Chip :=
  if !c.islandOn then c
  else if !c.lic.restored then c.lossRecord
  else
    let c := c.lossRecord.drainAll
    Chip.programRecords (min n c.lic.unstored.length) c

/-- The recorder at power fail: the power-fail record goes first (R376), then the first 240 unstored records. -/
def Chip.failRecord (c : Chip) (vccaux : Bool) : Chip :=
  let ctx := ctxAt 32 (if vccaux then 1 else 0) ||| ctxAt 34 (min 0xFFFF c.lic.unstored.length)
  (c.record 0x2F01 0 0 ctx 0 .power).storeRecorder 240

/-- A store in progress stops after the page or counter it is programming; which that is, the spec leaves to the moment
(R358; log entry 2). -/
def Chip.stopStore (c : Chip) : Chip :=
  match c.nvs.store with
  | none => c
  | some o =>
    let (v, c) := c.free
    { c with nvs := { c.nvs.stopAt o (v.toNat % (o.pages.length + o.vals.length + 1)) with store := none } }

/-- The power-fail path fires: outputs safe, the core frozen, stores and flash stopped, the recorder stored. -/
def Chip.powerFail (c : Chip) (vccaux : Bool) : Chip :=
  let old := c
  let c := old.settle { c with pwr :=
    { c.pwr with
      pf := 1
      pgood := false
      pfailN := c.pwr.pfailN && vccaux
      auxWarn := false } }
  let c := c.stopStore
  let c := { c with
    clk := { c.clk with switch := none }
    nvs := { c.nvs with recl := none }
    jtg := { c.jtg with busy := false } }
  let c := match c.prs.op with
    | some o => { c.spoilSector o.sector with prs := { (c.spoilSector o.sector).prs with op := none } }
    | none => c
  { c.failRecord vccaux with sec := { c.sec with op := none } }

/-- A fuse operation that power fail cuts short: each fuse reads set or clear, which is free; KEYPROG follows the last
key fuse (R448, R455). -/
def Die.cut (d : Die) (o : FuseOp) (v : BitVec 64) (m : BitVec 256) : Die :=
  if v.getLsbD 0 then d.blow o
  else if o.kind = 4 then { d with key := d.key ||| (o.key &&& m) }
  else d

/-- 256 free bits. -/
def Chip.free256 (c : Chip) : BitVec 256 × Chip :=
  let (a, c) := c.free
  let (b, c) := c.free
  let (d, c) := c.free
  let (e, c) := c.free
  (a ++ b ++ d ++ e, c)

/-- The die and the chip with a fuse operation cut. -/
def Chip.cutFuse (c : Chip) (d : Die) : Die × Chip :=
  match c.sec.op with
  | none => (d, c)
  | some o =>
    let (v, c) := c.free
    let (m, c) := c.free256
    (d.cut o v m, c)

/-- POWER_FAIL. -/
def execPowerFail (vccaux : Bool) (s : State) : Host.Outcome State Fault Refusal :=
  if s.chip.pwr.pgood then
    let r := s.chip.cutFuse s.die
    .next { s with die := r.1, chip := r.2.powerFail vccaux }
  else
    .next { s with chip := { s.chip with pwr := { s.chip.pwr with pfailN := s.chip.pwr.pfailN && vccaux } } }

/-- AutoStore's set: every dirty or in-flight page and counter (Table NVS-3). -/
def Chip.autoSet (c : Chip) : List Nat × List Nat :=
  (bitList (c.nvs.dirtyP ||| c.nvs.flyP) 1088, bitList (c.nvs.dirtyC ||| c.nvs.flyC) 64)

/-- The power-fail sequence ends: the supplies are awaited, no output is driven and MGT_SCL is released (R430, R435). -/
def Chip.endFail (c : Chip) : Chip := { c.resetMgt with pwr := { c.resetMgt.pwr with pf := 2 } }

/-- AutoStore, after the rest of the recorder's store: snapshot and commit of its set; the sequence ends. -/
def Chip.autoStore (c : Chip) : Chip :=
  let c := c.storeRecorder 512
  let (pages, ctrs) := c.autoSet
  let c := if pages.isEmpty && ctrs.isEmpty then c
    else
      let c := c.snapshot 4 pages ctrs none none
      match c.nvs.store with
      | some o => { c with nvs := c.nvs.program o }
      | none => c
  c.endFail

/-- AUTOSTORE. -/
def execAutostore (s : State) : Host.Outcome State Fault Refusal :=
  onChip s fun _ c => if c.pwr.pf = 1 then c.autoStore else c

/-- The recorder cell being programmed as VCAP ends is damaged: its content is free (R384). -/
def Chip.cutRecord (c : Chip) (i : Nat) : Chip :=
  let (bs, c) := c.freeBytes 8
  { c with lic := c.lic.putCell i (c.lic.target i) bs }

/-- An AutoStore without its record: how many of its pages and counters it had programmed is free; a counter cell being
programmed is left without a correct CRC (R348, R358). -/
def Chip.cutCells (c : Chip) : Chip :=
  let (pages, ctrs) := c.autoSet
  let c := c.snapshot 4 pages ctrs none none
  match c.nvs.store with
  | none => c
  | some o =>
    let (v, c) := c.free
    let k := v.toNat % (o.pages.length + o.vals.length + 1)
    let m := { c.nvs.stopAt o k with store := none }
    { c with nvs := match decide (k < o.pages.length), (o.vals.drop (k - o.pages.length)).head? with
        | false, some (j, w) =>
          let x := CtrCell.seal j w m.nextGen
          m.putCell j { x with crc := ~~~x.crc }
        | _, _ => m }

/-- VCAP_EXHAUSTED: the sequence ends where it stands. -/
def execVcapExhausted (s : State) : Host.Outcome State Fault Refusal :=
  onChip s fun _ c =>
    if c.pwr.pf = 1 then
      let c := match c.islandOn, c.nextUnstored with
        | true, some i => c.cutRecord i
        | _, _ => c.cutCells
      c.endFail
    else c

/-! ### Sensors (R431, R433, R446) -/

/-- AUX_WARN: VCCAUX falls below 1.68 V, with the event, or rises above it again (R433; log entry 112). -/
def execAuxWarn (s : State) (below : Bool := true) : Host.Outcome State Fault Refusal :=
  onChip s fun _ c =>
    if !c.pwr.pgood then c
    else
      let c := if below then c.setPwrEvt 0 else c
      { c with pwr := { c.pwr with auxWarn := below } }

/-- VIO_CHANGE: the class of a bank as sensed; the event when it changes while the device runs. -/
def execVioChange (b : BitVec 4) (cls : BitVec 2) (s : State) : Host.Outcome State Fault Refusal :=
  onChip s fun _ c =>
    let n := 2 * b.toNat
    if 12 ≤ b.toNat || c.pwr.vio.extractLsb' n 2 == cls then c
    else
      let v := (c.pwr.vio &&& ~~~((3 : BitVec 24) <<< n)) ||| ((cls.setWidth 24) <<< n)
      let c := { c with pwr := { c.pwr with vio := v } }
      if c.pwr.pgood then c.setPwrEvt 1 else c

/-- TEMP_OVER: the sensed temperature; the event when it rises to or above PWR.TLIM (Table PWR-8). -/
def execTempOver (temp : BitVec 16) (s : State) : Host.Outcome State Fault Refusal :=
  onChip s fun _ c =>
    let limit := (c.pwr.tlim.setWidth 16).toInt
    let rises := decide (c.pwr.temp.toInt < limit) && decide (limit ≤ temp.toInt)
    let c := { c with pwr := { c.pwr with temp := temp } }
    if c.pwr.pgood && rises then c.setPwrEvt 2 else c

/-! ### RESET_N (R437, R439) -/

/-- RESET_N low. In HOLD the reset is latched, what the front ends hold is counted with it (R105, R439). -/
def Chip.resetLow (c : Chip) (part : BitVec 3) (cross : List (BitVec 3 × BitVec 128)) : Chip :=
  let low := { c with pwr := { c.pwr with resetN := false } }
  if !c.pwr.pgood || c.pwr.step != 0 then low
  else if c.clk.st == .hold then
    { low.cutFrames part cross with pwr := { low.pwr with latched := true } }
  else if c.pwr.held then low
  else c.settle ((low.cutFrames part cross).holdPins.holdReset)

/-- WARM_RESET. -/
def execWarmReset (s : State) (part : BitVec 3 := 0) (cross : List (BitVec 3 × BitVec 128) := []) :
    Host.Outcome State Fault Refusal :=
  onChip s fun _ c => c.resetLow part cross

/-- WARM_RESET_END: the block resets of Table PWR-4 where the core was held; in HOLD they wait for the resumption. A start-up
that RESET_N held goes on with the stream step and tries the first slot again (R439). -/
def execWarmResetEnd (s : State) : Host.Outcome State Fault Refusal :=
  onChip s fun _ c =>
    let again := c.pwr.pgood && c.pwr.step != 0 && !c.pwr.resetN
    let c := { c with
      pwr := { c.pwr with resetN := true }
      prs := if again then { c.prs with tried := 0 } else c.prs }
    if !c.pwr.pgood || !c.pwr.held then c
    else if c.clk.st == .hold then { c with pwr := { c.pwr with latched := true } }
    else c.coreReset 2 0 c.pwr.latched

/-! ### SAFE_N (R238, R239) -/

/-- SAFE_N_FALL. -/
def execSafeNFall (s : State) : Host.Outcome State Fault Refusal :=
  onChip s fun _ c =>
    if c.pwr.safeN then c.settle { c with pwr := { c.pwr with safeN := false } } else c

/-- SAFE_N_RISE: the pins it forced enter the hold of R57; a SAFE force that ends leaves flip-flops at init. -/
def Chip.safeRise (c : Chip) : Chip :=
  let new := { c.holdPins with pwr := { c.pwr with safeN := true } }
  let freed := (List.range 32).filter fun n => c.safeForce n && !new.safeForce n
  c.settle (new.seatInit freed)

/-- SAFE_N_RISE. -/
def execSafeNRise (s : State) : Host.Outcome State Fault Refusal :=
  onChip s fun _ c => if c.pwr.safeN then c else c.safeRise

end Sys2Proof.Machine
end

