-- ==== Sys2Proof/Machine/ClockEvt.lean ====
section
/-!
DEFINITION. Events of the clock unit (R40 to R45, R53 to R57, R62 to R64, R491, R493): CDR and PLL, losses, qualification
windows, the resumption from HOLD and the auto-fallback.
-/
namespace Sys2Proof.Machine

/-- A clock event: nothing happens without power good; in the power-fail sequence the clocks of the recorder still come and go,
and `k` tells it of them (R373, R383). -/
def clkRow (s : State) (g : Chip → Chip) (k : Clk → Clk := id) : Host.Outcome State Fault Refusal :=
  onChip s fun _ c => if c.pwr.pf == 1 then { c with clk := k c.clk } else if c.pwr.pgood then g c else c

/-- A loss detector fires: it acts on a switch in flight (R51, R491). -/
def lossRow (s : State) (g : Chip → Chip) (k : Clk → Clk) : Host.Outcome State Fault Refusal :=
  inFlight s fun _ c => if c.pwr.pf == 1 then { c with clk := k c.clk } else if c.pwr.pgood then g c else c

/-! ### CDR and PLL (R40, R42) -/

/-- The CDR of a port loses lock: the port leaves UP, at once or on resumption (R98). -/
def Chip.cdrLostAt (c : Chip) (p : Nat) : Chip :=
  if c.frozen then c.modPort p fun x => { x with lost := x.lost || x.st == 2 } else c.retrain p 0

/-- The line CDR loses lock: line_ok and passes clear (R42), the line port leaves UP. -/
def Chip.cdrLost (c : Chip) : Chip :=
  if !c.clk.cdrLock then c
  else { c with clk := { c.clk with cdrLock := false, lineOk := false, passes := 0 } }.cdrLostAt 0

/-- The line locks. -/
def Clk.lineBack (k : Clk) : Clk := { k with cdrLock := true, lineLost := false }
/-- LCLK starts, once the CDR has locked; the island runs on it while the crystal is stopped (R63). -/
def Clk.lclkStarts (k : Clk) : Clk := if k.cdrLock then { k with pllLock := true, lclk := true, onLclk := !k.xtalRuns } else k
/-- LCLK stops at the end of the holdover, unless the CDR has locked again. -/
def Clk.lclkStops (k : Clk) : Clk := if k.cdrLock then k else { k with pllLock := false, lclk := false, onLclk := false }
/-- The crystal stops: the island moves to LCLK where it runs (R63). -/
def Clk.xtalStops (k : Clk) : Clk := { k with xtalOk := false, xtalRuns := false, onLclk := k.lclk }

/-- CDR_LOCK: a source returns (R64). -/
def execCdrLock (s : State) : Host.Outcome State Fault Refusal :=
  clkRow s (fun c => { c with clk := c.clk.lineBack }.lossRecord) Clk.lineBack
/-- CDR_LOSS of the line or of a peer port. -/
def execCdrLoss (s : State) (p : BitVec 2 := 0) : Host.Outcome State Fault Refusal :=
  clkRow s (fun c => if p = 0 then c.cdrLost else if p = 3 then c else c.cdrLostAt p.toNat) fun k =>
    if p = 0 then { k with cdrLock := false, lineOk := false, passes := 0 } else k
/-- PLL_LOCK: after CDR lock; a loss record that waited for a clock is written (R64). -/
def execPllLock (s : State) : Host.Outcome State Fault Refusal :=
  clkRow s (fun c => if c.clk.cdrLock then { c with clk := c.clk.lclkStarts }.lossRecord else c) Clk.lclkStarts
/-- PLL_HOLDOVER_END. -/
def execPllHoldoverEnd (s : State) : Host.Outcome State Fault Refusal :=
  clkRow s (fun c => { c with clk := c.clk.lclkStops }) Clk.lclkStops

/-! ### Losses (R53, R54, R63, R64, R493) -/

/-- The code of a clock state (Table CLK-1). -/
def ClkState.code : ClkState → BitVec 3
  | .qualifying => 0
  | .line => 1
  | .hold => 2
  | .fallback => 3
  | .forced => 4

/-- The record of a loss: the state left and the generation before; it waits while no source runs. -/
def Chip.loseRecord (c : Chip) (cause : BitVec 16) (left : BitVec 3) (gen : BitVec 16) : Chip :=
  let c := { c with clk := { c.clk with lossWait := some (cause, left, gen) } }
  if c.islandOn then c.lossRecord else c

/-- HOLD entered: outputs held, the core frozen with its terms of INT_N (Table FLT-9), the counts and the record of R54. -/
def Chip.enterHold (c : Chip) (cause : BitVec 16) (evt : Word) : Chip :=
  let left := c.clk.st.code
  let gen := c.clk.gen
  let new := c.freezeInt.holdPins.clkMove .hold (evt ||| bitW 6 true)
  let new := { new with clk := { new.clk with holds := satAdd new.clk.holds 1, holdCnt := 0, holdSat := false } }
  (c.settle new).loseRecord cause left gen

/-- The line detector has fired. -/
def Chip.lineGone (c : Chip) : Chip := { c.setClkEvt 0 with clk := { (c.setClkEvt 0).clk with lineLost := true } }

/-- The line detector fires: in LINE, HOLD. -/
def Chip.lineLoss (c : Chip) : Chip :=
  let c := c.lineGone
  (if c.clk.st == .line && c.pwr.step != 1 then c.enterHold 0x2101 0 else c).cdrLost

/-- The crystal detector has fired: the island moves to LCLK where it runs. -/
def Chip.xtalGone (c : Chip) : Chip := { c.setClkEvt 1 with clk := (c.setClkEvt 1).clk.xtalStops }

/-- The crystal detector fires: HOLD on the crystal, a record on the line and in HOLD. -/
def Chip.xtalLoss (c : Chip) : Chip :=
  let c := c.xtalGone
  if c.pwr.step = 1 then c
  else match c.clk.st with
    | .line => c.loseRecord 0x2103 1 c.clk.gen
    | .hold => c.loseRecord 0x2102 2 c.clk.gen
    | _ => c.enterHold 0x2102 0

/-- A detector fires, of the line or of the crystal. -/
def Chip.loss (c : Chip) (line : Bool) : Chip := if line then c.lineLoss else c.xtalLoss

/-- The device stays in HOLD as the target of a sequence begun there is lost: the events and the record of the row of Table CLK-2
for that loss, the state left HOLD (R491). -/
def Chip.staysHeld (c : Chip) (line : Bool) : Chip :=
  ((if line then c.lineGone else c.xtalGone).setClkEvt 6).loseRecord (if line then 0x2101 else 0x2102) 2 c.clk.gen

/-- The target of a forced switch in flight is lost: the sequence stops in HOLD, with the events and the record of
that loss; a CLK.FORCE completes CLOCK_HOLD and sets refused, a CLK.SEL whose return it was completes CLOCK_HOLD (R51,
R491). -/
def Chip.forceStops (c : Chip) (s : Switch) : Chip :=
  let held := if s.start == .hold then c.noSwitch.staysHeld s.line
    else
      let new := if s.line then c.noSwitch.lineGone.enterHold 0x2101 0 else c.noSwitch.xtalGone.enterHold 0x2102 0
      { new with
        clk := { new.clk with holdCnt := c.clk.holdCnt }
        flt := { new.flt with intHeld := c.flt.intHeld } }
  let held := if s.line then held.cdrLost else held
  let done := held.tellCaller s.caller St.clockHold
  if s.into == s.start || s.caller == .device then done else done.setClkEvt 5

/-- The old source of a forced switch in flight is lost: its event and its record with the state that the sequence started
from, and the sequence goes on (R491). -/
def Chip.forceGoesOn (c : Chip) (s : Switch) : Chip :=
  if s.line then c.xtalGone.loseRecord 0x2102 s.start.code c.clk.gen
  else (c.lineGone.loseRecord 0x2101 s.start.code c.clk.gen).cdrLost

/-- A detector fires while a switch may be in flight. A glitch-free switch whose old clock is still applied leaves the
core in HOLD and its CLK.SEL waiting; one whose new clock is lost is forced back to the old source (R51; log entry
96). -/
def Chip.lossNow (c : Chip) (line : Bool) : Chip :=
  match c.clk.switch with
  | none => c.loss line
  | some s =>
    if s.forced then if s.line == line then c.forceStops s else c.forceGoesOn s
    else if s.left < 2 then c.endSwitch.loss line
    else if s.line == line then (c.noSwitch.loss line).beginForce (!line) s.start 0 s.caller
    else if s.left < 3 then c.endSwitch.loss line
    else c.noSwitch.loss line

/-- LINE_LOSS. -/
def execLineLoss (s : State) : Host.Outcome State Fault Refusal :=
  lossRow s (fun c => c.lossNow true) fun k => { k with lineLost := true, cdrLock := false, lineOk := false, passes := 0 }

/-- XTAL_LOSS. -/
def execXtalLoss (s : State) : Host.Outcome State Fault Refusal :=
  lossRow s (fun c => if c.clk.xtalRuns then c.lossNow false else c) Clk.xtalStops

/-! ### Qualification (R41, R42, R45) -/

/-- A window error as CLK.QWIN.err holds it. -/
def windowErr (count : Nat) : BitVec 16 :=
  BitVec.ofInt 16 (max (-32768) (min 32767 ((count : Int) - 65536)))

/-- A window passes: locks for the whole window and an error from -6 to +6. -/
def Clk.windowPasses (k : Clk) (count : Nat) (locked : Bool) : Bool :=
  locked && k.cdrLock && k.pllLock && decide (65530 ≤ count ∧ count ≤ 65542)

/-- line_ok sets: the decision that waits, or the switch from QUALIFYING. -/
def Chip.lineQualified (c : Chip) : Chip :=
  let c := { c.setClkEvt 3 with clk := { (c.setClkEvt 3).clk with lineOk := true } }
  if c.clk.deciding && c.pwr.step == 5 then c.clockDecision else c.qualifyLine

/-- A qualification window ends. -/
def Chip.windowEnd (c : Chip) (count : Nat) (locked : Bool) : Chip :=
  let ok := c.clk.windowPasses count locked
  let passes : BitVec 3 := if !ok then 0 else if c.clk.passes = 4 then 4 else c.clk.passes + 1
  let k := { c.clk with qerr := windowErr count, windows := c.clk.windows + 1, passes := passes }
  if !ok then
    let drift := k.st == .line
    let c := { c with clk := { k with lineOk := false } }
    if drift then c.setClkEvt 2 else c
  else
    let c := { c with clk := k }
    if passes = 4 && !k.lineOk then c.lineQualified else c

/-- QUAL_WINDOW_END: none ends while the crystal is stopped or not yet good. -/
def execQualWindowEnd (count : Nat) (locked : Bool) (s : State) : Host.Outcome State Fault Refusal :=
  clkRow s fun c => if c.clk.xtalOk then c.windowEnd count locked else c

/-! ### The end of HOLD (R44, R56, R62) -/

/-- HOLD_RESUME: line_ok and xtal_ok are both 1. -/
def execHoldResume (s : State) : Host.Outcome State Fault Refusal :=
  clkRow s fun c => if c.inHold && c.clk.lineOk && c.clk.xtalOk then c.resume .line 0 else c

/-- The crystal periods of the hold before an auto-fallback; 0 ms counts as 1. -/
def Clk.fallbackPeriods (k : Clk) : Nat := 25000 * max 1 (field k.policy 8 8)

/-- AUTO_FALLBACK: the hold has lasted its time; a line that is good again goes first (coincidence 2 of the chapter). -/
def execAutoFallback (s : State) : Host.Outcome State Fault Refusal :=
  clkRow s fun c =>
    if c.inHold && c.clk.policy.getLsbD 0 && c.clk.xtalOk && !c.clk.lineOk then
      let n := max c.clk.holdCnt.toNat c.clk.fallbackPeriods
      { c with clk := { c.clk with holdCnt := BitVec.ofNat 48 n } }.beginForce false .fallback
        (bitW 7 true ||| bitW 4 true) .device
    else c

end Sys2Proof.Machine
end

