-- ==== Sys2Proof/Machine/Code.lean ====
section
/-!
DEFINITION. 8b/10b characters (R72, R73): the code tables and the running disparity of IEEE 802.3 clause 36, which the spec
names and does not print (PRESUMED, log entry 124); what a receiver makes of the characters that reach it, and the characters of
a frame. A character is abcdei fghj, bit 9 the first on the line; running disparity is true when positive.
-/
namespace Sys2Proof.Machine

/-! ### The code tables -/

/-- The sub-block abcdei of D.x at negative running disparity. -/
def code6 (x : Nat) : BitVec 6 :=
  ([0b100111, 0b011101, 0b101101, 0b110001, 0b110101, 0b101001, 0b011001, 0b111000,
    0b111001, 0b100101, 0b010101, 0b110100, 0b001101, 0b101100, 0b011100, 0b010111] ++
   [0b011011, 0b100011, 0b010011, 0b110010, 0b001011, 0b101010, 0b011010, 0b111010,
    0b110011, 0b100110, 0b010110, 0b110110, 0b001110, 0b101110, 0b011110, 0b101011]).getD x 0

/-- The sub-block fghj of D.x.y at negative running disparity. -/
def code4 (y : Nat) : BitVec 4 := [0b1011, 0b1001, 0b0101, 0b1100, 0b1101, 0b1010, 0b0110, 0b1110].getD y 0

/-- The ones of a sub-block. -/
def ones {w : Nat} (v : BitVec w) : Nat := ((List.range w).filter v.getLsbD).length

/-- Running disparity after a sub-block of six: that of its majority, or of its last three bits where those are all alike and
balanced. -/
def rd6 (rd : Bool) (v : BitVec 6) : Bool :=
  if v = 0b000111 then true else if v = 0b111000 then false else if ones v = 3 then rd else decide (3 < ones v)

/-- Running disparity after a sub-block of four. -/
def rd4 (rd : Bool) (v : BitVec 4) : Bool :=
  if v = 0b0011 then true else if v = 0b1100 then false else if ones v = 2 then rd else decide (2 < ones v)

/-- Running disparity after a character. -/
def rdAfter (rd : Bool) (w : BitVec 10) : Bool := rd4 (rd6 rd (w.extractLsb' 4 6)) (w.extractLsb' 0 4)

/-- abcdei of D.x at a running disparity. -/
def six (rd : Bool) (x : Nat) : BitVec 6 :=
  let v := code6 x
  if rd && (ones v != 3 || x == 7) then ~~~v else v

/-- fghj of D.x.y at the running disparity behind abcdei, with the alternate of D.x.7 that keeps five equal bits apart. -/
def four (rd : Bool) (x y : Nat) : BitVec 4 :=
  let other := y == 7 && (if rd then [11, 13, 14] else [17, 18, 20]).contains x
  let v : BitVec 4 := if other then 0b0111 else code4 y
  if rd && (ones v != 2 || y == 3) then ~~~v else v

/-- The character of a byte. -/
def dataChar (rd : Bool) (b : Byte) : BitVec 10 :=
  let s := six rd (b.toNat % 32)
  s ++ four (rd6 rd s) (b.toNat % 32) (b.toNat / 32)

/-- K28.5. -/
def k285 (rd : Bool) : BitVec 10 := if rd then 0b1100000101 else 0b0011111010

/-- K28.7. -/
def k287 (rd : Bool) : BitVec 10 := if rd then 0b1100000111 else 0b0011111000

/-- What a receiver makes of a character: data, K28.5, K28.7, or a code error (R72). -/
inductive Code where
  | data (b : Byte)
  | comma
  | last
  | bad
  deriving DecidableEq, Repr

/-- A character decoded at a running disparity: any other control character, one that the tables do not hold and one that breaks
running disparity is a code error. -/
def decodeChar (rd : Bool) (w : BitVec 10) : Code :=
  if w = k285 rd then .comma
  else if w = k287 rd then .last
  else
    let s : BitVec 6 := w.extractLsb' 4 6
    match (List.range 32).find? fun x => six rd x == s with
    | none => .bad
    | some x =>
      match (List.range 8).find? fun y => four (rd6 rd s) x y == w.extractLsb' 0 4 with
      | none => .bad
      | some y => .data (BitVec.ofNat 8 (32 * y + x))

/-! ### What a receiver hears (R72, R73, R79) -/

/-- A receiver in a row of characters: whether the last was K28.5, the bytes of the frame that is open, last first, with the code
errors in it, the places of all code errors, the IDLE sets, and the first frame that has ended. -/
structure Ear where
  rd     : Bool
  start  : Bool
  opened : Option (List Byte × Nat)
  errs   : List Nat
  idles  : Nat
  frame  : Option (List Byte × Nat)
  deriving DecidableEq, Repr

/-- A receiver at a running disparity that has heard nothing. -/
def Ear.quiet (rd : Bool) : Ear := ⟨rd, false, none, [], 0, none⟩

/-- The character at place `i`: K28.5 with D21.5 is IDLE, with other data it opens a frame, which K28.7 ends (R73). -/
def Ear.hear (e : Ear) (i : Nat) (w : BitVec 10) : Ear :=
  let n := { e with rd := rdAfter e.rd w, start := false }
  match decodeChar e.rd w with
  | .comma => { n with start := true, opened := none }
  | .last => { n with opened := none, frame := e.frame.or e.opened }
  | .bad => { n with errs := i :: e.errs, opened := e.opened.map fun f => (0 :: f.1, f.2 + 1) }
  | .data b =>
    if e.start then
      if b = 0xB5 then { n with idles := e.idles + 1 } else { n with opened := some ([b], 0) }
    else { n with opened := e.opened.map fun f => (b :: f.1, f.2) }

/-- A row of characters from place `i` on. -/
def Ear.hearAll (e : Ear) (i : Nat) : List (BitVec 10) → Ear
  | [] => e
  | w :: l => (e.hear i w).hearAll (i + 1) l

/-- The frame of the bytes between K28.5 and K28.7 (Table LNK-1). -/
def frameOfBytes (bs : List Byte) (errs : Nat) : Frame :=
  { typ := bs.getD 0 0
    route := bs.getD 1 0
    seq := bs.getD 2 0
    len := bs.getD 3 0
    payload := (bs.take (bs.length - 4)).drop 4
    crc := BitVec.ofNat 32 (bytesNat (bs.drop (bs.length - 4)))
    codeErrs := errs }

/-- The frame that a receiver has heard. -/
def Ear.heard (e : Ear) : Option Frame := e.frame.map fun f => frameOfBytes f.1.reverse f.2

/-- Characters as a receiver with its polarity inverted takes them (LNK.CTRL.rx_inv). -/
def polarity (inv : Bool) (l : List (BitVec 10)) : List (BitVec 10) := if inv then l.map fun w => ~~~w else l

/-- A receiver trains (R98): aligned on the comma that comes first, at least 256 characters behind it without a code error, 4
IDLE sets among them. Answers its running disparity. -/
def trainedOn : List (BitVec 10) → Option Bool
  | [] => none
  | w :: l =>
    let e := (Ear.quiet (rdAfter (w == k285 true) w)).hearAll 0 l
    if (w == k285 true || w == k285 false) && decide (256 ≤ l.length) && e.errs.isEmpty && decide (4 ≤ e.idles) then some e.rd
    else none

/-! ### What a transmitter sends (R73, R77) -/

/-- The characters of bytes from a running disparity on. -/
def dataChars (rd : Bool) : List Byte → List (BitVec 10)
  | [] => []
  | b :: l => dataChar rd b :: dataChars (rdAfter rd (dataChar rd b)) l

/-- The bytes of a frame between K28.5 and K28.7. -/
def frameBytes (fr : Frame) : List Byte := [fr.typ, fr.route, fr.seq, fr.len] ++ fr.payload ++ natBytes fr.crc.toNat 4

/-- The characters of a frame from a running disparity on. -/
def frameChars (rd : Bool) (fr : Frame) : List (BitVec 10) :=
  let body := dataChars (rdAfter rd (k285 rd)) (frameBytes fr)
  k285 rd :: body ++ [k287 (body.foldl rdAfter (rdAfter rd (k285 rd)))]

end Sys2Proof.Machine
end

