-- ==== Sys2Proof/Machine/LinkEvt.lean ====
section
/-!
DEFINITION. Events of the links (R72, R73, R79 to R84, R88 to R98, R269, R270) and of the extrapolator's timers (R81, R273):
frames received, forwarded and answered, training and loss, SYNC exchanges and the slewer. -/
namespace Sys2Proof.Machine

/-! ### Receiving a frame (R79, R80, R99) -/

/-- The link receivers and the core run: power good, no power fail, not gated. -/
def Chip.linkOn (c : Chip) : Bool := c.pwr.pgood && c.pwr.pf == 0 && !c.frozen

/-- A frame discarded and counted in LNK.DROP. -/
def Chip.linkDrop (c : Chip) (p : Nat) : Chip :=
  (c.setLnkEvt p 3).modPort p fun x => { x with drop := satAdd x.drop 1 }

/-- The len of a frame type (Table LNK-2); false for an unknown type. -/
def lenOk (typ len : Byte) : Bool :=
  match typ.toNat with
  | 1 => len == 8
  | 2 => len == 4
  | 3 => decide (5 ≤ len.toNat ∧ len.toNat ≤ 65)
  | 4 => len == 4
  | 5 => len == 12
  | 6 => len == 0
  | 7 => len == 0
  | _ => false

/-- The CRC that the frame should carry (R78). -/
def frameCrc (fr : Frame) : Word := crc32 ([fr.typ, fr.route, fr.seq, fr.len] ++ fr.payload)

/-- The length, type and reserved route bits are good. -/
def frameForm (fr : Frame) : Bool :=
  lenOk fr.typ fr.len && fr.payload.length == 4 * fr.len.toNat && fr.route &&& 0xB8 == 0

/-- The seq of a valid frame compared with the one before (R80). -/
def Port.seqSeen (x : Port) (seq : Byte) : Port :=
  match x.rxSeq with
  | none => { x with rxSeq := some seq }
  | some s => { x with rxSeq := some seq, seqgap := satAdd x.seqgap (seq - (s + 1)).toNat }

/-! ### The kinds of frames -/

/-- The model a POS payload carries (R269): P0, v, Ts. -/
def frameModel (fr : Frame) : BitVec 64 × BitVec 64 × BitVec 64 :=
  (BitVec.ofNat 64 (bytesNat (fr.payload.take 8)), BitVec.ofNat 64 (bytesNat ((fr.payload.drop 8).take 8)),
    ltStamp (BitVec.ofNat 128 (bytesNat (fr.payload.drop 16))))

/-- The model may be applied (R270). -/
def Pos.accepts (p : Pos) (v ts : BitVec 64) : Bool :=
  decide (v.toInt.natAbs < 2 ^ 56) && (p.st == .none || decide (0 < signedGap ts p.ts))

/-- A model applied or refused (R269, R270, R274). -/
def Chip.applyModel (c : Chip) (fr : Frame) : Chip :=
  let (p0, v, ts) := frameModel fr
  if c.pos.accepts v ts then
    c.discont { c with pos := { c.pos with st := .tracking, p0 := p0, v := v, ts := ts } }
  else
    { c.setCamEvt 4 with pos := { (c.setCamEvt 4).pos with vrej := satAdd c.pos.vrej 1 } }

/-- A POS frame built for a peer port that forwards it (R88), in place of one that has not left (DESIGN CHOICE, log entry
105). -/
def Chip.buildPos (c : Chip) (fr : Frame) (p : Nat) : Chip :=
  if c.lnkfwd.getLsbD (p - 1) && (vget c.ports p).st == 2 then
    c.modPort p fun x => { x with posBuf := some { fr with route := (fr.route &&& 7) + 1 } }
  else c

/-- A valid POS frame: discarded on a peer port, applied and forwarded on the line port (R81, R88, Table LNK-8). -/
def Chip.rxPos (c : Chip) (p : Nat) (fr : Frame) : Chip :=
  if p ≠ 0 then c.linkDrop p
  else
    let hop : BitVec 3 := fr.route.setWidth 3
    let c := c.modPort 0 fun x => { x with lastHop := hop }
    let c := { c with lt := { c.lt with hops := hop.setWidth 4 + 1 } }.applyModel fr
    if hop = 7 then c else (c.buildPos fr 1).buildPos fr 2

/-- A port can take one more forwarded CMD frame: UP, with room among its four (R83). -/
def Chip.canForward (c : Chip) (p : Nat) : Bool :=
  (vget c.ports p).st == 2 && decide ((vget c.ports p).fwdBuf.length < 4)

/-- A CMD frame put into the forwarding buffer of a transmitter, one hop less to go. -/
def Chip.bufferCmd (c : Chip) (fr : Frame) (p : Nat) : Chip :=
  c.modPort p fun x => { x with fwdBuf := x.fwdBuf ++ [{ fr with route := (fr.route &&& 0xF8) ||| ((fr.route &&& 7) - 1) }] }

/-- The transmitters a CMD frame received on a port goes out on. -/
def Chip.cmdTargets (c : Chip) (p : Nat) : List Nat :=
  if p = 0 then [1, 2].filter fun t => c.lnkfwd.getLsbD (t + 1) else [0]

/-- A CMD frame with distance 0 enters Q2, Q3 or Q4 whole, or is dropped with a record (R82, R96). -/
def Chip.cmdArrives (c : Chip) (p : Nat) (fr : Frame) : Chip :=
  let q := p + 2
  let c :=
    if c.freeSlots q = 0 then (c.linkDrop p).record 0x1303 7 q (ctxAt 32 p)
    else c.enqueue q (BitVec.ofNat 128 (bytesNat fr.payload))
  c.flowControl p

/-- A valid CMD frame (R82, R83): one to forward is dropped when no enabled port can take it or a buffer is full. -/
def Chip.rxCmd (c : Chip) (p : Nat) (fr : Frame) : Chip :=
  if fr.route &&& 7 = 0 then c.cmdArrives p fr
  else
    let targets := c.cmdTargets p
    let good := targets.filter c.canForward
    let full := targets.any fun t => decide (4 ≤ (vget c.ports t).fwdBuf.length)
    let c := good.foldl (fun c t => c.bufferCmd fr t) c
    if good.isEmpty || full then c.linkDrop p else c

/-- A valid DATA frame lands in the receive area or is discarded (R84), also where its data is no whole number of
16-byte words (DESIGN CHOICE, log entry 105). -/
def Chip.rxData (c : Chip) (p : Nat) (fr : Frame) : Chip :=
  let dest := bytesNat (fr.payload.take 2)
  let data := fr.payload.drop 4
  if data.length % 16 ≠ 0 ∨ dest % 16 ≠ 0 ∨ 0x3000 < dest + data.length then c.linkDrop p
  else
    let c := c.putWords (0x60000000 + p * 0x4000 + dest) (wordsOf data)
    let c := (c.setLnkEvt p 5).modPort p fun x => { x with rxlast := natW 0 dest ||| natW 14 (data.length / 16) }
    c.fireSource 5 p

/-- A valid SYNC_REQ: discarded on the line port, to be answered on a peer port (R91). -/
def Chip.rxSyncReq (c : Chip) (p : Nat) (fr : Frame) (t2 : BitVec 64) : Chip :=
  if p = 0 then c.linkDrop 0 else c.modPort p fun x => { x with rsp := x.rsp ++ [(fr.payload, t2)] }

/-- theta and delay of an exchange (R92), in 64-bit signed arithmetic. -/
def syncMeasure (t1 t2 t3 t4 asym : BitVec 64) : BitVec 64 × BitVec 64 :=
  let up := t2 - t1
  let down := t4 - t3
  ((up - down - asym).sdiv 2, (up + down - asym).sdiv 2)

/-- LNK.OFFSET: theta saturated at plus or minus 2^31 - 1. -/
def offsetWord (theta : BitVec 64) : Word := BitVec.ofInt 32 (max (-2147483647) (min 2147483647 theta.toInt))

/-- A measured exchange corrects line time by theta: a slew up to 1,600 ticks, a step above (R93). -/
def Chip.correct (c : Chip) (theta : BitVec 64) : Chip :=
  let l := { c.lt with interval := 157, slewCnt := 0, aligned := true, source := 1, holdover := false }
  if theta.toInt.natAbs ≤ 1600 then { c with lt := { l with slew := theta.setWidth 32 } }
  else
    let c := c.withLt { l.plus theta.toInt with slew := 0 }
    (c.setLnkEvt 0 4).record 0x1302 6 0 (ctxAt 32 theta.toNat)

/-- A SYNC_RSP that answers the request: measured, then applied while align_en is 1. Of a delay that does not fit LNK.DELAY the
spec states no value: the register takes its low 32 bits (DESIGN CHOICE, log entry 117). -/
def Chip.measure (c : Chip) (t1 t2 t3 t4 : BitVec 64) : Chip :=
  let asym : BitVec 64 := ((vget c.ports 0).asym.setWidth 16).signExtend 64
  let (theta, delay) := syncMeasure t1 t2 t3 t4 asym
  let c := { c.modPort 0 fun x => { x with offset := offsetWord theta, delay := delay.setWidth 32 } with syncT1 := none }
  if c.lt.alignEn then c.correct theta else { c with lt := { c.lt with aligned := false } }

/-- A valid SYNC_RSP: discarded on a peer port; on the line port it ends the exchange whose t1 it echoes within 8 us. The
spec does not say what becomes of one that answers no open exchange: it changes nothing (DESIGN CHOICE, log entry 119). -/
def Chip.rxSyncRsp (c : Chip) (p : Nat) (fr : Frame) (t4 : BitVec 64) : Chip :=
  if p ≠ 0 then c.linkDrop p
  else
    let stampAt (n : Nat) : BitVec 64 := ltStamp (BitVec.ofNat 128 (bytesNat ((fr.payload.drop n).take 16)))
    match c.syncT1 with
    | none => c
    | some t1 =>
      if t1 = stampAt 0 ∧ signedGap t4 t1 ≤ 128000 then c.measure t1 (stampAt 16) (stampAt 32) t4 else c

/-- A frame valid under R79 takes effect by its type. -/
def Chip.frameIn (c : Chip) (p : Nat) (fr : Frame) (t : BitVec 64) : Chip :=
  let c := c.modPort p (·.seqSeen fr.seq)
  match fr.typ.toNat with
  | 1 => c.rxPos p fr
  | 2 => c.rxCmd p fr
  | 3 => c.rxData p fr
  | 4 => c.rxSyncReq p fr t
  | 5 => c.rxSyncRsp p fr t
  | 6 => c.modPort p fun x => { x with xoffRx := true }
  | _ => c.modPort p fun x => { x with xoffRx := false }

/-- Whether a code error at `t` is the sixteenth within 4,096 characters of one cc each, and the ones to remember (R98). -/
def Port.oneMore (x : Port) (t : BitVec 64) : Bool × List (BitVec 64) :=
  let l := x.errT ++ [t]
  let last := l.drop (l.length - 16)
  (decide (16 ≤ l.length) && decide (signedGap t (last.headD t) ≤ 4095 * 64), last.drop (last.length - 15))

/-- A code error at `t`: counted; the sixteenth within 4,096 characters takes the port out of UP. -/
def Chip.codeError (c : Chip) (p : Nat) (t : BitVec 64) : Chip :=
  let x := vget c.ports p
  let c := c.modPort p fun x => { x with codeerr := satAdd x.codeerr 1 }
  if x.st != 2 then c
  else
    let c := c.modPort p fun y => { y with errT := (x.oneMore t).2 }
    if (x.oneMore t).1 then c.retrain p 1 else c

/-- Code errors in their order. -/
def Chip.codeErrors (c : Chip) (p : Nat) (ts : List (BitVec 64)) : Chip := ts.foldl (fun (c : Chip) t => c.codeError p t) c

/-- Characters reach the receiver of a port, the last at `t`, each a cc behind the one before: the frame they spell, and the chip
with the running disparity and the code errors (R72). -/
def Chip.hearLine (c : Chip) (p : Nat) (l : List (BitVec 10)) (t : BitVec 64) : Option Frame × Chip :=
  let x := vget c.ports p
  let e := (Ear.quiet x.rd).hearAll 0 (polarity (x.ctrl.getLsbD 1) l)
  let ts := e.errs.reverse.map fun i => t - BitVec.ofNat 64 (64 * (l.length - 1 - i))
  (e.heard, (c.modPort p fun x => { x with rd := e.rd }).codeErrors p ts)

/-- A frame whose code errors are counted is judged, stamped at t: the causes of R79 in order, then its effect. -/
def Chip.judgeFrame (c : Chip) (p : Nat) (fr : Frame) (t : BitVec 64) : Chip :=
  if fr.codeErrs ≠ 0 then c.linkDrop p
  else if frameCrc fr ≠ fr.crc then
    (c.setLnkEvt p 2).modPort p fun x => { x with crcerr := satAdd x.crcerr 1 }
  else if !frameForm fr then c.linkDrop p
  else c.frameIn p fr t

/-- A frame arrives on a port whose receiver listens, as its fields or as its characters: its code errors first, which may take
the port out of UP, then the frame. -/
def Chip.receive (c : Chip) (p : Nat) (fr : Frame) (t : BitVec 64) : Chip :=
  if fr.line.isEmpty then (c.codeErrors p (List.replicate fr.codeErrs t)).judgeFrame p fr t
  else
    let (heard, c) := c.hearLine p fr.line t
    match heard with
    | some f => if (vget c.ports p).st == 2 || f.codeErrs != 0 then c.judgeFrame p f t else c
    | none => c

/-- The row of a received frame: nothing while the links stand still or the port is not UP; counted in LNK.DROP while the
core is not ready (R99). -/
def rxRow (p : BitVec 2) (fr : Frame) (t : Option (BitVec 64)) (s : State) : Host.Outcome State Fault Refusal :=
  onChip s fun _ c =>
    if !c.linkOn || p == 3 || (vget c.ports p.toNat).st != 2 then c
    else if !c.coreOn then c.linkDrop p.toNat
    else match t with
      | none => c.receive p.toNat fr c.now
      | some t => (c.advance t).receive p.toNat fr t

/-- POS_FRAME_RX. -/
def execPosFrameRx (p : BitVec 2) (fr : Frame) (s : State) : Host.Outcome State Fault Refusal := rxRow p fr none s
/-- CMD_FRAME_RX. -/
def execCmdFrameRx (p : BitVec 2) (fr : Frame) (s : State) : Host.Outcome State Fault Refusal := rxRow p fr none s
/-- DATA_FRAME_RX. -/
def execDataFrameRx (p : BitVec 2) (fr : Frame) (s : State) : Host.Outcome State Fault Refusal := rxRow p fr none s
/-- SYNC_REQ_RX, stamped at t. -/
def execSyncReqRx (p : BitVec 2) (fr : Frame) (t : BitVec 64) (s : State) : Host.Outcome State Fault Refusal :=
  rxRow p fr (some t) s
/-- SYNC_RSP_RX, stamped at t. -/
def execSyncRspRx (p : BitVec 2) (fr : Frame) (t : BitVec 64) (s : State) : Host.Outcome State Fault Refusal :=
  rxRow p fr (some t) s
/-- XOFF_RX. -/
def execXoffRx (p : BitVec 2) (fr : Frame) (s : State) : Host.Outcome State Fault Refusal := rxRow p fr none s
/-- XON_RX. -/
def execXonRx (p : BitVec 2) (fr : Frame) (s : State) : Host.Outcome State Fault Refusal := rxRow p fr none s

/-! ### Sending (R83, R88, R89, R91) -/

/-- A row of a port's transmitter or of its link state: nothing unless the core runs. -/
def portRow (p : BitVec 2) (s : State) (g : Chip → Chip) : Host.Outcome State Fault Refusal :=
  onChip s fun _ c => if c.coreOn && p != 3 then g c else c

/-- The forwarded POS frame leaves a peer port, on time at cc64 or late. -/
def Chip.forwardPos (c : Chip) (p : Nat) (late : Bool) : Chip :=
  match (vget c.ports p).st == 2, (vget c.ports p).posBuf with
  | true, some fr =>
    let c := c.modPort p fun x => { x with posBuf := none }
    if late then
      let c := c.sendFrame p 1 (fr.route ||| 0x40) fr.payload
      (c.setLnkEvt p 7).modPort p fun x => { x with latefwd := satAdd x.latefwd 1 }
    else c.sendFrame p 1 fr.route fr.payload
  | _, _ => c

/-- POS_FORWARD. -/
def execPosForward (p : BitVec 2) (late : Bool) (s : State) : Host.Outcome State Fault Refusal :=
  portRow p s fun c => c.forwardPos p.toNat late

/-- The oldest forwarded CMD frame leaves, unless XOFF pauses the port (R97) or a POS frame or an answer goes first (R87). -/
def Chip.forwardCmd (c : Chip) (p : Nat) : Chip :=
  let x := vget c.ports p
  match x.st == 2 && !x.xoffRx && x.posBuf.isNone && x.rsp.isEmpty, x.fwdBuf with
  | true, fr :: r => (c.modPort p fun x => { x with fwdBuf := r }).sendFrame p 2 fr.route fr.payload
  | _, _ => c

/-- CMD_FORWARD. -/
def execCmdForward (p : BitVec 2) (s : State) : Host.Outcome State Fault Refusal :=
  portRow p s fun c => c.forwardCmd p.toNat

/-- The oldest SYNC_REQ is answered; the response leaves at t3, after a forwarded POS frame (R87). -/
def Chip.answerSync (c : Chip) (p : Nat) (t3 : BitVec 64) : Chip :=
  match (vget c.ports p).st == 2 && (vget c.ports p).posBuf.isNone, (vget c.ports p).rsp with
  | true, (t1, t2) :: r =>
    let c := (c.modPort p fun x => { x with rsp := r }).advance t3
    c.sendFrame p 5 0 (t1 ++ c.ltBytes t2 ++ c.ltBytes t3)
  | _, _ => c

/-- SYNC_RSP_TX, leaving at t. -/
def execSyncRspTx (p : BitVec 2) (t : BitVec 64) (s : State) : Host.Outcome State Fault Refusal :=
  portRow p s fun c => c.answerSync p.toNat t

/-! ### Link states (R96, R98) -/

/-- XOFF or XON sent whatever was sent before: a port states its queue's fill on entering UP. -/
def Chip.restateFlow (c : Chip) (p : Nat) : Chip :=
  let n := (vget c.eng.queues (p + 2)).occupied
  let off := decide (12 ≤ n) || ((vget c.ports p).xoffTx && decide (4 < n))
  (c.modPort p fun x => { x with xoffTx := off }).sendFrame p (if off then 6 else 7) 0 []

/-- A port enters UP from TRAINING, its receiver trained by the characters. -/
def Chip.linkUp (c : Chip) (p : Nat) (chars : List (BitVec 10)) : Chip :=
  let x := vget c.ports p
  match x.st == 1, trainedOn (polarity (x.ctrl.getLsbD 1) chars) with
  | true, some rd =>
    let c := (c.modPort p fun x => { x with st := 2, rxSeq := none, rd := rd, errT := [] }).setLnkEvt p 0
    let c := c.restateFlow p
    if p = 0 && c.syncDue then { c.startSync c.now with syncDue := false } else c
  | _, _ => c

/-- LINK_UP. -/
def execLinkUp (p : BitVec 2) (s : State) (chars : List (BitVec 10) := idleChars 257) : Host.Outcome State Fault Refusal :=
  portRow p s fun c => c.linkUp p.toNat chars

/-- LINK_CODE_ERRORS: characters that reach a port outside frames, some of them in code error; 16 of those within 4,096
characters, with those of the frames, take the port out of UP. -/
def execLinkCodeErrors (p : BitVec 2) (s : State) (chars : List (BitVec 10) := List.replicate 16 0)
    (t : Option (BitVec 64) := none) : Host.Outcome State Fault Refusal :=
  onChip s fun _ c =>
    if !c.linkOn || p == 3 || (vget c.ports p.toNat).st == 0 then c else (c.hearLine p.toNat chars (t.getD c.now)).2

/-! ### Exchanges and line time (R91, R93, R94) -/

/-- A row that needs the core to run. -/
def coreRow (s : State) (g : Chip → Chip) : Host.Outcome State Fault Refusal :=
  onChip s fun _ c => if c.coreOn then g c else c

/-- SYNC_PERIOD at t: a period of 0 stops the exchanges. -/
def execSyncPeriod (t : BitVec 64) (s : State) : Host.Outcome State Fault Refusal :=
  coreRow s fun c =>
    if (vget c.ports 0).st == 2 && c.syncper &&& 0xFFFF != 0 then (c.advance t).startSync t else c

/-- SYNC_TIMEOUT: 8 us without the response. -/
def execSyncTimeout (s : State) : Host.Outcome State Fault Refusal :=
  coreRow s fun c => if c.syncT1.isSome then { c.setLnkEvt 0 6 with syncT1 := none } else c

/-- ALIGNED_TIMEOUT: four periods without an applied exchange. -/
def execAlignedTimeout (s : State) : Host.Outcome State Fault Refusal :=
  coreRow s fun c => if c.syncper &&& 0xFFFF != 0 then { c with lt := { c.lt with aligned := false } } else c

/-- One cc in which the slewer adds 65 or 63 ticks. -/
def Chip.slewStep (c : Chip) : Chip :=
  if c.lt.slew = 0 then c
  else
    let up := decide (0 < c.lt.slew.toInt)
    let n : Nat := if up then 65 else 63
    let c := c.advance (c.now + BitVec.ofNat 64 n)
    { c with lt := { c.lt with slew := if up then c.lt.slew - 1 else c.lt.slew + 1, slewCnt := 0, len := n } }

/-- SLEW_STEP. -/
def execSlewStep (s : State) : Host.Outcome State Fault Refusal := coreRow s Chip.slewStep

/-- The line time of the next full second. -/
def LineTime.nextSecond (l : LineTime) : BitVec 64 := BitVec.ofNat 64 ((l.sec.toNat + 1) * 16000000000)

/-- LT_SECOND_ROLLOVER: the seconds of line time advance, special source S45 is high (Table FRD-3). -/
def execLtSecondRollover (s : State) : Host.Outcome State Fault Refusal :=
  coreRow s fun c =>
    let c := c.advance c.lt.nextSecond
    { c with pulses := c.pulses ||| BitVec.ofNat 64 (2 ^ 45) }

/-! ### The timers of the extrapolator (R81, R273) -/

/-- POS_LOST: 8 us since the last applied frame; TRACKING becomes COASTING. -/
def execPosLost (s : State) : Host.Outcome State Fault Refusal :=
  coreRow s fun c =>
    match c.pos.st with
    | .tracking => { c.setLnkEvt 0 8 with pos := { c.pos with st := .coasting } }
    | .stopped => c.setLnkEvt 0 8
    | _ => c

/-- COAST_LIMIT: COASTING ends in STOPPED, with every armed cam disarmed when stop_disarm is 1. -/
def execCoastLimit (s : State) : Host.Outcome State Fault Refusal :=
  coreRow s fun c =>
    if c.pos.st == .coasting then
      let mask := if c.pos.cfg.getLsbD 8 then c.armMask else 0
      let c := c.freezePos.setCamEvt 1
      let c := if c.pos.cfg.getLsbD 8 then c.autoDisarm else c
      c.record 0x1602 0 0 (ctxAt 32 mask.toNat)
    else c

end Sys2Proof.Machine
end

