-- ==== Sys2Proof/Machine/CamEvt.lean ====
section
/-!
DEFINITION. Events of the cams (R277 to R284): crossings and firings, delayed firings, the hysteresis latch, the boundary,
and what a firing hands to the EPUs (R255, R260, R261).
-/
namespace Sys2Proof.Machine

/-! ### Crossings of a window (R278, R279, R281) -/

/-- Crossings in order of motion: by their distance from the start of the window. -/
def insertCrossing (key : Crossing → Nat) (x : Crossing) : List Crossing → List Crossing
  | [] => [x]
  | y :: r => if key x ≤ key y then x :: y :: r else y :: insertCrossing key x r

/-- The crossing of one breakpoint by a window of cam positions, when its qual allows the direction. -/
def Bp.crossing (b : Bp) (i : Nat) (prev now : BitVec 64) : Option Crossing :=
  match (if b.qual.getLsbD 0 then crossFwd prev now b.angle else none) with
  | some x => some ⟨x, i, true⟩
  | none => (if b.qual.getLsbD 1 then crossRev prev now b.angle else none).map fun x => ⟨x, i, false⟩

/-- The crossings of a cam in the window from its last tested look-ahead position to `q`, without those at the latched
position, in order of motion. -/
def Cam.crossings (k : Cam) (q : BitVec 64) : List Crossing :=
  let prev := k.prevQ - k.offset
  let now := q - k.offset
  let all := (k.table.mapIdx fun i b => b.crossing i prev now).filterMap id
  let key (x : Crossing) : Nat := (signedGap x.x prev).natAbs
  (all.filter fun x => k.latch != some x.x).foldr (insertCrossing key) []

/-- H of a cam in position units (R279). -/
def Cam.hyst (k : Cam) : Nat := field k.cfg 0 16 * 256

/-- The latch empties once the cam position lies H or more from the latched X (R279). -/
def Cam.release (k : Cam) (q : BitVec 64) : Cam :=
  match k.latch with
  | some x => if k.hyst ≤ (signedGap (q - k.offset) x).natAbs then { k with latch := none } else k
  | none => k

/-- The cam has fired in the cc at line time `t`. -/
def Cam.firedNow (k : Cam) (t : BitVec 64) : Bool :=
  match k.firedAt with
  | some f => decide (0 ≤ signedGap t f ∧ signedGap t f < 63)
  | none => false

/-! ### What a firing hands to the EPUs (R255, R260, R282) -/

/-- The head request of a pin, when it waits for the cam, gets its edges. -/
def Pin.handHead (p : Pin) (cam : Nat) (e next : BitVec 64) : Pin :=
  match p.q with
  | r :: rest =>
    if r.mode == 1 && r.edge.isNone && r.cam.toNat == cam then
      let (t, late) := dueTime next p.delay (e + r.t)
      { p with q := { r with edge := some ⟨t, r.lead, late, r.trail⟩ } :: rest }
    else p
  | [] => p

/-- The edge a binding computes for an event time (R260). -/
def Pin.bindEdge (p : Pin) (e next : BitVec 64) : PinEdge :=
  let (t, late) := dueTime next p.delay (e + p.boff.signExtend 64)
  let w := BitVec.ofNat 64 (widthTicks (field p.bind 8 2) (field p.bind 10 20))
  match field p.bind 6 2 with
  | 0 => ⟨t, 1, late, none⟩
  | 1 => ⟨t, 0, late, none⟩
  | 2 => ⟨t, 1, late, some (w, 0)⟩
  | _ => ⟨t, 0, late, some (w, 1)⟩

/-- Edges that a computed edge stands for. -/
def PinEdge.count (x : PinEdge) : Nat := if x.trail.isSome then 2 else 1

/-- The binding of a pin acts on a firing: the gate, then its edges, of which at most two pend (R260, R261). -/
def Chip.bindFire (c : Chip) (n cam : Nat) (e : BitVec 64) : Chip :=
  let p := vget c.pins n
  if !(p.bind.getLsbD 5 && field p.bind 0 5 == cam) || c.forced n then c
  else if p.cfg.getLsbD 2 && !c.macroOut (field p.cfg 3 11) then { c with edg := { c.edg with skip := satAdd c.edg.skip 1 } }
  else
    let x := p.bindEdge e c.next
    if 2 < (p.bedges.map PinEdge.count).sum + x.count then
      let c := c.setEdgEvt 2
      ({ c with edg := { c.edg with miss := satAdd c.edg.miss 1 } }).record 0x1501 4 n (ctxAt 32 cam)
    else c.modPin n fun p => { p with bedges := p.bedges ++ [x] }

/-- E handed to every EPU that the cam drives. -/
def Chip.handEvent (c : Chip) (cam : Nat) (e : BitVec 64) : Chip :=
  (List.range 192).foldl (fun (c : Chip) n =>
    if (vget c.pins n).cfg.extractLsb' 0 2 != 1 then c
    else (c.modPin n fun p => p.handHead cam e c.next).bindFire n cam e) c

/-! ### Firing (R280 to R282) -/

/-- CAM.LASTn (Table CAM-6). -/
def lastWord (e : BitVec 64) (x : Crossing) (delayed : Bool) (mark : BitVec 16) (xa : BitVec 64) : QWord :=
  xa.extractLsb' 32 32 ++ mark ++ (0 : BitVec 1) ++ BitVec.ofBool delayed ++ (if x.fwd then (1 : BitVec 2) else 2)
    ++ BitVec.ofNat 12 x.index ++ e

/-- A cam fires for a crossing in the cc at line time now. -/
def Chip.fireCam (c : Chip) (n : Nat) (x : Crossing) (delayed : Bool) : Chip :=
  let k := vget c.cams n
  let e := c.pos.eventTime x.x k.offset x.fwd c.now
  let mark := (k.table[x.index]?.map (·.mark)).getD 0
  let c := if delayed then c.setCamEvt 2 else c
  let c := c.modCam n fun k =>
    { k with
      latch := some x.x
      last := lastWord e x delayed mark (x.x + k.offset)
      fire := satAdd k.fire 1
      coll := if delayed then satAdd k.coll 1 else k.coll
      firedAt := some c.now }
  let c := { c with pulses := c.pulses ||| BitVec.ofNat 64 (2 ^ n) }
  (c.fireSource 1 n).handEvent n e

/-- Further crossings of a window wait, at most 8; the others are dropped with their record (R281). -/
def Chip.holdCrossings (c : Chip) (n : Nat) (xs : List Crossing) : Chip :=
  xs.foldl (fun (c : Chip) x =>
    let k := vget c.cams n
    if k.waiting.length < 8 then c.modCam n fun k => { k with waiting := k.waiting ++ [x] }
    else
      let c := (c.setCamEvt 3).modCam n fun k => { k with drop := satAdd k.drop 1 }
      c.record 0x1601 2 n (ctxAt 32 ((k.table[x.index]?.map (·.angle.toNat)).getD 0))) c

/-- The entries a cam reads: a correctable one is corrected and logged, an uncorrectable one disarms the cam and spoils
its table (R277), its generation once in the cc (R283). -/
def Chip.readTable (c : Chip) (n : Nat) : Chip :=
  let k := vget c.cams n
  match (k.table.mapIdx fun i b => (i, b.ecc)).filter fun e => e.2 != 0 with
  | [] => c
  | bad =>
    match bad.find? fun e => e.2 == 2 with
    | some e =>
      let c := c.camOnce ((c.setCamEvt 5).modCam n fun k => { k.disarm with tabOk := false })
      c.record 0x2201 2 n (ctxAt 32 e.1)
    | none =>
      let c := c.modCam n fun k => { k with table := k.table.map fun (b : Bp) => { b with ecc := 0 } }
      bad.foldl (fun (c : Chip) e =>
        let cnt := min (field c.pos.ecclog 18 14 + 1) 16383
        { c with pos := { c.pos with ecclog := natW 0 n ||| natW 5 e.1 ||| natW 18 cnt } }) c

/-- The window of a cam in the cc at line time now: the latch, then its crossings; the first fires, the others wait. Nothing
happens when none crosses. -/
def Chip.camWindow (c : Chip) (n : Nat) : Option Chip :=
  let q := c.look.getD 0
  let k := (vget c.cams n).release q
  match k.crossings q with
  | [] => none
  | x :: r =>
    let c := c.modCam n fun _ => { k with prevQ := q }
    some ((c.fireCam n x false).holdCrossings n r)

/-- An armed cam's row at line time `t`: its table is read first; `f` is what it then does. The chip stays as it is when
nothing is due. -/
def Chip.camRow (c : Chip) (n : Nat) (t : BitVec 64) (f : Chip → Option Chip) : Chip :=
  let k := vget c.cams n
  if !c.coreOn || !k.armed || k.firedNow t then c
  else
    let c' := (c.advance t).readTable n
    if !(vget c'.cams n).armed then c' else (f c').getD c

/-- CAM_FIRE of cam n in the cc at line time lt. -/
def execCamFire (n : BitVec 5) (lt : BitVec 64) (s : State) : Host.Outcome State Fault Refusal :=
  onChip s fun _ c => if !c.moving then c else c.camRow n.toNat lt fun c => c.camWindow n.toNat

/-- The oldest waiting crossing of a cam whose own window crosses nothing in this cc; one at the latched position does not
fire (R279). -/
def Chip.camDelayed (c : Chip) (n : Nat) : Option Chip :=
  let k := vget c.cams n
  if c.moving && (c.camWindow n).isSome then none
  else match k.waiting.dropWhile fun x => k.latch == some x.x with
    | [] => none
    | x :: r => some ((c.modCam n fun k => { k with waiting := r }).fireCam n x true)

/-- CAM_DELAYED_FIRING of cam n in the cc at line time lt. -/
def execCamDelayedFiring (n : BitVec 5) (lt : BitVec 64) (s : State) : Host.Outcome State Fault Refusal :=
  onChip s fun _ c => c.camRow n.toNat lt fun c => c.camDelayed n.toNat

/-- HYSTERESIS_LATCH_EMPTY of cam n at line time lt. -/
def execHysteresisLatchEmpty (n : BitVec 5) (lt : BitVec 64) (s : State) : Host.Outcome State Fault Refusal :=
  onChip s fun _ c =>
    let c' := c.advance lt
    match c'.look with
    | some q =>
      if c.coreOn && ((vget c.cams n.toNat).release q).latch.isNone && (vget c.cams n.toNat).latch.isSome then
        c'.modCam n.toNat (·.release q)
      else c
    | none => c

/-! ### The boundary (R284) -/

/-- A pending offset becomes applied; the window of this cc is the first it applies to. -/
def Cam.applyPend (c : Chip) (k : Cam) : Cam :=
  if k.pend = 0 then k
  else { k with off := k.off + k.pend, pend := 0, gen := k.gen + 1, prevQ := c.windowStart k.prevQ }

/-- The boundary cc at line time now, when the look-ahead position crosses angle 0 forward: S44, then every pending
offset. -/
def Chip.boundary (c : Chip) : Option Chip :=
  let q := c.look.getD 0
  if !c.moving || (crossFwd c.pos.bndQ q 0).isNone then none
  else
    some <| c.camOnce { c with
      pos := { c.pos with bndQ := q }
      cams := vmapi (fun _ k => Cam.applyPend c k) c.cams
      pulses := c.pulses ||| BitVec.ofNat 64 (2 ^ 44) }

/-- CAM_BOUNDARY in the cc at line time lt. -/
def execCamBoundary (lt : BitVec 64) (s : State) : Host.Outcome State Fault Refusal :=
  onChip s fun _ c => if c.coreOn then ((c.advance lt).boundary).getD c else c

end Sys2Proof.Machine
end

