-- ==== Sys2Proof/Machine/Capture.lean ====
section
/-!
DEFINITION. Events of the pins: edges placed by an EPU (R250, R255 to R258), the background calibration (R251 to R253), and
captures from the pad to Capture RAM (R262 to R267).
-/
namespace Sys2Proof.Machine

/-! ### Edge placement -/

/-- The earliest of a list of edges as seen from line time `l`, with its index; the first of two at one tick. -/
def earliest (l : BitVec 64) (xs : List PinEdge) : Option (Nat × PinEdge) :=
  (xs.mapIdx fun i x => (i, x)).foldl (fun (b : Option (Nat × PinEdge)) x =>
    match b with
    | none => some x
    | some y => if signedGap x.2.t l < signedGap y.2.t l then some x else some y) none

/-- The head request's next edge. -/
def Pin.headEdge (p : Pin) : Option PinEdge :=
  match p.q with
  | r :: _ => r.edge
  | [] => none

/-- The edge a pin places next: its place in the binding's list, or none for the queue's head; at one tick the binding goes
first (R260). -/
def Pin.nextEdge (p : Pin) (l : BitVec 64) : Option (Option Nat × PinEdge) :=
  match earliest l p.bedges, p.headEdge with
  | some (i, b), some h => if signedGap h.t l < signedGap b.t l then some (none, h) else some (some i, b)
  | some (i, b), none => some (some i, b)
  | none, some h => some (none, h)
  | none, none => none

/-- The first tick, counted from `l`, that lies 1 ns after the last transition. -/
def Pin.spaced (p : Pin) (l : BitVec 64) : Int :=
  match p.lastT with
  | some t => if signedGap t l ≤ 64 then signedGap (t + 16) l else 0
  | none => 0

/-- The trailing edge that a placed leading edge leaves. -/
def PinEdge.trailing (e : PinEdge) (placed : BitVec 64) : Option PinEdge :=
  e.trail.map fun w => ⟨placed + w.1, w.2, false, none⟩

/-- The requests of a pin after its head's edge has fallen at `ball`. -/
def Pin.headPlaced (p : Pin) (e : PinEdge) (ball : BitVec 64) : List EdgeReq :=
  match p.q with
  | [] => []
  | r :: rest =>
    match e.trailing (ball + p.delay) with
    | some x => { r with edge := some x } :: rest
    | none =>
      match rest with
      | [] => []
      | n :: more => n.follow ball p.delay :: more

/-- A pin after an edge of it has fallen at `ball`. -/
def Pin.placed (p : Pin) (i : Option Nat) (e : PinEdge) (ball : BitVec 64) : Pin :=
  let p' := { p with lvl := e.lvl, lastT := some ball }
  match i with
  | some i =>
    let rest := p.bedges.eraseIdx i
    { p' with bedges := match e.trailing (ball + p.delay) with | some x => rest ++ [x] | none => rest }
  | none => { p' with q := p.headPlaced e ball }

/-- The steps of this cc that hold an edge: 63 where the slewer adds 63 (R257). -/
def Chip.steps (c : Chip) : Nat := min 64 c.lt.tick.len

/-- An edge of a cc before falls at step 0 of this one without being late: the last tick of a cc of 65 (R257). -/
def Chip.spill (c : Chip) : Int := if c.lt.len = 65 then -1 else 0

/-- The next transition of a released pin, when it falls in the cc at line time now: late when it could not fall at its time
(R256). -/
def Chip.placeEdge (c : Chip) (n : Nat) : Option Chip :=
  let p := vget c.pins n
  match p.nextEdge c.now with
  | none => none
  | some (i, e) =>
    let due := signedGap (e.t - p.delay) c.now
    let a := max (max due (p.spaced c.now)) 0
    if c.steps ≤ a then none
    else
      let late := e.late || decide (due < c.spill) || decide (0 < a ∧ due < a)
      let c' := c.modPin n fun p => p.placed i e (c.now + BitVec.ofInt 64 a)
      some (if late then { c'.setEdgEvt 0 with edg := { (c'.setEdgEvt 0).edg with late := satAdd c.edg.late 1 } } else c')

/-- EDGE_PLACE on pin p in the cc at line time lt, which may be one of a glitch-free switch in flight (coincidence 9 of
the chapter). -/
def execEdgePlace (p : BitVec 8) (lt : BitVec 64) (s : State) : Host.Outcome State Fault Refusal :=
  inFlight s fun _ c =>
    let n := p.toNat
    let c := if c.clk.switching then c else c.endSwitch
    if !c.coreOn || !c.epuPin n || c.forced n then c else ((c.reach lt).placeEdge n).getD c

/-! ### Calibration -/

/-- The pin that the background pass measures next: the first unarmed one from `calNext` on, bank by bank, then from B0
again (R252). -/
def Chip.calPin (c : Chip) : Option Nat :=
  ((List.range 192).map fun i => (c.edg.calNext + i) % 192).find? fun n => (vget c.pins n).idle

/-- A pin measured by the background pass; with the last unarmed pin of a bank the bank's pass ends. -/
def Chip.calMeasure (c : Chip) (n : Nat) : Chip :=
  let c := c.modPin n fun x => { x with measured := true }
  let c := { c with edg := { c.edg with calNext := (n + 1) % 192 } }
  let more := ((List.range 16).filter fun i => n % 16 < i).any fun i => (vget c.pins (n / 16 * 16 + i)).idle
  (if more then c else c.passEnd (n / 16)).calUpdate

/-- CAL_PIN_MEASURE: the background pass measures the pin whose turn it is. -/
def execCalPinMeasure (p : BitVec 8) (s : State) : Host.Outcome State Fault Refusal :=
  onChip s fun _ c => if c.coreOn && c.edg.calctrl.getLsbD 0 && c.calPin == some p.toNat then c.calMeasure p.toNat else c

/-- CAL_STEP_UPDATE: the replica line of a bank is locked. -/
def execCalStepUpdate (b : BitVec 4) (s : State) : Host.Outcome State Fault Refusal :=
  onChip s fun _ c =>
    if !c.coreOn || 11 < b.toNat || !c.edg.calctrl.getLsbD 0 then c
    else (c.modBank b.toNat fun k => { k with lock := true }).calUpdate

/-! ### Captures -/

/-- A capture record (Table EDG-6). -/
def captureRec (t : BitVec 64) (pin : Nat) (rising : Bool) (l : LineTime) (gap : Bool) (seq : BitVec 16) (angle : Word) :
    QWord :=
  angle ++ seq ++ (0 : BitVec 4) ++ BitVec.ofBool gap ++ BitVec.ofBool l.aligned ++ BitVec.ofBool l.holdover
    ++ BitVec.ofBool rising ++ BitVec.ofNat 8 pin ++ t

/-- A stamped capture enters its bank's FIFO, or is dropped from a full one (R263). -/
def Chip.captureIn (c : Chip) (n : Nat) (rising : Bool) (t : BitVec 64) : Chip :=
  let b := n / 16
  let k := vget c.banks b
  if 16 ≤ k.fifo.length then
    (c.setCapEvt 0).modBank b fun k => { k with gap := true, ovf := satAdd k.ovf 1 }
  else
    let w := captureRec t n rising c.lt k.gap (k.seq + 1) (c.captureAngle t)
    let c := c.modBank b fun k => { k with fifo := k.fifo ++ [w], seq := k.seq + 1, gap := false }
    let c := c.modPin n fun p => { p with cap := some (t, rising) }
    { c with pulses := c.pulses ||| BitVec.ofNat 64 (2 ^ (32 + b)) }.fireSource 2 b

/-- The TCU of a pin sees a selected edge at ball time `t`: ignored for 8 cc after a stamp (R262), else stamped. -/
def Chip.stampEdge (c : Chip) (n : Nat) (rising : Bool) (t : BitVec 64) : Chip :=
  let p := vget c.pins n
  let blind := match p.blind with
    | some b => decide (0 ≤ signedGap t b ∧ signedGap t b < 512)
    | none => false
  if blind then (c.setCapEvt 2).modBank (n / 16) fun k => { k with rate := satAdd k.rate 1 }
  else (c.modPin n fun p => { p with blind := some t }).captureIn n rising (t - p.delay)

/-- The pad of a pin that the part does not drive takes the level of an edge from outside. -/
def Chip.padEdge (c : Chip) (n : Nat) (rising : Bool) : Chip :=
  if c.pinDrive n == 2 then c.modPin n fun p => { p with padIn := some rising } else c

/-- The TCU of a pin selects edges of this direction. -/
def Pin.selects (p : Pin) (rising : Bool) : Bool := p.tcu.getLsbD (if rising then 0 else 1)

/-- The forced switch in flight has gated CCLK until after `t`: an edge at `t` falls in the gap (R61, R267). -/
def Chip.inGap (c : Chip) (t : BitVec 64) : Bool :=
  match c.clk.switch with
  | some s => s.forced && decide (signedGap t c.now < (c.clk.holdCnt.toNat + s.left) * 640)
  | none => false

/-- CAPTURE_EDGE: the pad of pin p crosses the threshold at t. In a clock hold, and while a forced switch has CCLK gated, the
bank counts it (R267); a bank without supply captures nothing (R431). -/
def execCaptureEdge (p : BitVec 8) (rising : Bool) (t : BitVec 64) (s : State) : Host.Outcome State Fault Refusal :=
  inFlight s fun _ c =>
    let n := p.toNat
    let c := if c.clk.switching || c.inGap t then c else c.endSwitch
    if !c.pwr.pgood || 191 < n || c.absent n then c
    else
      let x := vget c.pins n
      let c := c.padEdge n rising
      if !x.selects rising || c.pwr.pf != 0 then c
      else if c.frozen then c.modBank (n / 16) fun k =>
        { k with holdCtr := if k.holdCtr = 255 then 255 else k.holdCtr + 1 }
      else if c.coreOn then (c.reach t).stampEdge n rising t
      else c

/-- The bank the write port serves next: the first with a record, from `turn` on (R264). -/
def Chip.nextBank (c : Chip) : Option Nat :=
  ((List.range 12).map fun i => (c.edg.turn + i) % 12).find? fun b => !(vget c.banks b).fifo.isEmpty

/-- CAPTURE_RAM_WRITE: one record to the ring, unless the ring is full (R264, R266). -/
def execCaptureRamWrite (s : State) : Host.Outcome State Fault Refusal :=
  onChip s fun _ c =>
    match c.coreOn, c.nextBank with
    | true, some b =>
      if c.edg.wptr - c.edg.rptr == 16384 then c.setCapEvt 1
      else match (vget c.banks b).fifo with
        | w :: r =>
          let c := (c.putWord (0x20000000 + 16 * field c.edg.wptr 0 14) w).modBank b fun k => { k with fifo := r }
          { c with edg := { c.edg with wptr := c.edg.wptr + 1, turn := (b + 1) % 12 } }
        | [] => c
    | _, _ => c

end Sys2Proof.Machine
end

