-- ==== Sys2Proof/Machine/DmaEvt.lean ====
section
/-!
DEFINITION. Events of the DMA engine (R394, R399 to R409): read bursts, write bursts, write acknowledges, retries.
-/
namespace Sys2Proof.Machine

/-- A row of one channel: nothing unless the core runs. -/
def dmaRow (ch : BitVec 4) (s : State) (g : Die → Chip → Chip) : Host.Outcome State Fault Refusal :=
  onChip s fun die c => if c.coreOn && decide (ch.toNat < 12) then g die c else c

/-- DMA_READ_BURST: the next burst of the channel whose turn it is when credits and records allow. -/
def execDmaReadBurst (ch : BitVec 4) (s : State) : Host.Outcome State Fault Refusal :=
  dmaRow ch s fun die c => if turnOf c.rdTurn c.dmaReady = some ch.toNat then c.dmaRead die ch.toNat else c
/-- DMA_WRITE_BURST: the next burst of words read by the channel whose turn it is. -/
def execDmaWriteBurst (ch : BitVec 4) (s : State) : Host.Outcome State Fault Refusal :=
  dmaRow ch s fun die c => if turnOf c.wrTurn c.dmaHolds = some ch.toNat then c.dmaWrite die ch.toNat else c
/-- DMA_WRITE_ACK: the acknowledge of every word handed over. -/
def execDmaWriteAck (ch : BitVec 4) (s : State) : Host.Outcome State Fault Refusal :=
  dmaRow ch s fun _ c => c.dmaAck ch.toNat

/-- The transaction of a failed access tried again (R407): counted with its event. When it goes through, the words that were left
of it move, a read's with the credits that its burst holds; when it fails, the channel goes on waiting, or halts with BUS_ERR
after its last retry. -/
def Chip.dmaRetried (c : Chip) (die : Die) (ch : Nat) (ok : Bool) : Chip :=
  let d := vget c.dma ch
  match d.fail with
  | none => c
  | some (st, a) =>
    if !d.active then c
    else
      let c := (c.setDmaEvt ch 4).modDma ch fun x =>
        { x with
          retries := satAdd x.retries 1
          tries := x.tries + 1
          fail := none }
      if !ok then c.dmaFail die ch st a.toNat d.failW
      else Chip.dmaTried die ch d.failW
        (if d.failW then c.dmaPut die ch d.writeLen else c.dmaGet die ch (d.credits - d.buf.length))

/-- DMA_RETRY. -/
def execDmaRetry (ch : BitVec 4) (ok : Bool) (s : State) : Host.Outcome State Fault Refusal :=
  dmaRow ch s fun die c => c.dmaRetried die ch.toNat ok

end Sys2Proof.Machine
end

