-- ==== Sys2Proof/Machine/Scrub.lean ====
section
/-!
DEFINITION. Events of the scrubber (R335 to R340, R426): the comparison of one frond, the start and the swap of a repair, and
the end of the double-upset window.
-/
namespace Sys2Proof.Machine

/-! ### The pass (R335) -/

/-- The frond the pass reads next: the first readable one from `cur` on. -/
def Chip.scrubNext (c : Chip) : Option Nat :=
  ((List.range 32).map fun i => (c.scr.cur.toNat + i) % 32).find? c.scrubReads

/-- SCRUB_FROND_CHECK: the end of a frond in the continuous pass, which counts when it comes round to F00. -/
def execScrubFrondCheck (s : State) : Host.Outcome State Fault Refusal :=
  onChip s fun _ c =>
    match c.coreOn && !c.scr.paused, c.scrubNext with
    | true, some n =>
      let wraps := decide (n < c.scr.cur.toNat) || n == 31
      let c := (c.scrubFrond n).2
      { c with scr := { c.scr with
          cur := BitVec.ofNat 5 (n + 1)
          passes := if wraps then c.scr.passes + 1 else c.scr.passes } }
    | _, _ => c

/-! ### Repairs (R339, R340) -/

/-- How a repair's reading ends: the image, or the step that failed with its status where the spec names one. -/
inductive Restage where
  | image (bs : List Byte) (corr : Nat)
  | fails (step : Nat) (st : Option Byte) (corr : Nat)

/-- The segment that the golden source of a frond names (step 3): no admission is judged anew. -/
def Chip.goldenSegment (c : Chip) (die : Die) (n : Nat) : Restage :=
  let f := vget c.fronds n
  let region : Option Nat :=
    match f.gsrc.toNat, c.prs.actSlot with
    | 0, some slot => some (if slot then 1 else 0)
    | 1, _ => if c.prs.varOk then some 2 else none
    | _, _ => none
  match region with
  | none => .fails 3 none 0
  | some r =>
    let read : Rd (Option (List Byte)) := do
      let (h, segs) ← c.prs.readStream r
      let mine := (segs.mapIdx fun i s => (i, s)).find? fun e =>
        e.2.kind == 1 && e.2.target == n && (r != 2 || e.2.variant == f.gvar.toNat)
      match mine with
      | some (i, s) => return some (← c.prs.segment die r h segs i s)
      | none => return none
    match (read.run.run 0 : Except Byte (Option (List Byte)) × Nat) with
    | (.ok (some bs), k) => .image bs k
    | (.ok none, k) => .fails 3 none k
    | (.error st, k) => .fails 3 (some st) k

/-- A repair that fails: mismatch again, the shadow incomplete, counted and recorded. A status the spec does not name
is a free value. -/
def Chip.repairFails (c : Chip) (n step : Nat) (st : Option Byte) : Chip :=
  let (v, c) := match st with
    | some st => (st, c)
    | none => (c.free.1.setWidth 8, c.free.2)
  let c := c.modFrond n fun f =>
    { f with check := 2, waitBnd := false, shadowBusy := false, shadowOk := false, shadowSig := 0 }
  let c := c.setScrEvt 2
  let c := { c with scr :=
    { c.scr with
      rfails := satAdd c.scr.rfails 1
      running := none
      want := c.scr.want &&& ~~~(bitW n true) } }
  c.record 0x2A02 1 n (ctxAt 32 step ||| ctxAt 33 v.toNat)

/-- The image written to the shadow plane and compared (step 4); the repair then waits for its boundary (step 5). -/
def Chip.restage (c : Chip) (n : Nat) (bs : List Byte) : Chip :=
  let c := { c with mem := memPutBytes 0 c.mem (c.shadowBase n) bs }
  if crc64 bs = (vget c.fronds n).golden then
    c.modFrond n fun f =>
      { f with
        waitBnd := true
        shadowBusy := false
        shadowOk := true
        shadowSig := f.golden
        ssrc := f.gsrc
        svar := f.gvar }
  else c.repairFails n 4 none

/-- Steps 3 and 4 of the repair that runs, once it has begun. -/
def Chip.repairRead (c : Chip) (die : Die) : Chip :=
  match c.scr.running with
  | none => c
  | some n =>
    if !(vget c.fronds n.toNat).shadowBusy then c
    else match c.goldenSegment die n.toNat with
      | .image bs k => (c.flashCorrected k).restage n.toNat bs
      | .fails step st k => (c.flashCorrected k).repairFails n.toNat step st

/-- Steps 1 and 2 of a repair: the check field reads repairing, shadow_busy is 1, a stage set that holds the frond ends. The
bit of SCR.REPAIR stays until the repair has ended (R8). -/
def Chip.repairBegin (c : Chip) (n : BitVec 5) : Chip :=
  let c := ((c.touchStage n.toNat).dropStaged).modFrond n.toNat fun f =>
    { f with
      check := 3
      shadowBusy := true
      shadowOk := false
      shadowSig := 0 }
  { c with scr := { c.scr with running := some n, auto := c.scr.auto &&& ~~~(bitW n.toNat true) } }

/-- REPAIR_BEGIN of frond n: asked for, in mismatch, and no other repair, stage or verify running. Its reading ends in an
idle step or at REPAIR_SWAP (log entry 101). -/
def execRepairBegin (n : BitVec 5) (s : State) : Host.Outcome State Fault Refusal :=
  onChip s fun _ c =>
    if !c.coreOn || !(c.scr.want ||| c.scr.auto).getLsbD n.toNat || (vget c.fronds n.toNat).check != 2
      || c.scr.running.isSome || c.staging then c
    else c.repairBegin n

/-- The planes of a repaired frond swap: the same golden signature, the damaged plane as an incomplete shadow (step 6). -/
def Chip.repairPlanes (c : Chip) (n : Nat) : Chip :=
  let c := c.modFrond n fun f =>
    { f with
      plane := !f.plane
      planeOk := true
      shadowOk := false
      shadowSig := 0
      check := 1
      waitBnd := false
      window := true
      gen := f.gen + 1 }
  if (vget c.fronds n).pol.getLsbD 1 then c.seatInit [n] else c

/-- Steps 6 and 7 of a repair: the swap, after which the IRP takes no request where its master frond has swapped (R330), the
check field, the return to RUN by the policy at the mismatch, the counts. -/
def Chip.repairSwap (c : Chip) (n : Nat) : Chip :=
  let f := vget c.fronds n
  let c := (c.dropStaged.repairPlanes n).hushIrp (bitW n true)
  let c := if f.mpol.getLsbD 1 && f.wasRun then c.setFronds (bitW n true) .run else c
  let c := c.setScrEvt 1
  { c with scr :=
    { c.scr with
      repairs := satAdd c.scr.repairs 1
      running := none
      want := c.scr.want &&& ~~~(bitW n true) } }

/-- REPAIR_SWAP of frond n: its reading has ended; it swaps in a boundary cc, or at once when positions do not move. -/
def execRepairSwap (n : BitVec 5) (s : State) : Host.Outcome State Fault Refusal :=
  onChip s fun die c =>
    if c.coreOn && c.scr.running == some n then
      let c := c.repairRead die
      if (vget c.fronds n.toNat).waitBnd && (!c.moving || c.pulses.getLsbD 44) then c.repairSwap n.toNat else c
    else c

/-! ### The double upset (R426) -/

/-- DOUBLE_UPSET_WINDOW_END of frond n: no mismatch followed its repair swap in time. -/
def execDoubleUpsetWindowEnd (n : BitVec 5) (s : State) : Host.Outcome State Fault Refusal :=
  onChip s fun _ c =>
    if c.coreOn && (vget c.fronds n.toNat).window then
      let c := c.modFrond n.toNat fun f => { f with window := false }
      { c with flt := { c.flt with dbl := c.flt.dbl &&& ~~~(bitW n.toNat true) } }
    else c

end Sys2Proof.Machine
end

