-- ==== Sys2Proof/Machine/Irp.lean ====
section
/-!
DEFINITION. The internal reconfiguration port (R328 to R332): requests of the master frond's logic. A row carries the request
lines, which must be what the master frond drives.
-/
namespace Sys2Proof.Machine

/-- The fields of the word an IRP request puts in Q6: cmpl set, tag 0x60 + tagn (R330). -/
def irpInsn (lines : BitVec 16) (ext : Byte) (tgt : BitVec 32) (op : BitVec 64) : Insn :=
  { tx := false
    fence := false
    cmpl := true
    chain := false
    rsv := 0
    tag := 0x60 + (lines.extractLsb' 12 4).setWidth 8
    ext := ext
    tgt := tgt
    op := op }

/-- Index g of the request lines. -/
def irpGroup (lines : BitVec 16) : Nat := field lines 7 4

/-- The op field of the request lines. -/
def irpOp (lines : BitVec 16) : Nat := field lines 1 3

/-- The word of Table CHG-2; none for STATUS and the reserved codes. -/
def Chip.irpWord (c : Chip) (lines : BitVec 16) : Option QWord :=
  let mask := vget c.scr.irpGrp (irpGroup lines)
  match irpOp lines with
  | 1 => some (encodeWord 0x94 (irpInsn lines 0 (natW 0 (field lines 4 3)) (mask.setWidth 64)))
  | 2 =>
    if lines.getLsbD 11 then some (encodeWord 0x25 (irpInsn lines 1 mask 0))
    else some (encodeWord 0x24 (irpInsn lines 0 0 (mask.setWidth 64)))
  | 3 => some (encodeWord 0x22 (irpInsn lines 0 0 (mask.setWidth 64)))
  | 5 => some (encodeWord 0x05 (irpInsn lines 0 (vget c.scr.irpRt (irpGroup lines)) 0))
  | _ => none

/-- The STATUS summary of a group and a variant (R332). -/
def Chip.irpSummary (c : Chip) (lines : BitVec 16) : Byte :=
  let m := vget c.scr.irpGrp (irpGroup lines)
  let b (n : Nat) (v : Bool) : Byte := if v then BitVec.ofNat 8 (2 ^ n) else 0
  b 0 (c.allFronds m fun f => f.st == .run) ||| b 1 (c.anyFrond m fun f => f.st == .safe)
    ||| b 2 (c.allFronds m (·.shadowOk))
    ||| b 3 (match c.scr.stg with | some (v, f, _) => v.toNat == field lines 4 3 && m &&& ~~~f == 0 | none => false)
    ||| b 4 (c.anyFrond m fun f => f.check.getLsbD 1) ||| b 5 (c.anyFrond m fun f => f.claim.isSome)
    ||| b 6 (m.getLsbD c.scr.irpMast.toNat)

/-- A request is refused: op reserved, an empty group where the op uses a frond mask, or Q6 full. -/
def Chip.irpRefuses (c : Chip) (lines : BitVec 16) : Bool :=
  let o := irpOp lines
  o == 0 || o == 6 || o == 7 || (o != 5 && vget c.scr.irpGrp (irpGroup lines) == 0) || c.freeSlots 6 == 0

/-- A request taken or refused (R330). -/
def Chip.irpTake (c : Chip) (lines : BitVec 16) : Chip :=
  if c.irpRefuses lines then
    let c := c.setScrEvt 4
    { c with scr := { c.scr with reject := true, irpRej := satAdd c.scr.irpRej 1 } }
  else
    let c := { c with scr := { c.scr with ack := true } }
    match c.irpWord lines with
    | some w => c.enqueue 6 w
    | none => c.irpDone (c.irpSummary lines)

/-- A request stands on the lines: the strobe has risen since the lines were last sampled, and the cc is not one in which the
master frond has just changed (R330). -/
def Chip.irpRises (c : Chip) (lines : BitVec 16) : Bool :=
  c.scr.irpEn && lines.getLsbD 0 && !c.scr.lines.getLsbD 0 && !c.scr.hush

/-- A request taken or refused, with the lines noted as sampled. -/
def Chip.irpRequest (c : Chip) (lines : BitVec 16) : Chip :=
  { c.irpTake lines with scr := { (c.irpTake lines).scr with lines := lines } }

/-- A row of the IRP: the core runs and the lines, driven by the master frond (R329), carry a request. -/
def irpRow (lines : BitVec 16) (s : State) : Host.Outcome State Fault Refusal :=
  onChip s fun _ c => if c.coreOn && c.irpRises lines && lines == c.masterLines then c.irpRequest lines else c

/-- IRP_STAGE. -/
def execIrpStage (lines : BitVec 16) (s : State) : Host.Outcome State Fault Refusal := irpRow lines s
/-- IRP_SWAP. -/
def execIrpSwap (lines : BitVec 16) (s : State) : Host.Outcome State Fault Refusal := irpRow lines s
/-- IRP_SAFE. -/
def execIrpSafe (lines : BitVec 16) (s : State) : Host.Outcome State Fault Refusal := irpRow lines s
/-- IRP_STATUS. -/
def execIrpStatus (lines : BitVec 16) (s : State) : Host.Outcome State Fault Refusal := irpRow lines s
/-- IRP_CALL. -/
def execIrpCall (lines : BitVec 16) (s : State) : Host.Outcome State Fault Refusal := irpRow lines s

end Sys2Proof.Machine
end

