-- ==== Sys2Proof/Machine/Resource.lean ====
section
/-!
DEFINITION. The ends of waits (R154, R162 to R164, R175, R188, R286, R490), the timer event source (R161) and the recovery
handler (R424). Times run in the environment's rows: a row of a wait's end, its limit or the stall count acts when the state
allows it (log entry 17).
-/
namespace Sys2Proof.Machine

/-! ### Bodies by opcode (Table ISA-1) -/

/-- The queues, fields and body of an opcode; none when it is not assigned. -/
def bodyOf (code : BitVec 8) : Option (OpInfo × Body) :=
  match code.toNat with
  | 0x00 => some (Op.nop, nopBody)
  | 0x01 => some (Op.fence, nopBody)
  | 0x02 => some (Op.waitPos, waitPosBody)
  | 0x03 => some (Op.waitTime, waitTimeBody)
  | 0x04 => some (Op.waitEvt, waitEvtBody)
  | 0x05 => some (Op.call, callBody)
  | 0x06 => some (Op.ret, retBody)
  | 0x07 => some (Op.haltQ, haltQBody)
  | 0x08 => some (Op.sigEvt, sigEvtBody)
  | 0x10 => some (Op.ld, ldBody)
  | 0x11 => some (Op.st, stBody)
  | 0x12 => some (Op.rmw, rmwBody)
  | 0x13 => some (Op.ldSnap, ldSnapBody)
  | 0x20 => some (Op.termWr, termWrBody)
  | 0x21 => some (Op.mcCfg, mcCfgBody)
  | 0x22 => some (Op.frondSafe, frondSafeBody)
  | 0x23 => some (Op.frondRun, frondRunBody)
  | 0x24 => some (Op.planeSwap, planeSwapBody)
  | 0x25 => some (Op.planeSwapAt, planeSwapAtBody)
  | 0x30 => some (Op.edgeSet, edgeSetBody)
  | 0x31 => some (Op.edgePulse, edgePulseBody)
  | 0x32 => some (Op.edgeCal, edgeCalBody)
  | 0x33 => some (Op.pinSafe, pinSafeBody)
  | 0x40 => some (Op.camLoad, camLoadBody)
  | 0x41 => some (Op.camArm, camArmBody)
  | 0x42 => some (Op.camDisarm, camDisarmBody)
  | 0x43 => some (Op.camNudge, camNudgeBody)
  | 0x50 => some (Op.capArm, capArmBody)
  | 0x51 => some (Op.capRead, capReadBody)
  | 0x60 => some (Op.nvWr, nvWrBody)
  | 0x61 => some (Op.nvRd, nvRdBody)
  | 0x62 => some (Op.nvStore, nvStoreBody)
  | 0x63 => some (Op.nvRecall, nvRecallBody)
  | 0x64 => some (Op.ctrInc, ctrIncBody)
  | 0x65 => some (Op.ctrRd, ctrRdBody)
  | 0x66 => some (Op.nvUnlock, nvUnlockBody)
  | 0x67 => some (Op.nvProt, nvProtBody)
  | 0x70 => some (Op.dmaGo, dmaGoBody)
  | 0x71 => some (Op.dmaStop, dmaStopBody)
  | 0x72 => some (Op.dmaStat, dmaStatBody)
  | 0x80 => some (Op.txnBegin, txnBeginBody)
  | 0x81 => some (Op.txnCommit, txnCommitBody)
  | 0x82 => some (Op.txnAbort, txnAbortBody)
  | 0x83 => some (Op.txnCommitAt, txnCommitAtBody)
  | 0x90 => some (Op.persStage, persStageBody)
  | 0x91 => some (Op.persVerify, persVerifyBody)
  | 0x92 => some (Op.persActivate, persActivateBody)
  | 0x93 => some (Op.persSlot, persSlotBody)
  | 0x94 => some (Op.variantStage, variantStageBody)
  | 0x95 => some (Op.persProg, persProgBody)
  | 0x96 => some (Op.persErase, persEraseBody)
  | 0xA0 => some (Op.lockSet, lockSetBody)
  | 0xA1 => some (Op.keyProg, keyProgBody)
  | 0xA2 => some (Op.pwSet, pwSetBody)
  | 0xA3 => some (Op.secStat, secStatBody)
  | 0xB0 => some (Op.clkSel, clkSelBody)
  | 0xB1 => some (Op.clkForce, clkForceBody)
  | 0xB2 => some (Op.linkCtl, linkCtlBody)
  | 0xB3 => some (Op.ltSet, ltSetBody)
  | 0xB4 => some (Op.ltAdj, ltAdjBody)
  | 0xC0 => some (Op.licMark, licMarkBody)
  | 0xC1 => some (Op.licRead, licReadBody)
  | 0xC2 => some (Op.snap, snapBody)
  | 0xC3 => some (Op.scrubCtl, scrubCtlBody)
  | 0xC4 => some (Op.coreReset, coreResetBody)
  | _ => none

/-- The waiting head of a queue goes on with what its body answers. In a routine, a TXN.COMMIT.AT that completes STALE at its
position leaves the routine running: R173 unwinds it for an abort from outside (DESIGN CHOICE, log entry 116). -/
def Chip.goOn (c : Chip) (q : Queue) (w : Wait) (d : Done) : Chip :=
  match d.describe c q w.code w.f.tag with
  | .done st res c' => Chip.finish q w.code w.f c.lt (.done st res (c'.endWait q))
  | .wait k t res c' => Chip.finish q w.code w.f c.lt (.wait k t res (c'.endWait q))
  | .hold c' => c'.endWait q

/-- A row of the waiting head of a queue while the core runs. -/
def waitRow (q : Queue) (s : State) (g : Die → Wait → Chip → Chip) : Host.Outcome State Fault Refusal :=
  onChip s fun die c =>
    match c.coreOn, (c.queue q).wait with
    | true, some w => g die w c
    | _, _ => c

/-! ### What a wait waits for (R34, R154, R162, R175) -/

/-- The window has reached the position of a wait (R286). -/
def Chip.positionMet (c : Chip) (w : Wait) : Bool :=
  let q := c.look.getD 0
  c.moving && (if w.f.ext.getLsbD 0 then (crossFwd w.res q (w.t.setWidth 32)).isSome else decide (0 ≤ signedGap q w.t))

/-- The swap of a PLANE.SWAP.AT, its units noted for a management change of the same cc (R133); a cam whose staged table
becomes active advances its generation once in the cc (R283). -/
def Chip.swapNoted (c : Chip) (q : Queue) (k : Fin 4) (w : Wait) : Done :=
  let (st, res, c') := c.swapAt k w.f.tgt St.ok
  .done st res (if failed st then c' else (c.camOnce c').noteUnits (c.changes (c.camOnce c') q w.f))

/-- What a WAIT.POS, a PLANE.SWAP.AT or a TXN.COMMIT.AT does at its position. -/
def Chip.atPosition (c : Chip) (die : Die) (q : Queue) (w : Wait) : Done :=
  match w.code.toNat, c.txnOf q with
  | 0x25, some k => c.swapNoted q k w
  | 0x83, some k => c.commit die q k w.f St.ok true
  | _, _ => .done St.ok c.posNow c

/-- What a head that has reached its position does with the lichen writer taken last: while its record finds no entry it keeps
all it holds and waits, marked by 2 in the wait's `t` (R35, R36, R175). -/
def Chip.positionEnds (c : Chip) (die : Die) (q : Queue) (w : Wait) : Done :=
  (c.atPosition die q w).takeWriter c q w.code 2 w.res

/-- A head that waits for the writer at its position goes on once its record finds an entry. -/
def Chip.positionAgain (c : Chip) (die : Die) (q : Queue) (w : Wait) : Option Chip :=
  match c.positionEnds die q w with
  | .wait .licWriter _ _ _ => none
  | d => some (c.goOn q w d)

/-- The end of a stage or verify; none while its record finds no entry (R36, R175). -/
def Chip.stagingMet (c : Chip) (die : Die) (q : Queue) (w : Wait) : Option Chip :=
  match (c.stagingEnds die w).takeWriter c q w.code 0 w.res with
  | .wait .licWriter _ _ _ => none
  | d => some (c.goOn q w d)

/-- The body of a waiting head tried again; none when it would go on waiting for the same thing. An opcode that is not
assigned, behind a fence, completes ILLEGAL. -/
def Chip.tryAgain (c : Chip) (die : Die) (q : Queue) (w : Wait) : Option Chip :=
  match bodyOf w.code with
  | none => none
  | some (_, body) =>
    match ((body q w.f die c).takeWriter c q w.code (c.writerMark q w.code w.f) 0).noting c q w.code w.f with
    | .wait k t res c' => if k == w.kind && res == w.res then none else some (c.goOn q w (.wait k t res c'))
    | d => some (c.goOn q w d)

/-- The instruction behind a fence issues once no earlier one executes. -/
def Chip.fenceEnds (c : Chip) (die : Die) (q : Queue) (w : Wait) : Chip :=
  match bodyOf w.code with
  | none => (c.endWait q).retire q w.f St.illegal 0
  | some (o, body) => ((c.endWait q).modQ q.val fun x => { x with fenceOk := true }).issue o q w.f die body

/-- The port of a link send that XOFF pauses is UP and released. -/
def Chip.sendFree (c : Chip) (w : Wait) : Bool :=
  let x := vget c.ports (field w.f.tgt 0 2)
  x.st == 2 && !x.xoffRx

/-- The chip once what a queue's head waits for has come, in this cc; none while it has not. Nothing issues in a
halted queue, so an instruction behind a fence stays there (R150). -/
def Chip.waitMet (c : Chip) (die : Die) (q : Queue) (w : Wait) : Option Chip :=
  match w.kind with
  | .time => if signedGap w.t c.next < 0 then some (c.retireWait q (if w.res = 1 then St.late else St.ok) c.now) else none
  | .event => if c.eng.flags &&& w.t = 0 then none else some ((c.consume w.t).2.retireWait q St.ok (c.consume w.t).1)
  | .position => if c.positionMet w then some (c.goOn q w (c.positionEnds die q w)) else none
  | .fence => if c.executing q || (c.queue q).halted then none else some (c.fenceEnds die q w)
  | .xoff => if c.sendFree w then c.tryAgain die q w else none
  | .licWriter => if w.t = 2 then c.positionAgain die q w else c.tryAgain die q w
  | .clkFree => if c.clk.switch.isNone then c.tryAgain die q w else none
  | .context | .storePort | .recallCall | .fuse | .credits | .boundary => c.tryAgain die q w
  | .staging => c.stagingMet die q w
  | _ => none

/-! ### Time, events, positions, resources -/

/-- WAIT_TIME_MET: line time has come to the time of a WAIT.TIME; late when a jump carried it past (R490). -/
def execWaitTimeMet (q : Queue) (s : State) : Host.Outcome State Fault Refusal :=
  waitRow q s fun die w c => if w.kind == .time then ((c.advance w.t).waitMet die q w).getD c else c

/-- WAIT_EVT_MET: a flag of a WAIT.EVT is set; the flags it names are consumed (R188). -/
def execWaitEvtMet (q : Queue) (s : State) : Host.Outcome State Fault Refusal :=
  waitRow q s fun die w c => if w.kind == .event then (c.waitMet die q w).getD c else c

/-- POSITION_REACHED in the cc at line time lt. -/
def execPositionReached (q : Queue) (lt : BitVec 64) (s : State) : Host.Outcome State Fault Refusal :=
  waitRow q s fun die w c => if w.kind == .position then ((c.advance lt).waitMet die q w).getD c else c

/-- A wait that RESOURCE_GRANTED ends: for a resource, a fence, the port of a link send, or the loader. -/
def WaitKind.granted : WaitKind → Bool
  | .fence | .xoff | .context | .storePort | .recallCall | .fuse | .credits | .licWriter | .boundary | .staging | .clkFree =>
    true
  | _ => false

/-- RESOURCE_GRANTED: what a queue's head waits for is free. -/
def execResourceGranted (q : Queue) (s : State) : Host.Outcome State Fault Refusal :=
  waitRow q s fun die w c => if w.kind.granted then (c.waitMet die q w).getD c else c

/-! ### Limits (R163, R164) -/

/-- WAIT_TIMEOUT: a wait reaches its limit; one whose condition is met in that cc is met. -/
def execWaitTimeout (q : Queue) (s : State) : Host.Outcome State Fault Refusal :=
  waitRow q s fun die w c => if w.kind.executing then c else (c.waitMet die q w).getD (c.killWait q St.timeout)

/-- A hardware event source is armed (Table IMD-6). -/
def Chip.srcArmed (c : Chip) (v : Word) : Bool :=
  let i := field v 0 8
  match field v 8 4 with
  | 1 => (vget c.cams i).armed
  | 2 => (List.range 16).any fun k => (vget c.pins (16 * i + k)).tcu != 0
  | 3 => (vget c.dma i).st == .running
  | 4 => (vget c.dma i).st == .running
  | 5 => (vget c.ports i).st == 2
  | 6 => true
  | _ => false

/-- Nothing can set a flag of a mask: none is set and no source of its hardware flags is armed. -/
def Chip.deadMask (c : Chip) (m : BitVec 64) : Bool :=
  c.eng.flags &&& m == 0 && (List.range 32).all fun k => !m.getLsbD (32 + k) || !c.srcArmed (vget c.eng.evtsrc k)

/-- A queue is empty, or its head is a WAIT.EVT that nothing can end. -/
def Chip.stalled (c : Chip) (q : Queue) : Bool :=
  match (c.queue q).wait with
  | some w => w.kind == .event && c.deadMask w.t
  | none => (c.queue q).occupied == 0

/-- The youngest WAIT.EVT waiter. -/
def Chip.youngest (c : Chip) : Option (Queue × Wait) :=
  (List.finRange 8).foldl (fun (b : Option (Queue × Wait)) q =>
    match (c.queue q).wait, b with
    | some w, some (_, v) => if v.since < w.since then some (q, w) else b
    | some w, none => some (q, w)
    | none, _ => b) none

/-- The stall conditions hold: Q7 empty, every other queue stalled. -/
def Chip.circle (c : Chip) : Bool := (c.queue 7).occupied == 0 && (List.finRange 8).all c.stalled

/-- The youngest waiter completes CIRCLE and its transaction aborts, with the count, the event and the record. -/
def Chip.breakCircle (c : Chip) (q : Queue) (w : Wait) : Chip :=
  let c := c.setEngEvt 0
  let c := { c with eng := { c.eng with circles := satAdd c.eng.circles 1 } }
  let c := c.record 0x1401 7 q.val (ctxAt 32 w.t.toNat) (insnInfo q w.code w.f.tag St.circle)
  let c := c.killWait q St.circle
  match c.txnOf q with
  | none => c
  | some k =>
    let c := c.abortCtx k
    if (c.queue q).calls.isEmpty then c else c.unwind q St.aborted

/-- STALL_CIRCLE: the stall count reaches 4,096. -/
def execStallCircle (s : State) : Host.Outcome State Fault Refusal :=
  onChip s fun _ c =>
    match c.coreOn && c.circle, c.youngest with
    | true, some (q, w) => c.breakCircle q w
    | _, _ => c

/-! ### The timer source and the handler -/

/-- EVTSRC_TIMER of ENG.EVTSRC(32 + k): a class 0x6 source sets its flag (Table IMD-6). -/
def execEvtsrcTimer (k : BitVec 5) (s : State) : Host.Outcome State Fault Refusal :=
  onChip s fun _ c =>
    if c.coreOn && field (vget c.eng.evtsrc k.toNat) 8 4 == 6 then c.setFlag (32 + k.toNat) else c

/-- HANDLER_REQUEST_ISSUE: waiting requests enter Q7 as slots of the right kind are free. -/
def execHandlerRequestIssue (s : State) : Host.Outcome State Fault Refusal :=
  onChip s fun _ c => if c.coreOn then c.condEdge c.handlerPass else c

end Sys2Proof.Machine
end

