-- ==== Sys2Proof/Machine/Dispatch.lean ====
section
/-!
DEFINITION. One arm per command, each one direct call of its meaning.
-/
namespace Sys2Proof.Machine

/-- The effect of a command on everything but the queue of commands. -/
def exec (i : Instr) (s : State) : Host.Outcome State Fault Refusal :=
  match i with
  | .nop q f => Sys2Proof.Machine.execNop q f s
  | .fence q f => Sys2Proof.Machine.execFence q f s
  | .waitPos q f => Sys2Proof.Machine.execWaitPos q f s
  | .waitTime q f => Sys2Proof.Machine.execWaitTime q f s
  | .waitEvt q f => Sys2Proof.Machine.execWaitEvt q f s
  | .call q f => Sys2Proof.Machine.execCall q f s
  | .ret q f => Sys2Proof.Machine.execRet q f s
  | .haltQ q f => Sys2Proof.Machine.execHaltQ q f s
  | .sigEvt q f => Sys2Proof.Machine.execSigEvt q f s
  | .ld q f => Sys2Proof.Machine.execLd q f s
  | .st q f => Sys2Proof.Machine.execSt q f s
  | .rmw q f => Sys2Proof.Machine.execRmw q f s
  | .ldSnap q f => Sys2Proof.Machine.execLdSnap q f s
  | .termWr q f => Sys2Proof.Machine.execTermWr q f s
  | .mcCfg q f => Sys2Proof.Machine.execMcCfg q f s
  | .frondSafe q f => Sys2Proof.Machine.execFrondSafe q f s
  | .frondRun q f => Sys2Proof.Machine.execFrondRun q f s
  | .planeSwap q f => Sys2Proof.Machine.execPlaneSwap q f s
  | .planeSwapAt q f => Sys2Proof.Machine.execPlaneSwapAt q f s
  | .edgeSet q f => Sys2Proof.Machine.execEdgeSet q f s
  | .edgePulse q f => Sys2Proof.Machine.execEdgePulse q f s
  | .edgeCal q f => Sys2Proof.Machine.execEdgeCal q f s
  | .pinSafe q f => Sys2Proof.Machine.execPinSafe q f s
  | .camLoad q f => Sys2Proof.Machine.execCamLoad q f s
  | .camArm q f => Sys2Proof.Machine.execCamArm q f s
  | .camDisarm q f => Sys2Proof.Machine.execCamDisarm q f s
  | .camNudge q f => Sys2Proof.Machine.execCamNudge q f s
  | .capArm q f => Sys2Proof.Machine.execCapArm q f s
  | .capRead q f => Sys2Proof.Machine.execCapRead q f s
  | .nvWr q f => Sys2Proof.Machine.execNvWr q f s
  | .nvRd q f => Sys2Proof.Machine.execNvRd q f s
  | .nvStore q f => Sys2Proof.Machine.execNvStore q f s
  | .nvRecall q f => Sys2Proof.Machine.execNvRecall q f s
  | .ctrInc q f => Sys2Proof.Machine.execCtrInc q f s
  | .ctrRd q f => Sys2Proof.Machine.execCtrRd q f s
  | .nvUnlock q f => Sys2Proof.Machine.execNvUnlock q f s
  | .nvProt q f => Sys2Proof.Machine.execNvProt q f s
  | .dmaGo q f => Sys2Proof.Machine.execDmaGo q f s
  | .dmaStop q f => Sys2Proof.Machine.execDmaStop q f s
  | .dmaStat q f => Sys2Proof.Machine.execDmaStat q f s
  | .txnBegin q f => Sys2Proof.Machine.execTxnBegin q f s
  | .txnCommit q f => Sys2Proof.Machine.execTxnCommit q f s
  | .txnAbort q f => Sys2Proof.Machine.execTxnAbort q f s
  | .txnCommitAt q f => Sys2Proof.Machine.execTxnCommitAt q f s
  | .persStage q f => Sys2Proof.Machine.execPersStage q f s
  | .persVerify q f => Sys2Proof.Machine.execPersVerify q f s
  | .persActivate q f => Sys2Proof.Machine.execPersActivate q f s
  | .persSlot q f => Sys2Proof.Machine.execPersSlot q f s
  | .variantStage q f => Sys2Proof.Machine.execVariantStage q f s
  | .persProg q f => Sys2Proof.Machine.execPersProg q f s
  | .persErase q f => Sys2Proof.Machine.execPersErase q f s
  | .lockSet q f => Sys2Proof.Machine.execLockSet q f s
  | .keyProg q f => Sys2Proof.Machine.execKeyProg q f s
  | .pwSet q f => Sys2Proof.Machine.execPwSet q f s
  | .secStat q f => Sys2Proof.Machine.execSecStat q f s
  | .clkSel q f => Sys2Proof.Machine.execClkSel q f s
  | .clkForce q f => Sys2Proof.Machine.execClkForce q f s
  | .linkCtlEnable q f => Sys2Proof.Machine.execLinkCtlEnable q f s
  | .linkCtlDisable q f => Sys2Proof.Machine.execLinkCtlDisable q f s
  | .linkCtlRetrain q f => Sys2Proof.Machine.execLinkCtlRetrain q f s
  | .linkCtlSendData q f => Sys2Proof.Machine.execLinkCtlSendData q f s
  | .linkCtlSendCmd q f => Sys2Proof.Machine.execLinkCtlSendCmd q f s
  | .linkCtlSyncNow q f => Sys2Proof.Machine.execLinkCtlSyncNow q f s
  | .ltSet q f => Sys2Proof.Machine.execLtSet q f s
  | .ltAdj q f => Sys2Proof.Machine.execLtAdj q f s
  | .licMark q f => Sys2Proof.Machine.execLicMark q f s
  | .licRead q f => Sys2Proof.Machine.execLicRead q f s
  | .snap q f => Sys2Proof.Machine.execSnap q f s
  | .scrubCtlPause q f => Sys2Proof.Machine.execScrubCtlPause q f s
  | .scrubCtlResume q f => Sys2Proof.Machine.execScrubCtlResume q f s
  | .scrubCtlPass q f => Sys2Proof.Machine.execScrubCtlPass q f s
  | .coreReset q f part cross => Sys2Proof.Machine.execCoreReset q f s part cross
  | .waitTimeMet q => Sys2Proof.Machine.execWaitTimeMet q s
  | .waitEvtMet q => Sys2Proof.Machine.execWaitEvtMet q s
  | .positionReached q lt => Sys2Proof.Machine.execPositionReached q lt s
  | .resourceGranted q => Sys2Proof.Machine.execResourceGranted q s
  | .waitTimeout q => Sys2Proof.Machine.execWaitTimeout q s
  | .stallCircle => Sys2Proof.Machine.execStallCircle s
  | .evtsrcTimer k => Sys2Proof.Machine.execEvtsrcTimer k s
  | .handlerRequestIssue => Sys2Proof.Machine.execHandlerRequestIssue s
  | .pushQ0 ws part => Sys2Proof.Machine.execPushQ0 ws part s
  | .pushQ1 ws part => Sys2Proof.Machine.execPushQ1 ws part s
  | .readStatus cmd => Sys2Proof.Machine.execReadStatus s cmd
  | .readRing addr bytes => Sys2Proof.Machine.execReadRing addr bytes s
  | .readStream addr bytes => Sys2Proof.Machine.execReadStream addr bytes s
  | .writeStream addr ws part => Sys2Proof.Machine.execWriteStream addr ws part s
  | .readId => Sys2Proof.Machine.execReadId s
  | .resetEnable => Sys2Proof.Machine.execResetEnable s
  | .reset => Sys2Proof.Machine.execReset s
  | .mgtWrite ptr groups cut => Sys2Proof.Machine.execMgtWrite ptr groups cut s
  | .mgtRead groups => Sys2Proof.Machine.execMgtRead groups s
  | .mgtStretchTimeout byteOfStore => Sys2Proof.Machine.execMgtStretchTimeout byteOfStore s
  | .mgtSclTimeout part => Sys2Proof.Machine.execMgtSclTimeout part s
  | .mgtIgo v => Sys2Proof.Machine.execMgtIgo v s
  | .mgtExpect v => Sys2Proof.Machine.execMgtExpect v s
  | .mgtLastRead => Sys2Proof.Machine.execMgtLastRead s
  | .licMgtSlotRead slot => Sys2Proof.Machine.execLicMgtSlotRead slot s
  | .ltSnapshot src => Sys2Proof.Machine.execLtSnapshot src s
  | .ltApply q => Sys2Proof.Machine.execLtApply q s
  | .clkPolicyWrite q v => Sys2Proof.Machine.execClkPolicyWrite q v s
  | .licAck q v => Sys2Proof.Machine.execLicAck q v s
  | .scrRepair q v => Sys2Proof.Machine.execScrRepair q v s
  | .capRptrWrite q v => Sys2Proof.Machine.execCapRptrWrite q v s
  | .dmaCtrlDrop q ch => Sys2Proof.Machine.execDmaCtrlDrop q ch s
  | .engEvtsrcWrite q n v => Sys2Proof.Machine.execEngEvtsrcWrite q n v s
  | .edgPincfgWrite q p v => Sys2Proof.Machine.execEdgPincfgWrite q p v s
  | .edgBindWrite q p off v => Sys2Proof.Machine.execEdgBindWrite q p off v s
  | .frdSafestWrite q b v => Sys2Proof.Machine.execFrdSafestWrite q b v s
  | .frdPolWrite q n v => Sys2Proof.Machine.execFrdPolWrite q n v s
  | .scrPolWrite q n v => Sys2Proof.Machine.execScrPolWrite q n v s
  | .lnkCtrlWrite q p v => Sys2Proof.Machine.execLnkCtrlWrite q p v s
  | .prtResetSpi q => Sys2Proof.Machine.execPrtResetSpi q s
  | .prtResetMgt q => Sys2Proof.Machine.execPrtResetMgt q s
  | .prtResetJtag q => Sys2Proof.Machine.execPrtResetJtag q s
  | .registerWrite q addr v => Sys2Proof.Machine.execRegisterWrite q addr v s
  | .extest scan => Sys2Proof.Machine.execExtest s scan
  | .samplePreload scan => Sys2Proof.Machine.execSamplePreload s scan
  | .idcode => Sys2Proof.Machine.execIdcode s
  | .highz => Sys2Proof.Machine.execHighz s
  | .clamp => Sys2Proof.Machine.execClamp s
  | .iscEnable => Sys2Proof.Machine.execIscEnable s
  | .iscDisable => Sys2Proof.Machine.execIscDisable s
  | .iscProgram => Sys2Proof.Machine.execIscProgram s
  | .iscErase => Sys2Proof.Machine.execIscErase s
  | .iscRead => Sys2Proof.Machine.execIscRead s
  | .iscAddressShift a => Sys2Proof.Machine.execIscAddressShift a s
  | .iscDataShift w => Sys2Proof.Machine.execIscDataShift w s
  | .iscNoop => Sys2Proof.Machine.execIscNoop s
  | .prvStatus => Sys2Proof.Machine.execPrvStatus s
  | .prvKeyhash => Sys2Proof.Machine.execPrvKeyhash s
  | .prvLicread dr update => Sys2Proof.Machine.execPrvLicread dr s update
  | .prvEdgeloop dr => Sys2Proof.Machine.execPrvEdgeloop dr s
  | .bypass ir => Sys2Proof.Machine.execBypass s ir
  | .tapReset => Sys2Proof.Machine.execTapReset s
  | .flashOpDone => Sys2Proof.Machine.execFlashOpDone s
  | .fuseOpDone => Sys2Proof.Machine.execFuseOpDone s
  | .powerGood => Sys2Proof.Machine.execPowerGood s
  | .xtalOk straps => Sys2Proof.Machine.execXtalOk straps s
  | .licRestore => Sys2Proof.Machine.execLicRestore s
  | .vcapOk => Sys2Proof.Machine.execVcapOk s
  | .vcapLow => Sys2Proof.Machine.execVcapLow s
  | .recall => Sys2Proof.Machine.execRecall s
  | .clockDecision => Sys2Proof.Machine.execClockDecision s
  | .bootTimeout => Sys2Proof.Machine.execBootTimeout s
  | .bootSlotAttempt => Sys2Proof.Machine.execBootSlotAttempt s
  | .powerFail vccaux => Sys2Proof.Machine.execPowerFail vccaux s
  | .autostore => Sys2Proof.Machine.execAutostore s
  | .auxWarn below => Sys2Proof.Machine.execAuxWarn s below
  | .vioChange b cls => Sys2Proof.Machine.execVioChange b cls s
  | .tempOver temp => Sys2Proof.Machine.execTempOver temp s
  | .warmReset part cross => Sys2Proof.Machine.execWarmReset s part cross
  | .warmResetEnd => Sys2Proof.Machine.execWarmResetEnd s
  | .safeNFall => Sys2Proof.Machine.execSafeNFall s
  | .safeNRise => Sys2Proof.Machine.execSafeNRise s
  | .qualWindowEnd count locked => Sys2Proof.Machine.execQualWindowEnd count locked s
  | .cdrLock => Sys2Proof.Machine.execCdrLock s
  | .cdrLoss p => Sys2Proof.Machine.execCdrLoss s p
  | .pllLock => Sys2Proof.Machine.execPllLock s
  | .pllHoldoverEnd => Sys2Proof.Machine.execPllHoldoverEnd s
  | .lineLoss => Sys2Proof.Machine.execLineLoss s
  | .xtalLoss => Sys2Proof.Machine.execXtalLoss s
  | .holdResume => Sys2Proof.Machine.execHoldResume s
  | .autoFallback => Sys2Proof.Machine.execAutoFallback s
  | .linkUp p chars => Sys2Proof.Machine.execLinkUp p s chars
  | .linkCodeErrors p chars t => Sys2Proof.Machine.execLinkCodeErrors p s chars t
  | .posFrameRx p fr => Sys2Proof.Machine.execPosFrameRx p fr s
  | .cmdFrameRx p fr => Sys2Proof.Machine.execCmdFrameRx p fr s
  | .dataFrameRx p fr => Sys2Proof.Machine.execDataFrameRx p fr s
  | .syncReqRx p fr t => Sys2Proof.Machine.execSyncReqRx p fr t s
  | .syncRspRx p fr t => Sys2Proof.Machine.execSyncRspRx p fr t s
  | .xoffRx p fr => Sys2Proof.Machine.execXoffRx p fr s
  | .xonRx p fr => Sys2Proof.Machine.execXonRx p fr s
  | .posForward p late => Sys2Proof.Machine.execPosForward p late s
  | .cmdForward p => Sys2Proof.Machine.execCmdForward p s
  | .syncRspTx p t => Sys2Proof.Machine.execSyncRspTx p t s
  | .syncPeriod t => Sys2Proof.Machine.execSyncPeriod t s
  | .syncTimeout => Sys2Proof.Machine.execSyncTimeout s
  | .alignedTimeout => Sys2Proof.Machine.execAlignedTimeout s
  | .posLost => Sys2Proof.Machine.execPosLost s
  | .coastLimit => Sys2Proof.Machine.execCoastLimit s
  | .slewStep => Sys2Proof.Machine.execSlewStep s
  | .ltSecondRollover => Sys2Proof.Machine.execLtSecondRollover s
  | .camFire n lt => Sys2Proof.Machine.execCamFire n lt s
  | .camDelayedFiring n lt => Sys2Proof.Machine.execCamDelayedFiring n lt s
  | .camBoundary lt => Sys2Proof.Machine.execCamBoundary lt s
  | .edgePlace p lt => Sys2Proof.Machine.execEdgePlace p lt s
  | .calPinMeasure p => Sys2Proof.Machine.execCalPinMeasure p s
  | .calStepUpdate b => Sys2Proof.Machine.execCalStepUpdate b s
  | .captureEdge p rising t => Sys2Proof.Machine.execCaptureEdge p rising t s
  | .captureRamWrite => Sys2Proof.Machine.execCaptureRamWrite s
  | .dmaReadBurst ch => Sys2Proof.Machine.execDmaReadBurst ch s
  | .dmaWriteBurst ch => Sys2Proof.Machine.execDmaWriteBurst ch s
  | .dmaWriteAck ch => Sys2Proof.Machine.execDmaWriteAck ch s
  | .dmaRetry ch ok => Sys2Proof.Machine.execDmaRetry ch ok s
  | .storeCommit => Sys2Proof.Machine.execStoreCommit s
  | .recallTransfer => Sys2Proof.Machine.execRecallTransfer s
  | .licDrain => Sys2Proof.Machine.execLicDrain s
  | .licShadowProgram => Sys2Proof.Machine.execLicShadowProgram s
  | .scrubFrondCheck => Sys2Proof.Machine.execScrubFrondCheck s
  | .repairBegin n => Sys2Proof.Machine.execRepairBegin n s
  | .repairSwap n => Sys2Proof.Machine.execRepairSwap n s
  | .irpStage lines => Sys2Proof.Machine.execIrpStage lines s
  | .irpSwap lines => Sys2Proof.Machine.execIrpSwap lines s
  | .irpSafe lines => Sys2Proof.Machine.execIrpSafe lines s
  | .irpStatus lines => Sys2Proof.Machine.execIrpStatus lines s
  | .irpCall lines => Sys2Proof.Machine.execIrpCall lines s
  | .vcapExhausted => Sys2Proof.Machine.execVcapExhausted s
  | .hysteresisLatchEmpty n lt => Sys2Proof.Machine.execHysteresisLatchEmpty n lt s
  | .doubleUpsetWindowEnd n => Sys2Proof.Machine.execDoubleUpsetWindowEnd n s

end Sys2Proof.Machine
end

