-- ==== Sys2Proof/Machine/Tick.lean ====
section
/-!
DEFINITION. One clock period with no command waiting (log entry 1): line time and its slewer (R94, R100), the flip-flops
(R227), the request lines of the IRP (R330), one instruction of the engine by the order of R151 and R152, the stretch of the
management port, the ends of loader work that runs on; and the periods of a switch in flight and of the hold count (R50, R55,
R61).
-/
namespace Sys2Proof.Machine

/-! ### Line time and the signals of one cc -/

/-- The response lines of the IRP in the next cc: the next retirement that is still to be shown (R332). -/
def Scr.respond (x : Scr) : Scr :=
  { x with
    ack := false
    reject := false
    hush := false
    done := !x.resps.isEmpty
    irpResp := x.resps.headD x.irpResp
    resps := x.resps.tail }

/-- The chip at the next edge, at line time `l`: special sources of one cc end, S45 is high when the seconds have advanced
(Table FRD-3), the responses of the IRP move on. -/
def Chip.nextCc (c : Chip) (l : LineTime) : Chip :=
  { c.newCc with
    lt := l
    pulses := c.freshPulses l
    scr := c.scr.respond }

/-- What the IRP does in the cc after `old`: it takes the request that rose in `old`, and keeps the lines as sampled
there. -/
def Chip.irpEdge (old new : Chip) : Chip :=
  if old.irpRises old.sampled then new.irpRequest old.sampled
  else { new with scr := { new.scr with lines := old.sampled } }

/-! ### Issue (R151, R152) -/

/-- The word that stands next in a queue; none where its fetch fails. -/
def Chip.nextWord (c : Chip) (q : Queue) : Option QWord :=
  match (c.queue q).calls, (c.queue q).words with
  | fr :: _, _ => if (c.fetchFault fr.next).isSome then none else some (c.getWord fr.next)
  | [], w :: _ => some w
  | [], [] => none

/-- An instruction of a queue may be next to issue: the queue runs, its head does not wait, and a word stands next. -/
def Chip.stands (c : Chip) (q : Queue) : Bool :=
  let x := c.queue q
  !x.halted && x.wait.isNone && (!x.calls.isEmpty || !x.words.isEmpty) && !c.fetchWaits q

/-- The next instruction of a queue stops at a fence: it waits, and takes no issue cycle (R154, R162). -/
def Chip.stopsAtFence (c : Chip) (q : Queue) : Bool :=
  c.stands q && !(c.queue q).chain && match c.nextWord q with
    | some w => c.fenced q (w.extractLsb' 120 8) (wordFields w)
    | none => false

/-- A queue has a ready instruction. -/
def Chip.ready (c : Chip) (q : Queue) : Bool := c.stands q && !c.stopsAtFence q

/-- The queues in the order of R151; Q3 and Q4 alternate. -/
def Chip.order (c : Chip) : List Queue := [7, 0, 2, 6] ++ (if c.eng.alt34 then [4, 3] else [3, 4]) ++ [1, 5]

/-- The queue that issues: Q7, then a queue that has lost 256 times, then the first in order (R152). -/
def Chip.winner (c : Chip) : Option Queue :=
  let r := c.order.filter c.ready
  match r with
  | [] => none
  | 7 :: _ => some 7
  | q :: _ => some ((r.find? fun x => decide (256 ≤ (c.queue x).lost)).getD q)

/-- The counts of lost arbitrations and the turn of Q3 and Q4 after `w` has won. -/
def Chip.arbitrate (c : Chip) (w : Queue) : Chip :=
  let both := c.ready 3 && c.ready 4 && (w == 3 || w == 4)
  let lost (q : Nat) (x : QState) : QState :=
    { x with lost := if c.ready (Fin.ofNat 8 q) && q != w.val then x.lost + 1 else 0 }
  { c with eng := { c.eng with
      queues := vmapi lost c.eng.queues
      alt34 := if both then w == 3 else c.eng.alt34 } }

/-- A word that stands next in its queue issues; an opcode that is not assigned completes ILLEGAL, past its fence
(R146, R154). -/
def Chip.runWord (c : Chip) (die : Die) (q : Queue) (w : QWord) : Chip :=
  match bodyOf (w.extractLsb' 120 8) with
  | some (o, body) => runInsn o q (wordFields w) die body c
  | none =>
    match c.take q w with
    | .no c => c
    | .yes c =>
      if (c.queue q).chain then c.retire q (wordFields w) St.aborted 0
      else if c.fenced q (w.extractLsb' 120 8) (wordFields w) then
        c.beginWait q (w.extractLsb' 120 8) (wordFields w) .fence 0 0
      else c.retire q (wordFields w) St.illegal 0

/-- The next instruction of a queue issues, from its routine or from its slots. -/
def Chip.issueNext (c : Chip) (die : Die) (q : Queue) : Chip :=
  let x := c.queue q
  match x.calls, x.words with
  | fr :: _, _ => if (c.fetchFault fr.next).isSome then c.fetchCheck q else c.runWord die q (c.getWord fr.next)
  | [], w :: _ => c.runWord die q w
  | [], [] => c

/-- The waits of instructions that stop at a fence begin. -/
def Chip.holdFences (c : Chip) (die : Die) : Chip :=
  (List.finRange 8).foldl (fun (c : Chip) q => if c.stopsAtFence q then c.issueNext die q else c) c

/-- No queue has lost this cc: the counts of cc lost one after another begin anew (R152). -/
def Chip.noneLost (c : Chip) : Chip :=
  { c with eng := { c.eng with queues := vmapi (fun _ (x : QState) => { x with lost := 0 }) c.eng.queues } }

/-- One cc of the engine. -/
def Chip.engineTick (c : Chip) (die : Die) : Chip :=
  if !c.engineOn then c
  else
    let c := c.holdFences die
    match c.winner with
    | some q => (c.arbitrate q).issueNext die q
    | none => c.noneLost

/-! ### Work that runs on -/

/-- The first queue whose head waits for the loader. -/
def Chip.stager (c : Chip) : Option (Queue × Wait) :=
  (List.finRange 8).findSome? fun q => (c.queue q).wait.bind fun w => if w.kind == .staging then some (q, w) else none

/-- The loader ends the stage or verify that runs, or the reading of the repair that runs (log entry 101). -/
def Chip.loaderTick (c : Chip) (die : Die) : Chip :=
  match c.stager with
  | some (q, w) => (c.stagingMet die q w).getD c
  | none => c.repairRead die

/-- One crystal period with the core gated: the hold count, and the sequence of R61, which from a HOLD needs xtal_ok
(R64). -/
def Chip.gatedTick (c : Chip) : Chip :=
  let k := if c.clk.xtalRuns then c.clk.holdPlus 1 else c.clk
  match c.clk.switch with
  | none => { c with clk := k }
  | some s =>
    let n := { s with left := s.left - 1 }
    if !c.islandOn || (c.clk.st == .hold && !c.clk.xtalOk) then { c with clk := k }
    else if s.left ≤ 1 then { c with clk := k }.endForce n
    else { c with clk := { k with switch := some n } }

/-! ### The idle step -/

/-- A CLK.SEL that waits for the switch in flight to end is judged once none is (R492). -/
def Chip.grantSel (c : Chip) (die : Die) : Chip :=
  (List.finRange 8).foldl (fun (c : Chip) q =>
    match (c.queue q).wait with
    | some w => if w.kind == .clkFree && c.engineOn then (c.waitMet die q w).getD c else c
    | none => c) c

/-- One CCLK period with the core running. A switch that begins in this cc has it for its cc0 (Table CLK-3). -/
def Chip.coreTick (c : Chip) (die : Die) : Chip :=
  let (l, old) := c.nextTime
  let c := (old.clockFronds.keepers).nextCc l
  let c := ((old.irpEdge c).engineTick die).mgtResume die
  let c := c.loaderTick die
  (if old.clk.switching then c.switchTick else c).grantSel die

/-- One CCLK period with the core held in reset: line time and the clock unit go on. -/
def Chip.heldTick (c : Chip) : Chip :=
  let (l, c) := c.nextTime
  { c.newCc with lt := l }.switchTick

/-- One period of the clock that runs. -/
def Chip.tick (c : Chip) (die : Die) : Chip :=
  if !c.pwr.pgood || c.pwr.pf != 0 then c
  else if c.frozen then c.gatedTick.grantSel die
  else if c.pwr.step = 1 then c
  else if !c.coreOn then c.heldTick
  else c.coreTick die

end Sys2Proof.Machine
end

