-- ==== Sys2Proof/Machine/Step.lean ====
section
/-!
DEFINITION. The step of the block: the command at the front of the queue, or one idle clock period (log entry 1); and the
placing of a table word, which no row of the table has (log entry 8).
-/
namespace Sys2Proof.Machine

/-- The queue empty, the block idles for one clock period. -/
def idle (s : State) : Host.Outcome State Fault Refusal := .next { s with chip := s.chip.tick s.die }

/-- One step. -/
def step (s : State) : Host.Outcome State Fault Refusal :=
  match s.pending with
  | [] => idle s
  | c :: rest => exec c { s with pending := rest }

/-- The state with the command that a table word spells put at the front of its queue; the table gives its rows no bits, so
there is never one. -/
def State.withFetchWord (s : State) (nbits w : Nat) : State :=
  match decodeTableWord nbits w with
  | some c => { s with pending := c :: s.pending }
  | none => s

end Sys2Proof.Machine
end

