-- ==== Sys2Proof/Safety.lean ====
section
/-!
DEFINITION. The words in which claims speak: the parts of the chip that a frame names, what differs between two chips, a
queue whose instruction issues at once, what a completion leaves (R157 to R160), fuses that only set (R447), and the register
tables of the chapters in rows.
-/
namespace Sys2Proof.Machine

/-- The parts of the chip, the engine's one by one. -/
inductive Part where
  | clk | lt | ports | syncper | lnkfwd | syncT1 | syncDue | spi | mgt | jtg | prt | waitmax | engEvt | engInten
  | memo
  | flags | circles | timeouts | evtsrc | queues | ctxs | serial | alt34 | lastSt | nvQ | fronds | pins | banks
  | edg | cams | pos | prs | scr | nvs | lic | dma | credits | rdTurn | wrTurn | flt | pwr | sec | mem | ecc | pulses | freeIx
  deriving DecidableEq, Repr

/-- Two chips agree in a part. -/
def Chip.same (p : Part) (a b : Chip) : Prop :=
  match p with
  | .clk => b.clk = a.clk
  | .lt => b.lt = a.lt
  | .ports => b.ports = a.ports
  | .syncper => b.syncper = a.syncper
  | .lnkfwd => b.lnkfwd = a.lnkfwd
  | .syncT1 => b.syncT1 = a.syncT1
  | .syncDue => b.syncDue = a.syncDue
  | .spi => b.spi = a.spi
  | .mgt => b.mgt = a.mgt
  | .jtg => b.jtg = a.jtg
  | .prt => b.prt = a.prt
  | .waitmax => b.eng.waitmax = a.eng.waitmax
  | .engEvt => b.eng.evt = a.eng.evt
  | .engInten => b.eng.inten = a.eng.inten
  | .flags => b.eng.flags = a.eng.flags
  | .circles => b.eng.circles = a.eng.circles
  | .timeouts => b.eng.timeouts = a.eng.timeouts
  | .evtsrc => b.eng.evtsrc = a.eng.evtsrc
  | .queues => b.eng.queues = a.eng.queues
  | .ctxs => b.eng.ctxs = a.eng.ctxs
  | .serial => b.eng.serial = a.eng.serial
  | .alt34 => b.eng.alt34 = a.eng.alt34
  | .lastSt => b.eng.lastSt = a.eng.lastSt
  | .nvQ => b.eng.nvQ = a.eng.nvQ
  | .memo => b.eng.memo = a.eng.memo
  | .fronds => b.fronds = a.fronds
  | .pins => b.pins = a.pins
  | .banks => b.banks = a.banks
  | .edg => b.edg = a.edg
  | .cams => b.cams = a.cams
  | .pos => b.pos = a.pos
  | .prs => b.prs = a.prs
  | .scr => b.scr = a.scr
  | .nvs => b.nvs = a.nvs
  | .lic => b.lic = a.lic
  | .dma => b.dma = a.dma
  | .credits => b.credits = a.credits
  | .rdTurn => b.rdTurn = a.rdTurn
  | .wrTurn => b.wrTurn = a.wrTurn
  | .flt => b.flt = a.flt
  | .pwr => b.pwr = a.pwr
  | .sec => b.sec = a.sec
  | .mem => b.mem = a.mem
  | .ecc => b.ecc = a.ecc
  | .pulses => b.pulses = a.pulses
  | .freeIx => b.freeIx = a.freeIx

/-- Nothing but the parts of a list differs between `a` and `b`. -/
def Chip.keeps (ps : List Part) (a b : Chip) : Prop := ∀ p : Part, p ∉ ps → Chip.same p a b

/-- A step from `s` to `t` that changes nothing but the parts of a list of the chip: the commands that wait and the
fuses stay. -/
def State.keeps (ps : List Part) (s t : State) : Prop := t.pending = s.pending ∧ t.die = s.die ∧ s.chip.keeps ps t.chip

/-- Line time may pass from `a` to `b`, and the parts of a list change: with it go the signals of one cc, the levels that keepers
hold and what the discontinuities of the last cc kept. -/
def Chip.passes (ps : List Part) (a b : Chip) : Prop :=
  a.keeps ([.lt, .pulses, .scr, .pins, .pos] ++ ps) b ∧
    (.pins ∈ ps ∨ ∀ p, p < 192 → vget b.pins p = { vget a.pins p with keep := (vget b.pins p).keep }) ∧
    (.pos ∈ ps ∨ b.pos = { a.pos with jump := b.pos.jump })

/-- So of a step: the commands that wait and the fuses stay. -/
def State.passes (ps : List Part) (s t : State) : Prop := t.pending = s.pending ∧ t.die = s.die ∧ s.chip.passes ps t.chip

/-! ### An instruction that issues -/

/-- The chip as the body of an instruction finds it: its word taken from its place, the mark of a fence that it waited for
cleared. -/
def Chip.begun (c : Chip) (q : Queue) : Chip := c.modQ q.val fun x => { x with fenceOk := false }

/-- An instruction of queue `q` with opcode `o` and fields `f`, given to chip `a`, issues, and its body runs on chip
`b`: once a switch of the clock in flight has ended, the engine runs, its word is the next of its queue, no chain
aborts it (R155), no fence holds it (R154), and checks 1 to 3 of R146 pass. -/
def Chip.issuesAs (a : Chip) (o : OpInfo) (q : Queue) (f : Insn) (b : Chip) : Prop :=
  a.endSwitch.engineOn = true ∧ ∃ c, a.endSwitch.take q (encodeWord o.code f) = .yes c ∧ (c.queue q).chain = false
    ∧ c.fenced q o.code f = false ∧ (c.begun q).precheck o q f = none ∧ b = c.begun q

/-- The step from chip `b` to chip `e` gives the recorder nothing. -/
def Chip.noRecord (b e : Chip) : Prop := e.lic.buf = b.lic.buf ∧ e.lic.wait = b.lic.wait

/-- The step from chip `b` to chip `e` gives the recorder one record, `r`, which takes an entry. -/
def Chip.oneRecord (b e : Chip) (r : LicRec) : Prop := e.lic = { b.lic with buf := b.lic.buf ++ [r] }

/-! ### What a completion leaves (R157 to R160, R129, R332) -/

/-- The completion of an instruction writes a record: cmpl is set, or it failed (R157). -/
def records (f : Insn) (st : Byte) : Bool := f.cmpl || failed st

/-- The ring of a queue holds 64 records that software has not consumed. -/
def QState.ringFull (x : QState) : Bool := x.rnext - x.rcons == 64

/-- The device address of the ring slot that a queue writes next (R158). -/
def Chip.ringSlot (c : Chip) (q : Queue) : Nat := 0x28000000 + q.val * 0x400 + field (c.queue q).rnext 0 6 * 16

/-- The queue of an instruction after its completion: ring positions, counts, chain, the routine's count. -/
def QState.completed (x : QState) (f : Insn) (st : Byte) : QState :=
  let made := records f st
  let lost := made && x.ringFull
  { x with
    rnext := if made then x.rnext + 1 else x.rnext
    rcons := if lost then x.rcons + 1 else x.rcons
    ovf := if lost then satAdd16 x.ovf 1 else x.ovf
    errs := if failed st then satAdd16 x.errs 1 else x.errs
    warns := if failed st || st == St.ok then x.warns else satAdd16 x.warns 1
    chain := f.chain && failed st
    calls := match x.calls with
      | [] => []
      | fr :: r => { fr with count := fr.count + 1 } :: r }

/-- The bits of ENG.EVT that a completion sets. -/
def completionEvents (x : QState) (f : Insn) (st : Byte) : Word :=
  bitW 2 (records f st && x.ringFull) ||| bitW 4 (failed st) ||| bitW 3 (st == St.order) ||| bitW 1 (st == St.timeout)

/-- State `t` is what the completion of an instruction of queue `q` with status `st` and result `res` leaves of state `s`,
where `e` is the chip with the instruction's own effect and `l` the line time of its record. The units that it changed may be
noted for a management change of the same cc (R133). -/
structure Completes (q : Queue) (f : Insn) (st : Byte) (res : DWord) (l : LineTime) (s : State) (e : Chip) (t : State) :
    Prop where
  pending : t.pending = s.pending
  die     : t.die = s.die
  frame   : e.keeps [.queues, .engEvt, .timeouts, .ports, .mgt, .scr, .mem, .ecc, .memo] t.chip
  memo    : ∃ l : List UnitNote, (∀ n ∈ l, n.queue = q ∧ n.f = f) ∧ t.chip.eng.memo = (e.noteUnits l).eng.memo
  own     : t.chip.queue q = (e.queue q).completed f st
  others  : ∀ k : Queue, k ≠ q → t.chip.queue k = e.queue k
  events  : t.chip.eng.evt = e.eng.evt ||| completionEvents (e.queue q) f st
  timeout : t.chip.eng.timeouts = if st = St.timeout then satAdd e.eng.timeouts 1 else e.eng.timeouts
  record  : records f st = true →
    t.chip.getWord (e.ringSlot q) = completion f.tag st q ((e.queue q).rnext.getLsbD 6) l res
  clean   : records f st = true → t.chip.eccAt (e.ringSlot q) = 0
  bytes   : ∀ x, ¬ (records f st = true ∧ e.ringSlot q ≤ x ∧ x < e.ringSlot q + 16) →
    memRead 0 t.chip.mem x = memRead 0 e.mem x
  checks  : ∀ w, ¬ (records f st = true ∧ w = e.ringSlot q / 16) → memRead 0 t.chip.ecc w = memRead 0 e.ecc w
  ports   : ¬ (2 ≤ q.val ∧ q.val ≤ 4) → t.chip.ports = e.ports
  mgt     : q ≠ 5 → t.chip.mgt = e.mgt
  last    : q = 5 → t.chip.mgt.lastSt = st ∧ t.chip.mgt.lastTag = f.tag
  scr     : q ≠ 6 → t.chip.scr = e.scr
  irp     : q = 6 → e.scr.irpEn = true →
    (e.scr.done = false → e.scr.resps = [] → t.chip.scr = { e.scr with done := true, irpResp := st })
    ∧ (e.scr.done = true → t.chip.scr = { e.scr with resps := e.scr.resps ++ [st] })

/-- State `t` is what state `s` becomes when the head of queue `q` begins a wait, where `e` is the chip with the
effect before it: the kind of wait, the time or position it names and its mark; waits are numbered in the order they
begin. The units that it changed may be noted. -/
structure Waits (q : Queue) (code : BitVec 8) (f : Insn) (k : WaitKind) (x res : BitVec 64) (s : State) (e : Chip)
    (t : State) : Prop where
  pending : t.pending = s.pending
  die     : t.die = s.die
  frame   : e.keeps [.queues, .serial, .memo] t.chip
  memo    : ∃ l : List UnitNote, (∀ n ∈ l, n.queue = q ∧ n.f = f) ∧ t.chip.eng.memo = (e.noteUnits l).eng.memo
  own     : t.chip.queue q = { e.queue q with wait := some ⟨k, code, f, x, e.eng.serial, res⟩ }
  others  : ∀ k : Queue, k ≠ q → t.chip.queue k = e.queue k
  serial  : t.chip.eng.serial = e.eng.serial + 1

/-! ### Fuses (R447) -/

/-- Every fuse of die `d` is blown in die `e` too. -/
structure Die.fusesKept (d e : Die) : Prop where
  sealed   : d.sealed = true → e.sealed = true
  readback : d.readback = true → e.readback = true
  jtagLock : d.jtagLock = true → e.jtagLock = true
  keyProg  : d.keyProg = true → e.keyProg = true
  key      : ∀ i, d.key.getLsbD i = true → e.key.getLsbD i = true
  grade    : e.xb = d.xb

/-! ### Memory -/

/-- Two memories read the same at every address outside `n` bytes from address `a`. -/
def sameOutside (d : Byte) (m m' : Mem) (a n : Nat) : Prop := ∀ x, ¬ (a ≤ x ∧ x < a + n) → memRead d m' x = memRead d m x

/-! ### The register tables (Table ARC-6 and each chapter's tables) -/

/-- How a register takes a store (Table SCO-3); `own` is a register whose store starts an action or has a check that its chapter
gives it. -/
inductive RegAccess where
  | ro | rw | rwl | w1c | own
  deriving DecidableEq, Repr

/-- `count` registers of 32 bits, `stride` bytes apart from `addr`: their access, the bits they hold, and the part of the chip
that a store of them can change. -/
structure RegRow where
  addr   : Nat
  count  : Nat := 1
  stride : Nat := 4
  access : RegAccess := .ro
  mask   : Word := 0xFFFFFFFF
  parts  : List Part := []
  deriving DecidableEq, Repr

/-- The address of register `k` of a row. -/
def RegRow.at (g : RegRow) (k : Nat) : BitVec 32 := BitVec.ofNat 32 (g.addr + g.stride * k)

/-- SYS, CLK, LNK and LT (Tables PWR-7, CLK-6, LNK-9 to LNK-11). -/
def sysRows : List RegRow :=
  [⟨0x00000, 1, 4, .ro, 0, []⟩, ⟨0x00004, 1, 4, .rw, 1, [.pwr]⟩, ⟨0x00008, 3, 4, .ro, 0, []⟩,
   ⟨0x10000, 1, 4, .ro, 0, []⟩, ⟨0x10004, 1, 4, .own, 0xFF0F, []⟩, ⟨0x10008, 1, 4, .w1c, 0x1FF, [.clk]⟩,
   ⟨0x1000C, 1, 4, .rw, 0x1FF, [.clk]⟩, ⟨0x10010, 3, 4, .ro, 0, []⟩, ⟨0x1001C, 1, 4, .rw, 1, [.clk]⟩,
   ⟨0x10020, 1, 4, .ro, 0, []⟩]

/-- LNK and LT (Tables LNK-9 to LNK-11). -/
def linkRows : List RegRow :=
  [⟨0x20000, 1, 4, .rw, 0xFFFF, [.syncper]⟩, ⟨0x20004, 1, 4, .rw, 0xF, [.lnkfwd]⟩, ⟨0x20100, 3, 0x100, .own, 3, []⟩,
   ⟨0x20104, 3, 0x100, .ro, 0, []⟩, ⟨0x20108, 3, 0x100, .w1c, 0x1FF, [.ports]⟩, ⟨0x2010C, 3, 0x100, .rw, 0x1FF, [.ports]⟩,
   ⟨0x20110, 3, 0x100, .ro, 0, []⟩, ⟨0x20114, 3, 0x100, .ro, 0, []⟩, ⟨0x20118, 3, 0x100, .ro, 0, []⟩,
   ⟨0x2011C, 3, 0x100, .ro, 0, []⟩, ⟨0x20120, 3, 0x100, .ro, 0, []⟩, ⟨0x20124, 3, 0x100, .ro, 0, []⟩,
   ⟨0x20128, 3, 0x100, .rw, 0xFFFF, [.ports]⟩, ⟨0x2012C, 3, 0x100, .ro, 0, []⟩, ⟨0x20130, 3, 0x100, .ro, 0, []⟩,
   ⟨0x30000, 8, 4, .ro, 0, []⟩, ⟨0x30020, 2, 4, .rw, 0xFFFFFFFF, [.lt]⟩, ⟨0x30028, 1, 4, .rw, 3, [.lt]⟩,
   ⟨0x3002C, 1, 4, .own, 3, []⟩, ⟨0x30030, 1, 4, .ro, 0, []⟩]

/-- SPI, MGT, JTG and PRT (Tables PRT-9 to PRT-12). -/
def portRows : List RegRow :=
  [⟨0x40000, 1, 4, .rw, 1, [.spi]⟩, ⟨0x40004, 1, 4, .ro, 0, []⟩, ⟨0x40008, 1, 4, .w1c, 0x1F, [.spi]⟩,
   ⟨0x4000C, 1, 4, .rw, 0x1F, [.spi]⟩, ⟨0x40010, 3, 4, .ro, 0, []⟩, ⟨0x50000, 1, 4, .ro, 0, []⟩,
   ⟨0x50010, 1, 4, .own, 0x1FFFF, []⟩, ⟨0x50020, 4, 4, .rw, 0xFFFFFFFF, [.mgt]⟩, ⟨0x50030, 1, 4, .own, 1, []⟩,
   ⟨0x50034, 1, 4, .ro, 0, []⟩, ⟨0x50040, 4, 4, .ro, 0, []⟩, ⟨0x50050, 2, 4, .ro, 0, []⟩, ⟨0x60000, 3, 4, .ro, 0, []⟩,
   ⟨0x70000, 1, 4, .own, 7, []⟩, ⟨0x70004, 1, 4, .ro, 0, []⟩, ⟨0x70010, 6, 4, .ro, 0, []⟩, ⟨0x70030, 3, 4, .ro, 0, []⟩]

/-- ENG and FRD (Tables IMD-9, FRD-11). -/
def engineRows : List RegRow :=
  [⟨0x80000, 1, 4, .ro, 0, []⟩, ⟨0x80004, 1, 4, .own, 0x3F3F, []⟩, ⟨0x80008, 1, 4, .w1c, 0x1F, [.engEvt]⟩,
   ⟨0x8000C, 1, 4, .rw, 0x1F, [.engInten]⟩, ⟨0x80010, 4, 4, .ro, 0, []⟩, ⟨0x80020, 8, 4, .rw, 0x7F, [.queues]⟩,
   ⟨0x80040, 8, 4, .ro, 0, []⟩, ⟨0x80060, 8, 4, .ro, 0, []⟩, ⟨0x80080, 32, 4, .own, 0xFFF, []⟩,
   ⟨0x80100, 4, 4, .ro, 0, []⟩, ⟨0x90000, 32, 4, .ro, 0, []⟩, ⟨0x90080, 32, 4, .rwl, 3, [.fronds, .pins, .banks, .edg, .mem]⟩,
   ⟨0x90100, 12, 4, .rwl, 0xFFFFFFFF, [.banks]⟩, ⟨0x90140, 12, 4, .ro, 0, []⟩, ⟨0x90180, 4, 4, .ro, 0, []⟩]

/-- EDG, CAP and CAM (Tables EDG-7 to EDG-9, CAM-4 to CAM-6). -/
def edgeRows : List RegRow :=
  [⟨0xA0000, 192, 4, .own, 0xFFFFFF, []⟩, ⟨0xA0400, 192, 4, .rwl, 0x7FFFFF, [.pins, .banks, .edg]⟩,
   ⟨0xA0800, 192, 4, .own, 0x3FFFFFFF, []⟩, ⟨0xA0C00, 192, 4, .rw, 0xFFFFFFFF, [.pins]⟩, ⟨0xA1000, 192, 4, .ro, 0, []⟩,
   ⟨0xA1400, 12, 4, .ro, 0, []⟩, ⟨0xA1440, 1, 4, .own, 1, []⟩, ⟨0xA1444, 1, 4, .w1c, 0xF, [.edg]⟩,
   ⟨0xA1448, 1, 4, .rw, 0xF, [.edg]⟩, ⟨0xA144C, 4, 4, .ro, 0, []⟩, ⟨0xB0000, 1, 4, .ro, 0, []⟩,
   ⟨0xB0004, 1, 4, .own, 0x7FFF, []⟩, ⟨0xB0008, 1, 4, .w1c, 0xF, [.edg]⟩, ⟨0xB000C, 1, 4, .rw, 0xF, [.edg]⟩,
   ⟨0xB0040, 12, 4, .ro, 0, []⟩, ⟨0xB0080, 12, 4, .ro, 0, []⟩, ⟨0xB00C0, 12, 4, .ro, 0, []⟩, ⟨0xB0100, 12, 4, .ro, 0, []⟩,
   ⟨0xB0140, 12, 4, .ro, 0, []⟩]

/-- CAM (Tables CAM-4 to CAM-6). -/
def camRows : List RegRow :=
  [⟨0xC0000, 1, 4, .ro, 0, []⟩, ⟨0xC0004, 1, 4, .own, 0x1F01FF, []⟩, ⟨0xC0010, 8, 4, .ro, 0, []⟩,
   ⟨0xC0030, 1, 4, .w1c, 0x7F, [.pos]⟩, ⟨0xC0034, 1, 4, .rw, 0x7F, [.pos]⟩, ⟨0xC0038, 5, 4, .ro, 0, []⟩,
   ⟨0xC0100, 32, 0x40, .ro, 0, []⟩, ⟨0xC0104, 32, 0x40, .rw, 0xFFFF, [.cams]⟩, ⟨0xC0108, 32, 0x40, .ro, 0, []⟩,
   ⟨0xC010C, 32, 0x40, .ro, 0, []⟩, ⟨0xC0110, 32, 0x40, .ro, 0, []⟩, ⟨0xC0114, 32, 0x40, .ro, 0, []⟩,
   ⟨0xC0118, 32, 0x40, .ro, 0, []⟩, ⟨0xC011C, 32, 0x40, .ro, 0, []⟩, ⟨0xC0120, 32, 0x40, .ro, 0, []⟩,
   ⟨0xC0130, 32, 0x40, .ro, 0, []⟩, ⟨0xC0134, 32, 0x40, .ro, 0, []⟩, ⟨0xC0138, 32, 0x40, .ro, 0, []⟩,
   ⟨0xC013C, 32, 0x40, .ro, 0, []⟩]

/-- PRS and SCR (Tables PRS-9, CHG-7). -/
def scrubRows : List RegRow :=
  [⟨0xD0000, 8, 4, .ro, 0, []⟩, ⟨0xD0020, 1, 4, .w1c, 0x7F, [.prs]⟩, ⟨0xD0024, 1, 4, .rw, 0x7F, [.prs]⟩,
   ⟨0xD0028, 1, 4, .ro, 0, []⟩, ⟨0xD0100, 48, 4, .ro, 0, []⟩, ⟨0xE0000, 1, 4, .ro, 0, []⟩,
   ⟨0xE0008, 1, 4, .w1c, 0x3F, [.scr]⟩, ⟨0xE000C, 1, 4, .rw, 0x3F, [.scr]⟩, ⟨0xE0010, 3, 4, .ro, 0, []⟩,
   ⟨0xE001C, 1, 4, .own, 0xFFFFFFFF, []⟩, ⟨0xE0020, 3, 4, .ro, 0, []⟩, ⟨0xE0030, 2, 4, .ro, 0, []⟩,
   ⟨0xE0040, 16, 4, .rwl, 0xFFFFFFFF, [.scr]⟩, ⟨0xE0080, 16, 4, .own, 0xFFFFFFFF, []⟩,
   ⟨0xE0100, 32, 4, .rwl, 3, [.fronds]⟩, ⟨0xE0180, 32, 4, .ro, 0, []⟩, ⟨0xE0200, 128, 4, .ro, 0, []⟩]

/-- NVS, LIC and DMA (Tables NVS-10, LIC-5, DMA-8, DMA-9). -/
def storeRows : List RegRow :=
  [⟨0xF0000, 6, 4, .ro, 0, []⟩, ⟨0xF0018, 1, 4, .w1c, 0x7FF, [.nvs]⟩, ⟨0xF001C, 1, 4, .rw, 0x7FF, [.nvs]⟩,
   ⟨0xF0020, 4, 4, .ro, 0, []⟩, ⟨0x100000, 3, 4, .ro, 0, []⟩, ⟨0x10000C, 1, 4, .own, 0xFFFFFFFF, []⟩,
   ⟨0x100010, 4, 4, .ro, 0, []⟩, ⟨0x100020, 1, 4, .w1c, 0x3F, [.lic]⟩, ⟨0x100024, 1, 4, .rw, 0x3F, [.lic]⟩,
   ⟨0x110000, 1, 4, .ro, 0, []⟩, ⟨0x110100, 12, 0x40, .rw, 0xFFFFFFFF, [.dma]⟩, ⟨0x110104, 12, 0x40, .rw, 0xFFFFFFFF, [.dma]⟩,
   ⟨0x110108, 12, 0x40, .rw, 0xFFFFFFFF, [.dma]⟩, ⟨0x11010C, 12, 0x40, .rw, 0x1FFFFFF, [.dma]⟩,
   ⟨0x110110, 12, 0x40, .own, 1, []⟩, ⟨0x110114, 12, 0x40, .ro, 0, []⟩, ⟨0x110118, 12, 0x40, .ro, 0, []⟩]

/-- DMA from +0x1C, FLT, PWR and SEC (Tables DMA-9, FLT-10, PWR-8, SEC-6). -/
def faultRows : List RegRow :=
  [⟨0x11011C, 12, 0x40, .ro, 0, []⟩, ⟨0x110120, 12, 0x40, .w1c, 0x1F, [.dma]⟩, ⟨0x110124, 12, 0x40, .rw, 0x1F, [.dma]⟩,
   ⟨0x110128, 12, 0x40, .ro, 0, []⟩, ⟨0x11012C, 12, 0x40, .ro, 0, []⟩, ⟨0x110130, 12, 0x40, .ro, 0, []⟩,
   ⟨0x120000, 3, 4, .ro, 0, []⟩, ⟨0x12000C, 1, 4, .own, 0x1F, []⟩, ⟨0x120010, 1, 4, .w1c, 7, [.flt]⟩,
   ⟨0x120014, 1, 4, .rw, 7, [.flt]⟩, ⟨0x120018, 2, 4, .ro, 0, []⟩, ⟨0x130000, 2, 4, .ro, 0, []⟩,
   ⟨0x130008, 1, 4, .w1c, 7, [.pwr]⟩, ⟨0x13000C, 1, 4, .rw, 7, [.pwr]⟩, ⟨0x130010, 1, 4, .ro, 0, []⟩,
   ⟨0x130014, 1, 4, .rw, 0xFFFF, [.pwr]⟩, ⟨0x140000, 3, 4, .ro, 0, []⟩, ⟨0x14000C, 1, 4, .w1c, 0xF, [.sec]⟩,
   ⟨0x140010, 1, 4, .rw, 0xF, [.sec]⟩, ⟨0x140014, 3, 4, .ro, 0, []⟩, ⟨0x140020, 8, 4, .ro, 0, []⟩]

/-- Every register of the device. -/
def regRows : List RegRow :=
  sysRows ++ linkRows ++ portRows ++ engineRows ++ edgeRows ++ camRows ++ scrubRows ++ storeRows ++ faultRows

end Sys2Proof.Machine
end

