-- ==== Sys2Proof/WellFormed.lean ====
section
/-!
DEFINITION. Well-formed commands: what a sender must keep for a command to be one of the table's.
-/
namespace Sys2Proof

/-- The function bits of LINK.CTL and SCRUB.CTL words name the row's own function. -/
def fnOk (i : Instr) : Bool :=
  match i.insn? with
  | none => true
  | some (_, _, f) =>
    (match linkFn i with | some k => f.op.extractLsb' 0 4 == k | none => true)
      && (match scrubFn i with | some k => f.ext.extractLsb' 0 2 == k | none => true)

/-- Operand ranges of the rows that are not instructions: links 0 to 2, banks 0 to 11, pins 0 to 191, channels 0
to 11, whole frames of at most 255 four-byte units. -/
def operandOk (i : Instr) : Bool :=
  match i with
  | .linkUp p _ | .cmdForward p | .cdrLoss p | .linkCodeErrors p _ _ => decide (p.toNat < 3)
  | .bypass ir => !listedCode ir
  | .warmReset _ cross | .coreReset _ _ _ cross => cross.all fun e => decide (e.1.toNat < 6)
  | .posForward p _ | .syncRspTx p _ => decide (p.toNat < 3)
  | .posFrameRx p _ | .cmdFrameRx p _ | .dataFrameRx p _ | .xoffRx p _ | .xonRx p _ => decide (p.toNat < 3)
  | .syncReqRx p _ _ | .syncRspRx p _ _ => decide (p.toNat < 3)
  | .lnkCtrlWrite _ p _ => decide (p.toNat < 3)
  | .vioChange b _ | .calStepUpdate b | .frdSafestWrite _ b _ => decide (b.toNat < 12)
  | .edgPincfgWrite _ p _ | .edgBindWrite _ p _ _ => decide (p.toNat < 192)
  | .edgePlace p _ | .calPinMeasure p | .captureEdge p _ _ => decide (p.toNat < 192)
  | .dmaCtrlDrop _ c | .dmaReadBurst c | .dmaWriteBurst c | .dmaWriteAck c | .dmaRetry c _ => decide (c.toNat < 12)
  | _ => true

/-- Reserved bits of an instruction row are 0 (R178). -/
def reservedOk (i : Instr) : Bool :=
  match i.insn? with
  | some (_, o, f) => o.named f
  | none => true

/-- The queue may issue the opcode (Table IMD-3). -/
def queueOk (i : Instr) : Bool :=
  match i.insn? with
  | some (q, o, _) => o.permits q
  | none => true

/-- A command of the table: function bits, operand ranges, reserved bits and queue are right. -/
def Instr.wellFormed (i : Instr) : Bool := fnOk i && operandOk i && reservedOk i && queueOk i

end Sys2Proof
end

