-- ==== Sys2Proof/Certificates/Slice0/Obligations.lean ====
section
/-!
DEFINITION. The statements for the provers: what the chip's rules say of the block, of each instruction and of each event.
In a statement about an instruction, `b` is the chip its body runs on and `e` the chip with its effect; in one about an
event, `c` is the chip the event finds, a switch of the clock in flight ended (log entry 96), and `t` the state after it.
-/
open Sys2Proof Sys2Proof.Machine

/-! ### The block: queue of commands, idling, reset -/

/-- A step with a command at the front of the queue is that command's `exec` on the state with the queue's rest. -/
def Obligations.StepRunsTheFrontCommand : Prop :=
  ∀ (c : Instr) (rest : List Instr) (s : State), s.pending = c :: rest → step s = exec c { s with pending := rest }

/-- Every command has an effect in every state: the answer is a next state, never a fault or a refusal, and the commands
that wait stay in their queue. -/
def Obligations.EveryCommandAnswersANextState : Prop :=
  ∀ (i : Instr) (s : State), ∃ t, exec i s = .next t ∧ t.pending = s.pending

/-- On an empty queue a step is one clock period (the model's choice, log entry 1): fuses stay, nothing waits, and while the
core runs with the slewer empty and nothing to issue line time advances by 64 ticks, and the seconds with it (R94, R100).
-/
def Obligations.IdleStepIsOneClockPeriod : Prop :=
  ∀ s : State, s.pending = [] → ∃ t, step s = .next t ∧ t.pending = [] ∧ t.die = s.die ∧
    (s.chip.coreOn = true → s.chip.clk.switch = none → (∀ q, (s.chip.queue q).words = [] ∧ (s.chip.queue q).calls = []) →
      s.chip.scr.irpEn = false → s.chip.scr.running = none → s.chip.stager = none → s.chip.mgt.stretch = false →
      s.chip.lt.slew = 0 →
      t.chip.lt.sec.toNat * 16000000000 + t.chip.lt.ticks.toNat
        = (s.chip.lt.sec.toNat * 16000000000 + s.chip.lt.ticks.toNat + 64) % (2 ^ 32 * 16000000000))

/-! ### Issue (R146, R151, R154, R155) and retirement (R157 to R160) -/

/-- Where the word of a row stands when it issues: an empty queue runs it at once and the chip is unchanged, but for the
kind of the slot it takes in Q5 and Q7; at the head of its queue's slots it leaves them (R148, R151 to R155); that a row
brings its word, and what becomes of it behind other words, is the model's reading (DEDUCED, log entry 10). A retirement
with a failure counts in the error count of its queue, one OK_CORRECTED or OK_LATE in the warning count, whether a record is
written or not (R159). A ring that holds 64 records not consumed loses its oldest: the record overwrites it, ENG.RCONSn and
the overflow count advance and ENG.EVT.ring_ovf sets (R158). -/
def Obligations.IssueAndRetirement : Prop :=
  (∀ (a : Chip) (o : OpInfo) (q : Queue) (f : Insn), a.clk.switch = none → a.engineOn = true →
    (a.queue q).halted = false → (a.queue q).wait = none → (a.queue q).calls = [] → (a.queue q).chain = false →
    (a.queue q).fenceOk = false → o.named f = true → o.permits q = true → (q = 5 → o.code = 0x11 → q5May f = true) →
    (f.tx = true → o.tx = true ∧ a.txnOf q ≠ none) → (f.fence = true ∨ o.code = 0x01 → a.executing q = false) →
    ((a.queue q).words = [] → a.issuesAs o q f (if q = 5 ∨ q = 7 then a.modQ q.val (QState.note false) else a)) ∧
    (∀ r, (a.queue q).words = encodeWord o.code f :: r →
      ∃ b, a.issuesAs o q f b ∧ a.keeps [.queues] b ∧ b.queue q = { a.queue q with words := r } ∧
        ∀ k, k ≠ q → b.queue k = a.queue k)) ∧
  ∀ (q : Queue) (f : Insn) (st : Byte) (res : DWord) (e : Chip),
    let t := e.retire q f st res
    (t.queue q).errs = (if 0x10 ≤ st.toNat then satAdd16 (e.queue q).errs 1 else (e.queue q).errs) ∧
    (st = St.corrected ∨ st = St.late → (t.queue q).warns = satAdd16 (e.queue q).warns 1) ∧
    (st = St.ok ∨ 0x10 ≤ st.toNat → (t.queue q).warns = (e.queue q).warns) ∧
    (f.cmpl = true ∨ 0x10 ≤ st.toNat → (e.queue q).rnext - (e.queue q).rcons = 64 →
      t.getWord (0x28000000 + 0x400 * q.val + 16 * ((e.queue q).rnext.toNat % 64))
          = completion f.tag st q ((e.queue q).rnext.getLsbD 6) e.lt res ∧
        (t.queue q).rnext = (e.queue q).rnext + 1 ∧ (t.queue q).rcons = (e.queue q).rcons + 1 ∧
        (t.queue q).ovf = satAdd16 (e.queue q).ovf 1 ∧ t.eng.evt.getLsbD 2 = true)

/-- What comes before any body, for every instruction row: in a chain it completes ABORTED (R155); at a fence, while earlier
work has not retired, it waits (R154); then the checks 1 to 3 of R146: with a reserved bit set it completes ILLEGAL, from a
queue that may not issue it, an ST of Q5 outside Table PRT-6 included, PRIV, with a tx that its opcode or its queue does not
allow ILLEGAL; in each case nothing but the completion changes. That the abort of the chain comes before the fence, and that
a fence does not wait for the CALLs that enclose it, is the model's reading (DEDUCED, log entry 93). While CCLK does not run
for the core (HOLD, power fail, a reset held, no power) no instruction row changes anything (R54). That the row of an
instruction then changes nothing, while in start-up its word enters the queue, is the model's reading (DEDUCED, log entry
10). -/
def Obligations.ChecksComeBeforeTheEffect : Prop :=
  (∀ (i : Instr) (q : Queue) (o : OpInfo) (f : Insn) (s : State) (c : Chip), i.insn? = some (q, o, f) →
    s.chip.clk.switch = none → s.chip.engineOn = true → s.chip.take q (encodeWord o.code f) = .yes c →
    let ends (st : Byte) : Prop := ∃ t, exec i s = .next t ∧ Completes q f st 0 c.lt s (c.begun q) t
    let goes : Prop := (c.queue q).chain = false ∧ c.fenced q o.code f = false
    let mayNot : Prop := o.permits q = false ∨ (q = 5 ∧ o.code = 0x11 ∧ q5May f = false)
    ((c.queue q).chain = true → ∃ t, exec i s = .next t ∧ Completes q f St.aborted 0 c.lt s c t) ∧
    ((c.queue q).chain = false → c.fenced q o.code f = true →
      ∃ t, exec i s = .next t ∧ Waits q o.code f .fence 0 0 s c t) ∧
    (goes → o.named f = false → ends St.illegal) ∧
    (goes → o.named f = true → mayNot → ends St.priv) ∧
    (goes → o.named f = true → ¬ mayNot → f.tx = true → o.tx = false ∨ c.txnOf q = none → ends St.illegal)) ∧
  ∀ (i : Instr) (q : Queue) (o : OpInfo) (f : Insn) (s : State), i.insn? = some (q, o, f) → s.chip.clk.switch = none →
    s.chip.coreOn = false → exec i s = .next s

/-! ### Flow (R154, R172, R187 to R189, R286, R490) -/

/-- NOP and FENCE only retire; SIG.EVT sets and clears flags E0 to E31 and returns them (Table ISA-2). HALT.Q halts or
resumes the queue it names (R150, R189); naming Q7 is PRIV, halting or flushing its own queue BUSY_SELF; a flush empties the
queue and returns how many instructions completed ABORTED. -/
def Obligations.QueueControlInstructions : Prop :=
  (∀ (q : Queue) (f : Insn) (s : State) (b : Chip),
    (s.chip.issuesAs Op.nop q f b → ∃ t, exec (.nop q f) s = .next t ∧ Completes q f St.ok 0 b.lt s b t) ∧
    (s.chip.issuesAs Op.fence q f b → ∃ t, exec (.fence q f) s = .next t ∧ Completes q f St.ok 0 b.lt s b t) ∧
    (s.chip.issuesAs Op.sigEvt q f b → (∀ k, k < 32 → (f.op.getLsbD k && f.op.getLsbD (32 + k)) = false) →
      ∃ t e, exec (.sigEvt q f) s = .next t ∧ Completes q f St.ok (e.eng.flags &&& 0xFFFFFFFF) b.lt s e t ∧
        b.keeps [.flags] e ∧
        (∀ k, k < 32 → e.eng.flags.getLsbD k
          = ((b.eng.flags.getLsbD k || f.op.getLsbD k) && !f.op.getLsbD (32 + k))) ∧
        ∀ k, 32 ≤ k → e.eng.flags.getLsbD k = b.eng.flags.getLsbD k) ∧
    (s.chip.issuesAs Op.sigEvt q f b → (∃ k, k < 32 ∧ f.op.getLsbD k = true ∧ f.op.getLsbD (32 + k) = true) →
      ∃ t, exec (.sigEvt q f) s = .next t ∧ Completes q f St.range 0 b.lt s b t)) ∧
  ∀ (q : Queue) (f : Insn) (s : State) (b : Chip), s.chip.issuesAs Op.haltQ q f b →
    let n : Queue := Fin.ofNat 8 (f.tgt.toNat % 8)
    (n ≠ 7 → f.ext.getLsbD 1 = false → (n = q → f.ext.getLsbD 0 = false) →
      ∃ t e, exec (.haltQ q f) s = .next t ∧ Completes q f St.ok 0 b.lt s e t ∧ b.keeps [.queues] e ∧
        e.queue n = { b.queue n with halted := f.ext.getLsbD 0 } ∧ ∀ k, k ≠ n → e.queue k = b.queue k) ∧
    (n = 7 → ∃ t, exec (.haltQ q f) s = .next t ∧ Completes q f St.priv 0 b.lt s b t) ∧
    (n ≠ 7 → n = q → f.ext.getLsbD 0 = true ∨ f.ext.getLsbD 1 = true →
      ∃ t, exec (.haltQ q f) s = .next t ∧ Completes q f St.busySelf 0 b.lt s b t) ∧
    (n ≠ 7 → n ≠ q → f.ext.getLsbD 1 = true → (b.queue n).wait = none → (b.queue n).calls = [] →
      ∃ t e, exec (.haltQ q f) s = .next t ∧
        Completes q f St.ok (BitVec.ofNat 64 (b.queue n).words.length) b.lt s e t ∧
        b.keeps [.queues, .engEvt, .ports, .mgt, .scr, .mem, .ecc] e ∧ (e.queue n).words = [] ∧
        (e.queue n).halted = f.ext.getLsbD 0 ∧ ∀ k, k ≠ n → e.queue k = b.queue k)

/-- WAIT.EVT: with a flag of its mask set it consumes every such flag and returns them; with none it waits; a mask of 0 is
RANGE. WAIT_EVT_MET ends the wait in the same way (R188). A wait that TIMEOUT or CIRCLE ends consumes no flag, in a
transaction or out of one (R163, R164, R188). WAIT.TIME (R490): T before the cc of issue is OK_LATE, T inside it OK, a later
T waits; WAIT_TIME_MET carries line time to T and retires the wait, OK_LATE where a hold, a step or a write of line time has
carried it past T. That its result is the stamp of its retirement (DEDUCED, log entry 21), and that WAIT_TIME_MET, which
names no time, carries line time to T (DESIGN CHOICE, log entry 92), is the model's choice. WAIT.POS (R180, R286): a
position already passed at issue is OK_LATE, any other waits; POSITION_REACHED retires the wait with the extrapolated
position. That the row names the time at which the position is reached and changes nothing when it is not is the model's
choice (DESIGN CHOICE, log entry 92; which waits have a limit: DEDUCED, log entry 89). -/
def Obligations.WaitsTestWhatTheyName : Prop :=
  (∀ (q : Queue) (f : Insn) (s : State) (b : Chip),
    let c := s.chip.endSwitch
    (s.chip.issuesAs Op.waitEvt q f b → b.eng.flags &&& f.op ≠ 0 →
      ∃ t e, exec (.waitEvt q f) s = .next t ∧ Completes q f St.ok (b.eng.flags &&& f.op) b.lt s e t ∧
        b.keeps [.flags] e ∧ e.eng.flags = b.eng.flags &&& ~~~f.op) ∧
    (s.chip.issuesAs Op.waitEvt q f b → f.op ≠ 0 → b.eng.flags &&& f.op = 0 →
      ∃ t, exec (.waitEvt q f) s = .next t ∧ Waits q 0x04 f .event f.op 0 s b t) ∧
    (s.chip.issuesAs Op.waitEvt q f b → f.op = 0 →
      ∃ t, exec (.waitEvt q f) s = .next t ∧ Completes q f St.range 0 b.lt s b t) ∧
    (∀ w, c.coreOn = true → (c.queue q).wait = some w → w.kind = .event → c.eng.flags &&& w.t ≠ 0 →
      ∃ t e, exec (.waitEvtMet q) s = .next t ∧ Completes q w.f St.ok (c.eng.flags &&& w.t) e.lt s e t ∧
        c.keeps [.flags, .queues] e ∧ e.eng.flags = c.eng.flags &&& ~~~w.t ∧ (e.queue q).wait = none) ∧
    (∀ w, c.coreOn = true → (c.queue q).wait = some w → w.kind = .event → w.code = 0x04 → c.eng.flags &&& w.t = 0 →
      c.prs.rtStore = false → (∀ k, (c.queue k).posted = false) →
      (∃ t e, exec (.waitTimeout q) s = .next t ∧ Completes q w.f St.timeout 0 e.lt s e t ∧
        c.keeps [.queues, .nvQ] e ∧ e.txnOf q = c.txnOf q ∧ t.chip.eng.flags = c.eng.flags) ∧
      (c.circle = true → c.youngest = some (q, w) →
        ∃ t, exec .stallCircle s = .next t ∧ t.chip.eng.flags = c.eng.flags)) ∧
    (∀ w, c.coreOn = true → (c.queue q).wait = some w → w.kind = .event → c.eng.flags &&& w.t = 0 →
      (∃ t, exec (.waitTimeout q) s = .next t ∧
        ∀ j, j < 64 → c.eng.flags.getLsbD j = true → t.chip.eng.flags.getLsbD j = true) ∧
      (c.circle = true → c.youngest = some (q, w) → ∃ t, exec .stallCircle s = .next t ∧
        ∀ j, j < 64 → c.eng.flags.getLsbD j = true → t.chip.eng.flags.getLsbD j = true))) ∧
  (∀ (q : Queue) (f : Insn) (s : State) (b : Chip),
    let c := s.chip.endSwitch
    (s.chip.issuesAs Op.waitTime q f b →
      let at_ := if f.ext.getLsbD 0 then b.now + f.op else f.op
      ((at_ - b.now).toInt < 0 →
        ∃ t, exec (.waitTime q f) s = .next t ∧ Completes q f St.late b.now b.lt s b t) ∧
      (0 ≤ (at_ - b.now).toInt → (at_ - b.next).toInt < 0 →
        ∃ t, exec (.waitTime q f) s = .next t ∧ Completes q f St.ok b.now b.lt s b t) ∧
      (0 ≤ (at_ - b.now).toInt → 0 ≤ (at_ - b.next).toInt →
        ∃ t, exec (.waitTime q f) s = .next t ∧ Waits q 0x03 f .time at_ 0 s b t)) ∧
    (∀ w, c.coreOn = true → (c.queue q).wait = some w → w.kind = .time → (w.t - (c.advance w.t).next).toInt < 0 →
      ∃ t e, exec (.waitTimeMet q) s = .next t ∧
        Completes q w.f (if w.res = 1 then St.late else St.ok) e.now e.lt s e t ∧
        c.passes [.queues] e ∧ (e.queue q).wait = none ∧
        e.lt = if 0 < (w.t - c.now).toInt then { c.lt.plus (w.t - c.now).toInt with len := 64 } else c.lt) ∧
    (∀ w, c.coreOn = true → (c.queue q).wait = some w → w.kind = .time → 0 ≤ (w.t - (c.advance w.t).next).toInt →
      exec (.waitTimeMet q) s = .next { s with chip := c })) ∧
  ∀ (q : Queue) (f : Insn) (s : State) (b : Chip),
    let c := s.chip.endSwitch
    (s.chip.issuesAs Op.waitPos q f b → f.ext.getLsbD 0 = false → b.moving = true →
      0 ≤ (b.look.getD 0 - f.op).toInt →
      ∃ t, exec (.waitPos q f) s = .next t ∧ Completes q f St.late b.posNow b.lt s b t) ∧
    (s.chip.issuesAs Op.waitPos q f b →
      f.ext.getLsbD 0 = true ∨ b.moving = false ∨ (b.look.getD 0 - f.op).toInt < 0 →
      ∃ t, exec (.waitPos q f) s = .next t ∧ Waits q 0x02 f .position f.op (b.look.getD 0) s b t) ∧
    (∀ w lt, c.coreOn = true → (c.queue q).wait = some w → w.kind = .position → w.code = 0x02 →
      (c.advance lt).moving = true →
      (if w.f.ext.getLsbD 0 then (crossFwd w.res ((c.advance lt).look.getD 0) (w.t.setWidth 32)).isSome
        else decide (0 ≤ ((c.advance lt).look.getD 0 - w.t).toInt)) = true →
      ∃ t e, exec (.positionReached q lt) s = .next t ∧ Completes q w.f St.ok e.posNow e.lt s e t ∧
        c.passes [.queues] e ∧ (e.queue q).wait = none)

/-- CALL enters a routine of the store (R172): ALIGN, RANGE outside the user area or at depth 5 (R173), a wait while a
recall runs (R355), else one level deeper with the routine's first word next; RET in a routine retires, then its CALL with
the count of its instructions; RET outside a routine is ILLEGAL. That the count has the RET in it is the model's reading
(DEDUCED, log entry 20). -/
def Obligations.CallAndRetNestRoutines : Prop :=
  ∀ (q : Queue) (f : Insn) (s : State) (b : Chip),
    (s.chip.issuesAs Op.call q f b → f.tgt.toNat % 16 = 0 → 0x30000000 ≤ f.tgt.toNat → f.tgt.toNat < 0x30040000 →
      (b.queue q).calls.length < 4 → b.nvs.recl = none →
      ∃ t, exec (.call q f) s = .next t ∧ t.pending = s.pending ∧ t.die = s.die ∧ b.keeps [.queues] t.chip ∧
        t.chip.queue q = { b.queue q with calls := ⟨f, f.tgt.toNat, 0, false⟩ :: (b.queue q).calls } ∧
        ∀ k, k ≠ q → t.chip.queue k = b.queue k) ∧
    (s.chip.issuesAs Op.call q f b → f.tgt.toNat % 16 = 0 → 0x30000000 ≤ f.tgt.toNat → f.tgt.toNat < 0x30040000 →
      (b.queue q).calls.length < 4 → b.nvs.recl ≠ none →
      ∃ t, exec (.call q f) s = .next t ∧ Waits q 0x05 f .recallCall 0 0 s b t) ∧
    (s.chip.issuesAs Op.call q f b → f.tgt.toNat % 16 ≠ 0 →
      ∃ t, exec (.call q f) s = .next t ∧ Completes q f St.align 0 b.lt s b t) ∧
    (s.chip.issuesAs Op.call q f b → f.tgt.toNat % 16 = 0 →
      f.tgt.toNat < 0x30000000 ∨ 0x30040000 ≤ f.tgt.toNat ∨ 4 ≤ (b.queue q).calls.length →
      ∃ t, exec (.call q f) s = .next t ∧ Completes q f St.range 0 b.lt s b t) ∧
    (s.chip.issuesAs Op.ret q f b → (b.queue q).calls = [] →
      ∃ t, exec (.ret q f) s = .next t ∧ Completes q f St.illegal 0 b.lt s b t) ∧
    (∀ fr r, s.chip.issuesAs Op.ret q f b → (b.queue q).calls = fr :: r →
      (r = [] → b.prs.rtStore = false ∧ ∀ k, (b.queue k).posted = false) →
      ∃ t e m, exec (.ret q f) s = .next t ∧ Completes q f St.ok 0 b.lt s b m ∧
        m.chip.keeps [.queues] e ∧ (e.queue q).calls = r ∧
        Completes q fr.f (if fr.corr then St.corrected else St.ok) (BitVec.ofNat 64 ((fr.count + 1) % 2 ^ 32)) e.lt s e t)

/-! ### Register access (R182, R185, R190 to R192, R22 to R27) -/

/-- LD, ST, RMW and LD.SNAP on registers: an LD returns the words that its registers read as, RANGE where no table has one;
an ST ends as the register's write ends, one of 8 bytes changes both words or, with the failure of the earlier check, none
(R8, R146); an RMW writes the merge, sum, set or clear of the old value and returns new and old (R191); an LD.SNAP reads its
words of one block in one sample (R192). -/
def Obligations.RegisterAccessesReadAndWriteWords : Prop :=
  ∀ (q : Queue) (f : Insn) (s : State) (b : Chip),
    let a := f.tgt.toNat
    (s.chip.issuesAs Op.ld q f b → f.tx = false → field f.ext 0 2 < 3 → (field f.ext 0 2 = 2 → field f.op 0 32 = 0) →
      a < 0x10000000 → a % (4 * 2 ^ field f.ext 0 2) = 0 →
      (∀ v c, b.readRegs s.die (b.ldSrc q) a (2 ^ field f.ext 0 2) = some (v, c) →
        b.keeps [.lt, .lic] c ∧ c.now = b.now ∧
        ∃ t, exec (.ld q f) s = .next t ∧ Completes q f St.ok (BitVec.ofNat 64 v) b.lt s c t) ∧
      (b.readRegs s.die (b.ldSrc q) a (2 ^ field f.ext 0 2) = none →
        ∃ t, exec (.ld q f) s = .next t ∧ Completes q f St.range 0 b.lt s b t)) ∧
    (s.chip.issuesAs Op.st q f b → f.tx = false → a < 0x10000000 →
      (f.ext.getLsbD 0 = false → a % 4 = 0 → ∀ st c, b.writeReg s.die (Src.ofQueue q) a (f.op.setWidth 32) = (st, c) →
        b.noRecord c → ∃ t, exec (.st q f) s = .next t ∧ Completes q f st 0 b.lt s c t) ∧
      (f.ext.getLsbD 0 = true → a % 8 = 0 → ∀ lo hi c c', b.writeReg s.die (Src.ofQueue q) a (f.op.setWidth 32) = (lo, c) →
        c.writeReg s.die (Src.ofQueue q) (a + 4) (f.op.extractLsb' 32 32) = (hi, c') → failed lo = false →
        failed hi = false → failed (b.writeReg s.die (Src.ofQueue q) (a + 4) (f.op.extractLsb' 32 32)).1 = false →
        b.noRecord c' → ∃ t, exec (.st q f) s = .next t ∧ Completes q f hi 0 b.lt s c' t) ∧
      (f.ext.getLsbD 0 = true → a % 8 = 0 → ∀ st c,
        firstFail [b.writeReg s.die (Src.ofQueue q) a (f.op.setWidth 32),
          b.writeReg s.die (Src.ofQueue q) (a + 4) (f.op.extractLsb' 32 32)] = some (st, c) →
        b.noRecord c → ∃ t, exec (.st q f) s = .next t ∧ Completes q f st 0 b.lt s c t)) ∧
    (s.chip.issuesAs Op.rmw q f b → f.tx = false → a < 0x10000000 → a % 4 = 0 →
      ∀ old c st c', b.readReg s.die (Src.ofQueue q) a = some (old, c) →
        let v : Word := f.op.setWidth 32
        let mask : Word := f.op.extractLsb' 32 32
        let new : Word := match field f.ext 0 2 with
          | 0 => (old &&& ~~~mask) ||| (v &&& mask)
          | 1 => old + v
          | 2 => old ||| v
          | _ => old &&& ~~~v
        c.writeReg s.die (Src.ofQueue q) a new = (st, c') → b.noRecord c' →
        ∃ t, exec (.rmw q f) s = .next t ∧ Completes q f st (if failed st then 0 else new ++ old) b.lt s c' t) ∧
    (s.chip.issuesAs Op.ldSnap q f b → f.tx = false → field f.op 0 32 = 0 → a % 16 = 0 →
      a % 0x10000 + 16 * (field f.ext 0 4 + 1) ≤ 0x10000 → a < 0x150000 →
      ∀ v c, b.readRegs s.die (Src.ofQueue q) a (4 * (field f.ext 0 4 + 1)) = some (v, c) →
        ∃ t, exec (.ldSnap q f) s = .next t ∧ Completes q f St.ok (BitVec.ofNat 64 v) b.lt s c t)

/-- LD and ST on the RAMs (R185): a good word reads and takes the bytes of the store and no others, a correctable one reads
corrected and is written back, an uncorrectable one ends ECC_UNCORR and is poisoned with its record, a store into it ends
POISON; where the record finds no entry of the writer the LD has changed nothing and waits for one (R175). An LD of 16 bytes
with a destination in a RAM that may be one (R182) writes the whole word there with good check bits. -/
def Obligations.LoadsAndStoresReachTheRams : Prop :=
  (∀ (q : Queue) (f : Insn) (s : State) (b : Chip),
    let a := f.tgt.toNat
    let w := field f.ext 0 2
    let n := 4 * 2 ^ w
    let k := if f.ext.getLsbD 0 then 8 else 4
    (s.chip.issuesAs Op.ld q f b → f.tx = false → w < 3 → (w = 2 → field f.op 0 32 = 0) → a % n = 0 →
      0x10000000 ≤ a → loadRange a = none → regionOf a ≠ some 6 → (regionOf a = some 4 → b.mayRead (b.ldSrc q) = true) →
      (b.eccAt a = 0 → ∃ t, exec (.ld q f) s = .next t ∧
        Completes q f St.ok (BitVec.ofNat 64 (memNat 0 b.mem a n)) b.lt s b t) ∧
      (b.eccAt a = 1 → ∃ t e, exec (.ld q f) s = .next t ∧
        Completes q f St.corrected (BitVec.ofNat 64 (memNat 0 b.mem a n)) b.lt s e t ∧
        b.keeps [.ecc, .nvs] e ∧ e.eccAt a = 0) ∧
      (2 ≤ b.eccAt a → b.lic.room = true → ∃ t e r, exec (.ld q f) s = .next t ∧ Completes q f St.eccUncorr 0 b.lt s e t ∧
        b.keeps [.ecc, .nvs, .lic] e ∧ e.eccAt a = 3 ∧ b.oneRecord e r ∧ r.cause = 0x2201) ∧
      (2 ≤ b.eccAt a → 14 ≤ b.lic.general → ∃ t, exec (.ld q f) s = .next t ∧ Waits q 0x10 f .licWriter 0 0 s b t)) ∧
    (s.chip.issuesAs Op.st q f b → f.tx = false → a % k = 0 → 0x10000000 ≤ a → storeRange a = none →
      (regionOf a = some 4 → b.mayWrite (Src.ofQueue q) a = true) →
      (b.eccAt a = 0 → ∃ t e, exec (.st q f) s = .next t ∧ Completes q f St.ok 0 b.lt s e t ∧ b.keeps [.mem, .nvs] e ∧
        memNat 0 e.mem a k = f.op.toNat % 2 ^ (8 * k) ∧ sameOutside 0 b.mem e.mem a k ∧
        (regionOf a ≠ some 4 → e.nvs = b.nvs) ∧
        (regionOf a = some 4 → e.nvs.dirtyP.getLsbD ((a - 0x30000000) / 256) = true)) ∧
      (2 ≤ b.eccAt a → b.lic.room = true → ∃ t e, exec (.st q f) s = .next t ∧ Completes q f St.poison 0 b.lt s e t ∧
        b.keeps [.ecc, .nvs, .lic] e ∧ e.eccAt a = 3))) ∧
  ∀ (q : Queue) (f : Insn) (s : State) (b : Chip),
    let a := f.tgt.toNat
    let dest := field f.op 0 32
    s.chip.issuesAs Op.ld q f b → f.tx = false → field f.ext 0 2 = 2 → a % 16 = 0 → dest ≠ 0 →
      destCheck q dest 1 = none → 0x10000000 ≤ a → loadRange a = none → regionOf a ≠ some 6 → regionOf a ≠ some 4 →
      b.eccAt a = 0 →
      ∃ t e, exec (.ld q f) s = .next t ∧ Completes q f St.ok (BitVec.ofNat 64 (memNat 0 b.mem a 16)) b.lt s e t ∧
        b.keeps [.mem, .ecc] e ∧ e.getWord dest = b.getWord a ∧ e.eccAt dest = 0 ∧ sameOutside 0 b.mem e.mem dest 16

/-- Accesses that end with a failure and change nothing: a width of 3 and an unmapped address RANGE, a misaligned one ALIGN,
a load or store of the system area of the store PRIV, a staged store or RMW above the registers ILLEGAL. -/
def Obligations.RefusedAccessesChangeNothing : Prop :=
  ∀ (q : Queue) (f : Insn) (s : State) (b : Chip),
    let a := f.tgt.toNat
    let ends (i : Instr) (st : Byte) : Prop := ∃ t, exec i s = .next t ∧ Completes q f st 0 b.lt s b t
    (s.chip.issuesAs Op.ld q f b →
      (field f.ext 0 2 = 3 → ends (.ld q f) St.range) ∧
      (field f.ext 0 2 < 3 → a % (4 * 2 ^ field f.ext 0 2) ≠ 0 → ends (.ld q f) St.align) ∧
      (field f.ext 0 2 < 2 → a % (4 * 2 ^ field f.ext 0 2) = 0 → 0x38000000 ≤ a → a < 0x38004000 →
        ends (.ld q f) St.priv) ∧
      (field f.ext 0 2 < 2 → a % (4 * 2 ^ field f.ext 0 2) = 0 → 0x10000000 ≤ a → regionOf a = none →
        ends (.ld q f) St.range)) ∧
    (s.chip.issuesAs Op.st q f b →
      (f.tx = true → 0x10000000 ≤ a → ends (.st q f) St.illegal) ∧
      (f.tx = false → a % (if f.ext.getLsbD 0 then 8 else 4) ≠ 0 → ends (.st q f) St.align) ∧
      (f.tx = false → a % (if f.ext.getLsbD 0 then 8 else 4) = 0 → 0x38000000 ≤ a → a < 0x38004000 →
        ends (.st q f) St.priv)) ∧
    (s.chip.issuesAs Op.rmw q f b →
      (f.tx = true → 0x10000000 ≤ a → ends (.rmw q f) St.illegal) ∧
      (f.tx = false → a % 4 ≠ 0 → ends (.rmw q f) St.align)) ∧
    (s.chip.issuesAs Op.ldSnap q f b → a % 16 ≠ 0 → ends (.ldSnap q f) St.align)

/-! ### Fabric (R194 to R197, R235, R237) -/

/-- TERM.WR and MC.CFG write their bytes of the shadow plane and no others (with base, over a copy of the active plane),
discard a staged stream, and are LOCKED when the part is SEALED, with a violation. FROND.SAFE and FROND.RUN place the fronds
of their mask in the state they name, advance the generation of each frond they change and return the mask of those; no
other frond, plane or signature changes. A mask of 0 is RANGE. Where the data path has changed a frond in the same cc, a
FROND.SAFE of the management path that leads to the safer state wins, one generation advanced, and one that leads to the
less safe state completes STALE and changes nothing (R133). -/
def Obligations.FabricInstructions : Prop :=
  (∀ (q : Queue) (f : Insn) (s : State) (b : Chip),
    let n := field f.tgt 0 5
    let x := vget b.fronds n
    let edits (i : Instr) (off len : Nat) : Prop :=
      (s.die.sealed = false → x.shadowBusy = false → b.barred q false x.claim = false →
        ∃ t e, exec i s = .next t ∧ Completes q f St.ok 0 b.lt s e t ∧ b.keeps [.mem, .fronds, .prs, .scr, .cams] e ∧
          memNat 0 e.mem (b.shadowBase n + off) len = f.op.toNat % 2 ^ (8 * len) ∧
          (f.ext.getLsbD 0 = false → sameOutside 0 b.mem e.mem (b.shadowBase n + off) len ∧
            (vget e.fronds n).shadowOk = x.shadowOk) ∧
          (f.ext.getLsbD 0 = true → sameOutside 0 b.mem e.mem (b.shadowBase n) 13024 ∧
            (vget e.fronds n).shadowOk = true) ∧
          e.prs.staged = none ∧ ∀ k, k < 32 → k ≠ n → vget e.fronds k = vget b.fronds k) ∧
      (s.die.sealed = true → b.lic.room = true →
        ∃ t e, exec i s = .next t ∧ Completes q f St.locked 0 b.lt s e t ∧ b.keeps [.sec, .lic] e ∧
          e.sec.viol = satAdd b.sec.viol 1 ∧ e.sec.evt.getLsbD 0 = true)
    (s.chip.issuesAs Op.termWr q f b → f.tx = false → field f.tgt 8 9 < 352 → field f.tgt 17 3 < 5 →
      edits (.termWr q f) (36 * field f.tgt 8 9 + 8 * field f.tgt 17 3) (if field f.tgt 17 3 = 4 then 4 else 8)) ∧
    (s.chip.issuesAs Op.termWr q f b → 352 ≤ field f.tgt 8 9 ∨ 5 ≤ field f.tgt 17 3 →
      ∃ t, exec (.termWr q f) s = .next t ∧ Completes q f St.range 0 b.lt s b t) ∧
    (s.chip.issuesAs Op.mcCfg q f b → f.tx = false → mcCfgOk (f.op.setWidth 16) = true →
      edits (.mcCfg q f) (12672 + 2 * field f.tgt 8 6) 2)) ∧
  ∀ (q : Queue) (f : Insn) (s : State) (b : Chip),
    let mask : Word := f.op.setWidth 32
    let places (i : Instr) (st : FrondState) : Prop := ∃ t e res, exec i s = .next t ∧
      Completes q f St.ok res b.lt s e t ∧ b.keeps [.fronds, .pins, .banks, .edg, .scr] e ∧
      ∀ n, n < 32 →
        let x := vget b.fronds n
        let moves := mask.getLsbD n && x.st != st && (st != .run || (x.activeOk && x.check != 3))
        res.getLsbD n = moves ∧ (vget e.fronds n).st = (if moves then st else x.st) ∧
          (vget e.fronds n).gen = (if moves then x.gen + 1 else x.gen) ∧ (vget e.fronds n).plane = x.plane ∧
          (vget e.fronds n).golden = x.golden ∧ (vget e.fronds n).shadowOk = x.shadowOk
    (s.chip.issuesAs Op.frondSafe q f b → f.tx = false → mask ≠ 0 → q ≠ 5 ∨ b.memo.units = [] →
      places (.frondSafe q f) (if f.ext.getLsbD 0 then .reset else .safe)) ∧
    (∀ n u, s.chip.issuesAs Op.frondSafe q f b → q = 5 → f.tx = false → n < 32 → mask = bitW n true →
      let st := if f.ext.getLsbD 0 then FrondState.reset else FrondState.safe
      (b.contest (.frond n) (if st = .safe then 0 else 1) = some (.lt, u) →
        ∃ t e res, exec (.frondSafe q f) s = .next t ∧ Completes q f St.ok res b.lt s e t ∧
          (vget e.fronds n).st = st ∧ (vget e.fronds n).gen = u.gen + 1) ∧
      (b.contest (.frond n) (if st = .safe then 0 else 1) = some (.gt, u) →
        ∃ t e, exec (.frondSafe q f) s = .next t ∧ Completes q f St.stale 0 b.lt s e t ∧ b.keeps [.mgt] e ∧
          e.mgt = { b.mgt with stale := satAdd b.mgt.stale 1 })) ∧
    (s.chip.issuesAs Op.frondRun q f b → f.tx = false → mask ≠ 0 → b.prs.ldr ≠ .loader → b.suspect mask = false →
      places (.frondRun q f) .run) ∧
    (s.chip.issuesAs Op.frondRun q f b → mask ≠ 0 → b.prs.ldr = .loader →
      ∃ t, exec (.frondRun q f) s = .next t ∧ Completes q f St.illegal 0 b.lt s b t) ∧
    (s.chip.issuesAs Op.frondSafe q f b → mask = 0 →
      ∃ t, exec (.frondSafe q f) s = .next t ∧ Completes q f St.range 0 b.lt s b t)

/-- PLANE.SWAP exchanges plane, signatures and their sources of every frond of its mask on one edge and advances their
generations (R235, R334); other fronds stay. An incomplete or busy shadow is BUSY. PLANE.SWAP.AT (R197): with a free context
and a position not passed it opens the context, claims its fronds at their generations and waits; with no context free it
waits for one, and keeps that its position had passed at issue (R180); in an open transaction it is ILLEGAL. At its
position, POSITION_REACHED, the planes of its fronds swap and the context and its claims end; a frond whose generation has
moved since makes it STALE, and nothing swaps. -/
def Obligations.PlaneSwapsExchangePlanes : Prop :=
  (∀ (q : Queue) (f : Insn) (s : State) (b : Chip),
    let mask : Word := f.op.setWidth 32
    (s.chip.issuesAs Op.planeSwap q f b → f.tx = false → mask ≠ 0 → b.swapCheck q false mask = none →
      ∃ t e, exec (.planeSwap q f) s = .next t ∧ Completes q f St.ok (mask.setWidth 64) b.lt s e t ∧
        b.keeps [.fronds, .cams, .scr, .prs] e ∧ e.prs.staged = none ∧
        ∀ n, n < 32 →
          let x := vget b.fronds n
          let y := vget e.fronds n
          y.st = x.st ∧ (if mask.getLsbD n then
            y.plane = !x.plane ∧ y.golden = x.shadowSig ∧ y.shadowSig = x.golden ∧ y.shadowOk = x.planeOk ∧ y.planeOk = x.shadowOk ∧
              y.gsrc = x.ssrc ∧ y.ssrc = x.gsrc ∧ y.gen = x.gen + 1
          else y = x)) ∧
    (s.chip.issuesAs Op.planeSwap q f b → mask ≠ 0 → (q = 6 → b.scr.irpEn = false) →
      (∃ n, n < 32 ∧ mask.getLsbD n = true ∧
        ((vget b.fronds n).shadowOk = false ∨ (vget b.fronds n).shadowBusy = true)) →
      ∃ t, exec (.planeSwap q f) s = .next t ∧ Completes q f St.busy 0 b.lt s b t)) ∧
  ∀ (q : Queue) (f : Insn) (s : State) (b : Chip) (k : Fin 4),
    (s.chip.issuesAs Op.planeSwapAt q f b → f.tgt ≠ 0 → b.txnOf q = none → (b.queue q).posted = false →
      b.freeCtx = some k → b.swapCheck q true f.tgt = none → b.passed f = false → b.scr.stg = none →
      (∀ n, n < 32 → (vget b.fronds n).claim = none) →
      ∃ t e, exec (.planeSwapAt q f) s = .next t ∧ Waits q 0x25 f .position f.op (b.look.getD 0) s e t ∧
        b.keeps [.fronds, .ctxs, .queues, .serial] e ∧ e.txnOf q = some k ∧
        (vget e.eng.ctxs k.val).isOpen = true ∧ (vget e.eng.ctxs k.val).owner = q ∧
        (vget e.eng.ctxs k.val).waiting = true ∧
        (∀ n, n < 32 → vget e.fronds n =
          { vget b.fronds n with claim := if f.tgt.getLsbD n then some k else none }) ∧
        ∀ n, n < 32 → ((n, (vget b.fronds n).gen) ∈ (vget e.eng.ctxs k.val).fclaims ↔ f.tgt.getLsbD n = true)) ∧
    (s.chip.issuesAs Op.planeSwapAt q f b → f.tgt ≠ 0 → b.txnOf q = none → (b.queue q).posted = false → b.freeCtx = none →
      ∃ t, exec (.planeSwapAt q f) s = .next t ∧ Waits q 0x25 f .context (if b.passed f then 1 else 0) 0 s b t) ∧
    (s.chip.issuesAs Op.planeSwapAt q f b → f.tgt ≠ 0 → b.txnOf q = some k →
      ∃ t, exec (.planeSwapAt q f) s = .next t ∧ Completes q f St.illegal 0 b.lt s b t) ∧
    ∀ w lt,
      let c := s.chip.endSwitch
      let a := c.advance lt
      let mask : Word := w.f.tgt
      let closed (e : Chip) : Prop := vget e.eng.ctxs k.val = Ctx.reset ∧ e.txnOf q = none ∧ (e.queue q).wait = none ∧
        ∀ n, n < 32 → (vget e.fronds n).claim ≠ some k
      c.coreOn = true → (c.queue q).wait = some w → w.kind = .position → w.code = 0x25 → c.txnOf q = some k →
      (vget c.eng.ctxs k.val).owner = q → a.moving = true →
      (if w.f.ext.getLsbD 0 then (crossFwd w.res (a.look.getD 0) (w.t.setWidth 32)).isSome
        else decide (0 ≤ (a.look.getD 0 - w.t).toInt)) = true →
      (a.claimsGood k = true →
        (∀ n, n < 32 → mask.getLsbD n = true → (vget c.fronds n).shadowOk = true ∧ (vget c.fronds n).shadowBusy = false) →
        ∃ t e, exec (.positionReached q lt) s = .next t ∧ Completes q w.f St.ok (mask.setWidth 64) a.lt s e t ∧
          a.keeps [.fronds, .cams, .scr, .prs, .ctxs, .queues, .memo] e ∧ closed e ∧
          ∀ n, n < 32 →
            let x := vget c.fronds n
            let y := vget e.fronds n
            y.st = x.st ∧ (if mask.getLsbD n then
              y.plane = !x.plane ∧ y.golden = x.shadowSig ∧ y.shadowSig = x.golden ∧ y.gen = x.gen + 1
            else y.plane = x.plane ∧ y.golden = x.golden ∧ y.gen = x.gen)) ∧
      (a.claimsGood k = false →
        ∃ t e, exec (.positionReached q lt) s = .next t ∧ Completes q w.f St.stale 0 a.lt s e t ∧
          a.keeps [.fronds, .cams, .ctxs, .queues] e ∧ closed e ∧
          ∀ n, n < 32 → (vget e.fronds n).plane = (vget c.fronds n).plane ∧ (vget e.fronds n).gen = (vget c.fronds n).gen)

/-! ### Edges and captures (R198 to R200, R254 to R256, R262) -/

/-- EDGE.SET and EDGE.PULSE put one request at the tail of their pin's queue; with an absolute time T they return the edge's
time, OK_LATE when T falls before the end of this cc; an edge that the board delay would place before that end moves to step
0 of the next cc, late; into an empty queue the edge is known at once (R199, R250, R254 to R256). A full queue is BUSY, an
edge that Table ISA-5 does not allow RANGE. That T is judged at acceptance and the edge where it is placed (DEDUCED, log
entry 79), and that an immediate edge is never late (DEDUCED, log entry 81), is the model's reading. -/
def Obligations.EdgeRequestsEnterTheirQueue : Prop :=
  ∀ (q : Queue) (f : Insn) (s : State) (b : Chip),
    let p := field f.tgt 0 8
    let x := vget b.pins p
    let mode : BitVec 2 := f.ext.extractLsb' 0 2
    let dly : BitVec 64 := (x.cfg.extractLsb' 16 8).signExtend 64
    let late := decide ((f.op - b.next).toInt < 0)
    let moved := decide ((f.op - dly - b.next).toInt < 0)
    let res : DWord := if mode = 1 then 0 else if mode = 2 ∨ moved = true then b.next + dly else f.op
    let rules (o : OpInfo) (i : Instr) (lead : BitVec 2) (trail : Option (BitVec 64 × BitVec 2)) : Prop :=
      s.chip.issuesAs o q f b →
      (edgeRange b o.code f = true → f.tx = false → x.q.length < 8 →
        ∃ t e r, exec i s = .next t ∧ Completes q f (if mode = 0 ∧ late = true then St.late else St.ok) res b.lt s e t ∧ b.keeps [.pins] e ∧
          vget e.pins p = { x with q := x.q ++ [r] } ∧ (∀ k, k < 192 → k ≠ p → vget e.pins k = vget b.pins k) ∧
          r.mode = mode ∧ r.lead = lead ∧ r.trail = trail ∧
          (mode = 0 → x.q = [] → r.edge = some ⟨res, lead, moved || late, trail⟩) ∧
          (mode = 2 → x.q = [] → r.edge = some ⟨res, lead, false, trail⟩)) ∧
      (edgeRange b o.code f = true → f.tx = false → 8 ≤ x.q.length →
        ∃ t, exec i s = .next t ∧ Completes q f St.busy 0 b.lt s b t) ∧
      (edgeRange b o.code f = false → ∃ t, exec i s = .next t ∧ Completes q f St.range 0 b.lt s b t)
    rules Op.edgeSet (.edgeSet q f) (f.tgt.extractLsb' 8 2) none ∧
    rules Op.edgePulse (.edgePulse q f) (if f.tgt.getLsbD 8 then 1 else 0)
      (some (BitVec.ofNat 64 (widthTicks (field f.ext 2 2) (field f.tgt 12 20)), if f.tgt.getLsbD 8 then 0 else 1))

/-- EDGE.CAL measures the idle pins of its bank and ends a pass, the residual being a free value (log entry 2); CAP.ARM arms
a TCU for the edges it names and forgets the last capture on an arming; CAP.READ returns the last capture with its edge in
bit 63, all ones without one. PIN.SAFE sets or clears the safe force of the pins of its mask and returns those it changed;
from Q5 it needs the bank's generation in MGT.EXPECT, else STALE (R132, R200, R241). -/
def Obligations.PinInstructions : Prop :=
  (∀ (q : Queue) (f : Insn) (s : State) (b : Chip),
    let p := field f.tgt 0 8
    let k := field f.tgt 0 4
    (s.chip.issuesAs Op.edgeCal q f b → k < 12 →
      ∃ t e res, exec (.edgeCal q f) s = .next t ∧ Completes q f St.ok res b.lt s e t ∧ b.keeps [.pins, .banks, .freeIx] e ∧
        (∀ i, i < 16 → res.getLsbD i = (vget b.pins (16 * k + i)).idle) ∧
        (∀ i, i < 16 → vget e.pins (16 * k + i) = { vget b.pins (16 * k + i) with
          measured := (vget b.pins (16 * k + i)).measured || (vget b.pins (16 * k + i)).idle }) ∧
        (vget e.banks k).passes = (vget b.banks k).passes + 1) ∧
    (s.chip.issuesAs Op.edgeCal q f b → 12 ≤ k →
      ∃ t, exec (.edgeCal q f) s = .next t ∧ Completes q f St.range 0 b.lt s b t) ∧
    (s.chip.issuesAs Op.capArm q f b → p < 192 →
      ∃ t e, exec (.capArm q f) s = .next t ∧ Completes q f St.ok 0 b.lt s e t ∧ b.keeps [.pins] e ∧
        (vget e.pins p).tcu = f.ext.extractLsb' 0 2 ∧
        ((vget b.pins p).tcu = 0 → f.ext.extractLsb' 0 2 ≠ 0 → (vget e.pins p).cap = none) ∧
        ((vget b.pins p).tcu ≠ 0 → (vget e.pins p).cap = (vget b.pins p).cap) ∧
        ∀ j, j < 192 → j ≠ p → vget e.pins j = vget b.pins j) ∧
    (s.chip.issuesAs Op.capRead q f b → p < 192 →
      ((vget b.pins p).cap = none →
        ∃ t, exec (.capRead q f) s = .next t ∧ Completes q f St.ok 0xFFFFFFFFFFFFFFFF b.lt s b t) ∧
      ∀ at_ r, (vget b.pins p).cap = some (at_, r) →
        ∃ t res, exec (.capRead q f) s = .next t ∧ Completes q f St.ok res b.lt s b t ∧ res.getLsbD 63 = r ∧
          res.extractLsb' 0 63 = at_.extractLsb' 0 63) ∧
    (s.chip.issuesAs Op.capRead q f b → 192 ≤ p →
      ∃ t, exec (.capRead q f) s = .next t ∧ Completes q f St.range 0 b.lt s b t)) ∧
  ∀ (q : Queue) (f : Insn) (s : State) (b : Chip),
    let k := field f.tgt 0 4
    let mask := field f.op 0 16
    let match_ := b.mgt.expValid && b.mgt.expGen == (vget b.banks k).gen
    (s.chip.issuesAs Op.pinSafe q f b → f.tx = false → k < 12 → mask ≠ 0 → (q = 5 → match_ = true ∧ b.memo.units = []) →
      ∃ t e res, exec (.pinSafe q f) s = .next t ∧ Completes q f St.ok res b.lt s e t ∧
        b.keeps [.pins, .banks, .edg, .mgt] e ∧ (q ≠ 5 → e.mgt = b.mgt) ∧ (q = 5 → e.mgt.expValid = false) ∧
        (∀ i, i < 16 → (vget e.pins (16 * k + i)).psafe
          = if mask.testBit i then !f.ext.getLsbD 0 else (vget b.pins (16 * k + i)).psafe) ∧
        (∀ i, i < 16 → res.getLsbD i
          = (mask.testBit i && (vget b.pins (16 * k + i)).psafe == f.ext.getLsbD 0)) ∧
        ∀ j, j < 192 → (j < 16 * k ∨ 16 * k + 16 ≤ j) → (vget e.pins j).psafe = (vget b.pins j).psafe) ∧
    (s.chip.issuesAs Op.pinSafe q f b → f.tx = false → k < 12 → mask ≠ 0 → q = 5 → match_ = false → b.memo.units = [] →
      ∃ t e, exec (.pinSafe q f) s = .next t ∧ Completes q f St.stale 0 b.lt s e t ∧ b.keeps [.mgt] e ∧
        e.mgt.expValid = false ∧ e.mgt.stale = satAdd b.mgt.stale 1) ∧
    (s.chip.issuesAs Op.pinSafe q f b → 12 ≤ k ∨ mask = 0 →
      ∃ t, exec (.pinSafe q f) s = .next t ∧ Completes q f St.range 0 b.lt s b t)

/-! ### Cams (R201 to R203, R275 to R277, R283) -/

/-- CAM.LOAD gives a disarmed, unclaimed cam the breakpoints of the capture RAM words it names, in order, when they pass the
table check (R202, R276); its latch and waiting crossings clear and its generation advances. An armed cam is BUSY, a table
that fails the check RANGE. CAM.ARM arms a cam that holds a table, RANGE without one; CAM.DISARM disarms it, from Q5 with
its generation (R132), from Q7 with CAM.EVT.auto_disarm; CAM.NUDGE adds to the pending offset and returns the sum (R203,
R283). A CAM.DISARM of the management path wins over an arming by the data path in the same cc: the generation advances
once, and the other instruction counts an error (R133). -/
def Obligations.CamInstructions : Prop :=
  (∀ (q : Queue) (f : Insn) (s : State) (b : Chip),
    let n := field f.tgt 0 5
    let a := field f.op 0 32
    let count := field f.op 32 13
    let x := vget b.cams n
    let ws := (List.range count).map fun i => b.getWord (a + 16 * i)
    s.chip.issuesAs Op.camLoad q f b → a % 16 = 0 → 1 ≤ count → count ≤ 4096 → 0x10000000 ≤ a → a + 16 * count ≤ 0x10100000 →
      f.tx = false →
      (x.armed = true → ∃ t, exec (.camLoad q f) s = .next t ∧ Completes q f St.busy 0 b.lt s b t) ∧
      (x.armed = false → x.claim = none → count ≤ b.tabFree + x.table.length → (∀ i, i < count → b.eccAt (a + 16 * i) = 0) →
        (∀ tab, tableOf ws = some tab →
          ∃ t e, exec (.camLoad q f) s = .next t ∧ Completes q f St.ok (BitVec.ofNat 64 count) b.lt s e t ∧
            b.keeps [.cams] e ∧
            vget e.cams n = { x with table := tab, tabOk := true, latch := none, waiting := [], gen := x.gen + 1 } ∧
            ∀ k, k < 32 → k ≠ n → vget e.cams k = vget b.cams k) ∧
        (tableOf ws = none → ∃ t, exec (.camLoad q f) s = .next t ∧ Completes q f St.range 0 b.lt s b t))) ∧
  ∀ (q : Queue) (f : Insn) (s : State) (b : Chip),
    let n := field f.tgt 0 5
    let x := vget b.cams n
    let only (e : Chip) : Prop := ∀ k, k < 32 → k ≠ n → vget e.cams k = vget b.cams k
    let good := b.mgt.expValid && b.mgt.expGen == x.gen
    (s.chip.issuesAs Op.camArm q f b → f.tx = false →
      (x.tabOk = false → ∃ t, exec (.camArm q f) s = .next t ∧ Completes q f St.range 0 b.lt s b t) ∧
      (x.tabOk = true → x.claim = none → ∃ t e, exec (.camArm q f) s = .next t ∧ Completes q f St.ok 0 b.lt s e t ∧
        b.keeps [.cams] e ∧ only e ∧ (vget e.cams n).armed = true ∧ (x.armed = true → vget e.cams n = x) ∧
        (x.armed = false → vget e.cams n
          = { x with armed := true, latch := none, waiting := [], prevQ := b.look.getD 0, gen := x.gen + 1 }))) ∧
    (s.chip.issuesAs Op.camDisarm q f b → f.tx = false → (q = 5 → good = true ∧ b.memo.units = []) →
      ∃ t e, exec (.camDisarm q f) s = .next t ∧ Completes q f St.ok 0 b.lt s e t ∧ b.keeps [.cams, .mgt, .pos] e ∧ only e ∧
        (x.armed = true → vget e.cams n = { x with armed := false, latch := none, waiting := [], gen := x.gen + 1 }) ∧
        (x.armed = false → vget e.cams n = x) ∧ (q ≠ 5 → e.mgt = b.mgt) ∧ (q = 5 → e.mgt.expValid = false) ∧
        (q = 7 → x.armed = true → e.pos.evt.getLsbD 6 = true) ∧ (q ≠ 7 → e.pos = b.pos)) ∧
    (∀ u, s.chip.issuesAs Op.camDisarm q f b → f.tx = false → q = 5 → u.queue ≠ 5 → b.contest (.cam n) 0 = some (.lt, u) →
      u.unit = .cam n → b.mgt.expValid = true → b.mgt.expGen = u.gen → (b.queue u.queue).wait = none →
      ∃ t e, exec (.camDisarm q f) s = .next t ∧ Completes q f St.ok 0 b.lt s e t ∧ only e ∧
        (vget e.cams n).armed = false ∧ (vget e.cams n).gen = u.gen + 1 ∧
        (e.queue u.queue).errs = satAdd16 (b.queue u.queue).errs 1) ∧
    (s.chip.issuesAs Op.camDisarm q f b → f.tx = false → q = 5 → good = false → b.memo.units = [] →
      ∃ t e, exec (.camDisarm q f) s = .next t ∧ Completes q f St.stale 0 b.lt s e t ∧ b.keeps [.mgt] e ∧
        e.mgt.expValid = false ∧ e.mgt.stale = satAdd b.mgt.stale 1) ∧
    (s.chip.issuesAs Op.camNudge q f b → f.tx = false →
      (x.claim ≠ none → x.claim ≠ b.txnOf q →
        ∃ t, exec (.camNudge q f) s = .next t ∧ Completes q f St.busy 0 b.lt s b t) ∧
      (x.claim = none → ∃ t e, exec (.camNudge q f) s = .next t ∧
        Completes q f St.ok ((x.pend + f.op.setWidth 32).setWidth 64) b.lt s e t ∧ b.keeps [.cams] e ∧ only e ∧
        vget e.cams n = { x with pend := x.pend + f.op.setWidth 32 }))

/-! ### The persistent store (R204 to R207, R342 to R367) -/

/-- NV.WR writes eight bytes, or 1 to 16 whole words, corrected where their source needs it, that wrap within their page,
none written twice, and clear poison (R205), and marks the page dirty; NV.RD reads eight bytes. A write that protection
forbids is LOCKED with a violation. CTR.INC adds to a counter modulo 2^48, marks it dirty and returns the new value with the
wrap in bit 48; CTR.RD returns the majority of its copies; every other counter keeps its value (R207, R343, R360). -/
def Obligations.StoreAccesses : Prop :=
  (∀ (q : Queue) (f : Insn) (s : State) (b : Chip),
    let a := f.tgt.toNat
    let n := field f.ext 0 5
    let src := field f.op 0 32
    let page := (a - 0x30000000) / 256
    (s.chip.issuesAs Op.nvWr q f b → f.ext.getLsbD 7 = true → a % 8 = 0 → 0x30000000 ≤ a → a + 8 ≤ 0x30040000 →
      (b.mayWrite (Src.ofQueue q) a = false → b.lic.room = true →
        ∃ t e, exec (.nvWr q f) s = .next t ∧ Completes q f St.locked 0 b.lt s e t ∧ b.keeps [.sec, .lic] e ∧
          e.sec.viol = satAdd b.sec.viol 1 ∧ e.sec.lastaddr = f.tgt) ∧
      (b.mayWrite (Src.ofQueue q) a = true → f.tx = false → b.eccAt a = 0 →
        ∃ t e, exec (.nvWr q f) s = .next t ∧ Completes q f St.ok 0 b.lt s e t ∧ b.keeps [.mem, .nvs] e ∧
          memNat 0 e.mem a 8 = f.op.toNat ∧ sameOutside 0 b.mem e.mem a 8 ∧
          (∀ p, p < 1088 → e.nvs.dirtyP.getLsbD p = (b.nvs.dirtyP.getLsbD p || p == page)))) ∧
    (s.chip.issuesAs Op.nvWr q f b → f.ext.getLsbD 7 = false → a % 16 = 0 → 0x30000000 ≤ a → a + 16 ≤ 0x30040000 →
      src % 16 = 0 → 1 ≤ n → n ≤ 16 → destCheck q src n = none → b.mayWrite (Src.ofQueue q) a = true → f.tx = false →
      (∀ i, i < n → b.eccAt (src + 16 * i) ≤ 1) →
      let word (i : Nat) : Nat := a / 256 * 256 + (a + 16 * i) % 256
      let fixed : Prop := ∃ i, i < n ∧ b.eccAt (src + 16 * i) = 1
      (∀ i j, i < n → j < n → i ≠ j → word i ≠ word j) ∧
      ∃ t e st, exec (.nvWr q f) s = .next t ∧ Completes q f st 0 b.lt s e t ∧ b.keeps [.mem, .ecc, .nvs] e ∧
        (fixed → st = St.corrected) ∧ (¬ fixed → st = St.ok) ∧
        (∀ i, i < n → e.getWord (word i) = b.getWord (src + 16 * i) ∧ e.eccAt (word i) = 0) ∧
        (∀ i, i < n → e.eccAt (src + 16 * i) = 0) ∧
        sameOutside 0 b.mem e.mem (a / 256 * 256) 256 ∧ e.nvs.dirtyP.getLsbD page = true) ∧
    (s.chip.issuesAs Op.nvRd q f b → a % 8 = 0 → 0x30000000 ≤ a → a + 8 ≤ 0x30040000 →
      b.mayRead (Src.ofQueue q) = true → f.tx = false → b.eccAt a = 0 →
      ∃ t, exec (.nvRd q f) s = .next t ∧ Completes q f St.ok (BitVec.ofNat 64 (memNat 0 b.mem a 8)) b.lt s b t) ∧
    (s.chip.issuesAs Op.nvRd q f b → a % 8 ≠ 0 →
      ∃ t, exec (.nvRd q f) s = .next t ∧ Completes q f St.align 0 b.lt s b t)) ∧
  ∀ (q : Queue) (f : Insn) (s : State) (b : Chip),
    let k := field f.tgt 0 6
    let v : BitVec 48 := f.op.setWidth 48
    (s.chip.issuesAs Op.ctrInc q f b → f.tx = false →
      ∃ t e, exec (.ctrInc q f) s = .next t ∧
        Completes q f St.ok ((b.ctrVal k + v).setWidth 64
          ||| (if 2 ^ 48 ≤ (b.ctrVal k).toNat + v.toNat then 0x0001000000000000 else 0)) b.lt s e t ∧
        b.keeps [.nvs] e ∧ e.ctrVal k = b.ctrVal k + v ∧ (∀ j, j < 64 → j ≠ k → e.ctrVal j = b.ctrVal j) ∧
        (∀ j, j < 64 → e.nvs.dirtyC.getLsbD j = (b.nvs.dirtyC.getLsbD j || j == k)) ∧ e.nvs.dirtyP = b.nvs.dirtyP) ∧
    (s.chip.issuesAs Op.ctrRd q f b → f.tx = false →
      ∃ t e, exec (.ctrRd q f) s = .next t ∧ Completes q f St.ok ((b.ctrVal k).setWidth 64) b.lt s e t ∧
        b.keeps [.nvs] e ∧ (∀ j, j < 64 → e.ctrVal j = b.ctrVal j) ∧ e.nvs.dirtyC = b.nvs.dirtyC)

/-- NV.STORE outside a routine takes every dirty page and counter in one cc and waits for its record (R346, R347), ends at
once with nothing dirty, and is posted inside a routine (R174); STORE_COMMIT programs the next generation, clears the
in-flight marks and retires the waiting NV.STORE (R348). NV.RECALL holds the store port and waits; RECALL_TRANSFER loads the
newest generation: every page of the SRAM equals its copy, no dirty mark is left, the generation is the record's, and the
waiting NV.RECALL ends (R352, R355). -/
def Obligations.StoresAndRecallsMoveGenerations : Prop :=
  ((∀ (q : Queue) (f : Insn) (s : State) (b : Chip), s.chip.issuesAs Op.nvStore q f b →
    ((b.queue q).calls = [] → (b.queue q).posted = false → b.portFree = true → b.nvs.dirtyP = 0 → b.nvs.dirtyC = 0 →
      ∃ t, exec (.nvStore q f) s = .next t ∧ Completes q f St.ok 0 b.lt s b t) ∧
    ((b.queue q).calls = [] → (b.queue q).posted = false → b.portFree = true → b.nvs.dirtyP ≠ 0 ∨ b.nvs.dirtyC ≠ 0 →
      ∃ t e o, exec (.nvStore q f) s = .next t ∧
        Waits q 0x62 f .storeDone 0 (BitVec.ofNat 64 (o.pages.length % 2048 * 256)) s e t ∧ b.keeps [.nvs, .ecc, .lic] e ∧
        e.nvs.store = some o ∧ o.queue = some q ∧ o.ctx = none ∧ o.kind = 0 ∧
        (∀ p, p ∈ o.pages ↔ b.nvs.dirtyP.getLsbD p = true) ∧ (∀ k, k ∈ o.ctrs ↔ b.nvs.dirtyC.getLsbD k = true) ∧
        e.nvs.dirtyP = 0 ∧ e.nvs.dirtyC = 0 ∧ e.nvs.flyP = b.nvs.flyP ||| b.nvs.dirtyP ∧
        e.nvs.flyC = b.nvs.flyC ||| b.nvs.dirtyC) ∧
    ((b.queue q).calls ≠ [] →
      ∃ t e, exec (.nvStore q f) s = .next t ∧ Completes q f St.ok 1 b.lt s e t ∧ b.keeps [.queues, .nvQ] e ∧
        (e.queue q).posted = true)) ∧
  ∀ (s : State) (o : StoreOp) (q : Queue) (w : Wait),
    let c := s.chip.endSwitch
    c.nvs.store = some o → c.storeOn = true → o.queue = some q → o.ctx = none → o.kind ≠ 3 →
    (c.queue q).wait = some w → w.kind = .storeDone → c.prs.rtStore = false → (∀ k, (c.queue k).posted = false) →
    ∃ t e, exec .storeCommit s = .next t ∧ Completes q w.f (if w.t = 1 then St.late else St.ok) w.res e.lt s e t ∧
      c.keeps [.nvs, .queues] e ∧ (e.queue q).wait = none ∧ e.nvs.store = none ∧ e.nvs.gen = c.nvs.nextGen ∧
      e.nvs.nextGen = c.nvs.nextGen + 1 ∧ e.nvs.evt.getLsbD 0 = true ∧
      (∀ p, p < 1088 → e.nvs.flyP.getLsbD p = (c.nvs.flyP.getLsbD p && !o.pages.contains p)) ∧
      (∃ i, i < 2 ∧ (vget e.nvs.slots i).valid = true ∧ (vget e.nvs.slots i).gen = c.nvs.nextGen ∧
        (vget e.nvs.slots i).magic = 0x434E4547 ∧ (vget e.nvs.slots i).kind = o.kind.setWidth 8 ∧
        (vget e.nvs.slots i).pages = BitVec.ofNat 16 o.pages.length ∧
        (vget e.nvs.slots i).ctrs = BitVec.ofNat 8 o.ctrs.length)) ∧
  (∀ (q : Queue) (f : Insn) (s : State) (b : Chip), s.chip.issuesAs Op.nvRecall q f b →
    ((b.queue q).calls ≠ [] → ∃ t, exec (.nvRecall q f) s = .next t ∧ Completes q f St.busySelf 0 b.lt s b t) ∧
    ((∀ k, (b.queue k).calls = []) → (b.queue q).posted = false → b.portFree = true →
      ∃ t e, exec (.nvRecall q f) s = .next t ∧ Waits q 0x63 f .recl 0 0 s e t ∧ b.keeps [.nvs] e ∧
        e.nvs = { b.nvs with recl := some (some q) })) ∧
  ∀ (s : State) (o : Option Queue) (r : CommitRec) (i : Nat),
    let c := s.chip.endSwitch
    c.nvs.recl = some o → c.coreOn = true → c.nvs.newest = some (r, i) → c.nvs.bpl = false →
    ∃ t, exec .recallTransfer s = .next t ∧ t.pending = s.pending ∧ t.die = s.die ∧ t.chip.nvs.recl = none ∧
      t.chip.nvs.gen = r.gen ∧ t.chip.nvs.evt.getLsbD 1 = true ∧ t.chip.nvs.copyA = c.nvs.copyA ∧
      t.chip.nvs.copyB = c.nvs.copyB ∧ t.chip.nvs.dirtyP = 0 ∧ t.chip.nvs.dirtyC = 0 ∧
      (∀ p k, p < 1088 → k < 256 → memRead 0 t.chip.mem (pageAddr p + k)
        = memRead 0 (if r.map.getLsbD p then c.nvs.copyB else c.nvs.copyA) (256 * p + k)) ∧
      ∀ q w, o = some q → (c.queue q).wait = some w → w.kind = .recl → (t.chip.queue q).wait = none ∧
        (t.chip.queue q).rnext = (c.queue q).rnext + (if w.f.cmpl then 1 else 0)

/-- NV.UNLOCK: the relock form relocks its channel; the right password unlocks it with 8 attempts again, a wrong one takes
an attempt, is LOCKED with a violation and locks the channel out at the last (R366). NV.PROT sets bp and the lock of bp and
returns the old bp, LOCKED while bpl is set (R367). PW.SET stores password and mode of its channel, relocks it and gives it
8 attempts, pages 1,024 and 1,025 becoming dirty (R367); SEC.STAT changes nothing and returns attempts, lockouts and
violations (Table ISA-11). -/
def Obligations.PasswordsProtectTheStore : Prop :=
  (∀ (q : Queue) (f : Insn) (s : State) (b : Chip),
    (s.chip.issuesAs Op.nvUnlock q f b → q ≠ 5 →
      (f.ext.getLsbD 0 = true → ∃ t e, exec (.nvUnlock q f) s = .next t ∧
        Completes q f St.ok (b.nvs.hostTry.setWidth 64) b.lt s e t ∧ b.keeps [.nvs] e ∧
        e.nvs = { b.nvs with hostUnl := false }) ∧
      (f.ext.getLsbD 0 = false → b.nvs.hostOut = false → f.op = b.nvs.hostPw →
        ∃ t e, exec (.nvUnlock q f) s = .next t ∧ Completes q f St.ok 8 b.lt s e t ∧ b.keeps [.nvs] e ∧
          e.nvs = { b.nvs with hostUnl := true, hostTry := 8, hostOut := false }) ∧
      (f.ext.getLsbD 0 = false → b.nvs.hostOut = false → f.op ≠ b.nvs.hostPw → b.nvs.hostTry ≠ 1 → b.lic.room = true →
        ∃ t e, exec (.nvUnlock q f) s = .next t ∧
          Completes q f St.locked ((b.nvs.hostTry - 1).setWidth 64) b.lt s e t ∧ b.keeps [.nvs, .sec, .lic] e ∧
          e.nvs.hostUnl = false ∧ e.nvs.hostTry = b.nvs.hostTry - 1 ∧
          e.sec.viol = satAdd b.sec.viol 1) ∧
      (f.ext.getLsbD 0 = false → b.nvs.hostOut = false → f.op ≠ b.nvs.hostPw → b.nvs.hostTry = 1 → b.lic.wait = [] →
        b.lic.general < 13 →
        ∃ t, exec (.nvUnlock q f) s = .next t ∧ t.chip.nvs.hostOut = true ∧ t.chip.nvs.hostTry = 0 ∧
          t.chip.nvs.hostUnl = false)) ∧
    (s.chip.issuesAs Op.nvUnlock q f b → q = 5 → f.ext.getLsbD 0 = false → b.nvs.mgtOut = false → f.op = b.nvs.mgtPw →
      ∃ t e, exec (.nvUnlock q f) s = .next t ∧ Completes q f St.ok 8 b.lt s e t ∧ b.keeps [.nvs] e ∧
        e.nvs = { b.nvs with mgtUnl := true, mgtTry := 8, mgtOut := false }) ∧
    (s.chip.issuesAs Op.nvProt q f b → b.nvs.bpl = false → (b.nvs.hostMode = 0 ∨ b.nvs.hostUnl = true) →
      ∃ t e, exec (.nvProt q f) s = .next t ∧ Completes q f St.ok (b.nvs.bp.setWidth 64) b.lt s e t ∧
        b.keeps [.nvs, .mem] e ∧ e.nvs.bp = f.op.extractLsb' 0 2 ∧ e.nvs.bpl = f.op.getLsbD 2 ∧
        sameOutside 0 b.mem e.mem 0x38000008 1) ∧
    (s.chip.issuesAs Op.nvProt q f b → b.nvs.bpl = true → b.lic.room = true →
      ∃ t e, exec (.nvProt q f) s = .next t ∧ Completes q f St.locked 0 b.lt s e t ∧ b.keeps [.sec, .lic] e ∧
        e.sec.viol = satAdd b.sec.viol 1)) ∧
  ∀ (q : Queue) (f : Insn) (s : State) (b : Chip),
    let mode : BitVec 2 := f.ext.extractLsb' 0 2
    (s.chip.issuesAs Op.pwSet q f b → mode ≠ 3 → (b.nvs.hostMode = 0 ∨ b.nvs.hostUnl = true) →
      ∃ t e, exec (.pwSet q f) s = .next t ∧ Completes q f St.ok 0 b.lt s e t ∧ b.keeps [.mem, .nvs] e ∧
        (f.tgt.getLsbD 0 = false → e.nvs.hostMode = mode ∧ e.nvs.hostPw = f.op ∧ e.nvs.hostUnl = false ∧
          e.nvs.hostTry = 8 ∧ e.nvs.mgtPw = b.nvs.mgtPw ∧ memNat 0 e.mem 0x38000100 8 = f.op.toNat) ∧
        (f.tgt.getLsbD 0 = true → e.nvs.mgtMode = mode ∧ e.nvs.mgtPw = f.op ∧ e.nvs.mgtUnl = false ∧
          e.nvs.mgtTry = 8 ∧ e.nvs.hostPw = b.nvs.hostPw ∧ memNat 0 e.mem 0x38000110 8 = f.op.toNat) ∧
        e.nvs.dirtyP.getLsbD 1024 = true ∧ e.nvs.dirtyP.getLsbD 1025 = true) ∧
    (s.chip.issuesAs Op.pwSet q f b → mode ≠ 3 → b.nvs.hostMode ≠ 0 → b.nvs.hostUnl = false → b.lic.room = true →
      ∃ t e, exec (.pwSet q f) s = .next t ∧ Completes q f St.locked 0 b.lt s e t ∧ b.keeps [.sec, .lic] e ∧
        e.sec.viol = satAdd b.sec.viol 1) ∧
    (s.chip.issuesAs Op.pwSet q f b → mode = 3 →
      ∃ t, exec (.pwSet q f) s = .next t ∧ Completes q f St.range 0 b.lt s b t) ∧
    (s.chip.issuesAs Op.secStat q f b →
      ∃ t res, exec (.secStat q f) s = .next t ∧ Completes q f St.ok res b.lt s b t ∧
        res.extractLsb' 8 4 = b.nvs.hostTry ∧ res.extractLsb' 12 4 = b.nvs.mgtTry ∧
        res.extractLsb' 16 32 = b.sec.viol ∧ res.getLsbD 5 = b.nvs.hostOut ∧ res.getLsbD 6 = b.nvs.mgtOut)

/-! ### DMA (R208, R209, R392 to R411) -/

/-- DMA.GO: a check of Table DMA-2 that fails ends it with its status; a paced channel latches its descriptor and runs
(R395); another begins its first read burst when credits allow, and otherwise holds the channel with the descriptor latched
and waits for credits; a channel that another queue's DMA.GO holds is waited for (R208, R209). A channel that runs is BUSY,
one that the management path has dropped in the same cc STALE (R413; that the drop comes first is the model's reading, log
entry 108). DMA.STOP at once makes a channel IDLE, returns its credits and answers 0; without ext[0] an idle channel answers
its count, a running one drains; DMA.STAT returns count, state, last status and generation. Channels 12 to 15 are RANGE
(R208, R410, R411). A stop of a channel that the management path has dropped in the same cc is STALE (R413). -/
def Obligations.DmaInstructions : Prop :=
  (∀ (q : Queue) (f : Insn) (s : State) (b : Chip), s.chip.issuesAs Op.dmaGo q f b →
    let ch := field f.tgt 0 4
    let d := vget b.dma ch
    let n := ((b.modDma ch (·.latch q)).modDma ch Dma.start).nextBurst ch
    (∀ st, dmaGoCheck s.die ch d = some (st, false) →
      ∃ t, exec (.dmaGo q f) s = .next t ∧ Completes q f st 0 b.lt s b t) ∧
    (dmaGoCheck s.die ch d = none → (b.queue q).posted = false →
      (d.active = true → ∃ t, exec (.dmaGo q f) s = .next t ∧ Completes q f St.busy 0 b.lt s b t) ∧
      (d.active = false → b.memo.drops.getLsbD ch = true →
        ∃ t, exec (.dmaGo q f) s = .next t ∧ Completes q f St.stale 0 b.lt s b t) ∧
      (d.active = false → b.memo.drops.getLsbD ch = false → b.goWaits q ch = true →
        ∃ t, exec (.dmaGo q f) s = .next t ∧ Waits q 0x70 f .credits 0 0 s b t) ∧
      (d.active = false → b.memo.drops.getLsbD ch = false → b.goWaits q ch = false → field d.cfg 23 2 = 1 →
        ∃ t e, exec (.dmaGo q f) s = .next t ∧ Completes q f St.ok 0 b.lt s e t ∧ b.keeps [.dma] e ∧
          (∀ k, k < 12 → k ≠ ch → vget e.dma k = vget b.dma k) ∧
          let x := vget e.dma ch
          x.st = .running ∧ x.gen = d.gen + 1 ∧ x.lsrc = d.src ∧ x.ldst = d.dst ∧ x.llen = d.len ∧ x.lcfg = d.cfg ∧
            x.queue = q ∧ x.bytes = 0 ∧ x.rdbytes = 0 ∧ x.src = d.src ∧ x.cfg = d.cfg) ∧
      (d.active = false → b.memo.drops.getLsbD ch = false → field d.cfg 23 2 = 0 → b.goWaits q ch = false → b.credits < n →
        ∃ t e, exec (.dmaGo q f) s = .next t ∧ Waits q 0x70 f .credits 0 1 s e t ∧ b.keeps [.dma] e ∧
          vget e.dma ch = { d with lsrc := d.src, ldst := d.dst, llen := d.len, lcfg := d.cfg, queue := q } ∧
          ∀ k, k < 12 → k ≠ ch → vget e.dma k = vget b.dma k) ∧
      (d.active = false → b.memo.drops.getLsbD ch = false → field d.cfg 23 2 = 0 → b.goWaits q ch = false → n ≤ b.credits →
        field d.cfg 0 2 = 0 → 0x10000000 ≤ d.src.toNat → d.src.toNat + 16 * n ≤ 0x10100000 →
        (∀ i, i < n → b.eccAt (d.src.toNat + 16 * i) = 0) →
        ∃ t e, exec (.dmaGo q f) s = .next t ∧ Completes q f St.ok 0 b.lt s e t ∧ b.keeps [.dma, .credits, .rdTurn] e ∧
          (∀ k, k < 12 → k ≠ ch → vget e.dma k = vget b.dma k) ∧
          let x := vget e.dma ch
          x.st = .running ∧ x.gen = d.gen + 1 ∧ x.lsrc = d.src ∧ x.ldst = d.dst ∧ x.llen = d.len ∧ x.rd = n ∧
            x.buf.length = n ∧ x.credits = n ∧ e.credits = b.credits - n))) ∧
  ∀ (q : Queue) (f : Insn) (s : State) (b : Chip),
    let ch := field f.tgt 0 4
    let d := vget b.dma ch
    let kept : Prop := ch < 12 ∧ b.memo.drops.getLsbD ch = false
    (s.chip.issuesAs Op.dmaStop q f b → ch < 12 → b.memo.drops.getLsbD ch = true →
      ∃ t, exec (.dmaStop q f) s = .next t ∧ Completes q f St.stale 0 b.lt s b t) ∧
    (s.chip.issuesAs Op.dmaStop q f b → 12 ≤ ch →
      ∃ t, exec (.dmaStop q f) s = .next t ∧ Completes q f St.range 0 b.lt s b t) ∧
    (s.chip.issuesAs Op.dmaStop q f b → kept → f.ext.getLsbD 0 = true → d.active = true →
      (∀ k w, (b.queue k).wait = some w → w.kind ≠ .drain) →
      ∃ t e, exec (.dmaStop q f) s = .next t ∧ Completes q f St.ok 0 b.lt s e t ∧ b.keeps [.dma, .credits, .freeIx] e ∧
        (vget e.dma ch).st = .idle ∧ (vget e.dma ch).gen = d.gen + 1 ∧ (vget e.dma ch).buf = [] ∧
        e.credits = b.credits + d.credits ∧ ∀ k, k < 12 → k ≠ ch → vget e.dma k = vget b.dma k) ∧
    (s.chip.issuesAs Op.dmaStop q f b → kept → f.ext.getLsbD 0 = false → d.active = false →
      ∃ t, exec (.dmaStop q f) s = .next t ∧ Completes q f St.ok (d.bytes.setWidth 64) b.lt s b t) ∧
    (s.chip.issuesAs Op.dmaStop q f b → kept → f.ext.getLsbD 0 = false → d.st = .running → d.buf ≠ [] →
      ∃ t e, exec (.dmaStop q f) s = .next t ∧ Waits q 0x71 f .drain (BitVec.ofNat 64 ch) 0 s e t ∧ b.keeps [.dma] e ∧
        vget e.dma ch = { d with st := .draining, gen := d.gen + 1 } ∧
        ∀ k, k < 12 → k ≠ ch → vget e.dma k = vget b.dma k) ∧
    (s.chip.issuesAs Op.dmaStat q f b → ch < 12 →
      ∃ t res, exec (.dmaStat q f) s = .next t ∧ Completes q f St.ok res b.lt s b t ∧ res.extractLsb' 0 32 = d.bytes ∧
        res.extractLsb' 32 4 = BitVec.ofNat 4 d.st.code ∧ res.extractLsb' 40 8 = d.last ∧ res.extractLsb' 48 16 = d.gen) ∧
    (s.chip.issuesAs Op.dmaStat q f b → 12 ≤ ch →
      ∃ t, exec (.dmaStat q f) s = .next t ∧ Completes q f St.range 0 b.lt s b t)

/-- A read burst takes `n` words of the latched source into the buffer on credits (R399, R400); a write burst of one word
stores it at the latched destination and returns its credit (R401, R403); each engine serves the channels in turn, and a
channel whose turn it is not is unchanged. A buffered word that the code of the buffer cannot correct is not written and
halts the channel (R30, R408; the model's choice, log entry 107). That a row of a channel whose turn it is not changes
nothing is the model's choice (DESIGN CHOICE, log entry 111). The acknowledge of the last word of a running channel ends its
transfer: the count is the bytes written, the channel IDLE, DMA.EVT.done set (R394); one in the middle only counts; that of
the last word of a drain makes the channel IDLE without an event (R404, R410). A retry counts with DMA.EVT.retry (R407): one
that goes through moves the words that were left of its transaction, a read's on the credits that its burst holds; one that
fails leaves the failure waiting, or, the last one, halts the channel with BUS_ERR. That the row names how a retry ends and
that a transaction is tried again word by word is the model's choice (log entry 85), as is the status of a transfer that
read corrected words (log entry 22). -/
def Obligations.DmaEnginesMoveWords : Prop :=
  (∀ (ch : BitVec 4) (s : State),
    let u : State := { s with chip := s.chip.endSwitch }
    let c := u.chip
    c.coreOn = true → ch.toNat < 12 →
    let d := vget c.dma ch.toNat
    let n := c.nextBurst ch.toNat
    (turnOf c.rdTurn c.dmaReady = some ch.toNat → d.smode = 0 → field d.lcfg 14 3 = 0 → 0x10000000 ≤ d.srcAddr d.rd →
      d.srcAddr d.rd + 16 * n ≤ 0x10100000 → d.srcAddr d.rd % 16 = 0 → (∀ i, i < n → c.eccAt (d.srcAddr d.rd + 16 * i) = 0) →
      ∃ t, exec (.dmaReadBurst ch) s = .next t ∧ u.keeps [.dma, .credits, .rdTurn] t ∧ t.chip.credits = c.credits - n ∧
        t.chip.rdTurn = (ch.toNat + 1) % 12 ∧
        (∀ k, k < 12 → k ≠ ch.toNat → vget t.chip.dma k = vget c.dma k) ∧
        (vget t.chip.dma ch.toNat).rd = d.rd + n ∧ (vget t.chip.dma ch.toNat).credits = d.credits + n ∧
        (vget t.chip.dma ch.toNat).buf = d.buf ++ (List.range n).map fun i => c.getWord (d.srcAddr d.rd + 16 * i)) ∧
    (turnOf c.rdTurn c.dmaReady ≠ some ch.toNat → exec (.dmaReadBurst ch) s = .next u) ∧
    (∀ w r, turnOf c.wrTurn c.dmaHolds = some ch.toNat → d.buf = w :: r → d.chk.headD 0 = 0 →
      burstLen d.dmode d.ldst.toNat d.dclog (field d.lcfg 20 3) d.wr d.buf.length = 1 → d.dstAddr d.wr % 16 = 0 →
      0x10000000 ≤ d.dstAddr d.wr → d.dstAddr d.wr < 0x10100000 →
      ∃ t, exec (.dmaWriteBurst ch) s = .next t ∧ u.keeps [.dma, .credits, .wrTurn, .mem, .ecc] t ∧
        t.chip.wrTurn = (ch.toNat + 1) % 12 ∧
        t.chip.getWord (d.dstAddr d.wr) = w ∧ t.chip.eccAt (d.dstAddr d.wr) = 0 ∧
        sameOutside 0 c.mem t.chip.mem (d.dstAddr d.wr) 16 ∧
        vget t.chip.dma ch.toNat = { d with
          buf := r, chk := d.chk.tail, wr := d.wr + 1, credits := d.credits - 1, tries := 0 } ∧
        t.chip.credits = c.credits + (if d.credits = 0 then 0 else 1)) ∧
    (∀ w r, turnOf c.wrTurn c.dmaHolds = some ch.toNat → d.buf = w :: r → 2 ≤ (d.chk.headD 0).toNat →
      1 ≤ burstLen d.dmode d.ldst.toNat d.dclog (field d.lcfg 20 3) d.wr d.buf.length →
      (∀ k w, (c.queue k).wait = some w → w.kind ≠ .drain) →
      ∃ t, exec (.dmaWriteBurst ch) s = .next t ∧ u.keeps [.dma, .credits, .wrTurn, .flags] t ∧
        (vget t.chip.dma ch.toNat).st = .halted ∧ (vget t.chip.dma ch.toNat).last = St.eccUncorr ∧
        (vget t.chip.dma ch.toNat).buf = []) ∧
    (turnOf c.wrTurn c.dmaHolds ≠ some ch.toNat → exec (.dmaWriteBurst ch) s = .next u)) ∧
  ∀ (ch : BitVec 4) (s : State),
    let u : State := { s with chip := s.chip.endSwitch }
    let c := u.chip
    c.coreOn = true → ch.toNat < 12 →
    let d := vget c.dma ch.toNat
    let y (t : State) := vget t.chip.dma ch.toNat
    let noDrain : Prop := ∀ k w, (c.queue k).wait = some w → w.kind ≠ .drain
    let tried (x : Dma) : Prop := x.retries = satAdd d.retries 1 ∧ x.evt.getLsbD 4 = true
    (d.st = .running → d.ref = none → d.llen ≠ 0 → 16 * d.wr = d.llen.toNat → noDrain →
      ∃ t, exec (.dmaWriteAck ch) s = .next t ∧ u.keeps [.dma, .credits, .flags] t ∧
        (y t).st = .idle ∧ (y t).gen = d.gen + 1 ∧ (y t).bytes = satAdd d.bytes (16 * (d.wr - d.acked)) ∧
        (y t).evt.getLsbD 0 = true ∧ (y t).last = (if d.corr then St.corrected else St.ok) ∧
        t.chip.credits = c.credits + d.credits) ∧
    (d.st = .draining → d.ref = none → d.buf = [] → d.fail = none → noDrain →
      ∃ t, exec (.dmaWriteAck ch) s = .next t ∧ u.keeps [.dma, .credits] t ∧ (y t).st = .idle ∧ (y t).gen = d.gen + 1 ∧
        (y t).bytes = satAdd d.bytes (16 * (d.wr - d.acked)) ∧ (y t).evt = d.evt) ∧
    (d.st = .running → d.ref = none → 16 * d.wr ≠ d.llen.toNat →
      ∃ t, exec (.dmaWriteAck ch) s = .next t ∧ u.keeps [.dma] t ∧
        y t = { d with acked := d.wr, bytes := satAdd d.bytes (16 * (d.wr - d.acked)), pos := BitVec.ofNat 32 (16 * d.wr) }) ∧
    (d.active = true → ∀ a, d.fail = some (St.busErr, a) →
      (d.failW = false → d.smode = 0 → field d.lcfg 14 3 = 0 →
        let n := d.credits - d.buf.length
        0x10000000 ≤ d.srcAddr d.rd → d.srcAddr d.rd + 16 * n ≤ 0x10100000 → d.srcAddr d.rd % 16 = 0 →
        (∀ i, i < n → c.eccAt (d.srcAddr d.rd + 16 * i) = 0) →
        ∃ t, exec (.dmaRetry ch true) s = .next t ∧ u.keeps [.dma] t ∧ tried (y t) ∧ (y t).fail = none ∧
          (y t).st = d.st ∧ (y t).tries = 0 ∧ (y t).credits = d.credits ∧ (y t).rd = d.rd + n ∧
          (y t).buf = d.buf ++ (List.range n).map fun i => c.getWord (d.srcAddr d.rd + 16 * i)) ∧
      (∀ w r, d.failW = true → d.buf = w :: r → d.chk.headD 0 = 0 → d.writeLen = 1 → d.dstAddr d.wr % 16 = 0 →
        0x10000000 ≤ d.dstAddr d.wr → d.dstAddr d.wr < 0x10100000 →
        ∃ t, exec (.dmaRetry ch true) s = .next t ∧ u.keeps [.dma, .credits, .mem, .ecc] t ∧ tried (y t) ∧
          (y t).fail = none ∧ (y t).st = d.st ∧ (y t).tries = 0 ∧ (y t).buf = r ∧ (y t).wr = d.wr + 1 ∧
          t.chip.getWord (d.dstAddr d.wr) = w ∧ sameOutside 0 c.mem t.chip.mem (d.dstAddr d.wr) 16) ∧
      (d.tries + 1 < field d.lcfg 17 3 →
        ∃ t, exec (.dmaRetry ch false) s = .next t ∧ u.keeps [.dma] t ∧ tried (y t) ∧
          (y t).fail = some (St.busErr, a) ∧ (y t).tries = d.tries + 1 ∧ (y t).st = d.st) ∧
      (field d.lcfg 17 3 ≤ d.tries + 1 → d.failW = true ∨ d.buf = [] → noDrain →
        ∃ t, exec (.dmaRetry ch false) s = .next t ∧ u.keeps [.dma, .credits, .flags] t ∧ tried (y t) ∧
          (y t).st = .halted ∧ (y t).last = St.busErr ∧ (y t).erraddr = a ∧ (y t).evt.getLsbD 1 = true)) ∧
    (d.fail = none → ∀ ok, exec (.dmaRetry ch ok) s = .next u)

/-! ### Transactions (R165 to R171, R210, R211) -/

/-- TXN.BEGIN opens the lowest free context and returns its number, waits when none is free and is ILLEGAL inside a
transaction; TXN.ABORT closes the context it names, discards everything staged and returns the number of entries (R165,
R170). TXN.COMMIT of a context that holds nothing ends at once with 0 entries and closes it; a claimed unit whose generation
has moved since its claim makes it STALE and aborts the transaction (R168); outside a transaction it is ILLEGAL.
TXN.COMMIT.AT waits for its position (R169). A commit whose checks of R211 pass applies what is staged on one edge and
closes its context: register words are written in their order, a frond enters its staged state or swaps its planes, a cam
takes its staged operation, an edge request enters its pin's queue, and a journal of counters or store words becomes the
live value and is taken into a store of exactly these, for whose record the commit waits (R168); the result counts the
entries as Table IMD-7 does. A TXN.COMMIT.AT that waits does the same at its position, POSITION_REACHED. A commit of Q0 also
ends the hold of the outputs when SAFE_N is high (R57); full edge queues make the commit BUSY and leave the staging intact.
That the claims end in the commit cc while the journal is still being stored is the model's choice (log entry 98). -/
def Obligations.TransactionsOpenCommitAndAbort : Prop :=
  (∀ (q : Queue) (f : Insn) (s : State) (b : Chip),
    (s.chip.issuesAs Op.txnBegin q f b → b.txnOf q = none → (b.queue q).posted = false →
      (∀ k, b.freeCtx = some k →
        ∃ t e, exec (.txnBegin q f) s = .next t ∧ Completes q f St.ok (BitVec.ofNat 64 k.val) b.lt s e t ∧
          b.keeps [.ctxs, .queues, .serial] e ∧ e.txnOf q = some k ∧ (vget e.eng.ctxs k.val).isOpen = true ∧
          (vget e.eng.ctxs k.val).owner = q ∧ (vget e.eng.ctxs k.val).regs = [] ∧
          ∀ j, j < 4 → j ≠ k.val → vget e.eng.ctxs j = vget b.eng.ctxs j) ∧
      (b.freeCtx = none → ∃ t, exec (.txnBegin q f) s = .next t ∧ Waits q 0x80 f .context 0 0 s b t)) ∧
    (s.chip.issuesAs Op.txnBegin q f b → b.txnOf q ≠ none →
      ∃ t, exec (.txnBegin q f) s = .next t ∧ Completes q f St.illegal 0 b.lt s b t) ∧
    (s.chip.issuesAs Op.txnAbort q f b →
      let k := field f.tgt 0 2
      let x := vget b.eng.ctxs k
      (x.isOpen = false → ∃ t, exec (.txnAbort q f) s = .next t ∧ Completes q f St.range 0 b.lt s b t) ∧
      (x.isOpen = true → x.storing = false → x.owner ≠ q → q ≠ 0 → q ≠ 1 → q ≠ 7 →
        ∃ t, exec (.txnAbort q f) s = .next t ∧ Completes q f St.priv 0 b.lt s b t) ∧
      (x.isOpen = true → x.storing = false → x.owner = q → (b.queue q).wait = none →
        ∃ t e, exec (.txnAbort q f) s = .next t ∧
          Completes q f St.ok (BitVec.ofNat 64 (b.entries (Fin.ofNat 4 k) % 65536)) b.lt s e t ∧
          b.keeps [.ctxs, .queues, .fronds, .cams] e ∧ vget e.eng.ctxs k = Ctx.reset ∧
          ((b.txnOf q).map (·.val) = some k → e.txnOf q = none) ∧
          ∀ n, n < 32 → (vget e.fronds n).claim ≠ some (Fin.ofNat 4 k) ∧ (vget e.cams n).claim ≠ some (Fin.ofNat 4 k)))) ∧
  ∀ (q : Queue) (f : Insn) (s : State) (b : Chip) (k : Fin 4),
    let x := vget b.eng.ctxs k.val
    let empty : Prop := x.regs = [] ∧ x.fronds = [] ∧ x.cams = [] ∧ x.edges = [] ∧ x.nv = [] ∧ x.ctrs = []
    let closed (e : Chip) : Prop := vget e.eng.ctxs k.val = Ctx.reset ∧ e.txnOf q = none ∧
      ∀ n, n < 32 → (vget e.fronds n).claim ≠ some k ∧ (vget e.cams n).claim ≠ some k
    let words (a : Chip) (l : List (Nat × Word)) : Chip := l.foldl (fun a w => (a.commitReg s.die q w.1 w.2).2) a
    let ready (a : Chip) (y : Ctx) : Prop := y.owner = q ∧ y.nv = [] ∧ y.ctrs = [] ∧ a.claimsGood k = true ∧
      (∀ p, (y.edges.filter fun g => g.code != 0x33 && g.pin == p) = [] ∨
        (vget a.pins p).q.length + (y.edges.filter fun g => g.code != 0x33 && g.pin == p).length ≤ 8) ∧
      (y.regs = [] ∨ y.fronds = [] ∧ y.cams = [] ∧ y.edges = [] ∧ a.noRecord (words a y.regs) ∧
        (∀ w, w ∈ y.regs → (a.writeReg s.die (Src.ofQueue q) w.1 w.2).1 ≠ St.locked) ∧
        ∀ i, i < y.regs.length →
          failed ((words a (y.regs.take i)).commitReg s.die q (y.regs.getD i (0, 0)).1 (y.regs.getD i (0, 0)).2).1 = false)
    let applied (a : Chip) (y : Ctx) (e : Chip) (n : Nat) : Prop :=
      closed e ∧
      (y.fronds = [] → y.cams = [] → y.edges = [] →
        (words a y.regs).keeps [.ctxs, .queues, .fronds, .cams, .pins, .banks, .memo] e ∧ n = y.regs.length) ∧
      (y.regs = [] → a.keeps [.ctxs, .queues, .fronds, .cams, .pins, .banks, .edg, .scr, .prs, .memo] e) ∧
      (∀ m kind, y.fronds = [⟨m, kind⟩] → m < 32 →
        let u := vget a.fronds m
        let v := vget e.fronds m
        (1 ≤ kind → kind ≤ 2 → v.st = (if kind = 1 then .safe else .reset) ∧ v.plane = u.plane) ∧
        (kind = 3 → u.activeOk = true → u.check ≠ 3 → v.st = .run ∧ v.plane = u.plane) ∧
        (kind = 0 ∨ kind = 4 → v.st = u.st ∧ v.plane = !u.plane ∧ v.golden = u.shadowSig ∧ v.shadowSig = u.golden) ∧
        v.gen = (if v.st = u.st ∧ v.plane = u.plane then u.gen else u.gen + 1) ∧
        (y.cams = [] → y.edges = [] → n = if v.st = u.st ∧ v.plane = u.plane then 0 else 1)) ∧
      (∀ m kind z, y.cams = [⟨m, kind, z⟩] → m < 32 → a.scr.stg = none → a.prs.staged = none →
        let u := vget a.cams m
        let v := vget e.cams m
        (kind = 0 → v.table = u.shadow ∧ v.tabOk = true ∧ v.shadow = [] ∧ v.latch = none ∧ v.armed = u.armed) ∧
        (kind = 1 → v.armed = true ∧ v.table = u.table) ∧
        (kind = 2 → v.armed = false ∧ v.table = u.table) ∧
        (kind = 3 → v.pend = u.pend + z ∧ v.armed = u.armed ∧ v.table = u.table) ∧
        (y.fronds = [] → y.edges = [] → n = if kind = 0 then u.shadow.length else 1)) ∧
      (∀ m g, y.edges = [⟨m, 0x30, g⟩] → y.fronds = [] → m = field g.tgt 0 8 → m < 192 →
        (vget e.pins m).q.length = (vget a.pins m).q.length + 1 ∧
        (∀ j, j < 192 → j ≠ m → (vget e.pins j).q = (vget a.pins j).q) ∧ (y.cams = [] → n = 1)) ∧
      (q = 0 → y.edges = [] → y.fronds = [] → ∀ j, j < 192 →
        (vget e.pins j).held = ((vget (words a y.regs).pins j).held && !a.pwr.safeN))
    (s.chip.issuesAs Op.txnCommit q f b → b.txnOf q = some k → empty → x.owner = q → b.claimsGood k = true → q ≠ 0 →
      ∃ t e, exec (.txnCommit q f) s = .next t ∧ Completes q f St.ok 0 b.lt s e t ∧
        b.keeps [.ctxs, .queues, .fronds, .cams] e ∧ vget e.eng.ctxs k.val = Ctx.reset ∧ e.txnOf q = none) ∧
    (s.chip.issuesAs Op.txnCommit q f b → b.txnOf q = some k → ready b x →
      ∃ t e n, exec (.txnCommit q f) s = .next t ∧ Completes q f St.ok (BitVec.ofNat 64 (n % 65536)) b.lt s e t ∧
        applied b x e n) ∧
    (s.chip.issuesAs Op.txnCommit q f b → b.txnOf q = some k → x.regs = [] → x.fronds = [] → x.cams = [] → x.edges = [] →
      x.nvFull = [] → x.owner = q → b.claimsGood k = true → b.portFree = true → (b.queue q).posted = false →
      x.nv ≠ [] ∨ x.ctrs ≠ [] → (x.ctrs.map (·.1)).Nodup → (x.nv.map (·.1)).Nodup →
      (∀ c, c ∈ x.ctrs → c.1 < 64) → (∀ w, w ∈ x.nv → 0x30000000 ≤ w.1 ∧ w.1 < 0x30040000) →
      (∀ w, w ∈ x.nv → b.mayWrite (Src.ofQueue q) w.1 = true) → (∀ a, a / 0x1000000 = 0x30 → b.eccAt a = 0) →
      ∃ t e o res, exec (.txnCommit q f) s = .next t ∧ Waits q 0x81 f .storeDone 0 res s e t ∧
        b.keeps [.ctxs, .queues, .fronds, .cams, .pins, .banks, .edg, .mem, .ecc, .nvs, .nvQ] e ∧
        (∀ w, w ∈ x.nv → memRead 0 e.mem w.1 = w.2) ∧
        (∀ a, (∀ w, w ∈ x.nv → w.1 ≠ a) → memRead 0 e.mem a = memRead 0 b.mem a) ∧
        (∀ c, c ∈ x.ctrs → e.ctrVal c.1 = b.ctrVal c.1 + c.2) ∧
        (∀ j, j < 64 → (∀ c, c ∈ x.ctrs → c.1 ≠ j) → e.ctrVal j = b.ctrVal j) ∧
        e.nvs.store = some o ∧ o.queue = some q ∧ o.ctx = some k ∧ o.kind = 2 ∧
        (∀ p, p ∈ o.pages ↔ ∃ w, w ∈ x.nv ∧ (w.1 - 0x30000000) / 256 = p) ∧
        (∀ j, j ∈ o.ctrs ↔ ∃ c, c ∈ x.ctrs ∧ c.1 = j) ∧
        res = BitVec.ofNat 64 ((o.pages.length + o.ctrs.length) % 65536) ||| 0x100000000 ∧
        (vget e.eng.ctxs k.val).isOpen = true ∧ (vget e.eng.ctxs k.val).storing = true) ∧
    (s.chip.issuesAs Op.txnCommit q f b → b.txnOf q = some k → x.regs = [] → x.nv = [] → x.ctrs = [] → x.owner = q →
      b.claimsGood k = false → b.prs.rtStore = false → (∀ j, (b.queue j).posted = false) → b.eng.nvQ ≠ some q →
      ∃ t e, exec (.txnCommit q f) s = .next t ∧ Completes q f St.stale 0 b.lt s e t ∧
        b.keeps [.ctxs, .queues, .fronds, .cams] e ∧ (vget e.eng.ctxs k.val).isOpen = false ∧ e.txnOf q = none) ∧
    (s.chip.issuesAs Op.txnCommit q f b → b.txnOf q = some k → x.regs = [] → x.nv = [] → x.ctrs = [] → x.owner = q →
      b.claimsGood k = true → b.prs.rtStore = false → (∀ j, (b.queue j).posted = false) → b.eng.nvQ ≠ some q →
      x.waiting = false → (∃ g, g ∈ x.edges ∧ g.code ≠ 0x33 ∧ 8 ≤ (vget b.pins g.pin).q.length) →
      ∃ t, exec (.txnCommit q f) s = .next t ∧ Completes q f St.busy 0 b.lt s b t) ∧
    (s.chip.issuesAs Op.txnCommit q f b → b.txnOf q = none →
      ∃ t, exec (.txnCommit q f) s = .next t ∧ Completes q f St.illegal 0 b.lt s b t) ∧
    (s.chip.issuesAs Op.txnCommitAt q f b → b.txnOf q = some k → x.nv = [] → x.ctrs = [] → b.passed f = false →
      ∃ t e, exec (.txnCommitAt q f) s = .next t ∧ Waits q 0x83 f .position f.op (b.look.getD 0) s e t ∧
        b.keeps [.ctxs] e ∧ vget e.eng.ctxs k.val = { x with waiting := true }) ∧
    (s.chip.issuesAs Op.txnCommitAt q f b → b.txnOf q = some k → ready b x → b.passed f = true →
      ∃ t e n, exec (.txnCommitAt q f) s = .next t ∧ Completes q f St.late (BitVec.ofNat 64 (n % 65536)) b.lt s e t ∧
        applied b x e n) ∧
    (s.chip.issuesAs Op.txnCommitAt q f b → b.txnOf q = none →
      ∃ t, exec (.txnCommitAt q f) s = .next t ∧ Completes q f St.illegal 0 b.lt s b t) ∧
    ∀ w lt,
      let c := s.chip.endSwitch
      let a := c.advance lt
      let y := vget c.eng.ctxs k.val
      c.coreOn = true → (c.queue q).wait = some w → w.kind = .position → w.code = 0x83 → c.txnOf q = some k → a.moving = true →
      (if w.f.ext.getLsbD 0 then (crossFwd w.res (a.look.getD 0) (w.t.setWidth 32)).isSome
        else decide (0 ≤ (a.look.getD 0 - w.t).toInt)) = true →
      ready a y → a.eng.memo.words = [] →
      ∃ t e n, exec (.positionReached q lt) s = .next t ∧
        Completes q w.f St.ok (BitVec.ofNat 64 (n % 65536)) a.lt s e t ∧ applied a y e n ∧ (e.queue q).wait = none

/-- An instruction with tx = 1 inside a transaction only stages, for each opcode of Table IMD-7: the live registers,
counters, store words, frond states, active planes, cams and pins stay, its context takes the entry, and the unit it names
is claimed (R165 to R167): CTR.INC, NV.WR, CAM.LOAD, CAM.ARM, CAM.DISARM, CAM.NUDGE, EDGE.SET, EDGE.PULSE, PIN.SAFE, ST,
RMW, TERM.WR, MC.CFG, FROND.SAFE, FROND.RUN and PLANE.SWAP; a full list is BUSY with nothing staged. A read with tx = 1
returns what its own transaction has staged: a register word, the bytes of a store word, a counter with the amount staged
for it. That a CAM.LOAD of a staged table also frees the tables of a staged stream is the model's reading (log entry 102).
-/
def Obligations.StagedInstructionsOnlyStage : Prop :=
  ∀ (q : Queue) (f : Insn) (s : State) (b : Chip) (k : Fin 4), f.tx = true → b.txnOf q = some k →
    let x := vget b.eng.ctxs k.val
    let n := field f.tgt 0 5
    (s.chip.issuesAs Op.ctrInc q f b → x.ctrs = [] →
      ∃ t e, exec (.ctrInc q f) s = .next t ∧ Completes q f St.ok 0 b.lt s e t ∧ b.keeps [.ctxs] e ∧
        vget e.eng.ctxs k.val = { x with ctrs := [(field f.tgt 0 6, f.op.setWidth 48)] }) ∧
    (s.chip.issuesAs Op.camNudge q f b → (vget b.cams n).claim = none →
      ∃ t e, exec (.camNudge q f) s = .next t ∧ Completes q f St.ok 0 b.lt s e t ∧ b.keeps [.ctxs, .cams] e ∧
        vget e.cams n = { vget b.cams n with claim := some k } ∧
        (vget e.eng.ctxs k.val).cams = x.cams ++ [⟨n, 3, f.op.setWidth 32⟩] ∧
        (n, (vget b.cams n).gen) ∈ (vget e.eng.ctxs k.val).cclaims) ∧
    (s.chip.issuesAs Op.camArm q f b → (vget b.cams n).claim = none → (vget b.cams n).tabOk = true →
      ∃ t e, exec (.camArm q f) s = .next t ∧ Completes q f St.ok 0 b.lt s e t ∧ b.keeps [.ctxs, .cams] e ∧
        vget e.cams n = { vget b.cams n with claim := some k } ∧
        (vget e.eng.ctxs k.val).cams = x.cams ++ [⟨n, 1, 0⟩]) ∧
    (s.chip.issuesAs Op.edgeSet q f b → edgeRange b 0x30 f = true →
      (x.edges.length < 32 → ∃ t e, exec (.edgeSet q f) s = .next t ∧ Completes q f St.ok 0 b.lt s e t ∧
        b.keeps [.ctxs] e ∧ vget e.eng.ctxs k.val = { x with edges := x.edges ++ [⟨field f.tgt 0 8, 0x30, f⟩] }) ∧
      (32 ≤ x.edges.length → ∃ t, exec (.edgeSet q f) s = .next t ∧ Completes q f St.busy 0 b.lt s b t)) ∧
    (s.chip.issuesAs Op.st q f b → f.tgt.toNat < 0x10000000 → f.tgt.toNat % 4 = 0 → f.ext.getLsbD 0 = false →
      x.regs = [] → ∀ c, b.writeReg s.die (Src.ofQueue q) f.tgt.toNat (f.op.setWidth 32) = (St.ok, c) →
        ∃ t e, exec (.st q f) s = .next t ∧ Completes q f St.ok 0 b.lt s e t ∧ b.keeps [.ctxs] e ∧
          vget e.eng.ctxs k.val = { x with regs := [(f.tgt.toNat, f.op.setWidth 32)] }) ∧
    (s.chip.issuesAs Op.rmw q f b → f.tgt.toNat < 0x10000000 → f.tgt.toNat % 4 = 0 → x.regs = [] → x.nv = [] →
      ∀ v c, b.readReg s.die (Src.ofQueue q) f.tgt.toNat = some (v, b) →
        let new := rmwVal (field f.ext 0 2) v (f.op.extractLsb' 0 32) (f.op.extractLsb' 32 32)
        b.writeReg s.die (Src.ofQueue q) f.tgt.toNat new = (St.ok, c) →
        ∃ t e, exec (.rmw q f) s = .next t ∧ Completes q f St.ok 0 b.lt s e t ∧ b.keeps [.ctxs] e ∧
          vget e.eng.ctxs k.val = { x with regs := [(f.tgt.toNat, new)] }) ∧
    (s.chip.issuesAs Op.ld q f b → f.tgt.toNat < 0x10000000 → f.tgt.toNat % 4 = 0 → field f.ext 0 2 = 0 → x.nv = [] →
      ∀ v w, x.regs = [(f.tgt.toNat, v)] → b.readReg s.die (b.ldSrc q) f.tgt.toNat = some (w, b) →
        ∃ t, exec (.ld q f) s = .next t ∧ Completes q f St.ok (v.setWidth 64) b.lt s b t) ∧
    (s.chip.issuesAs Op.nvRd q f b → f.tgt.toNat % 8 = 0 → 0x30000000 ≤ f.tgt.toNat → f.tgt.toNat + 8 ≤ 0x30040000 →
      x.regs = [] → b.mayRead (Src.ofQueue q) = true → b.eccAt f.tgt.toNat = 0 →
      ∃ t res, exec (.nvRd q f) s = .next t ∧ Completes q f St.ok res b.lt s b t ∧
        ∀ i, i < 8 → res.extractLsb' (8 * i) 8 = ((x.nv.reverse.find? fun w => w.1 == f.tgt.toNat + i).map (·.2)).getD
          (memRead 0 b.mem (f.tgt.toNat + i))) ∧
    (s.chip.issuesAs Op.ctrRd q f b →
      ∃ t e, exec (.ctrRd q f) s = .next t ∧ b.keeps [.nvs] e ∧ (∀ j, j < 64 → e.ctrVal j = b.ctrVal j) ∧
        Completes q f St.ok ((b.ctrVal (field f.tgt 0 6)
          + ((x.ctrs.find? fun c => c.1 == field f.tgt 0 6).map (·.2)).getD 0).setWidth 64) b.lt s e t) ∧
    (s.chip.issuesAs Op.nvWr q f b → f.ext.getLsbD 7 = true → f.tgt.toNat % 8 = 0 → 0x30000000 ≤ f.tgt.toNat →
      f.tgt.toNat + 8 ≤ 0x30040000 → b.mayWrite (Src.ofQueue q) f.tgt.toNat = true → b.eccAt f.tgt.toNat < 2 → x.nv = [] →
      ∃ t e, exec (.nvWr q f) s = .next t ∧ Completes q f St.ok 0 b.lt s e t ∧ b.keeps [.ctxs] e ∧
        vget e.eng.ctxs k.val = { x with nv := (List.range 8).map fun i => (f.tgt.toNat + i, f.op.extractLsb' (8 * i) 8) }) ∧
    (s.chip.issuesAs Op.nvWr q f b → f.ext.getLsbD 7 = false →
      let a := f.tgt.toNat
      let m := field f.ext 0 5
      let src := field f.op 0 32
      let at_ (i : Nat) : Nat := a / 256 * 256 + (a + 16 * i) % 256
      a % 16 = 0 → 0x30000000 ≤ a → a + 16 ≤ 0x30040000 → src % 16 = 0 → 1 ≤ m → m ≤ 16 → destCheck q src m = none →
      b.mayWrite (Src.ofQueue q) a = true → (∀ i, i < m → b.eccAt (src + 16 * i) = 0) → x.nv = [] → x.nvFull = [] →
      ∃ t e, exec (.nvWr q f) s = .next t ∧ Completes q f St.ok 0 b.lt s e t ∧ b.keeps [.ctxs] e ∧
        let y := vget e.eng.ctxs k.val
        y.nv.length = 16 * m ∧ y.nvFull = (List.range m).map at_ ∧
        ∀ i j, i < m → j < 16 → (at_ i + j, memRead 0 b.mem (src + 16 * i + j)) ∈ y.nv) ∧
    (s.chip.issuesAs Op.edgePulse q f b → edgeRange b 0x31 f = true →
      (x.edges.length < 32 → ∃ t e, exec (.edgePulse q f) s = .next t ∧ Completes q f St.ok 0 b.lt s e t ∧
        b.keeps [.ctxs] e ∧ vget e.eng.ctxs k.val = { x with edges := x.edges ++ [⟨field f.tgt 0 8, 0x31, f⟩] }) ∧
      (32 ≤ x.edges.length → ∃ t, exec (.edgePulse q f) s = .next t ∧ Completes q f St.busy 0 b.lt s b t)) ∧
    (s.chip.issuesAs Op.pinSafe q f b → field f.tgt 0 4 < 12 → field f.op 0 16 ≠ 0 →
      (x.edges.length < 32 → ∃ t e, exec (.pinSafe q f) s = .next t ∧ Completes q f St.ok 0 b.lt s e t ∧
        b.keeps [.ctxs] e ∧ vget e.eng.ctxs k.val = { x with edges := x.edges ++ [⟨field f.tgt 0 4, 0x33, f⟩] }) ∧
      (32 ≤ x.edges.length → ∃ t, exec (.pinSafe q f) s = .next t ∧ Completes q f St.busy 0 b.lt s b t)) ∧
    (s.chip.issuesAs Op.camDisarm q f b → (vget b.cams n).claim = none →
      ∃ t e, exec (.camDisarm q f) s = .next t ∧ Completes q f St.ok 0 b.lt s e t ∧ b.keeps [.ctxs, .cams] e ∧
        vget e.cams n = { vget b.cams n with claim := some k } ∧
        (vget e.eng.ctxs k.val).cams = x.cams ++ [⟨n, 2, 0⟩] ∧
        (n, (vget b.cams n).gen) ∈ (vget e.eng.ctxs k.val).cclaims) ∧
    (s.chip.issuesAs Op.camLoad q f b →
      let a := field f.op 0 32
      let count := field f.op 32 13
      a % 16 = 0 → 1 ≤ count → count ≤ 4096 → 0x10000000 ≤ a → a + 16 * count ≤ 0x10100000 →
      (∀ i, i < count → b.eccAt (a + 16 * i) = 0) → (vget b.cams n).claim = none → x.cams = [] →
      count ≤ b.tabFree + (vget b.cams n).shadow.length → b.scr.stg = none → b.prs.staged = none →
      ∀ tab, tableOf ((List.range count).map fun i => b.getWord (a + 16 * i)) = some tab →
        ∃ t e, exec (.camLoad q f) s = .next t ∧ Completes q f St.ok 0 b.lt s e t ∧ b.keeps [.ctxs, .cams] e ∧
          vget e.cams n = { vget b.cams n with shadow := tab, shadowOk := true, claim := some k } ∧
          (∀ j, j < 32 → j ≠ n → vget e.cams j = vget b.cams j) ∧
          (vget e.eng.ctxs k.val).cams = [⟨n, 0, 0⟩]) ∧
    (∀ i off len, (i, off, len) ∈
        [(Instr.termWr q f, 36 * field f.tgt 8 9 + 8 * field f.tgt 17 3, if field f.tgt 17 3 = 4 then 4 else 8),
          (Instr.mcCfg q f, 12672 + 2 * field f.tgt 8 6, 2)] →
      (i = .termWr q f → s.chip.issuesAs Op.termWr q f b ∧ field f.tgt 8 9 < 352 ∧ field f.tgt 17 3 < 5) →
      (i = .mcCfg q f → s.chip.issuesAs Op.mcCfg q f b ∧ mcCfgOk (f.op.setWidth 16) = true) →
      f.ext.getLsbD 0 = false → s.die.sealed = false → (vget b.fronds n).shadowBusy = false → (vget b.fronds n).claim = none →
      x.fronds = [] →
      ∃ t e, exec i s = .next t ∧ Completes q f St.ok 0 b.lt s e t ∧
        b.keeps [.ctxs, .mem, .fronds, .prs, .scr, .cams] e ∧
        memNat 0 e.mem (b.shadowBase n + off) len = f.op.toNat % 2 ^ (8 * len) ∧
        sameOutside 0 b.mem e.mem (b.shadowBase n + off) len ∧
        (vget e.fronds n).claim = some k ∧ (vget e.fronds n).st = (vget b.fronds n).st ∧
        (vget e.fronds n).plane = (vget b.fronds n).plane ∧ (vget e.fronds n).gen = (vget b.fronds n).gen ∧
        (∀ j, j < 32 → j ≠ n → vget e.fronds j = vget b.fronds j) ∧
        (vget e.eng.ctxs k.val).fronds = [⟨n, 0⟩] ∧ (n, (vget b.fronds n).gen) ∈ (vget e.eng.ctxs k.val).fclaims) ∧
    let mask : Word := f.op.setWidth 32
    let staged (i : Instr) (kind : Nat) : Prop :=
      ∃ t e, exec i s = .next t ∧ Completes q f St.ok 0 b.lt s e t ∧ b.keeps [.ctxs, .fronds] e ∧
        (∀ j, j < 32 → vget e.fronds j = { vget b.fronds j with claim := if mask.getLsbD j then some k else none }) ∧
        (vget e.eng.ctxs k.val).regs = x.regs ∧ (vget e.eng.ctxs k.val).cams = x.cams ∧
        ∀ j, (⟨j, kind⟩ ∈ (vget e.eng.ctxs k.val).fronds ↔ j < 32 ∧ mask.getLsbD j = true) ∧
          ((j, (vget b.fronds j).gen) ∈ (vget e.eng.ctxs k.val).fclaims ↔ j < 32 ∧ mask.getLsbD j = true)
    mask ≠ 0 → x.fronds = [] → x.fclaims = [] → (∀ j, j < 32 → (vget b.fronds j).claim = none) →
      (s.chip.issuesAs Op.frondSafe q f b → staged (.frondSafe q f) (if f.ext.getLsbD 0 then 2 else 1)) ∧
      (s.chip.issuesAs Op.frondRun q f b → b.prs.ldr ≠ .loader → b.suspect mask = false → staged (.frondRun q f) 3) ∧
      (s.chip.issuesAs Op.planeSwap q f b → b.swapCheck q true mask = none → b.scr.stg = none → staged (.planeSwap q f) 4)

/-! ### Personalities and flash (R300 to R320) -/

/-- PERS.STAGE (R300): a claim, a stage or repair that runs, or a flash operation in the slot is BUSY; a stream that fails
steps 1 or 2 ends at once with PRS.EVT.fail, ECC_UNCORR where the slot's first sector is not VALID (R310); one that passes
them is staged, every shadow busy (R234), until the loader has ended (RESOURCE_GRANTED): with the staged stream, not yet
verified, and PRS.EVT.staged, or with the failure and PRS.EVT.fail. ECC_UNCORR of a sector that is not VALID is R300's and
R310's. That the work lasts until RESOURCE_GRANTED is the model's reading (DEDUCED, log entry 101). PERS.VERIFY without a
staged stream of its slot is ILLEGAL, with one it reads until the loader has ended (RESOURCE_GRANTED); of the staged stream
it then ends as its trailer and bindings end, with the stream verified or its shadows and tables given up; its mode 1
changes nothing but the correction count and the events (R302). That mode 1 returns 0 (DEDUCED, log entry 34) and that the
reading lasts until RESOURCE_GRANTED (DEDUCED, log entry 101) is the model's reading. -/
def Obligations.StagingAndVerification : Prop :=
  ((∀ (q : Queue) (f : Insn) (s : State) (b : Chip), s.chip.issuesAs Op.persStage q f b →
    let slot := f.tgt.getLsbD 0
    let r := if slot then 1 else 0
    (b.stageBusy r = true → ∃ t, exec (.persStage q f) s = .next t ∧ Completes q f St.busy 0 b.lt s b t) ∧
    (b.stageBusy r = false →
      (∀ st k, ((b.prs.openStream s.die r).run.run 0 : Except Byte (Hdr × List Seg) × Nat) = (.error st, k) →
        ∃ t e, exec (.persStage q f) s = .next t ∧ Completes q f st 0 b.lt s e t ∧ b.keeps [.prs] e ∧
          e.prs.evt.getLsbD 3 = true ∧ e.prs.staged = b.prs.staged) ∧
      (∀ x k, ((b.prs.openStream s.die r).run.run 0 : Except Byte (Hdr × List Seg) × Nat) = (.ok x, k) →
        ∃ t e, exec (.persStage q f) s = .next t ∧ Waits q 0x90 f .staging 0 0 s e t ∧ b.keeps [.fronds] e ∧
          ∀ n, n < 32 → vget e.fronds n = { vget b.fronds n with shadowBusy := true }) ∧
      (memRead 0 b.prs.marks (256 * r) ≠ 1 →
        ∃ t e, exec (.persStage q f) s = .next t ∧ Completes q f St.eccUncorr 0 b.lt s e t ∧ b.keeps [.prs] e ∧
          e.prs.evt.getLsbD 3 = true ∧ e.prs.staged = b.prs.staged))) ∧
  ∀ (q : Queue) (s : State) (w : Wait),
    let c := s.chip.endSwitch
    let slot := w.f.tgt.getLsbD 0
    c.coreOn = true → (c.queue q).wait = some w → w.kind = .staging → w.code = 0x90 →
    ∀ st k n x, (c.markBusy 0xFFFFFFFF false).stageSlot s.die slot = (st, k, n, x) → c.noRecord x →
      (∃ t e, exec (.resourceGranted q) s = .next t ∧ Completes q w.f st (BitVec.ofNat 64 n) c.lt s e t ∧
        x.keeps [.queues] e ∧ (e.queue q).wait = none) ∧
      (failed st = false → x.prs.evt.getLsbD 0 = true ∧ ∃ sg, x.prs.staged = some sg ∧ sg.slot = slot ∧
        sg.verified = false ∧ x.prs.stgId = sg.persId) ∧
      (failed st = true → n = 0 ∧ x.prs.evt.getLsbD 3 = true)) ∧
  (∀ (q : Queue) (f : Insn) (s : State) (b : Chip), s.chip.issuesAs Op.persVerify q f b →
    let slot := f.tgt.getLsbD 0
    let r := if slot then 1 else 0
    (f.ext.getLsbD 0 = false → b.prs.staged = none →
      ∃ t, exec (.persVerify q f) s = .next t ∧ Completes q f St.illegal 0 b.lt s b t) ∧
    (f.ext.getLsbD 0 = false → ∀ sg, b.prs.staged = some sg →
      (sg.slot ≠ slot → ∃ t, exec (.persVerify q f) s = .next t ∧ Completes q f St.illegal 0 b.lt s b t) ∧
      (sg.slot = slot → b.stageBusy r = false → sg.variants = 0 →
        ∃ t, exec (.persVerify q f) s = .next t ∧ Waits q 0x91 f .staging 0 0 s b t)) ∧
    (f.ext.getLsbD 0 = true → b.stageBusy r = false →
      ∃ t, exec (.persVerify q f) s = .next t ∧ Waits q 0x91 f .staging 0 0 s b t)) ∧
  ∀ (q : Queue) (s : State) (w : Wait),
    let c := s.chip.endSwitch
    c.coreOn = true → (c.queue q).wait = some w → w.kind = .staging → w.code = 0x91 →
    let ends (st : Byte) (res : DWord) (x : Chip) : Prop :=
      ∃ t e, exec (.resourceGranted q) s = .next t ∧ Completes q w.f st res c.lt s e t ∧ x.keeps [.queues] e ∧
        (e.queue q).wait = none
    (w.f.ext.getLsbD 0 = false → ∀ sg, c.prs.staged = some sg → sg.variants = 0 → ∀ st x, c.verifyStaged s.die sg = (st, x) →
      ends st (if failed st then 0 else 1) x ∧
      (failed st = false → x.prs.staged = some { sg with verified := true } ∧ x.prs.varOk = false ∧
        x.prs.evt.getLsbD 1 = true ∧ c.keeps [.prs] x) ∧
      (failed st = true → x.prs.evt.getLsbD 3 = true ∧ ∀ n, n < 32 → (vget x.fronds n).shadowOk = false)) ∧
    (w.f.ext.getLsbD 0 = false → c.prs.staged = none → ends St.illegal 0 c) ∧
    (w.f.ext.getLsbD 0 = true → ∀ st x, c.verifySlot s.die (w.f.tgt.getLsbD 0) = (st, x) →
      ends st 0 x ∧ c.keeps [.prs] x ∧ x.prs.staged = c.prs.staged ∧ x.prs.varOk = c.prs.varOk)

/-- PERS.ACTIVATE with every check of R305 passed swaps every plane on one edge: each frond holds the staged image with its
signature, RUN where the stream's mask says and SAFE elsewhere, every cam is disarmed, every pin at its reset configuration,
and the slot is active; a generation advances once in each cc of Table PRS-8 that changes its unit (R131, R306). A stream
with initial register values or routine words activates too, and takes the lichen writer last (R36). `checked` spells the
checks of R305: with them passed and the general entries of the writer free it completes OK, whatever the stream holds.
Without a staged stream it is ILLEGAL, and a check that fails ends it with its status. -/
def Obligations.ActivationSwapsEverything : Prop :=
  ∀ (q : Queue) (f : Insn) (s : State) (b : Chip), s.chip.issuesAs Op.persActivate q f b →
    (b.prs.staged = none → ∃ t, exec (.persActivate q f) s = .next t ∧ Completes q f St.illegal 0 b.lt s b t) ∧
    ∀ sg, b.prs.staged = some sg →
      let checked : Prop := sg.verified = true ∧
        (∀ n, n < 32 → (vget b.fronds n).shadowOk = true ∧ (vget b.fronds n).claim = none ∧ (vget b.cams n).claim = none ∧
          (sg.cams.getLsbD n = true → (vget b.cams n).shadowOk = true)) ∧
        (∀ k, (b.queue k).calls = [] ∧ ∀ w, (b.queue k).wait = some w → w.code = 0x25 → w.kind = .fence) ∧
        b.sec.locks.getLsbD 0 = false ∧ (b.sec.locks.getLsbD 1 = true → ∀ e, e ∈ sg.regs → e.1 ≠ 0x00010004) ∧
        ∀ e, e ∈ sg.rout → b.bpRange e.1 = false
      (b.actCheck (Src.ofQueue q) sg = none ↔ checked) ∧
      (checked → b.lic.general = 0 →
        ∃ t e, exec (.persActivate q f) s = .next t ∧ Completes q f St.ok (if sg.slot then 1 else 0) b.lt s e t ∧
          e.prs.ldr = .user ∧ e.prs.actSlot = some sg.slot ∧ e.prs.actId = sg.persId ∧ e.prs.actBuild = sg.build ∧
          e.prs.staged = none) ∧
      (sg.verified = false → ∃ t, exec (.persActivate q f) s = .next t ∧ Completes q f St.illegal 0 b.lt s b t) ∧
      (∀ st x, b.actCheck (Src.ofQueue q) sg = some (st, x) → x.lic.wait.length ≤ b.lic.wait.length →
        ∃ t e, exec (.persActivate q f) s = .next t ∧ Completes q f st 0 b.lt s e t ∧ x.keeps [.lic] e ∧
          (b.noRecord x → e = x)) ∧
      (b.actCheck (Src.ofQueue q) sg = none →
        let a := b.activate s.die sg
        (a.lic.wait.length ≤ b.lic.wait.length ∨ b.lic.general = 0 →
          ∃ t e, exec (.persActivate q f) s = .next t ∧ Completes q f St.ok (if sg.slot then 1 else 0) b.lt s e t ∧
            a.keeps [.lic] e ∧ e.prs.ldr = .user ∧ e.prs.actSlot = some sg.slot ∧ e.prs.actId = sg.persId ∧
            e.prs.staged = none) ∧
        (b.lic.wait.length < a.lic.wait.length → 0 < b.lic.general →
          ∃ t, exec (.persActivate q f) s = .next t ∧ Waits q 0x92 f .licWriter 0 0 s b t)) ∧
      (b.actCheck (Src.ofQueue q) sg = none → sg.regs = [] → sg.rout = [] → b.prs.rtStore = false →
        (∀ k, (b.queue k).posted = false) → b.lic.room = true →
        ∃ t e r, exec (.persActivate q f) s = .next t ∧
          Completes q f St.ok (if sg.slot then 1 else 0) b.lt s e t ∧
          b.keeps [.fronds, .cams, .pins, .banks, .edg, .scr, .prs, .lic] e ∧
          b.oneRecord e r ∧ r.cause = 0x0002 ∧ e.prs.ldr = .user ∧ e.prs.actSlot = some sg.slot ∧
          e.prs.actId = sg.persId ∧ e.prs.actBuild = sg.build ∧ e.prs.staged = none ∧ e.prs.evt.getLsbD 2 = true ∧
          e.scr.irpEn = sg.irp.getLsbD 7 ∧
          (∀ n, n < 32 →
            let x := vget b.fronds n
            let y := vget e.fronds n
            y.plane = !x.plane ∧ y.golden = x.shadowSig ∧ y.activeOk = true ∧
              y.gen = x.gen + 1 + (if sg.runMask.getLsbD n then 1 else 0) ∧
              y.st = (if sg.runMask.getLsbD n then .run else .safe) ∧ (vget e.cams n).armed = false ∧
              (vget e.cams n).tabOk = sg.cams.getLsbD n) ∧
          ∀ p, p < 192 → (vget e.pins p).cfg = 0x00004000)

/-- PERS.SLOT sets or clears the boot preference in page 1,024 and returns the old one (R313). VARIANT.STAGE is AUTH_FAIL
without var_ok and RANGE for a variant the personality does not have; else it discards a staged stream, marks the shadows it
will write and runs until the loader has ended (RESOURCE_GRANTED), when it ends as the staging ends; one that succeeds makes
its variant the stage set (R234, R320, R321). That a VARIANT.STAGE runs until RESOURCE_GRANTED is the model's reading
(DEDUCED, log entry 101). PERS.PROG and PERS.ERASE begin a flash operation and wait; the active slot is BUSY_SELF and an
operation in progress BUSY (R309, R311). FLASH_OP_DONE leaves the sector erased and ERASED, or its bytes programmed and
VALID, and no other sector changed, sets PRS.EVT and retires the waiting instruction (R310, R312). That of two checks of one
step BUSY comes before BUSY_SELF where the text has it so is the model's reading (DEDUCED, log entry 29). -/
def Obligations.FlashBootPreferenceAndVariants : Prop :=
  (∀ (q : Queue) (f : Insn) (s : State) (b : Chip),
    (s.chip.issuesAs Op.persSlot q f b →
      ∃ t e res, exec (.persSlot q f) s = .next t ∧ Completes q f St.ok res b.lt s e t ∧ b.keeps [.mem, .prs, .nvs] e ∧
        e.prs.bootpref = (if f.op.getLsbD 1 then none else some (f.op.getLsbD 0)) ∧
        memNat 0 e.mem 0x38000004 4 = (if f.op.getLsbD 1 then 0 else if f.op.getLsbD 0 then 3 else 2) ∧
        sameOutside 0 b.mem e.mem 0x38000004 4 ∧ e.nvs.dirtyP.getLsbD 1024 = true ∧
        (b.prs.bootpref = none → res = 2) ∧ ∀ x, b.prs.bootpref = some x → res = if x then 1 else 0) ∧
    (s.chip.issuesAs Op.variantStage q f b → b.prs.varOk = false →
      ∃ t, exec (.variantStage q f) s = .next t ∧ Completes q f St.authFail 0 b.lt s b t) ∧
    (s.chip.issuesAs Op.variantStage q f b → b.prs.varOk = true → b.prs.actVars ≤ field f.tgt 0 3 →
      ∃ t, exec (.variantStage q f) s = .next t ∧ Completes q f St.range 0 b.lt s b t) ∧
    (s.chip.issuesAs Op.variantStage q f b → b.prs.varOk = true → field f.tgt 0 3 < b.prs.actVars →
      ∀ h segs k, b.bankTable = (.ok (h, segs), k) →
        let own := segs.filter fun x => x.variant == field f.tgt 0 3
        let mask : Word := f.op.setWidth 32
        mask ≠ 0 → mask &&& ~~~(imageMask own) = 0 → (q = 6 → b.scr.irpEn = false) → b.anyClaim = false →
        b.staging = false → b.scr.running = none →
        ∃ t e, exec (.variantStage q f) s = .next t ∧ Waits q 0x94 f .staging 0 (mask.setWidth 64) s e t ∧
          b.keeps [.fronds, .cams, .prs] e ∧ e.prs.staged = none ∧
          ∀ n, n < 32 → mask.getLsbD n = true → (vget e.fronds n).shadowBusy = true ∧ (vget e.fronds n).shadowOk = false) ∧
    ∀ w,
      let c := s.chip.endSwitch
      let mask : Word := w.res.setWidth 32
      let v := w.f.tgt.extractLsb' 0 3
      c.coreOn = true → (c.queue q).wait = some w → w.kind = .staging → w.code = 0x94 →
      ∀ h segs k, c.bankTable = (.ok (h, segs), k) → ∀ st x, c.stageVariant s.die h segs v mask = (st, x) →
        c.noRecord x →
        (∃ t e, exec (.resourceGranted q) s = .next t ∧
          Completes q w.f (if failed st || k == 0 then st else St.corrected) (if failed st then 0 else mask.setWidth 64)
            c.lt s e t ∧
          x.keeps [.prs, .queues] e ∧ (e.queue q).wait = none) ∧
        (failed st = false → ∃ cams, x.scr.stg = some (v, mask, cams))) ∧
  (∀ (q : Queue) (f : Insn) (s : State) (b : Chip),
    let a := field f.tgt 0 24
    let src := field f.op 0 32
    a % 4096 = 0 → a < 0x300000 →
    (s.chip.issuesAs Op.persErase q f b →
      (b.prs.op ≠ none → ∃ t, exec (.persErase q f) s = .next t ∧ Completes q f St.busy 0 b.lt s b t) ∧
      (b.prs.op = none → b.staging = false → b.prs.ldr ≠ .loader → a < 0x200000 →
        b.prs.actSlot = some (decide (0x100000 ≤ a)) →
        ∃ t, exec (.persErase q f) s = .next t ∧ Completes q f St.busySelf 0 b.lt s b t) ∧
      (b.prs.op = none → b.staging = false → a < 0x200000 → b.prs.actSlot ≠ some (decide (0x100000 ≤ a)) →
        ∃ t e, exec (.persErase q f) s = .next t ∧ Waits q 0x96 f .flashDone 0 0 s e t ∧ b.keeps [.prs, .cams] e ∧
          e.prs.op = some ⟨false, a / 4096, [], false, some q⟩ ∧ e.prs.flash = b.prs.flash)) ∧
    (s.chip.issuesAs Op.persProg q f b → src % 16 = 0 → 0x70000000 ≤ src → src + 4096 ≤ 0x70010000 →
      b.prs.op = none → b.staging = false → a < 0x200000 → b.prs.actSlot ≠ some (decide (0x100000 ≤ a)) →
      (∀ i, i < 256 → b.eccAt (src + 16 * i) = 0) →
      ∃ t e, exec (.persProg q f) s = .next t ∧ Waits q 0x95 f .flashDone 0 0 s e t ∧ b.keeps [.prs, .cams] e ∧
        e.prs.op = some ⟨true, a / 4096, (List.range 256).flatMap fun i => natBytes (b.getWord (src + 16 * i)).toNat 16,
          false, some q⟩ ∧ e.prs.flash = b.prs.flash)) ∧
  ∀ (s : State) (o : FlashOp) (q : Queue) (w : Wait),
    let c := s.chip.endSwitch
    c.prs.op = some o → c.storeOn = true → o.jtag = false →
    o.queue = some q → (c.queue q).wait = some w → w.kind = .flashDone → w.t = 0 →
    (o.prog = true → memRead 0 c.prs.marks o.sector = 0 ∧ o.data.length = 4096) →
    ∃ t e, exec .flashOpDone s = .next t ∧ Completes q w.f St.ok w.res e.lt s e t ∧ c.keeps [.prs, .queues] e ∧
      e.prs.op = none ∧ e.prs.evt.getLsbD 4 = true ∧
      memRead 0 e.prs.marks o.sector = (if o.prog then 1 else 0) ∧
      (∀ k, k ≠ o.sector → memRead 0 e.prs.marks k = memRead 0 c.prs.marks k) ∧
      (∀ i, i < 4096 → memRead 0xFF e.prs.flash (4096 * o.sector + i) = if o.prog then o.data.getD i 0 else 0xFF) ∧
      ∀ x, x < 4096 * o.sector ∨ 4096 * o.sector + 4096 ≤ x → memRead 0xFF e.prs.flash x = memRead 0xFF c.prs.flash x

/-! ### Security (R214, R215, R447 to R460) -/

/-- Fuses only set: no step clears one (R447). -/
def Obligations.NoStepClearsAFuse : Prop :=
  ∀ (d : Die) (s t : State), d.fusesKept s.die → step s = .next t → d.fusesKept t.die

/-- LOCK.SET (R449, R450, Table SEC-2) kind 0 sets register locks, which stay, and returns them, RANGE for a bit without a
group; kind 1 sets JTAG hold and returns SEC.FUSE. A fuse kind needs its confirmation (RANGE without), is OK at once where
its fuse is set, waits for a busy programmer, needs a programmed key for SEALED (RANGE), and else waits for its operation;
FUSE_OP_DONE blows the fuse and ends the instruction, an instruction that a reset has taken writes nothing. Another kind is
RANGE. KEY.PROG stages its quarters in order for the queue that began (R454): quarter 0 takes the staging, another queue is
BUSY, a quarter out of turn RANGE with the staging cleared, one that nobody's staging precedes RANGE. Quarter 3 clears the
staging (R455): with the key programmed the same key is OK with the start of the key hash and another LOCKED with a
violation; on an unprogrammed part it waits for a busy programmer, is LOCKED where a blown fuse must be 0, and else waits
for the operation that programs the whole key; FUSE_OP_DONE ends it with the start of the key hash. -/
def Obligations.LocksFusesAndKeys : Prop :=
  ((∀ (q : Queue) (f : Insn) (s : State) (b : Chip), s.chip.issuesAs Op.lockSet q f b →
    let kind := field f.tgt 0 4
    let m : Word := f.op.setWidth 32
    let isSet := if kind = 2 then s.die.sealed else if kind = 3 then s.die.readback else s.die.jtagLock
    let sure := f.op.extractLsb' 48 16 == 0x5EA1
    (kind = 0 → m &&& ~~~3 = 0 →
      ∃ t e, exec (.lockSet q f) s = .next t ∧ Completes q f St.ok (e.sec.locks.setWidth 64) b.lt s e t ∧
        b.keeps [.sec] e ∧ e.sec.locks = b.sec.locks ||| m.setWidth 2 ∧ e.sec.jtagHold = b.sec.jtagHold) ∧
    (kind = 0 → m &&& ~~~3 ≠ 0 → ∃ t, exec (.lockSet q f) s = .next t ∧ Completes q f St.range 0 b.lt s b t) ∧
    (kind = 1 → ∃ t e, exec (.lockSet q f) s = .next t ∧
      Completes q f St.ok ((e.secFuse s.die).setWidth 64) b.lt s e t ∧ b.keeps [.sec] e ∧
      e.sec = { b.sec with jtagHold := true }) ∧
    (2 ≤ kind → kind ≤ 4 → sure = false →
      ∃ t, exec (.lockSet q f) s = .next t ∧ Completes q f St.range 0 b.lt s b t) ∧
    (2 ≤ kind → kind ≤ 4 → sure = true → isSet = true →
      ∃ t, exec (.lockSet q f) s = .next t ∧ Completes q f St.ok ((b.secFuse s.die).setWidth 64) b.lt s b t) ∧
    (2 ≤ kind → kind ≤ 4 → sure = true → isSet = false → b.sec.op ≠ none →
      ∃ t, exec (.lockSet q f) s = .next t ∧ Waits q 0xA0 f .fuse 0 0 s b t) ∧
    (kind = 2 → sure = true → isSet = false → b.sec.op = none → s.die.keyProg = false →
      ∃ t, exec (.lockSet q f) s = .next t ∧ Completes q f St.range 0 b.lt s b t) ∧
    (2 ≤ kind → kind ≤ 4 → sure = true → isSet = false → b.sec.op = none → (kind = 2 → s.die.keyProg = true) →
      ∃ t e, exec (.lockSet q f) s = .next t ∧ Waits q 0xA0 f .fuseDone 0 0 s e t ∧ b.keeps [.sec] e ∧
        e.sec = { b.sec with op := some ⟨kind - 1, some q, 0⟩ }) ∧
    (5 ≤ kind → ∃ t, exec (.lockSet q f) s = .next t ∧ Completes q f St.range 0 b.lt s b t)) ∧
  (∀ s : State, s.chip.endSwitch.storeOn = false ∨ s.chip.endSwitch.sec.op = none →
    exec .fuseOpDone s = .next { s with chip := s.chip.endSwitch }) ∧
  ∀ (s : State) (o : FuseOp),
    let u : State := { s with chip := s.chip.endSwitch }
    u.chip.storeOn = true → u.chip.sec.op = some o → 1 ≤ o.kind → o.kind ≤ 3 →
    (∀ q w, o.queue = some q → (u.chip.queue q).wait = some w → w.kind = .fuseDone →
      ∃ t e, exec .fuseOpDone s = .next t ∧
        Completes q w.f St.ok ((e.secFuse t.die).setWidth 64) e.lt { s with die := t.die } e t ∧
        u.chip.keeps [.sec, .prs, .cams, .queues] e ∧ (e.queue q).wait = none ∧ e.sec.op = none ∧
        e.sec.evt.getLsbD 1 = true) ∧
    (o.queue = none → ∃ t, exec .fuseOpDone s = .next t ∧ t.pending = s.pending ∧
      u.chip.keeps [.sec, .prs, .cams] t.chip ∧ t.chip.sec.op = none ∧ t.chip.sec.evt.getLsbD 1 = true) ∧
    ∀ t, exec .fuseOpDone s = .next t →
      t.die.sealed = (s.die.sealed || o.kind == 1) ∧ t.die.readback = (s.die.readback || o.kind == 2) ∧
      t.die.jtagLock = (s.die.jtagLock || o.kind == 3) ∧ t.die.key = s.die.key ∧ t.die.keyProg = s.die.keyProg) ∧
  (∀ (q : Queue) (f : Insn) (s : State) (b : Chip), s.chip.issuesAs Op.keyProg q f b →
    let n := field f.tgt 0 2
    let key := stageQuarter b.sec.stageKey 3 f.op
    (n = 0 → (b.sec.owner = none ∨ b.sec.owner = some q) →
      ∃ t e, exec (.keyProg q f) s = .next t ∧ Completes q f St.ok 0 b.lt s e t ∧ b.keeps [.sec] e ∧
        e.sec.owner = some q ∧ e.sec.quarter = 1 ∧ e.sec.stageKey = f.op.setWidth 256) ∧
    (∀ o, b.sec.owner = some o → o ≠ q →
      ∃ t, exec (.keyProg q f) s = .next t ∧ Completes q f St.busy 0 b.lt s b t) ∧
    (n ≠ 0 → b.sec.owner = none → ∃ t, exec (.keyProg q f) s = .next t ∧ Completes q f St.range 0 b.lt s b t) ∧
    (n ≠ 0 → b.sec.owner = some q → b.sec.quarter ≠ n →
      ∃ t e, exec (.keyProg q f) s = .next t ∧ Completes q f St.range 0 b.lt s e t ∧ b.keeps [.sec] e ∧
        e.sec.owner = none ∧ e.sec.stageKey = 0) ∧
    (n ≠ 0 → n ≠ 3 → b.sec.owner = some q → b.sec.quarter = n →
      ∃ t e, exec (.keyProg q f) s = .next t ∧ Completes q f St.ok 0 b.lt s e t ∧ b.keeps [.sec] e ∧
        e.sec.quarter = n + 1 ∧ e.sec.stageKey.extractLsb' (64 * n) 64 = f.op ∧
        (∀ i, i < 256 → (i < 64 * n ∨ 64 * n + 64 ≤ i) → e.sec.stageKey.getLsbD i = b.sec.stageKey.getLsbD i)) ∧
    (n = 3 → b.sec.owner = some q → b.sec.quarter = 3 →
      key.extractLsb' 192 64 = f.op ∧ key.extractLsb' 0 192 = b.sec.stageKey.extractLsb' 0 192 ∧
      (s.die.keyProg = true → key = s.die.key →
        ∃ t e, exec (.keyProg q f) s = .next t ∧ Completes q f St.ok s.die.hash8 b.lt s e t ∧ b.keeps [.sec] e ∧
          e.sec.owner = none ∧ e.sec.stageKey = 0) ∧
      (s.die.keyProg = true ∧ key ≠ s.die.key ∨ s.die.keyProg = false ∧ b.sec.op = none ∧ s.die.key &&& ~~~key ≠ 0 →
        b.lic.room = true →
        ∃ t e, exec (.keyProg q f) s = .next t ∧ Completes q f St.locked 0 b.lt s e t ∧ b.keeps [.sec, .lic] e ∧
          e.sec.owner = none ∧ e.sec.stageKey = 0 ∧ e.sec.viol = satAdd b.sec.viol 1 ∧
          e.sec.lastv.extractLsb' 0 16 = 0x3E02) ∧
      (s.die.keyProg = false → b.sec.op ≠ none →
        ∃ t, exec (.keyProg q f) s = .next t ∧ Waits q 0xA1 f .fuse 0 0 s b t) ∧
      (s.die.keyProg = false → b.sec.op = none → s.die.key &&& ~~~key = 0 →
        ∃ t e, exec (.keyProg q f) s = .next t ∧ Waits q 0xA1 f .fuseDone 0 0 s e t ∧ b.keeps [.sec] e ∧
          e.sec.op = some ⟨4, some q, key⟩ ∧ e.sec.owner = none ∧ e.sec.stageKey = 0))) ∧
  ∀ (s : State) (o : FuseOp),
    let u : State := { s with chip := s.chip.endSwitch }
    u.chip.storeOn = true → u.chip.sec.op = some o → o.kind = 4 →
    (∀ q w, o.queue = some q → (u.chip.queue q).wait = some w → w.kind = .fuseDone →
      ∃ t e, exec .fuseOpDone s = .next t ∧ Completes q w.f St.ok t.die.hash8 e.lt { s with die := t.die } e t ∧
        u.chip.keeps [.sec, .queues] e ∧ (e.queue q).wait = none ∧ e.sec.op = none ∧ e.sec.evt.getLsbD 2 = true) ∧
    (o.queue = none → ∃ t, exec .fuseOpDone s = .next t ∧ t.pending = s.pending ∧ u.chip.keeps [.sec] t.chip ∧
      t.chip.sec.op = none ∧ t.chip.sec.evt.getLsbD 2 = true) ∧
    ∀ t, exec .fuseOpDone s = .next t →
      t.die.keyProg = true ∧ t.die.key = s.die.key ||| o.key ∧ t.die.sealed = s.die.sealed

/-! ### Clock and time instructions (R48, R58 to R61, R94, R102) -/

/-- CLK.SEL (R48): to the crystal it makes the clock FORCED, whatever the line does, from LINE by a glitch-free switch; to a
good line it begins a glitch-free switch, and while the line is not yet good it leaves a request that QUALIFYING keeps; a
source that is lost is CLOCK_HOLD, targets 0 and 3 RANGE. A glitch-free switch takes four periods (Table CLK-3): at the end
of cc2 the clock moves, line time adding the stretched cycle of 10 to 14 ns, whose length the spec leaves free (R49, R50);
its last period retires the CLK.SEL. Which commands see a switch in flight, and how far, is the model's reading (DEDUCED,
log entry 96). CLK.FORCE (R58, R61, R132, R492): a target that is not usable is CLOCK_HOLD with CLK.EVT, targets 0 and 3
RANGE, from Q5 it needs the clock's generation, else STALE; from QUALIFYING or FALLBACK to the crystal it moves the clock at
once. Else the sequence of R61 begins: the outputs are held and the core stands still; a glitch-free switch in flight is
pre-empted, its CLK.SEL an error. With the end of the sequence the state moves, the generation advanced once, and line time
goes on by the hold count in crystal periods with the holdover flag. That the sequence lasts 7 periods (DESIGN CHOICE, log
entry 12) and what a command sees of it in flight (DEDUCED, log entry 96) is the model's choice. LT.SET writes seconds and
ticks, clears the slewer and sets source 2, its record carrying the time before (R102); LT.ADJ adds to the slewer and sets
its interval (R94). Ticks above 15,999,999,999 and intervals 1 to 156 are RANGE. That the result of LT.ADJ is extended with
zeros to 64 bits is the model's choice (DESIGN CHOICE, log entry 100). -/
def Obligations.ClockAndTimeInstructions : Prop :=
  ((∀ (q : Queue) (f : Insn) (s : State) (b : Chip), s.chip.issuesAs Op.clkSel q f b →
    let n := field f.op 0 2
    let k := b.clk
    let begins (line : Bool) (into : ClkState) (evt : Word) : Prop :=
      ∃ t e, exec (.clkSel q f) s = .next t ∧ Waits q 0xB0 f .switch 0 0 s e t ∧ b.keeps [.clk] e ∧
        e.clk = { k with switch := some ⟨false, line, into, evt, k.st, .queue q, 4⟩ }
    (n = 0 ∨ n = 3 → ∃ t, exec (.clkSel q f) s = .next t ∧ Completes q f St.range 0 b.lt s b t) ∧
    (n = 1 → k.xtalOk = false ∨ (k.st = .line ∧ (k.lineLost = true ∨ k.cdrLock = false)) →
      ∃ t, exec (.clkSel q f) s = .next t ∧ Completes q f St.clockHold 0 b.lt s b t) ∧
    (n = 2 → k.lineLost = true ∨ k.cdrLock = false ∨ (k.st ≠ .line ∧ k.xtalOk = false) →
      ∃ t, exec (.clkSel q f) s = .next t ∧ Completes q f St.clockHold 0 b.lt s b t) ∧
    (n = 1 → k.xtalOk = true →
      (k.st ≠ .forced → k.st ≠ .line →
        ∃ t e, exec (.clkSel q f) s = .next t ∧ Completes q f St.ok 0 b.lt s e t ∧ b.keeps [.clk] e ∧
          e.clk = { k with st := .forced, gen := k.gen + 1, evt := k.evt ||| 0x10, selPending := false }) ∧
      (k.st = .forced → ∃ t, exec (.clkSel q f) s = .next t ∧ Completes q f St.ok 0 b.lt s b t)) ∧
    (k.xtalOk = true → k.lineLost = false → k.cdrLock = true →
      (n = 1 → k.st = .line → begins false .forced 0x10) ∧
      (n = 2 → k.st = .line → ∃ t, exec (.clkSel q f) s = .next t ∧ Completes q f St.ok 0 b.lt s b t) ∧
      (n = 2 → k.st ≠ .line → k.lineOk = true →
        begins true .line (if k.st = .qualifying then 0x18 else 0x10)) ∧
      (n = 2 → k.st ≠ .line → k.lineOk = false →
        ∃ t e, exec (.clkSel q f) s = .next t ∧ Completes q f St.ok 1 b.lt s e t ∧ b.keeps [.clk] e ∧
          e.clk.st = .qualifying ∧ e.clk.selPending = true))) ∧
  ∀ (s : State) (x : Switch),
    let c := s.chip
    let total (l : LineTime) : Nat := l.sec.toNat * 16000000000 + l.ticks.toNat
    s.pending = [] → c.coreOn = true → c.clk.switch = some x → x.forced = false →
    (∀ q, (c.queue q).words = [] ∧ (c.queue q).calls = []) → c.scr.irpEn = false → c.scr.running = none → c.stager = none →
    c.mgt.stretch = false →
    (x.left = 2 → ∃ t m, step s = .next t ∧ 160 ≤ m ∧ m ≤ 224 ∧ t.chip.lt.len = m ∧
      total t.chip.lt = (total c.lt + m) % (2 ^ 32 * 16000000000) ∧
      t.chip.clk = { c.clk with
        st := x.into, gen := c.clk.gen + 1, evt := c.clk.evt ||| x.evt, selPending := false, switch := some { x with left := 1 } }) ∧
    (x.left ≤ 1 → ∀ q w, x.caller = .queue q → (c.queue q).wait = some w → w.kind = .switch →
      ∃ t e, step s = .next t ∧ Completes q w.f St.ok 0 e.lt s e t ∧ (e.queue q).wait = none ∧
        e.clk = { c.clk with switch := none })) ∧
  ((∀ (q : Queue) (f : Insn) (s : State) (b : Chip), s.chip.clk.switch = none → s.chip.issuesAs Op.clkForce q f b →
    let n := field f.op 0 2
    let k := b.clk
    (n = 0 ∨ n = 3 → ∃ t, exec (.clkForce q f) s = .next t ∧ Completes q f St.range 0 b.lt s b t) ∧
    (q = 5 → n = 1 ∨ n = 2 → b.mgt.expValid = false →
      ∃ t e, exec (.clkForce q f) s = .next t ∧ Completes q f St.stale 0 b.lt s e t ∧ b.keeps [.mgt] e ∧
        e.mgt.stale = satAdd b.mgt.stale 1) ∧
    (q = 5 → b.mgt.expValid = true ∧ b.mgt.expGen = k.gen →
      ((n = 1 ∧ k.xtalOk = false) ∨ (n = 2 ∧ k.lineOk = false) →
        ∃ t e, exec (.clkForce q f) s = .next t ∧ Completes q f St.clockHold 0 b.lt s e t ∧ b.keeps [.clk, .mgt] e ∧
          e.clk = { k with evt := k.evt ||| 0x20 } ∧ e.mgt.expValid = false)) ∧
    (q ≠ 5 →
      ((n = 1 ∧ k.xtalOk = false) ∨ (n = 2 ∧ k.lineOk = false) →
        ∃ t e, exec (.clkForce q f) s = .next t ∧ Completes q f St.clockHold 0 b.lt s e t ∧ b.keeps [.clk] e ∧
          e.clk = { k with evt := k.evt ||| 0x20 }) ∧
      (n = 1 → k.xtalOk = true → (k.st = .qualifying ∨ k.st = .fallback) →
        ∃ t e, exec (.clkForce q f) s = .next t ∧ Completes q f St.ok 0 b.lt s e t ∧ b.keeps [.clk] e ∧
          e.clk = { k with st := .forced, gen := k.gen + 1, evt := k.evt ||| 0x10, selPending := false }) ∧
      ((n = 1 ∧ k.xtalOk = true ∧ k.st = .forced) ∨ (n = 2 ∧ k.lineOk = true ∧ k.st = .line) →
        ∃ t, exec (.clkForce q f) s = .next t ∧ Completes q f St.ok 0 b.lt s b t) ∧
      ((n = 1 ∧ k.xtalOk = true ∧ k.st = .line) ∨ (n = 2 ∧ k.lineOk = true ∧ k.st ≠ .line) →
        ∃ t e, exec (.clkForce q f) s = .next t ∧ Waits q 0xB1 f .switch 0 0 s e t ∧
          b.keeps [.clk, .pins, .banks, .edg] e ∧ (∀ p, p < 192 → (vget e.pins p).held = true) ∧
          e.clk = { k with
            holdCnt := 0, holdSat := false
            switch := some ⟨true, n == 2, if n = 2 then .line else .forced, 0x10, k.st, .queue q, 7⟩ }))) ∧
  (∀ (q p : Queue) (f : Insn) (s : State) (x : Switch) (w : Wait),
    let c := s.chip
    let n := field f.op 0 2
    c.clk.switch = some x → x.forced = false → 2 ≤ x.left → x.caller = .queue p → p ≠ q → q ≠ 5 →
    (c.queue p).wait = some w → w.kind = .switch → c.engineOn = true →
    c.queue q = QState.reset → Op.clkForce.named f = true → Op.clkForce.permits q = true → f.tx = false → f.fence = false →
    (n = 1 ∧ c.clk.xtalOk = true ∧ c.clk.st = .line) ∨ (n = 2 ∧ c.clk.lineOk = true ∧ c.clk.st ≠ .line) →
    ∃ t y v, exec (.clkForce q f) s = .next t ∧ (t.chip.queue p).wait = none ∧
      (t.chip.queue p).errs = satAdd16 (c.queue p).errs 1 ∧ t.chip.clk.switch = some y ∧ y.forced = true ∧
      y.line = (n == 2) ∧ y.caller = .queue q ∧ (t.chip.queue q).wait = some v ∧ v.kind = .switch ∧ v.f = f) ∧
  ∀ (s : State) (x : Switch),
    let c := s.chip
    let total (l : LineTime) : Nat := l.sec.toNat * 16000000000 + l.ticks.toNat
    s.pending = [] → c.pwr.pgood = true → c.pwr.pf = 0 → c.clk.switch = some x → x.forced = true → x.left ≤ 1 →
    x.start ≠ .hold → x.into ≠ x.start → c.clk.st ≠ .hold → c.clk.xtalRuns = true → c.clk.holdCnt.toNat + 1 < 2 ^ 48 →
    (∀ k, k < 3 → (vget c.ports k).lost = false) →
    ∃ t, step s = .next t ∧ t.chip.clk.st = x.into ∧ t.chip.clk.gen = c.clk.gen + 1 ∧ t.chip.clk.switch = none ∧
      total t.chip.lt = (total c.lt + 640 * (c.clk.holdCnt.toNat + 1)) % (2 ^ 32 * 16000000000) ∧
      t.chip.lt.holdover = true ∧
      ∀ q w, x.caller = .queue q → (c.queue q).wait = some w → w.kind = .switch → (t.chip.queue q).wait = none) ∧
  ∀ (q : Queue) (f : Insn) (s : State) (b : Chip),
    let ticks : BitVec 34 := f.op.extractLsb' 0 34
    let n := field f.tgt 0 16
    let sum := b.lt.slew.toInt + (f.op.setWidth 32 : Word).toInt
    (s.chip.issuesAs Op.ltSet q f b → ticks.toNat < 16000000000 →
      ∃ t e, exec (.ltSet q f) s = .next t ∧ Completes q f St.ok 0 b.lt s e t ∧ b.keeps [.lt, .pos, .cams, .queues, .pins] e ∧
        e.lt = { b.lt with sec := f.tgt, ticks := ticks, slew := 0, interval := 157, slewCnt := 0, source := 2 }) ∧
    (s.chip.issuesAs Op.ltSet q f b → 16000000000 ≤ ticks.toNat →
      ∃ t, exec (.ltSet q f) s = .next t ∧ Completes q f St.range 0 b.lt s b t) ∧
    (s.chip.issuesAs Op.ltAdj q f b → n = 0 ∨ 157 ≤ n → -(2 ^ 31) ≤ sum → sum < 2 ^ 31 →
      ∃ t e, exec (.ltAdj q f) s = .next t ∧
        Completes q f St.ok ((b.lt.slew + f.op.setWidth 32).setWidth 64) b.lt s e t ∧ b.keeps [.lt] e ∧
        e.lt = { b.lt with
          slew := b.lt.slew + f.op.setWidth 32, interval := if n = 0 then b.lt.interval else BitVec.ofNat 16 n }) ∧
    (s.chip.issuesAs Op.ltAdj q f b → 0 < n → n < 157 →
      ∃ t, exec (.ltAdj q f) s = .next t ∧ Completes q f St.range 0 b.lt s b t)

/-! ### LINK.CTL (R77, R78, R85, R86, R91, R98) -/

/-- LINK.CTL enables, disables and retrains its port, sends DATA and CMD frames from the transmit area with the next seq of
the direction, and begins a SYNC exchange; the line port in use as the clock is CLOCK_HOLD, a port that is not UP BUSY to a
send, and a send that XOFF pauses or that a frame of higher priority precedes (R87) waits. -/
def Obligations.LinkControl : Prop :=
  ∀ (q : Queue) (f : Insn) (s : State) (b : Chip), s.chip.issuesAs Op.linkCtl q f b →
    let p := field f.tgt 0 2
    let x := vget b.ports p
    let src := field f.op 8 8
    let n := field f.op 16 5
    let dest := field f.op 32 10
    let word (i : Nat) := b.getWord (0x60003000 + p * 0x4000 + 16 * (src + i))
    let others (e : Chip) : Prop := ∀ k, k < 3 → k ≠ p → vget e.ports k = vget b.ports k
    p < 3 →
    (field f.op 0 4 = 1 →
      ∃ t e, exec (.linkCtlEnable q f) s = .next t ∧ Completes q f St.ok 0 b.lt s e t ∧ b.keeps [.ports] e ∧ others e ∧
        vget e.ports p = { x with ctrl := x.ctrl ||| 1, st := if x.st = 0 then 1 else x.st }) ∧
    (field f.op 0 4 = 2 →
      (p = 0 → b.clk.st = .line →
        ∃ t, exec (.linkCtlDisable q f) s = .next t ∧ Completes q f St.clockHold 0 b.lt s b t) ∧
      ((p = 0 → b.clk.st ≠ .line) → x.st ≠ 2 →
        ∃ t e, exec (.linkCtlDisable q f) s = .next t ∧ Completes q f St.ok 0 b.lt s e t ∧ b.keeps [.ports] e ∧ others e ∧
          vget e.ports p = { x with ctrl := x.ctrl &&& ~~~1, st := 0 }) ∧
      ((p = 0 → b.clk.st ≠ .line) → x.st = 2 → b.lic.room = true →
        ∃ t e r, exec (.linkCtlDisable q f) s = .next t ∧ Completes q f St.ok 0 b.lt s e t ∧
          b.keeps [.ports, .lt, .lic] e ∧ others e ∧ (vget e.ports p).st = 0 ∧ (vget e.ports p).evt.getLsbD 1 = true ∧
          b.oneRecord e r ∧ r.cause = 0x1301)) ∧
    (field f.op 0 4 = 3 → (p = 0 → b.clk.st ≠ .line) → x.st = 2 → b.lic.room = true →
      ∃ t e r, exec (.linkCtlRetrain q f) s = .next t ∧ Completes q f St.ok 0 b.lt s e t ∧
        b.keeps [.ports, .lt, .lic] e ∧ others e ∧ (vget e.ports p).st = 1 ∧ (vget e.ports p).evt.getLsbD 1 = true ∧
        b.oneRecord e r ∧ r.cause = 0x1301 ∧ (p = 0 → e.lt.aligned = false)) ∧
    (field f.op 0 4 = 4 → 1 ≤ n → n ≤ 16 → src + n ≤ 256 → dest + n ≤ 768 → x.st = 2 → x.xoffRx = false → x.held = false →
      (∀ i, i < n → b.eccAt (0x60003000 + p * 0x4000 + 16 * (src + i)) = 0) →
      ∃ t e, exec (.linkCtlSendData q f) s = .next t ∧ Completes q f St.ok (x.txSeq.setWidth 64) b.lt s e t ∧
        b.keeps [.ports] e ∧ others e ∧ (vget e.ports p).txSeq = x.txSeq + 1 ∧
        (vget e.ports p).sent = some (frameOf 3 0 x.txSeq (natBytes (16 * dest) 2 ++ [0, 0] ++
          (List.range n).flatMap fun i => natBytes (word i).toNat 16))) ∧
    (field f.op 0 4 = 4 → 1 ≤ n → n ≤ 16 → src + n ≤ 256 → dest + n ≤ 768 →
      (x.st ≠ 2 → ∃ t, exec (.linkCtlSendData q f) s = .next t ∧ Completes q f St.busy 0 b.lt s b t) ∧
      (x.st = 2 → x.xoffRx = true → ∃ t, exec (.linkCtlSendData q f) s = .next t ∧ Waits q 0xB2 f .xoff 0 0 s b t) ∧
      (x.st = 2 → x.xoffRx = false → x.posBuf ≠ none ∨ x.rsp ≠ [] ∨ x.fwdBuf ≠ [] →
        ∃ t, exec (.linkCtlSendData q f) s = .next t ∧ Waits q 0xB2 f .boundary 0 0 s b t)) ∧
    (field f.op 0 4 = 5 → x.st = 2 → x.xoffRx = false → x.held = false → b.eccAt (0x60003000 + p * 0x4000 + 16 * src) = 0 →
      ∃ t e, exec (.linkCtlSendCmd q f) s = .next t ∧ Completes q f St.ok (x.txSeq.setWidth 64) b.lt s e t ∧
        b.keeps [.ports] e ∧ others e ∧ (vget e.ports p).txSeq = x.txSeq + 1 ∧
        (vget e.ports p).sent = some (frameOf 2 (BitVec.ofNat 8 (field f.op 4 3)) x.txSeq
          (natBytes (word 0).toNat 16))) ∧
    (field f.op 0 4 = 6 → p = 0 → x.st = 2 →
      ∃ t e, exec (.linkCtlSyncNow q f) s = .next t ∧ Completes q f St.ok 0 b.lt s e t ∧ b.keeps [.ports, .syncT1] e ∧
        others e ∧ e.syncT1 = some b.now ∧ (vget e.ports 0).txSeq = x.txSeq + 1 ∧
        ∃ fr, (vget e.ports 0).sent = some fr ∧ fr.typ = 4 ∧ fr.payload.length = 16)

/-! ### Diagnostics (R217, R218, R335, R387, R389, R438) -/

/-- LIC.MARK gives the writer a record 0x0F00 with its code and operand, and waits while no entry is free for it (R374,
R389); LIC.READ of a slot whose CRC is right, or that is empty, returns its sequence number, cause and magic, and copies its
four words to a destination; one that fails its CRC is ECC_UNCORR, as is one with a word that its code cannot correct (R387,
Table LIC-4). SNAP writes its 18 words of flip-flops and pin levels to the destination and nothing else (R218); a
destination that may not be one ends it with its status (R182), READBACK_OFF makes it LOCKED with a violation. -/
def Obligations.RecorderAndSnapInstructions : Prop :=
  (∀ (q : Queue) (f : Insn) (s : State) (b : Chip),
    let a := slotAddr (field f.op 0 9)
    let bs := b.slotBytes (field f.op 0 9)
    let dest := f.tgt.toNat
    let good : Prop := ∀ k, k < 4 → b.eccAt (a + 16 * k) = 0
    let res : DWord := BitVec.ofNat 64 (le bs 4 4 + 2 ^ 32 * le bs 2 2 + 2 ^ 48 * le bs 0 2)
    (s.chip.issuesAs Op.licMark q f b → b.lic.room = true →
      ∃ t e r res, exec (.licMark q f) s = .next t ∧ Completes q f St.ok res b.lt s e t ∧ b.keeps [.lic] e ∧
        b.oneRecord e r ∧ r.cause = 0x0F00 ∧ r.lt = b.lt.word ∧ r.entry = .general ∧
        r.ctx.extractLsb' 0 16 = f.tgt.extractLsb' 0 16 ∧ r.ctx.extractLsb' 16 64 = f.op) ∧
    (s.chip.issuesAs Op.licMark q f b → 14 ≤ b.lic.general →
      ∃ t, exec (.licMark q f) s = .next t ∧ Waits q 0xC0 f .licWriter 0 0 s b t) ∧
    (s.chip.issuesAs Op.licRead q f b → good → slotGood bs = true ∨ bs.all (· == 0) = true →
      (dest = 0 → ∃ t, exec (.licRead q f) s = .next t ∧ Completes q f St.ok res b.lt s b t) ∧
      (dest ≠ 0 → destCheck q dest 4 = none →
        ∃ t e, exec (.licRead q f) s = .next t ∧ Completes q f St.ok res b.lt s e t ∧ b.keeps [.mem, .ecc] e ∧
          sameOutside 0 b.mem e.mem dest 64 ∧
          ∀ k, k < 4 → e.getWord (dest + 16 * k) = b.getWord (a + 16 * k) ∧ e.eccAt (dest + 16 * k) = 0)) ∧
    (s.chip.issuesAs Op.licRead q f b → good → slotGood bs = false → bs.all (· == 0) = false →
      dest = 0 ∨ destCheck q dest 4 = none →
      ∃ t, exec (.licRead q f) s = .next t ∧ Completes q f St.eccUncorr 0 b.lt s b t) ∧
    (s.chip.issuesAs Op.licRead q f b → dest = 0 ∨ destCheck q dest 4 = none → 2 ≤ b.eccAt a → b.lic.room = true →
      ∃ t e r, exec (.licRead q f) s = .next t ∧ Completes q f St.eccUncorr 0 b.lt s e t ∧ b.keeps [.ecc, .lic] e ∧
        e.eccAt a = 3 ∧ b.oneRecord e r ∧ r.cause = 0x2201) ∧
    (∀ st, s.chip.issuesAs Op.licRead q f b → dest ≠ 0 → destCheck q dest 4 = some st →
      ∃ t, exec (.licRead q f) s = .next t ∧ Completes q f st 0 b.lt s b t)) ∧
  ∀ (q : Queue) (f : Insn) (s : State) (b : Chip), s.chip.issuesAs Op.snap q f b →
    let dest := field f.op 0 32
    (dest = 0 → ∃ t, exec (.snap q f) s = .next t ∧ Completes q f St.range 0 b.lt s b t) ∧
    (∀ st, dest ≠ 0 → destCheck q dest 18 = some st →
      ∃ t, exec (.snap q f) s = .next t ∧ Completes q f st 0 b.lt s b t) ∧
    (dest ≠ 0 → destCheck q dest 18 = none → s.die.readback = false →
      ∃ t e, exec (.snap q f) s = .next t ∧ Completes q f St.ok 0 b.lt s e t ∧ b.keeps [.mem, .ecc] e ∧
        sameOutside 0 b.mem e.mem dest 288 ∧
        (∀ i, i < 16 → e.getWord (dest + 16 * i) = b.ffNow (2 * i + 1) ++ b.ffNow (2 * i)) ∧
        (∀ p, p < 192 → (e.getWord (dest + 256 + 16 * (p / 128))).getLsbD (p % 128) = b.padLevel p) ∧
        ∀ i, i < 18 → e.eccAt (dest + 16 * i) = 0) ∧
    (dest ≠ 0 → destCheck q dest 18 = none → s.die.readback = true → b.lic.room = true →
      ∃ t e, exec (.snap q f) s = .next t ∧ Completes q f St.locked 0 b.lt s e t ∧ b.keeps [.sec, .lic] e ∧
        e.sec.viol = satAdd b.sec.viol 1)

/-- SCRUB.CTL pauses and resumes the scrubber, with the condition of R426 while it is paused; its pass over the fronds of
its mask, all for a mask of 0, returns how many mismatches it found (Table ISA-13): a frond whose active plane has its
golden signature is checked, another is in mismatch, counted, and a SAFE_REPAIR policy asks for its repair (R335, R338).
Another function is RANGE. That the pass of SCRUB.CTL is done in the one command is the model's choice (DESIGN CHOICE, log
entry 47), as is that it runs under a pause and does not count in SCR.STAT.passes (DESIGN CHOICE, log entries 121, 122).
SCRUB_FROND_CHECK reads the next readable frond and moves on, checked when its plane has its golden signature, in mismatch
with record 0x2A01 when not (R335, R338). REPAIR_BEGIN of a frond in mismatch, asked for, begins its repair unless a repair,
stage or verify runs: the check field reads repairing, the shadow is busy, the bit of SCR.REPAIR stays (R8, R339). At
REPAIR_SWAP the reading has ended, with the image in the shadow or with the failure counted; once the boundary has come the
planes exchange with the same golden signature, and a frond that the policy returns enters RUN (R339, R340); the window of a
double upset ends. The order of the check and what it passes over (DEDUCED, log entry 86), the two rows of a repair
(DEDUCED, log entry 87), when its reading ends (DEDUCED, log entry 101) and what SCR.REPAIR reads of a repair that no write
asked for (DESIGN CHOICE, log entry 100) are the model's reading. -/
def Obligations.ScrubbingAndRepair : Prop :=
  (∀ (q : Queue) (f : Insn) (s : State) (b : Chip), s.chip.issuesAs Op.scrubCtl q f b →
    let m : Word := f.op.setWidth 32
    (field f.ext 0 2 = 0 → ∃ t e, exec (.scrubCtlPause q f) s = .next t ∧ Completes q f St.ok 0 b.lt s e t ∧
      b.keeps [.scr, .flt] e ∧ e.scr = { b.scr with paused := true } ∧
      (b.scr.paused = false → e.flt.evt.getLsbD 0 = true ∧ e.flt.condhist.getLsbD 1 = true)) ∧
    (field f.ext 0 2 = 1 → ∃ t e, exec (.scrubCtlResume q f) s = .next t ∧ Completes q f St.ok 0 b.lt s e t ∧
      b.keeps [.scr] e ∧ e.scr = { b.scr with paused := false }) ∧
    (field f.ext 0 2 = 2 → ∀ n c, b.scrubPass (if m = 0 then 0xFFFFFFFF else m) = (n, c) → c.lic.wait = b.lic.wait →
      ∃ t, exec (.scrubCtlPass q f) s = .next t ∧
        Completes q f St.ok (BitVec.ofNat 64 n) b.lt s (c.describe b (insnInfo q 0xC3 f.tag St.ok)) t) ∧
    (field f.ext 0 2 = 2 → ∀ n, n < 32 → m = BitVec.ofNat 32 (2 ^ n) →
      let x := vget b.fronds n
      x.activeOk = true → b.prs.ldr ≠ .loader → x.gsrc ≠ 3 → x.check.getLsbD 1 = false →
      (b.signature (b.activeBase n) = x.golden →
        ∃ t e, exec (.scrubCtlPass q f) s = .next t ∧ Completes q f St.ok 0 b.lt s e t ∧ b.keeps [.fronds] e ∧
          vget e.fronds n = { x with check := 1 } ∧ ∀ k, k < 32 → k ≠ n → vget e.fronds k = vget b.fronds k) ∧
      (b.signature (b.activeBase n) ≠ x.golden → b.lic.room = true →
        ∃ t e r, exec (.scrubCtlPass q f) s = .next t ∧ Completes q f St.ok 1 b.lt s e t ∧
          (vget e.fronds n).check = 2 ∧ (vget e.fronds n).st = x.st ∧ e.scr.evt.getLsbD 0 = true ∧
          e.scr.mism = satAdd b.scr.mism 1 ∧ e.scr.auto.getLsbD n = (b.scr.auto.getLsbD n || x.scrPol.getLsbD 0) ∧
          b.oneRecord e r ∧ r.cause = 0x2A01 ∧ e.mem = b.mem)) ∧
    (field f.ext 0 2 = 3 → ∃ t, exec (.scrubCtlPass q f) s = .next t ∧ Completes q f St.range 0 b.lt s b t)) ∧
  ∀ (s : State) (n : BitVec 5),
    let u : State := { s with chip := s.chip.endSwitch }
    let c := u.chip
    let k := n.toNat
    let x := vget c.fronds k
    let asked := (c.scr.want ||| c.scr.auto).getLsbD k
    let bnd : Prop := c.moving = false ∨ c.pulses.getLsbD 44 = true
    c.coreOn = true →
    (∀ m, c.scr.paused = false → c.scrubNext = some m → (vget c.fronds m).check.getLsbD 1 = false →
      (vget c.fronds m).gsrc ≠ 3 →
      (c.signature (c.activeBase m) = (vget c.fronds m).golden →
        ∃ t, exec .scrubFrondCheck s = .next t ∧ u.keeps [.fronds, .scr] t ∧ (vget t.chip.fronds m).check = 1 ∧
          (∀ j, j < 32 → j ≠ m → vget t.chip.fronds j = vget c.fronds j) ∧ t.chip.scr.cur = BitVec.ofNat 5 (m + 1) ∧
          t.chip.scr.passes = (if m < c.scr.cur.toNat ∨ m = 31 then c.scr.passes + 1 else c.scr.passes)) ∧
      (c.signature (c.activeBase m) ≠ (vget c.fronds m).golden → c.lic.room = true →
        ∃ t r, exec .scrubFrondCheck s = .next t ∧ t.pending = s.pending ∧ t.die = s.die ∧ t.chip.mem = c.mem ∧
          (vget t.chip.fronds m).check = 2 ∧ t.chip.scr.mism = satAdd c.scr.mism 1 ∧ t.chip.scr.evt.getLsbD 0 = true ∧
          t.chip.scr.auto.getLsbD m = (c.scr.auto.getLsbD m || (vget c.fronds m).scrPol.getLsbD 0) ∧
          c.oneRecord t.chip r ∧ r.cause = 0x2A01)) ∧
    (∀ m, c.scr.paused = false → c.scrubNext = some m →
      (vget c.fronds m).gsrc = 3 ∨ (vget c.fronds m).check.getLsbD 1 = true →
      ∃ t, exec .scrubFrondCheck s = .next t ∧ u.keeps [.fronds, .scr] t ∧
        vget t.chip.fronds m = (if (vget c.fronds m).gsrc = 3 then
          { vget c.fronds m with golden := c.signature (c.activeBase m), gsrc := 2, check := 1 } else vget c.fronds m)) ∧
    (c.scr.paused = true ∨ c.scrubNext = none → exec .scrubFrondCheck s = .next u) ∧
    (asked = false ∨ x.check ≠ 2 ∨ c.scr.running ≠ none ∨ c.staging = true → exec (.repairBegin n) s = .next u) ∧
    (asked = true → x.check = 2 → c.scr.running = none → c.staging = false →
      ∃ t, exec (.repairBegin n) s = .next t ∧ u.keeps [.fronds, .scr, .prs, .cams] t ∧ t.chip.scr.running = some n ∧
        t.chip.scr.want = c.scr.want ∧ t.chip.prs.staged = none ∧
        vget t.chip.fronds k = { x with check := 3, shadowBusy := true, shadowOk := false, shadowSig := 0 } ∧
        ∀ j, j < 32 → j ≠ k → vget t.chip.fronds j = vget c.fronds j) ∧
    (c.scr.running = some n → x.shadowBusy = true →
      (∀ step st m, c.goldenSegment s.die k = .fails step st m → c.lic.room = true →
        ∃ t r, exec (.repairSwap n) s = .next t ∧ t.pending = s.pending ∧ t.die = s.die ∧ t.chip.mem = c.mem ∧
          (vget t.chip.fronds k).check = 2 ∧ (vget t.chip.fronds k).shadowOk = false ∧ t.chip.scr.running = none ∧
          t.chip.scr.want.getLsbD k = false ∧ t.chip.scr.rfails = satAdd c.scr.rfails 1 ∧
          t.chip.scr.evt.getLsbD 2 = true ∧ c.oneRecord t.chip r ∧ r.cause = 0x2A02) ∧
      (∀ bs m, c.goldenSegment s.die k = .image bs m → crc64 bs = x.golden → ¬ bnd →
        ∃ t, exec (.repairSwap n) s = .next t ∧ u.keeps [.fronds, .mem, .prs] t ∧
          t.chip.mem = memPutBytes 0 c.mem (c.shadowBase k) bs ∧ t.chip.scr.running = some n ∧
          vget t.chip.fronds k = { x with
            waitBnd := true, shadowBusy := false, shadowOk := true, shadowSig := x.golden, ssrc := x.gsrc, svar := x.gvar })) ∧
    (c.scr.running = some n → x.shadowBusy = false → x.waitBnd = true → bnd → x.pol.getLsbD 1 = false →
      let y : Frond := { x with
        plane := !x.plane, planeOk := true, shadowOk := false, shadowSig := 0, check := 1, waitBnd := false, window := true, gen := x.gen + 1 }
      let runs := x.mpol.getLsbD 1 && x.wasRun
      ∃ t, exec (.repairSwap n) s = .next t ∧ t.pending = s.pending ∧ t.die = s.die ∧
        (runs = false → vget t.chip.fronds k = y) ∧
        (runs = true → x.st = .safe → x.activeOk = true →
          (vget t.chip.fronds k).st = .run ∧ (vget t.chip.fronds k).gen = x.gen + 2 ∧
          (vget t.chip.fronds k).plane = !x.plane) ∧
        t.chip.scr.running = none ∧ t.chip.scr.want.getLsbD k = false ∧ t.chip.scr.repairs = satAdd c.scr.repairs 1 ∧
        t.chip.scr.evt.getLsbD 1 = true ∧ t.chip.mem = c.mem) ∧
    (c.scr.running = some n → x.shadowBusy = false → x.waitBnd = false ∨ ¬ bnd → exec (.repairSwap n) s = .next u) ∧
    (c.scr.running ≠ some n → exec (.repairSwap n) s = .next u) ∧
    (x.window = true → ∃ t, exec (.doubleUpsetWindowEnd n) s = .next t ∧ u.keeps [.fronds, .flt] t ∧
      vget t.chip.fronds k = { x with window := false } ∧ t.chip.flt.dbl.getLsbD k = false) ∧
    (x.window = false → exec (.doubleUpsetWindowEnd n) s = .next u)

/-- CORE.RESET completes and then resets the core (R438, Table PWR-4): every queue is empty and running, no context is open,
every frond that was in RUN or RESET is SAFE, every output is held, DMA is idle, the epoch advances; clock state, line time,
every RAM and the lock settings stay. -/
def Obligations.CoreResetClearsTheCore : Prop :=
  ∀ (q : Queue) (f : Insn) (s : State) (b : Chip), s.chip.issuesAs Op.coreReset q f b →
    (∀ e, e ∈ b.prt.cross → e.2.1 = b.prt.epoch) →
    ∃ t m, exec (.coreReset q f) s = .next t ∧ Completes q f St.ok 0 b.lt s b m ∧ t.pending = s.pending ∧ t.die = s.die ∧
      (∀ k : Queue, (t.chip.queue k).words = [] ∧ (t.chip.queue k).wait = none ∧ (t.chip.queue k).calls = [] ∧
        (t.chip.queue k).halted = false ∧ (t.chip.queue k).txn = none ∧ (t.chip.queue k).errs = (m.chip.queue k).errs) ∧
      (∀ k, k < 4 → (vget t.chip.eng.ctxs k).isOpen = false) ∧ t.chip.eng.flags = 0 ∧
      (∀ n, n < 32 → (vget t.chip.fronds n).st = .safe ∧ (vget t.chip.fronds n).claim = none ∧
        (vget t.chip.cams n).armed = false) ∧
      (∀ p, p < 192 → (vget t.chip.pins p).held = true ∧ (vget t.chip.pins p).q = []) ∧
      (∀ k, k < 12 → (vget t.chip.dma k).active = false) ∧ t.chip.prt.epoch = b.prt.epoch + 1 ∧
      t.chip.now = b.now ∧ t.chip.clk = b.clk ∧ t.chip.mem = m.chip.mem ∧ t.chip.sec.locks = b.sec.locks ∧
      t.chip.pwr.rstcause.extractLsb' 0 3 = 3

/-! ### Ends of waits, timer source, recovery handler (R34, R154, R161, R163, R164, R175, R424) -/

/-- WAIT_TIMEOUT ends a wait of R163 with TIMEOUT, a wait whose condition has come in that cc as its condition says, and
leaves an instruction that executes alone; an open transaction stays open, but that of a TXN.COMMIT.AT aborts, and a routine
it stood in unwinds (R163; that the routine unwinds with ABORTED is the model's choice, log entry 90); RESOURCE_GRANTED
gives a free context to a waiting TXN.BEGIN and issues a NOP behind its fence once nothing earlier executes, in a queue that
is not halted, and changes nothing while what is waited for is still held (R34, R150, R154, R175). -/
def Obligations.WaitsEndOrGoOn : Prop :=
  ∀ (q : Queue) (s : State) (w : Wait),
    let u : State := { s with chip := s.chip.endSwitch }
    let c := u.chip
    c.coreOn = true → (c.queue q).wait = some w →
    (w.kind.executing = false → c.waitMet s.die q w = none → w.code ≠ 0xA1 → w.kind ≠ .credits → c.txnOf q = none →
      c.prs.rtStore = false → (∀ k, (c.queue k).posted = false) →
      ∃ t e, exec (.waitTimeout q) s = .next t ∧ Completes q w.f St.timeout 0 e.lt s e t ∧ c.keeps [.queues, .nvQ] e ∧
        (e.queue q).wait = none ∧ e.eng.nvQ = if c.eng.nvQ = some q then none else c.eng.nvQ) ∧
    (∀ k, w.kind.executing = false → c.waitMet s.die q w = none → w.code ≠ 0xA1 → w.kind ≠ .credits → c.txnOf q = some k →
      c.prs.rtStore = false → (∀ j, (c.queue j).posted = false) →
      (w.code ≠ 0x83 → w.code ≠ 0x25 →
        ∃ t e, exec (.waitTimeout q) s = .next t ∧ Completes q w.f St.timeout 0 e.lt s e t ∧ c.keeps [.queues, .nvQ] e ∧
          (e.queue q).wait = none ∧ e.txnOf q = some k) ∧
      (w.code = 0x83 → w.kind ≠ .fence → (vget c.eng.ctxs k.val).owner = q → (c.queue q).calls = [] →
        ∃ t e, exec (.waitTimeout q) s = .next t ∧ Completes q w.f St.timeout 0 e.lt s e t ∧
          c.keeps [.queues, .nvQ, .ctxs, .fronds, .cams] e ∧ (e.queue q).wait = none ∧ e.txnOf q = none ∧
          vget e.eng.ctxs k.val = Ctx.reset ∧
          ∀ n, n < 32 → (vget e.fronds n).claim ≠ some k ∧ (vget e.cams n).claim ≠ some k) ∧
      (w.code = 0x83 → w.kind ≠ .fence → (vget c.eng.ctxs k.val).owner = q → (c.queue q).calls ≠ [] →
        ∃ t, exec (.waitTimeout q) s = .next t ∧ t.chip.txnOf q = none ∧ (t.chip.queue q).calls = [] ∧
          vget t.chip.eng.ctxs k.val = Ctx.reset)) ∧
    (w.kind.executing = false → ∀ m, c.waitMet s.die q w = some m → exec (.waitTimeout q) s = .next { u with chip := m }) ∧
    (w.kind.executing = true → exec (.waitTimeout q) s = .next u) ∧
    (w.kind = .context → w.code = 0x80 → w.res = 0 → c.txnOf q = none → (c.queue q).posted = false →
      (∀ k, c.freeCtx = some k →
        ∃ t e, exec (.resourceGranted q) s = .next t ∧ Completes q w.f St.ok (BitVec.ofNat 64 k.val) c.lt s e t ∧
          c.keeps [.ctxs, .queues, .serial] e ∧ e.txnOf q = some k ∧ (vget e.eng.ctxs k.val).isOpen = true ∧
          (vget e.eng.ctxs k.val).owner = q ∧ (e.queue q).wait = none) ∧
      (c.freeCtx = none → exec (.resourceGranted q) s = .next u)) ∧
    (w.kind = .fence → w.code = 0x00 → Op.nop.named w.f = true → q.val ≠ 5 → w.f.tx = false →
      (c.queue q).chain = false →
      (c.executing q = false → (c.queue q).halted = false →
        ∃ t e, exec (.resourceGranted q) s = .next t ∧ Completes q w.f St.ok 0 e.lt s e t ∧
          c.keeps [.queues] e ∧ (e.queue q).wait = none) ∧
      (c.executing q = true ∨ (c.queue q).halted = true → exec (.resourceGranted q) s = .next u))

/-- STALL_CIRCLE: when Q7 is empty and every other queue is empty or waits for flags that nothing can set, the youngest
waiter ends CIRCLE, its transaction aborts, ENG.CIRCLES and ENG.EVT.circle count it and record 0x1401 names it; otherwise
nothing happens (R164). EVTSRC_TIMER sets the hardware flag of a timer source and no other (R161); HANDLER_REQUEST_ISSUE
passes a request to Q7 as a general slot is free, a reserved one only to the opcodes of R148, counted in FLT.EVT (R424). -/
def Obligations.StallsTimersAndTheHandler : Prop :=
  (∀ (s : State),
    let u : State := { s with chip := s.chip.endSwitch }
    let c := u.chip
    (∀ q w, c.coreOn = true → c.circle = true → c.youngest = some (q, w) → c.txnOf q = none → w.code = 0x04 →
      c.lic.room = true → c.prs.rtStore = false → (∀ k, (c.queue k).posted = false) → c.eng.nvQ ≠ some q →
      ∃ t e r, exec .stallCircle s = .next t ∧ Completes q w.f St.circle 0 e.lt s e t ∧
        c.keeps [.queues, .engEvt, .circles, .lic] e ∧ (e.queue q).wait = none ∧
        e.eng.circles = satAdd c.eng.circles 1 ∧ e.eng.evt.getLsbD 0 = true ∧
        c.oneRecord e r ∧ r.cause = 0x1401 ∧ r.idx = BitVec.ofNat 8 q.val) ∧
    (∀ q w k, c.coreOn = true → c.circle = true → c.youngest = some (q, w) → c.txnOf q = some k → w.code = 0x04 →
      (vget c.eng.ctxs k.val).owner = q → (c.queue q).calls = [] →
      c.lic.room = true → c.prs.rtStore = false → (∀ k, (c.queue k).posted = false) → c.eng.nvQ ≠ some q →
      ∃ t m e r, exec .stallCircle s = .next t ∧ Completes q w.f St.circle 0 e.lt s e m ∧
        c.keeps [.queues, .engEvt, .circles, .lic] e ∧ (e.queue q).wait = none ∧
        e.eng.circles = satAdd c.eng.circles 1 ∧ e.eng.evt.getLsbD 0 = true ∧
        c.oneRecord e r ∧ r.cause = 0x1401 ∧ r.idx = BitVec.ofNat 8 q.val ∧
        State.keeps [.ctxs, .queues, .fronds, .cams] m t ∧ t.chip.txnOf q = none ∧
        vget t.chip.eng.ctxs k.val = Ctx.reset ∧
        ∀ n, n < 32 → (vget t.chip.fronds n).claim ≠ some k ∧ (vget t.chip.cams n).claim ≠ some k) ∧
    (c.circle = false → exec .stallCircle s = .next u)) ∧
  ∀ (s : State),
    let u : State := { s with chip := s.chip.endSwitch }
    let c := u.chip
    c.coreOn = true →
    (∀ k : BitVec 5,
      (field (vget c.eng.evtsrc k.toNat) 8 4 = 6 → ∃ t, exec (.evtsrcTimer k) s = .next t ∧ u.keeps [.flags] t ∧
        ∀ j, j < 64 → t.chip.eng.flags.getLsbD j = (c.eng.flags.getLsbD j || j == 32 + k.toNat)) ∧
      (field (vget c.eng.evtsrc k.toNat) 8 4 ≠ 6 → exec (.evtsrcTimer k) s = .next u)) ∧
    (c.flt.list = [] → exec .handlerRequestIssue s = .next u) ∧
    (∀ r, c.flt.list = [r] →
      let enters (t : State) : Prop := exec .handlerRequestIssue s = .next t ∧ u.keeps [.queues, .flt] t ∧
        t.chip.flt.list = [] ∧ (t.chip.queue 7).words = (c.queue 7).words ++ [r.word] ∧
        ∀ k, k ≠ 7 → t.chip.queue k = c.queue k
      (c.general7 < 12 → ∃ t, enters t ∧ t.chip.flt.resUsed = c.flt.resUsed) ∧
      (12 ≤ c.general7 → c.reserved7 < 4 → reservedOp r.word = true →
        ∃ t, enters t ∧ t.chip.flt.evt.getLsbD 1 = true ∧ t.chip.flt.resUsed = satAdd16 c.flt.resUsed 1) ∧
      (12 ≤ c.general7 → 4 ≤ c.reserved7 ∨ reservedOp r.word = false →
        ∃ t, exec .handlerRequestIssue s = .next t ∧ u.keeps [.flt] t ∧ t.chip.flt.list.length = 1 ∧
          t.chip.flt.evt.getLsbD 2 = (c.flt.evt.getLsbD 2 || !r.late)))

/-! ### The host port (R104 to R121) -/

/-- PUSH_Q0 and PUSH_Q1: whole instructions enter their queue in order while it has free slots, or wait in the crossing with
their epoch while the core is held in reset; the rest are refused and counted with SPI.EVT.refused; a partial one is
discarded and counted (R104, R107, R113, R114). That the words wait with their epoch while a reset is held is the model's
reading (DEDUCED, log entry 41). READ_STATUS drives the status word (free slots, ring positions, the last accept count,
HOLD, the epoch) and clears epoch and refused (R112); READ_ID drives SYS.ID; RESET_ENABLE arms RESET for the next frame and
RESET then resets the front end, alone it does nothing but disarm (R106, R110, R111). A frame of another command byte of
Table PRT-2 that brings no data accepts nothing and drives nothing; one of a byte outside the table is a frame error. A port
that is not served changes nothing. Which step of start-up makes the port answer is the model's reading (DEDUCED, log entry
41). READ_RING and READ_STREAM drive the bytes of the rings and of the window, WRITE_STREAM writes whole words of the window
with good check bits and no other byte; an address out of alignment or range is a frame error, counted with SPI.EVT (R111,
R116 to R118, R120). In HOLD reads drive zeros and words to write are refused and counted (R121). -/
def Obligations.TheHostPortTakesItsCommands : Prop :=
  (∀ (ws : List QWord) (part : Bool) (s : State),
    let u : State := { s with chip := s.chip.endSwitch }
    let c := u.chip
    c.spiServed = true →
    let none (i : Instr) : Prop := ∃ t, exec i s = .next t ∧ u.keeps [.spi, .prt] t ∧
      t.chip.prt.cross = c.prt.cross ∧ t.chip.spi.accept = satAdd c.spi.accept 0 ∧ t.chip.spi.lastAcc = 0 ∧
      (0 < ws.length → t.chip.spi.refuse = satAdd c.spi.refuse ws.length ∧ t.chip.spi.refused = true ∧
        t.chip.spi.evt.getLsbD 1 = true)
    let into (i : Instr) (q : Queue) (room : Nat) : Prop :=
      let k := min ws.length (room - (c.queue q).occupied - c.accepted q.val)
      ∃ t, exec i s = .next t ∧ u.keeps [.queues, .spi, .prt] t ∧
        (c.pwr.held = false → (t.chip.queue q).words = (c.queue q).words ++ ws.take k ∧ t.chip.prt.cross = c.prt.cross) ∧
        (c.pwr.held = true → t.chip.queue q = c.queue q ∧
          t.chip.prt.cross = c.prt.cross ++ (ws.take k).map fun w => (0, c.prt.epoch, q, w)) ∧
        (∀ j, j ≠ q → t.chip.queue j = c.queue j) ∧
        t.chip.spi.accept = satAdd c.spi.accept k ∧ t.chip.spi.lastAcc = BitVec.ofNat 6 k ∧
        (k < ws.length → t.chip.spi.refuse = satAdd c.spi.refuse (ws.length - k) ∧ t.chip.spi.refused = true ∧
          t.chip.spi.evt.getLsbD 1 = true) ∧
        (k = ws.length → t.chip.spi.refuse = c.spi.refuse ∧ t.chip.spi.refused = c.spi.refused) ∧
        (part = true → t.chip.spi.evt.getLsbD 2 = true ∧ vget t.chip.prt.part 0 = satAdd (vget c.prt.part 0) 1) ∧
        (part = false → t.chip.prt.part = c.prt.part)
    (c.hostShut = true → none (.pushQ0 ws part) ∧ none (.pushQ1 ws part)) ∧
    (c.hostShut = false → into (.pushQ0 ws part) 0 32 ∧ into (.pushQ1 ws part) 1 32)) ∧
  (∀ (s : State),
    let u : State := { s with chip := s.chip.endSwitch }
    let c := u.chip
    (c.spiServed = false →
      (∀ i, i ∈ [Instr.readId, .resetEnable, .reset] → exec i s = .next u) ∧ ∀ b, exec (.readStatus b) s = .next u) ∧
    (c.spiServed = true →
      let status (i : Instr) : Prop := ∃ t w, exec i s = .next t ∧ u.keeps [.spi] t ∧ t.chip.spi.out = natBytes w 4 ∧
        (BitVec.ofNat 32 w).extractLsb' 0 6 = BitVec.ofNat 6 (c.hostFree 0) ∧
        (BitVec.ofNat 32 w).extractLsb' 6 6 = BitVec.ofNat 6 (c.hostFree 1) ∧
        (BitVec.ofNat 32 w).extractLsb' 12 6 = (c.queue 0).rnext.extractLsb' 0 6 ∧
        (BitVec.ofNat 32 w).extractLsb' 18 6 = (c.queue 1).rnext.extractLsb' 0 6 ∧
        (BitVec.ofNat 32 w).extractLsb' 24 6 = c.spi.lastAcc ∧ w.testBit 30 = c.inHold ∧ w.testBit 31 = c.spi.epoch ∧
        t.chip.spi.epoch = false ∧ t.chip.spi.refused = false ∧ t.chip.spi.armed = false
      let ident (i : Instr) : Prop := ∃ t, exec i s = .next t ∧ u.keeps [.spi] t ∧
        t.chip.spi.out = natBytes (if s.die.xb then 0x48400012 else 0x48400002) 4 ∧ t.chip.spi.epoch = c.spi.epoch
      let arms (i : Instr) : Prop := ∃ t, exec i s = .next t ∧ u.keeps [.spi] t ∧ t.chip.spi.armed = true ∧
        t.chip.spi.epoch = c.spi.epoch ∧ t.chip.spi.refused = c.spi.refused
      let resets (i : Instr) : Prop := ∃ t, exec i s = .next t ∧ u.keeps [.spi] t ∧ t.chip.spi.armed = false ∧
        (c.spi.armed = true → t.chip.spi.epoch = false ∧ t.chip.spi.refused = false) ∧
        (c.spi.armed = false → t.chip.spi.epoch = c.spi.epoch ∧ t.chip.spi.refused = c.spi.refused) ∧
        t.chip.spi.accept = c.spi.accept ∧ t.chip.spi.evt = c.spi.evt
      status (.readStatus 0x05) ∧ ident .readId ∧ ident (.readStatus 0x9F) ∧ arms .resetEnable ∧ arms (.readStatus 0x66) ∧
      resets .reset ∧ resets (.readStatus 0x99) ∧
      (∀ b : Byte, b ∈ [0x01, 0x02, 0x0B, 0x0D, 0x0E] →
        ∃ t, exec (.readStatus b) s = .next t ∧ u.keeps [.spi] t ∧ t.chip.spi.out = [] ∧ t.chip.spi.evt = c.spi.evt ∧
          t.chip.spi.frmerr = c.spi.frmerr ∧ t.chip.spi.refuse = c.spi.refuse) ∧
      ∀ b : Byte, b ∉ [0x01, 0x02, 0x05, 0x0B, 0x0D, 0x0E, 0x9F, 0x66, 0x99] →
        ∃ t, exec (.readStatus b) s = .next t ∧ u.keeps [.spi] t ∧ t.chip.spi.out = [] ∧
          t.chip.spi.frmerr = satAdd c.spi.frmerr 1 ∧ t.chip.spi.evt.getLsbD 0 = true)) ∧
  ∀ (s : State) (a : BitVec 24) (n : Nat) (ws : List QWord),
    let u : State := { s with chip := s.chip.endSwitch }
    let c := u.chip
    c.spiServed = true →
    let framed (i : Instr) (size : Nat) : Prop :=
      a.toNat % 16 ≠ 0 ∨ size ≤ a.toNat → ∃ t, exec i s = .next t ∧ u.keeps [.spi] t ∧
        t.chip.spi.frmerr = satAdd c.spi.frmerr 1 ∧ t.chip.spi.evt.getLsbD 0 = true
    let reads (i : Instr) (base size : Nat) : Prop :=
      (c.hostShut = false → a.toNat % 16 = 0 → a.toNat < size → a.toNat + 16 * ((n + 15) / 16) ≤ size →
        (∀ k, 16 * k < n → c.eccAt (base + a.toNat + 16 * k) = 0) →
        ∃ t, exec i s = .next t ∧ u.keeps [.spi] t ∧ t.chip.spi.out = memBytes 0 c.mem (base + a.toNat) n) ∧
      (c.inHold = true → a.toNat % 16 = 0 → a.toNat < size →
        ∃ t, exec i s = .next t ∧ u.keeps [.spi] t ∧ t.chip.spi.out = List.replicate n 0) ∧ framed i size
    reads (.readRing a n) 0x28000000 0x2000 ∧ reads (.readStream a n) 0x70000000 0x10000 ∧
    framed (.writeStream a ws false) 0x10000 ∧ framed (.writeStream a ws true) 0x10000 ∧
    (c.hostShut = false → c.spi.ctrl.getLsbD 0 = true → a.toNat % 16 = 0 → a.toNat + 16 * ws.length ≤ 0x10000 →
      a.toNat < 0x10000 →
      ∃ t, exec (.writeStream a ws false) s = .next t ∧ u.keeps [.spi, .mem, .ecc] t ∧
        sameOutside 0 c.mem t.chip.mem (0x70000000 + a.toNat) (16 * ws.length) ∧
        ∀ k, k < ws.length → t.chip.getWord (0x70000000 + a.toNat + 16 * k) = ws.getD k 0 ∧
          t.chip.eccAt (0x70000000 + a.toNat + 16 * k) = 0) ∧
    (c.inHold = true → a.toNat % 16 = 0 → a.toNat < 0x10000 →
      ∃ t, exec (.writeStream a ws false) s = .next t ∧ u.keeps [.spi] t ∧
        t.chip.spi.refuse = satAdd c.spi.refuse ws.length)

/-! ### The management port (R122 to R134, R388) -/

/-- MGT_WRITE: the island takes stores to its own blocks at once, here the four words of MGT.IW; a store elsewhere enters Q5
as an ST, during HOLD it ends CLOCK_HOLD in MGT.LAST, and with Q5 full MGT_SCL is held low with the store waiting (R124,
R126, R128, R130). A pointer that is not a multiple of 4 changes nothing. What a store that the island serves reports is the
model's reading (DEDUCED, log entry 38). MGT_READ drives the word of a register that the island serves, most significant
byte first, with its status, and gives any other read to Q5 as an LD with MGT_SCL held low (R125 to R127); MGT_LAST_READ
drives MGT.LAST once Q5 has nothing left; LIC_MGT_SLOT_READ takes the snapshot of its slot (R388). That the pointer stays
where the write put it, each group of the read reading on (DEDUCED, log entry 38), and that SCL is held for the acknowledge
of the address byte alone (DEDUCED, log entry 104), is the model's reading. MGT_IGO gives the instruction of MGT.IW to Q5,
and during HOLD ends any but CLK.FORCE as CLOCK_HOLD (R129, R130); MGT_EXPECT arms an expected generation (R132); the
stretch timeout releases MGT_SCL with the byte not acknowledged (R128); the SCL timeout resets the front end, a cut group
counted (R106). -/
def Obligations.TheManagementPortTakesItsCommands : Prop :=
  (∀ (s : State) (p : BitVec 32) (v : Word) (cut : Bool),
    let u : State := { s with chip := s.chip.endSwitch }
    let c := u.chip
    c.mgtServed = true → c.mgt.stretch = false →
    (p.toNat % 4 ≠ 0 → exec (.mgtWrite p [v] cut) s = .next u) ∧
    (∀ w0 w1 w2 w3, ∃ t, exec (.mgtWrite 0x50020 [w0, w1, w2, w3] false) s = .next t ∧ u.keeps [.mgt] t ∧
      t.chip.mgt.iw = w3 ++ w2 ++ w1 ++ w0 ∧ t.chip.mgt.ptr = 0x50020 ∧ t.chip.mgt.stretch = false) ∧
    (p.toNat % 4 = 0 → island p.toNat = false → c.pwr.held = false →
      (c.inHold = false → c.freeSlots 5 ≠ 0 →
        ∃ t f, exec (.mgtWrite p [v] false) s = .next t ∧ u.keeps [.mgt, .queues] t ∧
          (t.chip.queue 5).words = (c.queue 5).words ++ [encodeWord 0x11 f] ∧ f.tgt = p ∧ f.op = v.setWidth 64 ∧
          f.tx = false ∧ f.cmpl = false ∧ f.ext = 0 ∧ ∀ j, j ≠ 5 → t.chip.queue j = c.queue j) ∧
      (c.inHold = false → c.freeSlots 5 = 0 →
        ∃ t, exec (.mgtWrite p [v] false) s = .next t ∧ u.keeps [.mgt] t ∧ t.chip.mgt.stretch = true ∧
          t.chip.mgt.more = [v]) ∧
      (c.inHold = true → ∃ t, exec (.mgtWrite p [v] false) s = .next t ∧ u.keeps [.mgt] t ∧
        t.chip.mgt.lastSt = St.clockHold ∧ t.chip.mgt.lastQ5 = false))) ∧
  (∀ (s : State),
    let u : State := { s with chip := s.chip.endSwitch }
    let c := u.chip
    c.mgtServed = true → c.mgt.stretch = false →
    (c.mgt.ptr = 0x00010004 → ∃ t, exec (.mgtRead 1) s = .next t ∧ u.keeps [.mgt] t ∧
      t.chip.mgt.out = be32 c.clk.policy.toNat ++ [St.ok] ∧ t.chip.mgt.ptr = c.mgt.ptr ∧ t.chip.mgt.stretch = false) ∧
    (island c.mgt.ptr.toNat = false → c.inHold = false → c.freeSlots 5 ≠ 0 → c.pwr.held = false →
      ∃ t f, exec (.mgtRead 1) s = .next t ∧ u.keeps [.mgt, .queues] t ∧ t.chip.mgt.stretch = true ∧
        t.chip.mgt.issued = true ∧ (t.chip.queue 5).words = (c.queue 5).words ++ [encodeWord 0x10 f] ∧
        f.tgt = c.mgt.ptr ∧ f.ext = 0 ∧ f.op = 0) ∧
    (c.q5Pending = false → ∃ t w, exec .mgtLastRead s = .next t ∧ u.keeps [.mgt] t ∧
      t.chip.mgt.out = be32 w ++ [St.ok] ∧ (BitVec.ofNat 32 w).extractLsb' 0 8 = c.mgt.lastSt ∧
      (BitVec.ofNat 32 w).extractLsb' 8 8 = c.mgt.lastTag ∧ w.testBit 16 = false) ∧
    (∀ slot : BitVec 9, c.eccAt (slotAddr slot.toNat) = 0 →
      ∃ t, exec (.licMgtSlotRead slot) s = .next t ∧ u.keeps [.mgt] t ∧
        t.chip.mgt.held = some (slot, c.slotBytes slot.toNat) ∧
        t.chip.mgt.out = be32 (memNat 0 c.mem (slotAddr slot.toNat) 4) ++ [St.ok])) ∧
  ∀ (s : State) (v : Word) (part : Bool),
    let u : State := { s with chip := s.chip.endSwitch }
    let c := u.chip
    (c.mgtServed = true → c.mgt.stretch = false → v.getLsbD 0 = true →
      (c.inHold = false → c.freeSlots 5 ≠ 0 → c.pwr.held = false →
        ∃ t, exec (.mgtIgo v) s = .next t ∧ u.keeps [.mgt, .queues] t ∧
          (t.chip.queue 5).words = (c.queue 5).words ++ [c.mgt.iw] ∧ ∀ j, j ≠ 5 → t.chip.queue j = c.queue j) ∧
      (c.inHold = true → c.mgt.iw.extractLsb' 120 8 ≠ 0xB1 →
        ∃ t, exec (.mgtIgo v) s = .next t ∧ u.keeps [.mgt] t ∧ t.chip.mgt.lastSt = St.clockHold ∧
          t.chip.mgt.lastTag = c.mgt.iw.extractLsb' 104 8)) ∧
    (c.mgtServed = true → c.mgt.stretch = false →
      ∃ t, exec (.mgtExpect v) s = .next t ∧ u.keeps [.mgt] t ∧ t.chip.mgt.expGen = v.extractLsb' 0 16 ∧
        t.chip.mgt.expValid = true ∧ t.chip.mgt.ptr = 0x50010) ∧
    (c.mgt.stretch = true → ∀ x, x = !c.mgt.more.isEmpty →
      ∃ t, exec (.mgtStretchTimeout x) s = .next t ∧ u.keeps [.mgt] t ∧ t.chip.mgt.stretch = false ∧
        t.chip.mgt.more = [] ∧ t.chip.mgt.rdLeft = 0 ∧ t.chip.mgt.nacks = satAdd c.mgt.nacks 1 ∧
        t.chip.mgt.iw = c.mgt.iw) ∧
    (c.mgtServed = true → ∃ t, exec (.mgtSclTimeout part) s = .next t ∧ u.keeps [.mgt, .prt] t ∧
      t.chip.mgt.stretch = false ∧ t.chip.mgt.more = [] ∧ t.chip.mgt.out = [] ∧ t.chip.mgt.ptr = c.mgt.ptr ∧
      t.chip.mgt.held = c.mgt.held ∧
      vget t.chip.prt.part 1 = if part then satAdd (vget c.prt.part 1) 1 else vget c.prt.part 1)

/-! ### Register rows (R8, R47, R98, R101, R102, R106, R161, R241 to R244, R261, R266, R337, R338, R390, R411) -/

/-- Rows of line time, clock policy, recorder and capture registers: an LT snapshot fills the holding register of its reader
(R101), an apply writes the staged time (R102), CLK.POLICY takes its defined bits and enters page 1,024 (R47), LIC.ACK of
the newest record clears pending unless a repeat came since (R390), and CAP.RPTR stays within the ring (R266). That an apply
and its staged words lie as the model has them is its reading (DEDUCED, log entry 52). REGISTER_WRITE, for every register of
the tables by its access type (`regRows`): a read-write register takes its defined bits, a write-1-to-clear one loses the
bits written, a read-only one ends OK unchanged, a lockable one is LOCKED with a violation while its group is locked; every
other offset of the register space is RANGE, a misaligned one ALIGN; those with checks of their own end as their tables say
(R8, R23, Table SCO-3). From Q5 a store that Table PRT-6 does not allow ends PRIV, and one of CLK.POLICY consumes MGT.EXPECT
and acts on the expected generation alone (R129, R132). That the status is kept in Eng.lastSt (DESIGN CHOICE, log entry 53)
and that an access without an effect consumes MGT.EXPECT too (DESIGN CHOICE, log entry 106) is the model's choice. -/
def Obligations.TimePolicyAndPlainRegisters : Prop :=
  (∀ (q : Queue) (s : State) (v : Word),
    let u : State := { s with chip := s.chip.endSwitch }
    let c := u.chip
    c.engineOn = true → q ≠ 5 →
    let ticks : BitVec 34 := c.lt.wtickh ++ c.lt.wtickl
    let row (i : Instr) (st : Byte) (ps : List Part) (post : Chip → Prop) : Prop :=
      ∃ t, exec i s = .next t ∧ u.keeps (.lastSt :: ps) t ∧ t.chip.eng.lastSt = st ∧ post t.chip
    (∀ src, ∃ t, exec (.ltSnapshot src) s = .next t ∧ u.keeps [.lt] t ∧ t.chip.now = c.now ∧
      vget t.chip.lt.hold (match src with | some k => k.val | none => 8) = c.lt.word ∧
      ∀ j, j < 9 → j ≠ (match src with | some k => k.val | none => 8) → vget t.chip.lt.hold j = vget c.lt.hold j) ∧
    (ticks.toNat < 16000000000 → row (.ltApply q) St.ok [.lt, .pos, .cams, .queues, .pins] fun e =>
      e.lt.sec = c.lt.wsec ∧ e.lt.ticks = ticks ∧ e.lt.slew = 0 ∧ e.lt.source = 2 ∧ e.lt.alignEn = c.lt.alignEn) ∧
    (16000000000 ≤ ticks.toNat → row (.ltApply q) St.range [] fun _ => True) ∧
    (c.sec.locks.getLsbD 1 = false → c.clk.st ≠ .fallback →
      row (.clkPolicyWrite q v) St.ok [.clk, .mem, .nvs] fun e =>
        e.clk.policy = v &&& 0xFF0F ∧ e.clk.gen = (if v &&& 0xFF0F = c.clk.policy then c.clk.gen else c.clk.gen + 1) ∧
          e.clk.st = c.clk.st ∧ memNat 0 e.mem 0x38000000 4 = (v &&& 0xFF0F).toNat ∧
          sameOutside 0 c.mem e.mem 0x38000000 4 ∧ e.nvs.dirtyP.getLsbD 1024 = true) ∧
    (c.sec.locks.getLsbD 1 = true → row (.clkPolicyWrite q v) St.locked [.sec, .lic] fun e =>
      e.sec.viol = satAdd c.sec.viol 1) ∧
    (v = c.lic.last → c.lic.coalSince = false → row (.licAck q v) St.ok [.lic] fun e => e.lic = { c.lic with pending := false }) ∧
    (c.lic.coalSince = true ∨ 0 < (c.lic.last - v).toInt → row (.licAck q v) St.stale [] fun _ => True) ∧
    (c.lic.coalSince = false → (c.lic.last - v).toInt ≤ 0 → v ≠ c.lic.last → row (.licAck q v) St.range [] fun _ => True) ∧
    ((c.edg.wptr - v.extractLsb' 0 15).toNat ≤ 16384 → row (.capRptrWrite q v) St.ok [.edg] fun e =>
      e.edg = { c.edg with rptr := v.extractLsb' 0 15 }) ∧
    (16384 < (c.edg.wptr - v.extractLsb' 0 15).toNat → row (.capRptrWrite q v) St.range [] fun _ => True)) ∧
  ∀ (q : Queue) (s : State) (v : Word),
    let u : State := { s with chip := s.chip.endSwitch }
    let c := u.chip
    c.engineOn = true →
    let row (i : Instr) (st : Byte) (ps : List Part) (post : Chip → Prop) : Prop :=
      ∃ t, exec i s = .next t ∧ u.keeps (.lastSt :: ps) t ∧ t.chip.eng.lastSt = st ∧ post t.chip
    (row (.registerWrite q 0x00080008 v) St.ok [.engEvt] fun e => e.eng.evt = c.eng.evt &&& ~~~v) ∧
    (row (.registerWrite q 0x000F0018 v) St.ok [.nvs] fun e => e.nvs = { c.nvs with evt := c.nvs.evt &&& ~~~v }) ∧
    (row (.registerWrite q 0x0013000C v) St.ok [.pwr] fun e => e.pwr = { c.pwr with inten := v &&& 7 }) ∧
    (row (.registerWrite q 0x00120000 v) St.ok [] fun _ => True) ∧
    let val (e : Chip) (a : BitVec 32) : Option Word := e.regVal s.die (Src.ofQueue q) a.toNat
    let others (a : BitVec 32) (e : Chip) : Prop :=
      ∀ b : BitVec 32, b.toNat % 4 = 0 → b ≠ a → b ≠ 0x00120000 → b ≠ 0x00120004 → val e b = val c b
    (∀ g, g ∈ regRows → g.access = .w1c → ∀ k, k < g.count → row (.registerWrite q (g.at k) v) St.ok g.parts fun e =>
      (∀ w, val c (g.at k) = some w → val e (g.at k) = some (w &&& ~~~v)) ∧ others (g.at k) e) ∧
    (q ≠ 5 →
      (∀ g, g ∈ regRows → g.access = .ro → ∀ k, k < g.count → row (.registerWrite q (g.at k) v) St.ok [] fun _ => True) ∧
      (∀ g, g ∈ regRows → g.access = .rw → ∀ k, k < g.count → row (.registerWrite q (g.at k) v) St.ok g.parts fun e =>
        val e (g.at k) = some (v &&& g.mask) ∧ others (g.at k) e) ∧
      (∀ g, g ∈ regRows → g.access = .rwl → ∀ k, k < g.count →
        (c.fabricLocked = true → row (.registerWrite q (g.at k) v) St.locked [.sec, .lic] fun e =>
          e.sec.viol = satAdd c.sec.viol 1) ∧
        (c.fabricLocked = false → row (.registerWrite q (g.at k) v) St.ok g.parts fun e =>
          val e (g.at k) = some (v &&& g.mask))) ∧
      (∀ a : BitVec 32, a.toNat % 4 = 0 → a.toNat < 0x10000000 → (∀ g, g ∈ regRows → ∀ k, k < g.count → a ≠ g.at k) →
        row (.registerWrite q a v) St.range [] fun _ => True) ∧
      (∀ a : BitVec 32, a.toNat % 4 ≠ 0 → row (.registerWrite q a v) St.align [] fun _ => True) ∧
      (10 ≤ (v.extractLsb' 0 6).toNat → (v.extractLsb' 0 6).toNat ≤ 32 → 10 ≤ (v.extractLsb' 8 6).toNat →
        (v.extractLsb' 8 6).toNat ≤ 32 → row (.registerWrite q 0x00080004 v) St.ok [.waitmax] fun e =>
          e.eng.waitmax = v &&& 0x3F3F) ∧
      ((v.extractLsb' 0 6).toNat < 10 ∨ 32 < (v.extractLsb' 0 6).toNat ∨ (v.extractLsb' 8 6).toNat < 10 ∨
        32 < (v.extractLsb' 8 6).toNat → row (.registerWrite q 0x00080004 v) St.range [] fun _ => True) ∧
      ((v.extractLsb' 16 5).toNat ≤ 30 → row (.registerWrite q 0x000C0004 v) St.ok [.pos] fun e =>
        e.pos = { c.pos with cfg := v &&& 0x1F01FF }) ∧
      (30 < (v.extractLsb' 16 5).toNat → row (.registerWrite q 0x000C0004 v) St.range [] fun _ => True) ∧
      row (.registerWrite q 0x0012000C v) St.ok [.flt] fun e => e.flt = { c.flt with
        condhist := c.flt.condhist &&& ~~~v ||| c.cond }) ∧
    (row (.registerWrite q 0x00050010 v) St.ok [.mgt] fun e =>
      e.mgt = { c.mgt with expGen := v.extractLsb' 0 16, expValid := true }) ∧
    (q ≠ 5 →
      (row (.registerWrite q 0x0008000C v) St.ok [.engInten] fun e => e.eng.inten = v &&& 0x1F) ∧
      (row (.registerWrite q 0x00000000 v) St.ok [] fun _ => True) ∧
      (row (.registerWrite q 0x00000014 v) St.range [] fun _ => True) ∧
      (row (.registerWrite q 0x00150000 v) St.range [] fun _ => True) ∧
      (row (.registerWrite q 0x00080002 v) St.align [] fun _ => True)) ∧
    (∀ a : BitVec 32, q5Store a.toNat v = false → row (.registerWrite 5 a v) St.priv [] fun _ => True) ∧
    (c.sec.locks.getLsbD 1 = false → c.clk.st ≠ .fallback →
      (c.mgt.expValid = true → c.mgt.expGen = c.clk.gen →
        row (.clkPolicyWrite 5 v) St.ok [.clk, .mem, .nvs, .mgt] fun e => e.clk.policy = v &&& 0xFF0F ∧
          e.mgt = { c.mgt with expValid := false }) ∧
      (c.mgt.expValid = false ∨ c.mgt.expGen ≠ c.clk.gen →
        row (.clkPolicyWrite 5 v) St.stale [.mgt] fun e =>
          e.mgt = { c.mgt with expValid := false, stale := satAdd c.mgt.stale 1 }))

/-- Rows of event sources, pins, pin banks, policies, repairs, channels, link ports and port resets: each writes its own
register, advances the generation of its unit when the value changes (R131), and ends RANGE, LOCKED or BUSY where its table
says so, with the register as it was. That the status is kept in Eng.lastSt (DESIGN CHOICE, log entry 53), and what a port
reset of JTAG ends (DEDUCED, log entry 15), is the model's choice. -/
def Obligations.UnitRegisters : Prop :=
  ∀ (q : Queue) (s : State) (v : Word) (k n : BitVec 5) (p : BitVec 8) (bk : BitVec 4),
    let u : State := { s with chip := s.chip.endSwitch }
    let c := u.chip
    c.engineOn = true → q ≠ 5 → p.toNat < 192 → bk.toNat < 12 →
    let x := vget c.pins p.toNat
    let row (i : Instr) (st : Byte) (ps : List Part) (post : Chip → Prop) : Prop :=
      ∃ t, exec i s = .next t ∧ u.keeps (.lastSt :: ps) t ∧ t.chip.eng.lastSt = st ∧ post t.chip
    (evtSrcOk v = true → row (.engEvtsrcWrite q k v) St.ok [.evtsrc] fun e => vget e.eng.evtsrc k.toNat = v ∧
      ∀ j, j < 32 → j ≠ k.toNat → vget e.eng.evtsrc j = vget c.eng.evtsrc j) ∧
    (evtSrcOk v = false → row (.engEvtsrcWrite q k v) St.range [] fun _ => True) ∧
    (v.getLsbD 1 = true → row (.edgPincfgWrite q p v) St.range [] fun _ => True) ∧
    (v.getLsbD 1 = false → c.fabricLocked = true → row (.edgPincfgWrite q p v) St.locked [.sec, .lic] fun e =>
      e.sec.viol = satAdd c.sec.viol 1) ∧
    (v.getLsbD 1 = false → c.fabricLocked = false →
      (v.extractLsb' 0 2 ≠ x.cfg.extractLsb' 0 2 → x.armed = true → row (.edgPincfgWrite q p v) St.busy [] fun _ => True) ∧
      (v.extractLsb' 0 2 = x.cfg.extractLsb' 0 2 → row (.edgPincfgWrite q p v) St.ok [.pins, .banks, .edg] fun e =>
        (vget e.pins p.toNat).cfg = v &&& 0xFFFFFF ∧
          ∀ j, j < 192 → j ≠ p.toNat → (vget e.pins j).cfg = (vget c.pins j).cfg) ∧
      (v.extractLsb' 0 2 ≠ x.cfg.extractLsb' 0 2 → x.armed = false → row (.edgPincfgWrite q p v) St.ok [.pins, .banks, .edg]
        fun e => (vget e.pins p.toNat).cfg = v &&& 0xFFFFFF ∧
          (vget e.banks (p.toNat / 16)).gen = (vget c.banks (p.toNat / 16)).gen + 1)) ∧
    (row (.edgBindWrite q p true v) St.ok [.pins] fun e => vget e.pins p.toNat = { x with boff := v }) ∧
    (bindOk v = true → row (.edgBindWrite q p false v) St.ok [.pins] fun e =>
      vget e.pins p.toNat = { x with bind := v &&& 0x3FFFFFFF }) ∧
    (bindOk v = false → row (.edgBindWrite q p false v) St.range [] fun _ => True) ∧
    (c.fabricLocked = false → row (.frdSafestWrite q bk v) St.ok [.banks] fun e =>
      vget e.banks bk.toNat = { vget c.banks bk.toNat with
        safest := v
        gen := if (vget c.banks bk.toNat).safest = v then (vget c.banks bk.toNat).gen
          else (vget c.banks bk.toNat).gen + 1 }) ∧
    (c.fabricLocked = true → row (.frdSafestWrite q bk v) St.locked [.sec, .lic] fun e =>
      e.sec.viol = satAdd c.sec.viol 1) ∧
    (c.fabricLocked = false → row (.frdPolWrite q n v) St.ok [.fronds] fun e =>
      (vget e.fronds n.toNat).pol = v.extractLsb' 0 2 ∧ (vget e.fronds n.toNat).gen
        = (if (vget c.fronds n.toNat).pol = v.extractLsb' 0 2 then (vget c.fronds n.toNat).gen
          else (vget c.fronds n.toNat).gen + 1) ∧
        ∀ j, j < 32 → j ≠ n.toNat → vget e.fronds j = vget c.fronds j) ∧
    (c.fabricLocked = false → row (.scrPolWrite q n v) St.ok [.fronds] fun e =>
      (vget e.fronds n.toNat).scrPol = v.extractLsb' 0 2 ∧ (vget e.fronds n.toNat).pol = (vget c.fronds n.toNat).pol ∧
        ∀ j, j < 32 → j ≠ n.toNat → vget e.fronds j = vget c.fronds j) ∧
    (row (.scrRepair q v) St.ok [.scr] fun e => ∀ j, j < 32 → e.scr.want.getLsbD j
      = (c.scr.want.getLsbD j || (v.getLsbD j && (vget c.fronds j).check == 2))) ∧
    (((∀ j w, (c.queue j).wait = some w → w.kind ≠ .drain) →
      row (.dmaCtrlDrop q bk) St.ok [.dma, .credits, .freeIx] fun e => (vget e.dma bk.toNat).active = false ∧
        e.credits = c.credits + (if (vget c.dma bk.toNat).active then (vget c.dma bk.toNat).credits else 0))) ∧
    (∀ port : BitVec 2, port.toNat < 3 → v.getLsbD 0 = true →
      row (.lnkCtrlWrite q port v) St.ok [.ports] fun e => (vget e.ports port.toNat).ctrl = v &&& 3 ∧
        (vget e.ports port.toNat).st = (if (vget c.ports port.toNat).st = 0 then 1 else (vget c.ports port.toNat).st)) ∧
    (∀ port : BitVec 2, port.toNat < 3 → v.getLsbD 0 = false →
      row (.lnkCtrlWrite q port v) St.ok [.ports, .lt, .lic] fun e => (vget e.ports port.toNat).ctrl = v &&& 3 ∧
        (vget e.ports port.toNat).st = 0 ∧ e.now = c.now ∧
        ((vget c.ports port.toNat).st = 2 → (vget e.ports port.toNat).evt.getLsbD 1 = true ∧
          (port.toNat = 0 → e.lt.aligned = false)) ∧
        ∀ j, j < 3 → j ≠ port.toNat → vget e.ports j = vget c.ports j) ∧
    (row (.prtResetSpi q) St.ok [.spi] fun e =>
      e.spi = { c.spi with epoch := false, refused := false, armed := false, out := [] }) ∧
    (row (.prtResetMgt q) St.ok [.mgt] fun e =>
      e.mgt = { c.mgt with out := [], stretch := false, more := [], rdLeft := 0, issued := false, cut := false }) ∧
    (c.jtg.test = false → row (.prtResetJtag q) St.ok [.jtg] fun e => e.jtg.ir = 0x004 ∧ e.jtg.isc = false ∧
      e.jtg.code = 0 ∧ e.jtg.idx = 0 ∧ e.jtg.buf = c.jtg.buf) ∧
    (c.jtg.test = true → row (.prtResetJtag q) St.ok [.jtg, .pins, .banks, .edg] fun e => e.jtg.ir = 0x004 ∧
      e.jtg.test = false ∧ ∀ j, j < 192 → (vget e.pins j).held = true)

/-! ### JTAG (R135 to R143) -/

/-- Every instruction scan captures JTG.ISCSTAT.code with 0b01 below it (R135). IDCODE captures 0x24840A73, BYPASS and every
code that Table PRT-8 does not list select BYPASS, SAMPLE_PRELOAD loads the boundary-scan cells with what is shifted in;
EXTEST, HIGHZ and CLAMP enter test mode: every frond SAFE, every EPU and cam disarmed, record 0x1701, EXTEST with its cells
loaded (R136, R137); the JTAG_LOCK fuse makes them BYPASS with code LOCKED and a violation (R138); a later code that is no
test code leaves test mode with the outputs held; TAP_RESET selects IDCODE and leaves ISC mode. What TAP_RESET ends
(DEDUCED, log entry 15), which of these need what and the one record of test mode (DEDUCED, log entry 49), and what HIGHZ,
CLAMP and a capture show (PRESUMED, log entry 50), is the model's reading. -/
def Obligations.BoundaryScanInstructions : Prop :=
  ∀ (s : State) (scan : BitVec 605) (code : BitVec 10),
    let u : State := { s with chip := s.chip.endSwitch }
    let c := u.chip
    let cap := c.jtg.code ++ (1 : BitVec 2)
    c.pwr.pgood = true →
    (c.jtg.test = false →
      (∃ t, exec .idcode s = .next t ∧ u.keeps [.jtg] t ∧ t.chip.jtg.ir = 0x004 ∧ t.chip.jtg.dr = 0x24840A73 ∧
        t.chip.jtg.irCap = cap) ∧
      (listedCode code = false →
        ∃ t, exec (.bypass code) s = .next t ∧ u.keeps [.jtg] t ∧ t.chip.jtg.ir = 0x3FF ∧ t.chip.jtg.irCap = cap) ∧
      (listedCode code = true → exec (.bypass code) s = .next u) ∧
      (∃ t, exec (.samplePreload scan) s = .next t ∧ u.keeps [.jtg, .freeIx] t ∧ t.chip.jtg.ir = 0x001 ∧
        t.chip.jtg.test = false ∧ t.chip.jtg.cells = scan ∧ t.chip.jtg.irCap = cap) ∧
      (∃ t, exec .tapReset s = .next t ∧ u.keeps [.jtg] t ∧ t.chip.jtg.ir = 0x004 ∧ t.chip.jtg.isc = false)) ∧
    (c.jtg.test = true → listedCode code = false →
      ∃ t, exec (.bypass code) s = .next t ∧ u.keeps [.jtg, .pins, .banks, .edg] t ∧
        t.chip.jtg.test = false ∧ t.chip.jtg.ir = 0x3FF ∧ ∀ p, p < 192 → (vget t.chip.pins p).held = true) ∧
    ∀ i ir, (i, ir) ∈ [(Instr.extest scan, (0x000 : BitVec 10)), (.highz, 0x006), (.clamp, 0x007)] →
      (s.die.jtagLock = true → c.jtg.test = false → c.lic.room = true →
        ∃ t r, exec i s = .next t ∧ u.keeps [.jtg, .sec, .lic] t ∧
          t.chip.jtg.ir = 0x3FF ∧ t.chip.jtg.code = St.locked ∧ t.chip.jtg.test = false ∧
          t.chip.sec.viol = satAdd c.sec.viol 1 ∧ c.oneRecord t.chip r ∧ r.cause = 0x3E06) ∧
      (s.die.jtagLock = false → ∃ t, exec i s = .next t ∧
        u.keeps [.jtg, .fronds, .cams, .pins, .banks, .edg, .lic, .freeIx] t ∧ t.chip.jtg.ir = ir ∧ t.chip.jtg.test = true ∧
        (i = .extest scan → t.chip.jtg.cells = scan) ∧
        (∀ n, n < 32 → (vget t.chip.fronds n).st = .safe ∧ (vget t.chip.cams n).armed = false) ∧
        (∀ p, p < 192 → (vget t.chip.pins p).armed = false) ∧
        (c.jtg.test = true → t.chip.lic = c.lic) ∧
        (c.jtg.test = false → c.lic.room = true → ∃ r, c.oneRecord t.chip r ∧ r.cause = 0x1701))

/-- The IEEE 1532 instructions: ISC_ENABLE and ISC_DISABLE set and clear the mode; ISC_ADDRESS_SHIFT takes a sector address
and index 0; ISC_DATA_SHIFT fills the buffer at the index, which wraps; ISC_PROGRAM and ISC_ERASE start the operation of the
addressed sector, ILLEGAL outside ISC mode; ISC_READ captures a good word of an unsealed part and is LOCKED on a sealed one
(R139 to R142). That ISC_NOOP and a shift leave the code as it was (DEDUCED, log entry 49), and of which operation the code
tells (DEDUCED, log entry 51), is the model's reading. The private instructions capture the status word, the key hash (zeros
while no key is programmed) and the record of a slot; PRV_EDGELOOP captures a time, a free value (log entry 2), only in test
mode (R143). That the last record of the status word is LIC.LAST is the model's choice (DESIGN CHOICE, log entry 120). -/
def Obligations.InSystemAndPrivateInstructions : Prop :=
  (∀ (s : State),
    let u : State := { s with chip := s.chip.endSwitch }
    let c := u.chip
    c.pwr.pgood = true → c.jtagServed = true → s.die.jtagLock = false → c.sec.jtagHold = false → c.jtg.test = false →
    let at_ := c.jtg.addr.toNat + 16 * c.jtg.idx.toNat
    (∃ t, exec .iscEnable s = .next t ∧ u.keeps [.jtg] t ∧ t.chip.jtg.isc = true ∧ t.chip.jtg.ir = 0x0E8) ∧
    (∃ t, exec .iscDisable s = .next t ∧ u.keeps [.jtg] t ∧ t.chip.jtg.isc = false ∧ t.chip.jtg.ir = 0x0E9) ∧
    (∃ t, exec .iscNoop s = .next t ∧ u.keeps [.jtg] t ∧
      t.chip.jtg = { c.jtg with ir := 0x0EF, irCap := c.jtg.code ++ (1 : BitVec 2), dr := 0 }) ∧
    (∀ a : BitVec 24, a.toNat % 4096 = 0 → a.toNat < 0x300000 →
      ∃ t, exec (.iscAddressShift a) s = .next t ∧ u.keeps [.jtg] t ∧ t.chip.jtg.addr = a ∧ t.chip.jtg.idx = 0) ∧
    (∀ a : BitVec 24, a.toNat % 4096 ≠ 0 ∨ 0x300000 ≤ a.toNat →
      ∃ t, exec (.iscAddressShift a) s = .next t ∧ u.keeps [.jtg] t ∧ t.chip.jtg.code = St.range ∧
        t.chip.jtg.addr = c.jtg.addr) ∧
    (∀ w, c.jtg.isc = true → ∃ t, exec (.iscDataShift w) s = .next t ∧ u.keeps [.jtg] t ∧
      memNat 0 t.chip.jtg.buf (16 * c.jtg.idx.toNat) 16 = w.toNat ∧
      sameOutside 0 c.jtg.buf t.chip.jtg.buf (16 * c.jtg.idx.toNat) 16 ∧ t.chip.jtg.idx = c.jtg.idx + 1) ∧
    (c.jtg.isc = false → ∀ i, i ∈ [Instr.iscProgram, .iscErase, .iscRead] →
      ∃ t, exec i s = .next t ∧ u.keeps [.jtg] t ∧ t.chip.jtg.code = St.illegal) ∧
    (c.jtg.isc = true → c.jtg.addr.toNat < 0x200000 → c.flashCheck (c.jtg.addr.toNat / 4096) = none →
      (∃ t, exec .iscErase s = .next t ∧ u.keeps [.jtg, .prs, .cams] t ∧ t.chip.jtg.busy = true ∧
        t.chip.prs.op = some ⟨false, c.jtg.addr.toNat / 4096, [], true, none⟩) ∧
      (∃ t, exec .iscProgram s = .next t ∧ u.keeps [.jtg, .prs, .cams] t ∧ t.chip.jtg.busy = true ∧
        t.chip.prs.op = some ⟨true, c.jtg.addr.toNat / 4096, memBytes 0 c.jtg.buf 0 4096, true, none⟩)) ∧
    (c.jtg.isc = true → s.die.sealed = false → s.die.readback = false → memRead 0 c.prs.flashEcc (at_ / 16) = 0 →
      ∃ t, exec .iscRead s = .next t ∧ u.keeps [.jtg] t ∧ t.chip.jtg.dr = BitVec.ofNat 605 (memNat 0xFF c.prs.flash at_ 16) ∧
        t.chip.jtg.idx = c.jtg.idx + 1) ∧
    (c.jtg.isc = true → s.die.sealed = true ∨ s.die.readback = true →
      ∃ t, exec .iscRead s = .next t ∧ u.keeps [.jtg, .sec, .lic] t ∧ t.chip.jtg.code = St.locked ∧
        t.chip.sec.viol = satAdd c.sec.viol 1)) ∧
  ∀ (s : State),
    let u : State := { s with chip := s.chip.endSwitch }
    let c := u.chip
    c.pwr.pgood = true → c.jtagServed = true → s.die.jtagLock = false → c.sec.jtagHold = false →
    (c.jtg.test = false →
      (∃ t, exec .prvStatus s = .next t ∧ u.keeps [.jtg] t ∧ t.chip.jtg.ir = 0x300 ∧
        t.chip.jtg.dr.extractLsb' 32 32 = c.lic.last ∧ t.chip.jtg.dr.getLsbD 4 = s.die.sealed ∧
        t.chip.jtg.dr.extractLsb' 16 16 = (if s.die.xb then 0x0012 else 0x0002)) ∧
      (∃ t, exec .prvKeyhash s = .next t ∧ u.keeps [.jtg] t ∧ t.chip.jtg.ir = 0x301 ∧
        (s.die.keyProg = false → t.chip.jtg.dr = 0)) ∧
      ∀ n : BitVec 9, ∃ t, exec (.prvLicread n) s = .next t ∧ u.keeps [.jtg] t ∧ t.chip.jtg.slot = n ∧
        t.chip.jtg.dr = BitVec.ofNat 605 (memNat 0 c.mem (slotAddr n.toNat) 64)) ∧
    ∀ n : BitVec 8,
      (c.jtg.test = true → n.toNat < 192 → ∃ t, exec (.prvEdgeloop n) s = .next t ∧ u.keeps [.jtg, .freeIx] t ∧
        t.chip.jtg.dr = ((Config.freeValue c.freeIx).extractLsb' 0 34).setWidth 605 ∧ t.chip.jtg.test = true) ∧
      (c.jtg.test = false → ∃ t, exec (.prvEdgeloop n) s = .next t ∧ u.keeps [.jtg] t ∧ t.chip.jtg.ir = 0x303 ∧
        t.chip.jtg.dr = 0)

/-! ### Power, start-up and resets (R46, R238, R239, R313 to R316, R352, R357, R358, R385, R428 to R446) -/

/-- Start-up in order: POWER_GOOD puts every register at reset with the non-volatile cells kept and begins step 1; XTAL_OK
ends steps 1 and 2 with fuses read and straps sampled; LIC_RESTORE ends step 3 with the power-on record first; RECALL ends
step 4 with nothing dirty; the clock decision ends step 5 with the glitch-free switch to a good line, takes FALLBACK after
the timeout, and otherwise waits for it. What a power-on keeps (DEDUCED, log entry 58), what the restore leaves in LIC.FIRST
(DESIGN CHOICE, log entry 64) and that a decision at the timeout takes FALLBACK (DEDUCED, log entry 63) is the model's
reading. The steps are those of R441, the decision that of R442. -/
def Obligations.StartupStepsFollowEachOther : Prop :=
  ∀ (s : State),
    let u : State := { s with chip := s.chip.endSwitch }
    let c := u.chip
    (c.pwr.pgood = false → c.pwr.pf ≠ 1 → ∃ t, exec .powerGood s = .next t ∧ t.pending = s.pending ∧ t.die = s.die ∧
      t.chip.pwr.pgood = true ∧ t.chip.pwr.step = 1 ∧ t.chip.nvs.copyA = c.nvs.copyA ∧ t.chip.nvs.copyB = c.nvs.copyB ∧
      t.chip.nvs.slots = c.nvs.slots ∧ t.chip.nvs.cells = c.nvs.cells ∧ t.chip.prs.flash = c.prs.flash ∧
      t.chip.prs.marks = c.prs.marks ∧ t.chip.lic.shadow = c.lic.shadow ∧ t.chip.eng = Eng.reset ∧
      t.chip.lt = LineTime.reset ∧ t.chip.clk = Clk.reset ∧ t.chip.fronds = Chip.reset.fronds ∧
      t.chip.pwr.rstcause = if c.pwr.pf = 2 then 1 else 0) ∧
    (∀ straps, c.pwr.pgood = true → c.pwr.step = 1 → ∃ t, exec (.xtalOk straps) s = .next t ∧ u.keeps [.clk, .mgt, .pwr] t ∧
      t.chip.pwr.step = 3 ∧ t.chip.pwr.fuseRead = true ∧ t.chip.pwr.straps = straps ∧ t.chip.clk.xtalOk = true ∧
      t.chip.mgt.addr = 0x58 ||| (straps >>> 1).setWidth 7) ∧
    (c.pwr.pgood = true → c.pwr.step = 3 → c.islandOn = true →
      ∃ t r, exec .licRestore s = .next t ∧ u.keeps [.lic, .mem, .pwr, .freeIx] t ∧ t.chip.pwr.step = 4 ∧ t.chip.lic.restored = true ∧
        r.cause = 0x0001 ∧ t.chip.lic.buf.head? = some r ∧
        (c.lic.wait = [] → (∀ x, x ∈ c.lic.buf → x.entry = .general) → c.lic.general < 14 →
          t.chip.lic.buf = r :: c.lic.buf)) ∧
    (c.pwr.pgood = true → c.pwr.step = 4 → c.nvs.vcapOk = true → c.clk.st ≠ .hold →
      ∃ t, exec .recall s = .next t ∧ t.pending = s.pending ∧ t.die = s.die ∧ t.chip.pwr.step = 5 ∧
        t.chip.nvs.evt.getLsbD 1 = true ∧ t.chip.nvs.dirtyP = 0 ∧ t.chip.nvs.dirtyC = 0 ∧
        (∀ r i, c.nvs.newest = some (r, i) → t.chip.nvs.gen = r.gen ∧
          (r.kind = 4 → t.chip.nvs.evt.getLsbD 6 = true)) ∧
        (c.nvs.newest = none → t.chip.nvs.gen = 0 ∧ t.chip.clk.policy = 0x0A06)) ∧
    (c.pwr.pgood = true → c.pwr.step = 5 →
      (c.clk.st = .qualifying → c.clk.lineOk = true → ∃ t, exec .clockDecision s = .next t ∧ u.keeps [.clk, .pwr] t ∧
        t.chip.pwr.step = 6 ∧ t.chip.clk = { c.clk with
          deciding := false, switch := some ⟨false, true, .line, 0x18, .qualifying, .device, 4⟩ }) ∧
      (c.clk.st = .qualifying → c.clk.lineOk = false → c.clk.tmoExpired = false → field c.clk.policy 2 2 ≠ 3 →
        ∃ t, exec .clockDecision s = .next t ∧ u.keeps [.clk] t ∧ t.chip.clk = { c.clk with deciding := true }) ∧
      (c.clk.st = .qualifying → c.clk.lineOk = false → c.clk.deciding = true → c.clk.policy.getLsbD 1 = false →
        ∃ t, exec .bootTimeout s = .next t ∧ u.keeps [.clk, .pwr] t ∧ t.chip.clk.st = .fallback ∧ t.chip.pwr.step = 6 ∧
          t.chip.clk.evt.getLsbD 7 = true))

/-- A slot attempt at step 6 (R314, R315, R443): a slot whose first sector is not VALID fails with its record 0x2B01 and its
status in PRS.BOOTLOG; after the second failure the part is in LOADER, every frond SAFE without an active plane, with record
0x2B02; a slot that passes its checks is active, and start-up ends. -/
def Obligations.SlotAttemptsBootOrLoad : Prop :=
  ∀ (s : State),
    let u : State := { s with chip := s.chip.endSwitch }
    let c := u.chip
    let slot := if c.prs.tried = 0 then c.firstSlot else !c.firstSlot
    c.pwr.pgood = true → c.coreOn = true → c.pwr.step = 6 → c.pwr.resetN = true → c.prs.op = none →
    (memRead 0 c.prs.marks (if slot then 256 else 0) ≠ 1 →
      (c.prs.tried = 0 → c.lic.room = true →
        ∃ t r, exec .bootSlotAttempt s = .next t ∧ u.keeps [.prs, .lic, .cams] t ∧ t.chip.prs.tried = 1 ∧
        t.chip.prs.staged = none ∧ c.oneRecord t.chip r ∧ r.cause = 0x2B01 ∧
        t.chip.prs.bootlog.extractLsb' (if slot then 8 else 0) 8 = St.eccUncorr) ∧
      (c.prs.tried = 1 → c.lic.wait = [] → c.lic.general < 13 →
        ∃ t a r, exec .bootSlotAttempt s = .next t ∧ t.pending = s.pending ∧ t.die = s.die ∧
        t.chip.prs.ldr = .loader ∧ t.chip.prs.actSlot = none ∧ t.chip.pwr.step = 0 ∧
        t.chip.lic.buf = c.lic.buf ++ [a, r] ∧ r.cause = 0x2B02 ∧
        ∀ n, n < 32 → (vget t.chip.fronds n).st = .safe ∧ (vget t.chip.fronds n).activeOk = false)) ∧
    ∃ t, exec .bootSlotAttempt s = .next t ∧ t.pending = s.pending ∧ t.die = s.die ∧
      ∀ st k n c1 sg st' c2 sg', c.stageSlot s.die slot = (st, k, n, c1) → failed st = false → c1.prs.staged = some sg →
        c1.verifyStaged s.die sg = (st', c2) → failed st' = false → c2.prs.staged = some sg' →
        c2.actCheck Src.unit sg' = none →
        t.chip.prs.ldr = .user ∧ t.chip.prs.actSlot = some sg'.slot ∧ t.chip.pwr.step = 0

/-- POWER_FAIL freezes the core and stops stores, recalls, flash and fuse operations; AUTOSTORE commits every dirty or
in-flight page as the next generation and, while its island is clocked, leaves no record unstored; VCAP_EXHAUSTED ends the
sequence where it stands, the commit records and the committed generation as they were (R312, R358, R373, R383, R384, R434,
R435). In what state a power fail leaves an operation (DEDUCED, log entry 59), that AUTOSTORE is the whole sequence (DESIGN
CHOICE, log entry 60) and how far VCAP_EXHAUSTED lets it come (DESIGN CHOICE, log entry 61) is the model's choice. -/
def Obligations.PowerFailAndAutoStore : Prop :=
  ∀ (s : State) (v : Bool),
    let u : State := { s with chip := s.chip.endSwitch }
    let c := u.chip
    let b := s.chip
    (b.pwr.pgood = true → ∃ t, exec (.powerFail v) s = .next t ∧ t.pending = s.pending ∧ s.die.fusesKept t.die ∧
      (b.sec.op = none → t.die = s.die) ∧ t.chip.pwr.pf = 1 ∧ t.chip.pwr.pgood = false ∧ t.chip.coreOn = false ∧
      t.chip.nvs.store = none ∧ t.chip.nvs.recl = none ∧ t.chip.prs.op = none ∧ t.chip.sec.op = none ∧
      t.chip.clk.switch = none ∧
      t.chip.nvs.dirtyP = b.nvs.dirtyP ∧ t.chip.nvs.flyP = b.nvs.flyP ∧ t.chip.nvs.slots = b.nvs.slots ∧
      t.chip.nvs.gen = b.nvs.gen) ∧
    (c.pwr.pf = 1 → ∃ t, exec .autostore s = .next t ∧ t.pending = s.pending ∧ t.die = s.die ∧ t.chip.pwr.pf = 2 ∧
      (c.islandOn = true → t.chip.lic.unstored = []) ∧
      (c.nvs.dirtyP = 0 → c.nvs.flyP = 0 → c.nvs.dirtyC = 0 → c.nvs.flyC = 0 → t.chip.nvs = c.nvs) ∧
      (c.nvs.dirtyP ||| c.nvs.flyP ≠ 0 → t.chip.nvs.gen = c.nvs.nextGen ∧ t.chip.nvs.dirtyP = 0 ∧ t.chip.nvs.flyP = 0 ∧
        ∃ i, i < 2 ∧ (vget t.chip.nvs.slots i).valid = true ∧ (vget t.chip.nvs.slots i).gen = c.nvs.nextGen ∧
          (vget t.chip.nvs.slots i).kind = 4)) ∧
    (c.pwr.pf = 1 → ∃ t, exec .vcapExhausted s = .next t ∧ u.keeps [.pwr, .lic, .nvs, .freeIx, .mem, .ecc] t ∧
      t.chip.pwr.pf = 2 ∧ t.chip.nvs.slots = c.nvs.slots ∧ t.chip.nvs.gen = c.nvs.gen ∧
      (∀ i, c.islandOn = true → c.nextUnstored = some i → t.chip.nvs = c.nvs ∧ t.chip.mem = c.mem ∧ t.chip.ecc = c.ecc ∧
        t.chip.lic.unstored = c.lic.unstored.erase i)) ∧
    (c.pwr.pf ≠ 1 → exec .autostore s = .next u ∧ exec .vcapExhausted s = .next u)

/-- Sensors: AUX_WARN, a bank's class, the temperature against PWR.TLIM, and VCAP, each with its event; VCAP_LOW also writes
record 0x1C01 (R357, R431, R433, R446). That a row brings what its sensor shows, and which reading sets the event, is the
model's reading (DEDUCED, log entry 62). WARM_RESET holds the core with every output held, its queues empty and no
instruction left to retire, counts what its frames leave partly received and keeps the whole words of the crossings with
their epoch, or is latched during HOLD, with the same counts; WARM_RESET_END resets the held core: queues empty, epoch
advanced and the words of the old epoch discarded, SYS.RSTCAUSE, clock and line time kept; in start-up it has the first slot
tried again. SAFE_N low and high again: the level, and the hold of every output on the rise (R104, R105, R238, R239, R437 to
R439). What lies between WARM_RESET and WARM_RESET_END is the model's reading (DEDUCED, log entry 46). -/
def Obligations.SensorsResetAndSafeBalls : Prop :=
  (∀ (s : State) (b : BitVec 4) (cls : BitVec 2) (temp : BitVec 16),
    let u : State := { s with chip := s.chip.endSwitch }
    let c := u.chip
    c.pwr.pgood = true → b.toNat < 12 →
    (∀ below, ∃ t, exec (.auxWarn below) s = .next t ∧ u.keeps [.pwr] t ∧
      t.chip.pwr = { c.pwr with auxWarn := below, evt := if below then c.pwr.evt ||| 1 else c.pwr.evt }) ∧
    (c.pwr.vio.extractLsb' (2 * b.toNat) 2 ≠ cls → ∃ t, exec (.vioChange b cls) s = .next t ∧ u.keeps [.pwr] t ∧
      t.chip.pwr.vio.extractLsb' (2 * b.toNat) 2 = cls ∧ t.chip.pwr.evt.getLsbD 1 = true ∧
      ∀ j, j < 12 → j ≠ b.toNat → t.chip.pwr.vio.extractLsb' (2 * j) 2 = c.pwr.vio.extractLsb' (2 * j) 2) ∧
    (∃ t, exec (.tempOver temp) s = .next t ∧ u.keeps [.pwr] t ∧ t.chip.pwr.temp = temp ∧
      t.chip.pwr.evt.getLsbD 2 = (c.pwr.evt.getLsbD 2 ||
        (decide (c.pwr.temp.toInt < (c.pwr.tlim.setWidth 16).toInt) && decide ((c.pwr.tlim.setWidth 16).toInt ≤ temp.toInt)))) ∧
    (∃ t, exec .vcapOk s = .next t ∧ u.keeps [.nvs] t ∧ t.chip.nvs = { c.nvs with vcapOk := true }) ∧
    (c.nvs.vcapOk = true → c.lic.room = true →
      ∃ t r, exec .vcapLow s = .next t ∧ u.keeps [.nvs, .lic, .flt] t ∧ t.chip.nvs.vcapOk = false ∧
        t.chip.nvs.evt.getLsbD 9 = true ∧ t.chip.flt.evt.getLsbD 0 = true ∧ c.oneRecord t.chip r ∧ r.cause = 0x1C01)) ∧
  ∀ (s : State) (part : BitVec 3) (cross : List (BitVec 3 × BitVec 128)),
    let u : State := { s with chip := s.chip.endSwitch }
    let c := u.chip
    let empty (e : Chip) : Prop := ∀ k : Queue, (e.queue k).words = [] ∧ (e.queue k).wait = none ∧ (e.queue k).calls = []
    let counted (t : State) : Prop :=
      t.chip.prt.cross = c.prt.cross ++ cross.map (fun e => (e.1.toNat, c.prt.epoch, 0, e.2)) ∧
        ∀ p, p < 3 → vget t.chip.prt.part p
          = if part.getLsbD p then satAdd (vget c.prt.part p) 1 else vget c.prt.part p
    c.pwr.pgood = true →
    (c.pwr.step = 0 → c.clk.st ≠ .hold → c.pwr.held = false →
      ∃ t, exec (.warmReset part cross) s = .next t ∧ t.pending = s.pending ∧ t.die = s.die ∧
        t.chip.pwr = { c.pwr with resetN := false, held := true } ∧ (∀ p, p < 192 → (vget t.chip.pins p).held = true) ∧
        empty t.chip ∧ t.chip.clk = c.clk ∧ t.chip.lt = c.lt ∧ t.chip.mem = c.mem ∧ t.chip.ecc = c.ecc ∧ t.chip.lic = c.lic ∧
        t.chip.dma = c.dma ∧ t.chip.spi = c.spi ∧ t.chip.mgt = c.mgt ∧ t.chip.jtg = c.jtg ∧
        counted t) ∧
    (c.pwr.step = 0 → c.clk.st ≠ .hold → c.pwr.held = true →
      ∃ t, exec (.warmReset part cross) s = .next t ∧ u.keeps [.pwr] t ∧ t.chip.pwr = { c.pwr with resetN := false }) ∧
    (c.pwr.step = 0 → c.clk.st = .hold → ∃ t, exec (.warmReset part cross) s = .next t ∧ u.keeps [.pwr, .prt] t ∧
      t.chip.pwr = { c.pwr with resetN := false, latched := true } ∧ counted t) ∧
    (c.pwr.held = true → c.clk.st ≠ .hold → (∀ e, e ∈ c.prt.cross → e.2.1 = c.prt.epoch) →
      ∃ t, exec .warmResetEnd s = .next t ∧ t.pending = s.pending ∧ t.die = s.die ∧
        t.chip.pwr.held = false ∧ t.chip.pwr.resetN = true ∧ t.chip.pwr.rstcause.extractLsb' 0 3 = 2 ∧
        t.chip.prt.epoch = c.prt.epoch + 1 ∧ t.chip.prt.cross = [] ∧ t.chip.now = c.now ∧ t.chip.clk = c.clk ∧
        t.chip.mem = c.mem ∧ empty t.chip ∧ ∀ n, n < 32 → (vget t.chip.fronds n).st = .safe) ∧
    (c.pwr.held = false → ∃ t, exec .warmResetEnd s = .next t ∧ u.keeps [.pwr, .prs] t ∧
      t.chip.pwr = { c.pwr with resetN := true } ∧
      t.chip.prs = if c.pwr.step ≠ 0 ∧ c.pwr.resetN = false then { c.prs with tried := 0 } else c.prs) ∧
    (c.pwr.safeN = true → ∃ t, exec .safeNFall s = .next t ∧ u.keeps [.pwr, .pins, .banks, .edg] t ∧
      t.chip.pwr = { c.pwr with safeN := false } ∧ ∀ p, p < 192 → (vget t.chip.pins p).held = (vget c.pins p).held) ∧
    (c.pwr.safeN = false → ∃ t, exec .safeNRise s = .next t ∧ u.keeps [.pwr, .pins, .banks, .edg, .fronds] t ∧
      t.chip.pwr = { c.pwr with safeN := true } ∧ ∀ p, p < 192 → (vget t.chip.pins p).held = true)

/-- LIC_DRAIN numbers the oldest entry of the writer and writes its slot, sealed by its CRC, or coalesces a repeat, which
takes no number; a record that waits takes the entry that frees (R374 to R380); LIC_SHADOW_PROGRAM puts an unstored slot
into a shadow cell (R382). How the entries and the waiting records pass each other (DEDUCED, log entry 11) and in which
order the shadow is programmed (DEDUCED, log entry 57) is the model's reading. -/
def Obligations.RecorderDrainsAndStores : Prop :=
  ∀ (s : State),
    let u : State := { s with chip := s.chip.endSwitch }
    let c := u.chip
    c.recorderOn = true →
    let next (r : LicRec) : List LicRec :=
      ((c.lic.wait.find? fun w => r.entry == .general || w.entry == r.entry).map fun w => { w with entry := r.entry }).toList
    (∀ r rest, c.lic.buf = r :: rest → c.repeatSlot r = none →
      ∃ t, exec .licDrain s = .next t ∧ u.keeps [.lic, .mem, .ecc, .flt] t ∧ t.chip.lic.buf = rest ++ next r ∧
        t.chip.lic.next = c.lic.next + 1 ∧
        t.chip.slotBytes (c.lic.next.toNat % 480) = sealRecord (r.body c.lic.next 1 0 0) ∧
        t.chip.lic.evt.getLsbD 0 = true ∧
        (r.cause ≠ 0x0F00 → t.chip.lic.last = c.lic.next ∧ t.chip.lic.pending = true) ∧
        (r.cause = 0x0F00 → t.chip.lic.last = c.lic.last ∧ t.chip.lic.pending = c.lic.pending)) ∧
    (∀ r rest i, c.lic.buf = r :: rest → c.repeatSlot r = some i →
      ∃ t, exec .licDrain s = .next t ∧ u.keeps [.lic, .mem, .ecc, .flt] t ∧ t.chip.lic.buf = rest ++ next r ∧
        t.chip.lic.next = c.lic.next ∧ t.chip.lic.coal = satAdd c.lic.coal 1 ∧ t.chip.lic.pending = true ∧
        t.chip.lic.coalSince = true) ∧
    (∀ i, c.nextUnstored = some i → i < 512 → (∀ k, k < 4 → c.eccAt (slotAddr i + 16 * k) < 2) →
      ∃ t j, exec .licShadowProgram s = .next t ∧ u.keeps [.lic, .flt] t ∧ j < 2 ∧
        t.chip.lic.unstored = c.lic.unstored.erase i ∧ t.chip.lic.prog.getLsbD (2 * i + j) = true ∧
        memBytes 0 t.chip.lic.shadow (64 * (2 * i + j)) 64 = c.slotBytes i ∧ t.chip.lic.buf = c.lic.buf)

/-! ### Clock events (R40 to R45, R51, R53 to R57, R62 to R64, R98, R491) -/

/-- CDR and PLL: CDR_LOCK sets cdr_lock and clears line_lost, CDR_LOSS of the line clears cdr_lock, line_ok and passes (R42)
and takes its port, as that of a peer does, out of UP, at once or on resumption (R98); PLL_LOCK starts LCLK once the CDR is
locked, and LCLK stops at the end of the holdover while it is not (R40). What the island runs on then (DEDUCED, log entry
66) and that CDR_LOSS takes a port out of UP on resumption where the core stands (DEDUCED, log entry 67) is the model's
reading. A qualification window passes with a count from 65,530 to 65,542 and locks throughout; the fourth pass in a row
sets line_ok and in QUALIFYING begins the glitch-free switch to LINE; a window that fails clears passes and line_ok, with
CLK.EVT.drift in LINE (R41, R42, R45). -/
def Obligations.RecoveredClockIsQualified : Prop :=
  (∀ (s : State),
    let u : State := { s with chip := s.chip.endSwitch }
    let c := u.chip
    let leaves (i : Instr) (p : Nat) : Prop := ∃ t r, exec i s = .next t ∧ u.keeps [.clk, .ports, .lt, .lic] t ∧
      (vget t.chip.ports p).st = 1 ∧ (vget t.chip.ports p).evt.getLsbD 1 = true ∧
      (∀ j, j < 3 → j ≠ p → vget t.chip.ports j = vget c.ports j) ∧ t.chip.now = c.now ∧
      c.oneRecord t.chip r ∧ r.cause = 0x1301
    c.pwr.pgood = true →
    (c.clk.lossWait = none → ∃ t, exec .cdrLock s = .next t ∧ u.keeps [.clk] t ∧
      t.chip.clk = { c.clk with cdrLock := true, lineLost := false }) ∧
    (c.clk.cdrLock = true → (vget c.ports 0).st ≠ 2 → ∃ t, exec (.cdrLoss 0) s = .next t ∧ u.keeps [.clk, .ports] t ∧
      t.chip.clk = { c.clk with cdrLock := false, lineOk := false, passes := 0 } ∧
      ∀ p, p < 3 → vget t.chip.ports p = vget c.ports p) ∧
    (c.frozen = false → c.lic.room = true →
      (c.clk.cdrLock = true → (vget c.ports 0).st = 2 → leaves (.cdrLoss 0) 0) ∧
      (∀ p : BitVec 2, p = 1 ∨ p = 2 → (vget c.ports p.toNat).st = 2 → leaves (.cdrLoss p) p.toNat)) ∧
    (∀ p : BitVec 2, p = 1 ∨ p = 2 → c.frozen = true → (vget c.ports p.toNat).st = 2 →
      ∃ t, exec (.cdrLoss p) s = .next t ∧ u.keeps [.ports] t ∧
        vget t.chip.ports p.toNat = { vget c.ports p.toNat with lost := true }) ∧
    (c.clk.cdrLock = true → ∃ t, exec .pllLock s = .next t ∧ u.keeps [.clk] t ∧
      t.chip.clk = { c.clk with pllLock := true, lclk := true }) ∧
    (c.clk.cdrLock = false → exec .pllLock s = .next u ∧ exec (.cdrLoss 0) s = .next u ∧
      ∃ t, exec .pllHoldoverEnd s = .next t ∧ u.keeps [.clk] t ∧
        t.chip.clk = { c.clk with pllLock := false, lclk := false })) ∧
  ∀ (s : State) (n : Nat) (locked : Bool),
    let u : State := { s with chip := s.chip.endSwitch }
    let c := u.chip
    let k := c.clk
    let good := locked && k.cdrLock && k.pllLock && decide (65530 ≤ n) && decide (n ≤ 65542)
    c.pwr.pgood = true → k.xtalOk = true →
    (good = true → k.passes.toNat < 3 → ∃ t, exec (.qualWindowEnd n locked) s = .next t ∧ u.keeps [.clk] t ∧
      t.chip.clk.passes = k.passes + 1 ∧ t.chip.clk.lineOk = k.lineOk ∧ t.chip.clk.st = k.st ∧
      t.chip.clk.windows = k.windows + 1) ∧
    (good = true → k.passes = 3 → k.lineOk = false → k.st = .qualifying → c.pwr.step = 0 → k.switch = none →
      ∃ t, exec (.qualWindowEnd n locked) s = .next t ∧ u.keeps [.clk] t ∧ t.chip.clk.passes = 4 ∧
        t.chip.clk.lineOk = true ∧ t.chip.clk.evt.getLsbD 3 = true ∧ t.chip.clk.st = .qualifying ∧
        t.chip.clk.switch = some ⟨false, true, .line, 0x18, .qualifying, .device, 4⟩) ∧
    (good = false → ∃ t, exec (.qualWindowEnd n locked) s = .next t ∧ u.keeps [.clk] t ∧ t.chip.clk.passes = 0 ∧
      t.chip.clk.lineOk = false ∧ t.chip.clk.st = k.st ∧
      t.chip.clk.evt.getLsbD 2 = (k.evt.getLsbD 2 || k.st == .line))

/-- The loss of the running source enters HOLD: generation, CLK.HOLDS, the hold count at 0, every output held, CLK.EVT, and
a record with the state left; a crystal lost in LINE leaves LINE with its record 0x2103 (R53, R54). During a forced switch
the loss of its old source has its record and the switch goes on; that of its target stops it in HOLD, where its CLK.FORCE
completes CLOCK_HOLD and CLK.EVT.refused sets (R491). During a CLK.SEL whose old clock is still applied the loss of the old
source enters HOLD with the CLK.SEL waiting, and that of the target begins the return to the old source (R51). The end of
HOLD: HOLD_RESUME goes to LINE; AUTO_FALLBACK begins the forced sequence to FALLBACK, whose last clock period ends the HOLD.
Line time advances by the hold count in crystal periods of 640 ticks with the holdover flag, every cam is disarmed and the
extrapolator stops (R56, R57, R61, R62, R273); without a good source HOLD stays. The sequence takes 7 periods, each counted
(log entry 12). -/
def Obligations.HoldBeginsAndEnds : Prop :=
  (∀ (s : State),
    let c := s.chip
    let record (e : Chip) (cause : BitVec 16) (left : ClkState) : Prop :=
      ∃ r, c.oneRecord e r ∧ r.cause = cause ∧ r.ctx.extractLsb' 0 16 = (left.code).setWidth 16
    c.pwr.pgood = true → c.pwr.step = 0 → c.lic.free .clock = true →
    let held (i : Instr) (bit : Nat) (cause : BitVec 16) : Prop :=
      ∃ t, exec i s = .next t ∧ s.keeps [.clk, .pins, .banks, .edg, .lic, .ports] t ∧
        t.chip.clk.st = .hold ∧ t.chip.clk.gen = c.clk.gen + 1 ∧ t.chip.clk.holds = satAdd c.clk.holds 1 ∧
        t.chip.clk.holdCnt = 0 ∧ t.chip.clk.evt.getLsbD bit = true ∧ t.chip.clk.evt.getLsbD 6 = true ∧
        t.chip.clk.switch = none ∧ (∀ p, p < 192 → (vget t.chip.pins p).held = true) ∧
        (t.chip.islandOn = true → record t.chip cause c.clk.st)
    (c.clk.switch = none →
      (c.clk.st = .line → held .lineLoss 0 0x2101) ∧
      (c.clk.xtalRuns = true → (c.clk.st = .qualifying ∨ c.clk.st = .fallback ∨ c.clk.st = .forced) →
        held .xtalLoss 1 0x2102) ∧
      (c.clk.xtalRuns = true → c.clk.st = .line → c.clk.lclk = true → ∃ t, exec .xtalLoss s = .next t ∧
        s.keeps [.clk, .lic] t ∧ t.chip.clk.st = .line ∧ t.chip.clk.gen = c.clk.gen ∧ t.chip.clk.xtalOk = false ∧
        t.chip.clk.evt.getLsbD 1 = true ∧ t.chip.clk.onLclk = true ∧ record t.chip 0x2103 .line) ∧
      (c.clk.st ≠ .line → c.clk.cdrLock = false → ∃ t, exec .lineLoss s = .next t ∧ s.keeps [.clk] t ∧
        t.chip.clk.st = c.clk.st ∧ t.chip.clk.lineLost = true ∧ t.chip.clk.evt.getLsbD 0 = true)) ∧
    (∀ x, c.clk.switch = some x → x.forced = true →
      (x.line = true → c.clk.xtalRuns = true → c.clk.lclk = true → ∃ t, exec .xtalLoss s = .next t ∧ s.keeps [.clk, .lic] t ∧
        t.chip.clk.switch = some x ∧ t.chip.clk.xtalOk = false ∧ record t.chip 0x2102 x.start) ∧
      (x.line = false → c.clk.cdrLock = false → c.clk.xtalRuns = true →
        ∃ t, exec .lineLoss s = .next t ∧ s.keeps [.clk, .lic] t ∧
          t.chip.clk.switch = some x ∧ t.chip.clk.lineLost = true ∧ record t.chip 0x2101 x.start) ∧
      (∀ q w, x.line = true → c.clk.cdrLock = false → c.clk.xtalRuns = true → x.start ≠ .hold → x.into ≠ x.start →
        x.caller = .queue q → (c.queue q).wait = some w → w.kind = .switch →
        ∃ t e, exec .lineLoss s = .next t ∧ Completes q w.f St.clockHold 0 e.lt s e t ∧
          c.keeps [.clk, .pins, .banks, .edg, .lic, .queues] e ∧ e.clk.st = .hold ∧ e.clk.switch = none ∧
          e.clk.gen = c.clk.gen + 1 ∧ e.clk.holdCnt = c.clk.holdCnt ∧ e.clk.evt.getLsbD 5 = true ∧
          (e.queue q).wait = none ∧ record e 0x2101 c.clk.st)) ∧
    (∀ x, c.clk.switch = some x → x.forced = false → 3 ≤ x.left →
      (x.line = false → c.clk.st = .line → held .lineLoss 0 0x2101) ∧
      (x.line = true → c.clk.xtalRuns = true → c.clk.st = .qualifying ∨ c.clk.st = .fallback ∨ c.clk.st = .forced →
        held .xtalLoss 1 0x2102) ∧
      (x.line = true → c.clk.st ≠ .line → c.clk.st ≠ .hold → c.clk.cdrLock = false →
        ∃ t, exec .lineLoss s = .next t ∧ s.keeps [.clk, .pins, .banks, .edg] t ∧
          t.chip.clk.st = c.clk.st ∧ t.chip.clk.gen = c.clk.gen ∧ t.chip.clk.lineLost = true ∧
          t.chip.clk.switch = some ⟨true, false, x.start, 0, c.clk.st, x.caller, 7⟩ ∧
          ∀ p, p < 192 → (vget t.chip.pins p).held = true))) ∧
  ∀ (s : State),
    let total (l : LineTime) : Nat := l.sec.toNat * 16000000000 + l.ticks.toNat
    let resumed (c : Chip) (o : Host.Outcome State Fault Refusal) (st : ClkState) (periods : Nat) : Prop :=
      ∃ t, o = .next t ∧ t.pending = s.pending ∧ t.die = s.die ∧ t.chip.clk.st = st ∧
        t.chip.clk.gen = c.clk.gen + 1 ∧
        total t.chip.lt = (total c.lt + 640 * periods) % (2 ^ 32 * 16000000000) ∧
        t.chip.lt.holdover = true ∧ t.chip.pos.st = (if c.moving then .stopped else c.pos.st) ∧
        (∀ k, k < 32 → (vget t.chip.cams k).armed = false) ∧ t.chip.mem = c.mem ∧ t.chip.fronds = c.fronds
    let quiet (c : Chip) : Prop := c.pwr.pgood = true ∧ c.clk.st = .hold ∧ c.pwr.latched = false ∧
      ∀ q w, (c.queue q).wait = some w → w.kind ≠ .switch
    let u : State := { s with chip := s.chip.endSwitch }
    let c := u.chip
    let n := max c.clk.holdCnt.toNat (25000 * max 1 (field c.clk.policy 8 8))
    (quiet c →
      (c.clk.lineOk = true → c.clk.xtalOk = true → resumed c (exec .holdResume s) .line c.clk.holdCnt.toNat) ∧
      (c.clk.policy.getLsbD 0 = true → c.clk.xtalOk = true → c.clk.lineOk = false → n < 2 ^ 48 →
        ∃ t, exec .autoFallback s = .next t ∧ u.keeps [.clk] t ∧ t.chip.clk = { c.clk with
          holdCnt := BitVec.ofNat 48 n, switch := some ⟨true, false, .fallback, 0x90, .hold, .device, 7⟩ }) ∧
      (c.clk.lineOk = false ∨ c.clk.xtalOk = false → exec .holdResume s = .next u) ∧
      (c.clk.xtalOk = false ∨ c.clk.policy.getLsbD 0 = false → exec .autoFallback s = .next u)) ∧
    ∀ x, s.pending = [] → s.chip.clk.switch = some x → x.forced = true → x.start = .hold → x.caller = .device →
      quiet s.chip → s.chip.pwr.pf = 0 → s.chip.clk.xtalOk = true → s.chip.clk.xtalRuns = true →
      s.chip.clk.policy.getLsbD 1 = false → x.into ≠ .hold → s.chip.clk.holdCnt.toNat + 1 < 2 ^ 48 - 1 →
      (1 < x.left → ∃ t, step s = .next t ∧ s.keeps [.clk] t ∧ t.chip.clk = { s.chip.clk with
        holdCnt := s.chip.clk.holdCnt + 1, switch := some { x with left := x.left - 1 } }) ∧
      (x.left = 1 → resumed s.chip (step s) x.into (s.chip.clk.holdCnt.toNat + 1))

/-! ### Links (R77 to R99, R269, R270, R273) -/

/-- A frame received: on a port that is not UP nothing; else the causes of R79 in their order (code errors, CRC, length and
reserved bits, each counted), and a valid frame takes effect by its type: XOFF and XON set and clear the pause, DATA lands
whole in the receive area, CMD with distance 0 enters its port's queue or is dropped with record 0x1303, one to forward
enters the buffer of an enabled port with one hop less to go, or is dropped (R82 to R84, R97). Sixteen code errors in a
frame take the port out of UP (R98). A frame given as its characters is the frame that they spell: the 8b/10b characters of
a frame have the effect of its fields, whatever the polarity of the receiver, and leave the running disparity behind them
(R72, R73; the code tables are the model's, PRESUMED, log entry 124). A frame of another type under a row is of the type in
its header (DESIGN CHOICE, log entry 70); how a forwarded CMD is counted (DEDUCED, log entry 71), and what becomes of a DATA
frame that is no whole number of words (DESIGN CHOICE, log entry 105), is the model's choice. -/
def Obligations.FramesAreCheckedThenTakeEffect : Prop :=
  (∀ (s : State) (p : BitVec 2) (fr : Frame), s.chip.clk.switch = none → s.chip.coreOn = true → p.toNat < 3 →
    (vget s.chip.ports p.toNat).st = 2 → fr.line = [] → fr.codeErrs = 0 → fr.typ ≠ 0xB5 →
    let x := vget s.chip.ports p.toNat
    let l := frameChars x.rd fr
    let sent := { fr with line := polarity (x.ctrl.getLsbD 1) l }
    let s' := { s with chip := s.chip.modPort p.toNat fun x => { x with rd := l.foldl rdAfter x.rd } }
    exec (.posFrameRx p sent) s = exec (.posFrameRx p fr) s' ∧ exec (.cmdFrameRx p sent) s = exec (.cmdFrameRx p fr) s' ∧
      exec (.dataFrameRx p sent) s = exec (.dataFrameRx p fr) s' ∧ exec (.xoffRx p sent) s = exec (.xoffRx p fr) s' ∧
      exec (.xonRx p sent) s = exec (.xonRx p fr) s') ∧
  ∀ (s : State) (p : BitVec 2) (fr : Frame), fr.line = [] →
    let u : State := { s with chip := s.chip.endSwitch }
    let c := u.chip
    c.coreOn = true → p.toNat < 3 →
    let n := p.toNat
    let x := vget c.ports n
    let good : Prop := x.st = 2 ∧ fr.codeErrs = 0 ∧ frameCrc fr = fr.crc ∧ frameForm fr = true
    let others (t : State) : Prop := ∀ k, k < 3 → k ≠ n → vget t.chip.ports k = vget c.ports k
    let q : Queue := Fin.ofNat 8 (n + 2)
    let dest := bytesNat (fr.payload.take 2)
    let data := fr.payload.drop 4
    let base := 0x60000000 + n * 0x4000 + dest
    (∀ i, i ∈ [Instr.posFrameRx p fr, .cmdFrameRx p fr, .dataFrameRx p fr, .xoffRx p fr, .xonRx p fr] →
      (x.st ≠ 2 → exec i s = .next u) ∧
      (x.st = 2 → fr.codeErrs ≠ 0 → x.errT.length + fr.codeErrs < 16 → ∃ t, exec i s = .next t ∧ u.keeps [.ports] t ∧ others t ∧
        vget t.chip.ports n = { x with
          codeerr := satAdd x.codeerr fr.codeErrs, errT := x.errT ++ List.replicate fr.codeErrs c.now,
          drop := satAdd x.drop 1, evt := x.evt ||| 8 }) ∧
      (x.st = 2 → 16 ≤ fr.codeErrs → c.lic.room = true → ∃ t r, exec i s = .next t ∧ u.keeps [.ports, .lt, .lic] t ∧ others t ∧
        (vget t.chip.ports n).st = 1 ∧ (vget t.chip.ports n).codeerr = satAdd x.codeerr fr.codeErrs ∧
        (vget t.chip.ports n).drop = satAdd x.drop 1 ∧ c.oneRecord t.chip r ∧ r.cause = 0x1301) ∧
      (x.st = 2 → fr.codeErrs = 0 → frameCrc fr ≠ fr.crc → ∃ t, exec i s = .next t ∧ u.keeps [.ports] t ∧ others t ∧
        vget t.chip.ports n = { x with crcerr := satAdd x.crcerr 1, evt := x.evt ||| 4 }) ∧
      (x.st = 2 → fr.codeErrs = 0 → frameCrc fr = fr.crc → frameForm fr = false →
        ∃ t, exec i s = .next t ∧ u.keeps [.ports] t ∧ others t ∧
          vget t.chip.ports n = { x with drop := satAdd x.drop 1, evt := x.evt ||| 8 })) ∧
    (good → fr.typ = 6 → ∃ t, exec (.xoffRx p fr) s = .next t ∧ u.keeps [.ports] t ∧ others t ∧
      (vget t.chip.ports n).xoffRx = true ∧ (vget t.chip.ports n).rxSeq = some fr.seq) ∧
    (good → fr.typ = 7 → ∃ t, exec (.xonRx p fr) s = .next t ∧ u.keeps [.ports] t ∧ others t ∧
      (vget t.chip.ports n).xoffRx = false ∧ (vget t.chip.ports n).rxSeq = some fr.seq) ∧
    (good → fr.typ = 3 → data.length % 16 = 0 → dest % 16 = 0 → dest + data.length ≤ 0x3000 →
      ∃ t, exec (.dataFrameRx p fr) s = .next t ∧ u.keeps [.ports, .mem, .ecc, .flags] t ∧ others t ∧
        (∀ i, i < data.length → memRead 0 t.chip.mem (base + i) = data.getD i 0) ∧
        sameOutside 0 c.mem t.chip.mem base data.length ∧
        (∀ i, 16 * i < data.length → t.chip.eccAt (base + 16 * i) = 0) ∧
        (vget t.chip.ports n).rxlast = natW 0 dest ||| natW 14 (data.length / 16) ∧
        (vget t.chip.ports n).evt = x.evt ||| 0x20) ∧
    (good → fr.typ = 3 → data.length % 16 ≠ 0 ∨ dest % 16 ≠ 0 ∨ 0x3000 < dest + data.length →
      ∃ t, exec (.dataFrameRx p fr) s = .next t ∧ u.keeps [.ports] t ∧ others t ∧
        (vget t.chip.ports n).drop = satAdd x.drop 1) ∧
    (good → fr.typ = 2 → fr.route &&& 7 = 0 →
      ((c.queue q).occupied < 32 → ∃ t, exec (.cmdFrameRx p fr) s = .next t ∧ u.keeps [.ports, .queues] t ∧ others t ∧
        t.chip.queue q = { c.queue q with
          words := (c.queue q).words ++ [BitVec.ofNat 128 (bytesNat fr.payload)] } ∧
        ∀ k, k ≠ q → t.chip.queue k = c.queue k) ∧
      (32 ≤ (c.queue q).occupied → c.lic.room = true →
        ∃ t r, exec (.cmdFrameRx p fr) s = .next t ∧ u.keeps [.ports, .lic] t ∧ others t ∧
          (vget t.chip.ports n).drop = satAdd x.drop 1 ∧ c.oneRecord t.chip r ∧ r.cause = 0x1303)) ∧
    (good → fr.typ = 2 → fr.route &&& 7 ≠ 0 →
      let taker (k : Nat) : Prop := (k = 0 ∧ n ≠ 0 ∨ n = 0 ∧ 0 < k ∧ k < 3 ∧ c.lnkfwd.getLsbD (k + 1) = true) ∧
        (vget c.ports k).st = 2 ∧ (vget c.ports k).fwdBuf.length < 4
      (∀ k, taker k → ∃ t, exec (.cmdFrameRx p fr) s = .next t ∧ u.keeps [.ports] t ∧
        vget t.chip.ports k = { vget c.ports k with
          fwdBuf := (vget c.ports k).fwdBuf ++ [{ fr with route := (fr.route &&& 0xF8) ||| ((fr.route &&& 7) - 1) }] }) ∧
      ((∀ k, ¬ taker k) → ∃ t, exec (.cmdFrameRx p fr) s = .next t ∧ u.keeps [.ports] t ∧ others t ∧
        vget t.chip.ports n = { x.seqSeen fr.seq with drop := satAdd x.drop 1, evt := x.evt ||| 8 }))

/-- A POS frame on the line port gives the extrapolator its model when |v| is below 2^56 and its time lies after the present
model's, else it is refused and counted; it is forwarded to each peer port that forwards, one hop further (R81, R88, R269,
R270). POS_LOST and COAST_LIMIT end TRACKING and COASTING (R81, R273). What is forwarded and its mark (DEDUCED, log entry
72), what becomes of a POS frame not yet sent (DESIGN CHOICE, log entry 105) and the transitions of the extrapolator
(DEDUCED, log entry 74) are the model's reading. -/
def Obligations.PositionModelsComeAndGo : Prop :=
  ∀ (s : State),
    let u : State := { s with chip := s.chip.endSwitch }
    let c := u.chip
    c.coreOn = true →
    (∀ (fr : Frame), fr.line = [] → (vget c.ports 0).st = 2 → fr.codeErrs = 0 → frameCrc fr = fr.crc → frameForm fr = true → fr.typ = 1 →
      let hop : BitVec 3 := fr.route.setWidth 3
      let p0 := BitVec.ofNat 64 (bytesNat (fr.payload.take 8))
      let v := BitVec.ofNat 64 (bytesNat ((fr.payload.drop 8).take 8))
      let ts := ltStamp (BitVec.ofNat 128 (bytesNat (fr.payload.drop 16)))
      let fits := v.toInt.natAbs < 2 ^ 56 ∧ (c.pos.st = .none ∨ 0 < (ts - c.pos.ts).toInt)
      ∃ t, exec (.posFrameRx 0 fr) s = .next t ∧ u.keeps [.ports, .lt, .pos, .cams, .queues] t ∧
        t.chip.lt = { c.lt with hops := hop.setWidth 4 + 1 } ∧ (vget t.chip.ports 0).lastHop = hop ∧
        (fits → t.chip.pos.st = .tracking ∧ t.chip.pos.p0 = p0 ∧ t.chip.pos.v = v ∧ t.chip.pos.ts = ts) ∧
        (¬ fits → t.chip.pos = { c.pos with vrej := satAdd c.pos.vrej 1, evt := c.pos.evt ||| 0x10 }) ∧
        ∀ k, 1 ≤ k → k < 3 → (vget t.chip.ports k).posBuf =
          (if hop ≠ 7 ∧ c.lnkfwd.getLsbD (k - 1) = true ∧ (vget c.ports k).st = 2
            then some { fr with route := (fr.route &&& 7) + 1 } else (vget c.ports k).posBuf)) ∧
    (c.pos.st = .tracking → ∃ t, exec .posLost s = .next t ∧ u.keeps [.pos, .ports] t ∧
      t.chip.pos = { c.pos with st := .coasting } ∧ (vget t.chip.ports 0).evt.getLsbD 8 = true) ∧
    (c.pos.st = .coasting → c.lic.room = true → ∃ t r, exec .coastLimit s = .next t ∧ u.keeps [.pos, .cams, .lic] t ∧
      t.chip.pos.st = .stopped ∧ t.chip.pos.frozenN = c.pos.at c.now ∧ t.chip.pos.frozenQ = c.pos.at (c.now + 256) ∧
      t.chip.pos.evt.getLsbD 1 = true ∧
      (∀ n, n < 32 → (vget t.chip.cams n).armed = ((vget c.cams n).armed && !c.pos.cfg.getLsbD 8)) ∧
      c.oneRecord t.chip r ∧ r.cause = 0x1602) ∧
    (c.pos.st ≠ .coasting → exec .coastLimit s = .next u)

/-- A port's transmitter and state: the forwarded POS frame leaves, marked late when it is, the oldest forwarded CMD frame
leaves unless XOFF pauses the port, a SYNC_REQ is answered with its times, a POS frame ahead of an answer and both ahead of
a CMD frame (R83, R87, R88, R91, R97); characters that train the receiver end TRAINING; the code errors of characters
outside frames count, and 16 within 4,096 characters return the port to TRAINING with record 0x1301 (R72, R96, R98). Which
characters are code errors and which train a receiver is the model's reading of 8b/10b (PRESUMED, log entry 124). -/
def Obligations.PortsForwardAnswerAndTrain : Prop :=
  ∀ (s : State) (p : BitVec 2),
    let u : State := { s with chip := s.chip.endSwitch }
    let c := u.chip
    c.coreOn = true → p.toNat < 3 →
    let n := p.toNat
    let x := vget c.ports n
    let others (t : State) : Prop := ∀ k, k < 3 → k ≠ n → vget t.chip.ports k = vget c.ports k
    (∀ fr late, x.st = 2 → x.posBuf = some fr →
      ∃ t, exec (.posForward p late) s = .next t ∧ u.keeps [.ports] t ∧ others t ∧
        vget t.chip.ports n = { x with
          posBuf := none, txSeq := x.txSeq + 1,
          sent := some (frameOf 1 (if late then fr.route ||| 0x40 else fr.route) x.txSeq fr.payload),
          latefwd := if late then satAdd x.latefwd 1 else x.latefwd,
          evt := if late then x.evt ||| 0x80 else x.evt }) ∧
    (∀ fr r, x.st = 2 → x.xoffRx = false → x.posBuf = none → x.rsp = [] → x.fwdBuf = fr :: r →
      ∃ t, exec (.cmdForward p) s = .next t ∧ u.keeps [.ports] t ∧ others t ∧
        vget t.chip.ports n = { x with
          fwdBuf := r, txSeq := x.txSeq + 1, sent := some (frameOf 2 fr.route x.txSeq fr.payload) }) ∧
    (x.xoffRx = true ∨ x.posBuf ≠ none ∨ x.rsp ≠ [] → exec (.cmdForward p) s = .next u) ∧
    (∀ t3, x.posBuf ≠ none → exec (.syncRspTx p t3) s = .next u) ∧
    (∀ t1 t2 r t3, x.st = 2 → x.posBuf = none → x.rsp = (t1, t2) :: r →
      ∃ t fr, exec (.syncRspTx p t3) s = .next t ∧ u.passes [.ports] t ∧ others t ∧
        vget t.chip.ports n = { x with rsp := r, txSeq := x.txSeq + 1, sent := some fr } ∧ fr.typ = 5 ∧ fr.seq = x.txSeq ∧
        fr.payload = t1 ++ c.ltBytes t2 ++ c.ltBytes t3) ∧
    (∀ chars, (∀ rd, x.st = 1 → trainedOn (polarity (x.ctrl.getLsbD 1) chars) = some rd →
        ∃ t, exec (.linkUp p chars) s = .next t ∧ u.keeps [.ports, .syncT1, .syncDue] t ∧ others t ∧
          (vget t.chip.ports n).st = 2 ∧ (vget t.chip.ports n).rxSeq = none ∧ (vget t.chip.ports n).rd = rd ∧
          (vget t.chip.ports n).errT = [] ∧ (vget t.chip.ports n).evt.getLsbD 0 = true) ∧
      (x.st ≠ 1 ∨ trainedOn (polarity (x.ctrl.getLsbD 1) chars) = none → exec (.linkUp p chars) s = .next u)) ∧
    ∀ chars at_,
      let e := (Ear.quiet x.rd).hearAll 0 (polarity (x.ctrl.getLsbD 1) chars)
      let k := e.errs.length
      (x.st ≠ 0 → x.st ≠ 2 ∨ x.errT.length + k < 16 →
        ∃ t, exec (.linkCodeErrors p chars at_) s = .next t ∧ u.keeps [.ports] t ∧ others t ∧
          vget t.chip.ports n = { x with
            codeerr := satAdd x.codeerr k, rd := e.rd, errT := (vget t.chip.ports n).errT }) ∧
      (x.st = 2 → 16 ≤ k → chars.length ≤ 4096 → c.lic.room = true →
        ∃ t r, exec (.linkCodeErrors p chars at_) s = .next t ∧ u.keeps [.ports, .lt, .lic] t ∧ others t ∧
          (vget t.chip.ports n).st = 1 ∧ (vget t.chip.ports n).codeerr = satAdd x.codeerr k ∧
          (vget t.chip.ports n).evt.getLsbD 1 = true ∧ (p = 0 → t.chip.lt.aligned = false) ∧
          c.oneRecord t.chip r ∧ r.cause = 0x1301) ∧
      (x.st = 0 → exec (.linkCodeErrors p chars at_) s = .next u)

/-- SYNC exchanges: a request begins one on the line port, a peer port keeps a received one to answer it, and the response
that echoes t1 within 8 us gives theta and delay (R91, R92), which slew line time, or step it above 1,600 ticks (R93); the
timeouts end the exchange and aligned; SLEW_STEP adds 65 or 63 ticks (R94); LT_SECOND_ROLLOVER carries line time to the next
second. -/
def Obligations.SyncExchangesAlignLineTime : Prop :=
  ∀ (s : State) (fr : Frame) (at_ : BitVec 64),
    let u : State := { s with chip := s.chip.endSwitch }
    let c := u.chip
    let total (l : LineTime) : Nat := l.sec.toNat * 16000000000 + l.ticks.toNat
    c.coreOn = true →
    let good : Prop := fr.line = [] ∧ fr.codeErrs = 0 ∧ frameCrc fr = fr.crc ∧ frameForm fr = true
    let stampAt (k : Nat) : BitVec 64 := ltStamp (BitVec.ofNat 128 (bytesNat ((fr.payload.drop k).take 16)))
    (∀ p : BitVec 2, p = 1 ∨ p = 2 → (vget c.ports p.toNat).st = 2 → good → fr.typ = 4 →
      ∃ t, exec (.syncReqRx p fr at_) s = .next t ∧ u.passes [.ports] t ∧
        (vget t.chip.ports p.toNat).rsp = (vget c.ports p.toNat).rsp ++ [(fr.payload, at_)]) ∧
    (∀ t1, (vget c.ports 0).st = 2 → good → fr.typ = 5 → c.syncT1 = some t1 → t1 = stampAt 0 → c.now = at_ →
      (at_ - t1).toInt ≤ 128000 → c.lt.alignEn = true →
      let up := stampAt 16 - t1
      let down := at_ - stampAt 32
      let asym : BitVec 64 := ((vget c.ports 0).asym.setWidth 16).signExtend 64
      let theta := (up - down - asym).sdiv 2
      let at0 (t : State) : Prop := t.chip.syncT1 = none ∧ (vget t.chip.ports 0).offset = offsetWord theta ∧
        (vget t.chip.ports 0).delay = ((up + down - asym).sdiv 2).setWidth 32 ∧ t.chip.lt.aligned = true ∧
        t.chip.lt.source = 1 ∧ t.chip.lt.holdover = false
      (theta.toInt.natAbs ≤ 1600 → ∃ t, exec (.syncRspRx 0 fr at_) s = .next t ∧ u.keeps [.ports, .lt, .syncT1] t ∧ at0 t ∧
        t.chip.now = c.now ∧ t.chip.lt.slew = theta.setWidth 32 ∧ t.chip.lt.interval = 157) ∧
      (1600 < theta.toInt.natAbs → c.lic.room = true → ∃ t r, exec (.syncRspRx 0 fr at_) s = .next t ∧
        u.keeps [.ports, .lt, .syncT1, .pos, .cams, .queues, .pins, .lic] t ∧ at0 t ∧
        (total t.chip.lt : Int) = ((total c.lt : Int) + theta.toInt) % (2 ^ 32 * 16000000000) ∧
        t.chip.lt.slew = 0 ∧ (vget t.chip.ports 0).evt.getLsbD 4 = true ∧ c.oneRecord t.chip r ∧ r.cause = 0x1302)) ∧
    ((vget c.ports 0).st = 2 → c.syncper &&& 0xFFFF ≠ 0 →
      ∃ t f', exec (.syncPeriod at_) s = .next t ∧ u.passes [.ports, .syncT1] t ∧ t.chip.syncT1 = some at_ ∧
        (vget t.chip.ports 0).sent = some f' ∧ f'.typ = 4 ∧ f'.payload = c.ltBytes at_) ∧
    (c.syncper &&& 0xFFFF = 0 → exec (.syncPeriod at_) s = .next u) ∧
    (c.syncT1 ≠ none → ∃ t, exec .syncTimeout s = .next t ∧ u.keeps [.ports, .syncT1] t ∧ t.chip.syncT1 = none ∧
      (vget t.chip.ports 0).evt.getLsbD 6 = true) ∧
    (c.syncper &&& 0xFFFF ≠ 0 → ∃ t, exec .alignedTimeout s = .next t ∧ u.keeps [.lt] t ∧
      t.chip.lt = { c.lt with aligned := false }) ∧
    (c.lt.slew ≠ 0 → ∃ t, exec .slewStep s = .next t ∧ u.passes [] t ∧
      (0 < c.lt.slew.toInt → total t.chip.lt = (total c.lt + 65) % (2 ^ 32 * 16000000000) ∧
        t.chip.lt.slew = c.lt.slew - 1) ∧
      (c.lt.slew.toInt < 0 → total t.chip.lt = (total c.lt + 63) % (2 ^ 32 * 16000000000) ∧
        t.chip.lt.slew = c.lt.slew + 1)) ∧
    (c.lt.sec.toNat < 1000000000 → c.lt.ticks.toNat < 16000000000 →
      ∃ t, exec .ltSecondRollover s = .next t ∧ u.passes [] t ∧ t.chip.lt.sec = c.lt.sec + 1 ∧
        t.chip.lt.ticks = 0 ∧ t.chip.pulses.getLsbD 45 = true)

/-! ### Cam events (R269 to R284) -/

/-- The crossing test of R278: a window of positive length crosses angle b forward at the first position after its start,
and at or before its end, whose low 32 bits are b; one of negative length crosses it backwards at the first such position
from its start on that lies above its end. -/
def Obligations.WindowsCrossAnglesInTheirDirection : Prop :=
  ∀ (prev now x : BitVec 64) (b : Word),
    (crossFwd prev now b = some x ↔
      0 < (now - prev).toInt ∧ x.setWidth 32 = b ∧ 1 ≤ (x - prev).toNat ∧ (x - prev).toNat ≤ 2 ^ 32 ∧
        ((x - prev).toNat : Int) ≤ (now - prev).toInt) ∧
    (crossRev prev now b = some x ↔
      (now - prev).toInt < 0 ∧ x.setWidth 32 = b ∧ (prev - x).toNat < 2 ^ 32 ∧
        ((prev - x).toNat : Int) < -(now - prev).toInt)

/-- CAM_FIRE: an armed cam fires for the first crossing of its window and keeps the others waiting (R281); the firing
latches X, writes CAM.LAST with the event time, counts, and drives its source (R279, R280, R282). CAM_DELAYED_FIRING fires
the oldest waiting crossing when the cam's own window crosses nothing. Where a row that names a time places line time and
the window (DESIGN CHOICE, log entry 6), how one firing in a clock period is remembered (DESIGN CHOICE, log entry 76) and
when a table entry is corrected (DEDUCED, log entry 77) is the model's choice. CAM_BOUNDARY: in the cc whose window crosses
angle 0 forward every pending offset is added to its cam's offset and cleared, whose generation advances once in that cc,
and the cam tests the new offset from the window of that cc on, which in the cc of a discontinuity starts where R274 has it
start; S44 is high (R131, R284); HYSTERESIS_LATCH_EMPTY empties a latch once the cam lies hyst x 256 or more from the
latched X (R279). Where the window of that cc starts is the model's choice (DESIGN CHOICE, log entry 6). -/
def Obligations.CamsFireForTheirCrossings : Prop :=
  (∀ (s : State) (n : BitVec 5) (at_ : BitVec 64),
    let u : State := { s with chip := s.chip.endSwitch }
    let c := u.chip
    c.coreOn = true →
    let i := n.toNat
    let a := c.advance at_
    let q := a.look.getD 0
    let k := vget c.cams i
    let w := k.release q
    let fires (inst : Instr) (x : Crossing) (rest : List Crossing) (delayed : Bool) : Prop :=
      ∃ t, exec inst s = .next t ∧ u.keeps [.lt, .pulses, .scr, .cams, .pos, .flags, .pins, .edg, .lic] t ∧ t.chip.lt = a.lt ∧
        t.chip.pulses.getLsbD i = true ∧ (∀ j, j < 32 → j ≠ i → vget t.chip.cams j = vget c.cams j) ∧
        (vget t.chip.cams i).latch = some x.x ∧ (vget t.chip.cams i).fire = satAdd k.fire 1 ∧
        (vget t.chip.cams i).waiting = rest ∧ (vget t.chip.cams i).armed = true ∧
        (vget t.chip.cams i).last.extractLsb' 0 64 = c.pos.eventTime x.x k.offset x.fwd a.now ∧
        (vget t.chip.cams i).last.getLsbD 78 = delayed ∧
        (vget t.chip.cams i).coll = (if delayed then satAdd k.coll 1 else k.coll) ∧
        t.chip.pos = (if delayed then { a.pos with evt := a.pos.evt ||| 4 } else a.pos)
    (k.armed = false → exec (.camFire n at_) s = .next u ∧ exec (.camDelayedFiring n at_) s = .next u) ∧
    (k.armed = true → k.firedNow at_ = false → (∀ b, b ∈ k.table → b.ecc = 0) →
      (∀ x r, c.moving = true → w.crossings q = x :: r → k.waiting.length + r.length ≤ 8 →
        fires (.camFire n at_) x (k.waiting ++ r) false) ∧
      (c.moving = true → w.crossings q = [] → exec (.camFire n at_) s = .next u) ∧
      (∀ x r, c.moving = true → w.crossings q = [] → k.waiting = x :: r → k.latch ≠ some x.x →
        fires (.camDelayedFiring n at_) x r true) ∧
      (k.waiting = [] → exec (.camDelayedFiring n at_) s = .next u))) ∧
  ∀ (s : State) (n : BitVec 5) (at_ : BitVec 64),
    let u : State := { s with chip := s.chip.endSwitch }
    let c := u.chip
    c.coreOn = true →
    let a := c.advance at_
    let q := a.look.getD 0
    let k := vget c.cams n.toNat
    (∀ x, c.moving = true → crossFwd c.pos.bndQ q 0 = some x →
      ∃ t, exec (.camBoundary at_) s = .next t ∧ u.passes [.cams, .pos, .memo] t ∧ t.chip.lt = a.lt ∧
        t.chip.pos = { a.pos with bndQ := q } ∧ t.chip.pulses.getLsbD 44 = true ∧
        ∀ j, j < 32 →
          let m := vget c.cams j
          vget t.chip.cams j = if m.pend = 0 then m else
            { m with
              off := m.off + m.pend
              pend := 0
              gen := if a.memo.cams.getLsbD j then m.gen else m.gen + 1
              prevQ := if m.prevQ = q then q else match a.pos.jump with
                | some d => d.start
                | none => c.pos.at (a.now + 256 - BitVec.ofNat 64 a.lt.len) }) ∧
    (c.moving = false ∨ crossFwd c.pos.bndQ q 0 = none → exec (.camBoundary at_) s = .next u) ∧
    (∀ x, c.pos.st ≠ .none → k.latch = some x →
      (field k.cfg 0 16 * 256 ≤ (q - k.offset - x).toInt.natAbs →
        ∃ t, exec (.hysteresisLatchEmpty n at_) s = .next t ∧ u.passes [.cams] t ∧
          vget t.chip.cams n.toNat = { k with latch := none } ∧
          ∀ j, j < 32 → j ≠ n.toNat → vget t.chip.cams j = vget c.cams j) ∧
      ((q - k.offset - x).toInt.natAbs < field k.cfg 0 16 * 256 → exec (.hysteresisLatchEmpty n at_) s = .next u))

/-! ### Edges and captures at the pins (R250 to R267) -/

/-- EDGE_PLACE: the next transition of a released pin falls at its time less the board delay, at step 0 when that has passed
and 16 ticks after the pin's last transition at the earliest, in a cc of 63 ticks at one of 63 steps; a delay counts in
EDG.LATE with its event, but not the spill of a cc of 65 ticks (R250, R256 to R258). Line time reaches the cc of the edge
through the cc of a glitch-free switch in flight. A pulse then has its trailing edge pending. Later edges, other pins and
forced pins stay. That a pulse of a late edge keeps its width (DEDUCED, log entry 78) and that the spacing is judged between
edges of one pin (DEDUCED, log entry 80) is the model's reading. The background calibration marks the idle pin whose turn it
is, bank by bank in order, and ends a pass of a bank with its last one, its residual a free value (log entry 2);
CAL_STEP_UPDATE locks the replica; cal_ok then says that the bank is locked with every pin measured (R251 to R253). Without
bg_en nothing happens. In which order the pins are measured is the model's reading (DEDUCED, log entry 84). -/
def Obligations.EdgesFallAndCalibrationRuns : Prop :=
  (∀ (s : State) (p : BitVec 8) (at_ : BitVec 64),
    let u : State := { s with chip := if s.chip.clk.switching then s.chip else s.chip.endSwitch }
    let c := u.chip
    c.coreOn = true → c.epuPin p.toNat = true →
    let n := p.toNat
    let a := c.reach at_
    let x := vget a.pins n
    (c.clk.switching = false → a = c.advance at_) ∧
    (c.forced n = true → exec (.edgePlace p at_) s = .next u) ∧
    (c.forced n = false → x.bedges = [] → ∀ r e, x.q = [r] → r.edge = some e →
      let due := (e.t - x.delay - a.now).toInt
      let free := match x.lastT with
        | some l => if (l - a.now).toInt ≤ 64 then (l + 16 - a.now).toInt else 0
        | none => 0
      let fall := max (max due free) 0
      let spill : Int := if a.lt.len = 65 then -1 else 0
      let steps := min 64 a.lt.tick.len
      let late := e.late || decide (due < spill) || decide (0 < fall ∧ due < fall)
      let ball := a.now + BitVec.ofInt 64 fall
      (steps ≤ fall → exec (.edgePlace p at_) s = .next u) ∧
      (fall < steps → ∃ t, exec (.edgePlace p at_) s = .next t ∧ State.keeps [.pins, .edg] { u with chip := a } t ∧
        (∀ j, j < 192 → j ≠ n → vget t.chip.pins j = vget a.pins j) ∧
        vget t.chip.pins n = { x with
          lvl := e.lvl
          lastT := some ball
          q := match e.trail with
            | none => []
            | some w => [{ r with edge := some ⟨ball + x.delay + w.1, w.2, false, none⟩ }] } ∧
        t.chip.edg = if late then { a.edg with late := satAdd a.edg.late 1, evt := a.edg.evt ||| 1 } else a.edg))) ∧
  ∀ (s : State) (p : BitVec 8) (b : BitVec 4),
    let u : State := { s with chip := s.chip.endSwitch }
    let c := u.chip
    c.coreOn = true → p.toNat < 192 → b.toNat < 12 →
    let n := p.toNat
    let turn : Prop := (vget c.pins n).idle = true ∧
      ∀ i, i < (n + 192 - c.edg.calNext % 192) % 192 → (vget c.pins ((c.edg.calNext + i) % 192)).idle = false
    let ok (t : Chip) (k : Nat) : Bool :=
      (vget t.banks k).lock && (List.range 16).all fun i => (vget t.pins (16 * k + i)).measured
    (c.edg.calctrl.getLsbD 0 = false → exec (.calPinMeasure p) s = .next u ∧ exec (.calStepUpdate b) s = .next u) ∧
    (c.edg.calctrl.getLsbD 0 = true →
      (¬ turn → exec (.calPinMeasure p) s = .next u) ∧
      (turn → ∃ t, exec (.calPinMeasure p) s = .next t ∧ u.keeps [.pins, .banks, .edg, .freeIx] t ∧
        t.chip.edg = { c.edg with calNext := (n + 1) % 192 } ∧
        (∀ j, j < 192 → vget t.chip.pins j = if j = n then { vget c.pins n with measured := true } else vget c.pins j) ∧
        (∀ k, k < 12 → (vget t.chip.banks k).calOk = ok t.chip k) ∧
        ((∀ i, n % 16 < i → i < 16 → (vget c.pins (n / 16 * 16 + i)).idle = false) →
          (vget t.chip.banks (n / 16)).passes = (vget c.banks (n / 16)).passes + 1) ∧
        ((∃ i, n % 16 < i ∧ i < 16 ∧ (vget c.pins (n / 16 * 16 + i)).idle = true) →
          (vget t.chip.banks (n / 16)).passes = (vget c.banks (n / 16)).passes)) ∧
      ∃ t, exec (.calStepUpdate b) s = .next t ∧ u.keeps [.banks] t ∧ (vget t.chip.banks b.toNat).lock = true ∧
        ∀ k, k < 12 → (vget t.chip.banks k).calOk = ok t.chip k ∧
          (k ≠ b.toNat → (vget t.chip.banks k).lock = (vget c.banks k).lock))

/-- CAPTURE_EDGE: a selected edge is stamped less the board delay and enters its bank's FIFO with the next sequence number,
unless the TCU is blind for 8 cc after a stamp (counted in CAP.RATE) or the FIFO is full (dropped, counted in CAP.OVF, with
the gap of the next record); in HOLD, and while a forced switch has CCLK gated, it only counts (R262, R263, R267). A switch
in flight goes on to the cc of the edge. CAPTURE_RAM_WRITE moves the oldest record of the next bank with one to the ring,
and nothing while the ring is full (R264, R266). -/
def Obligations.CapturesReachTheRing : Prop :=
  (∀ (s : State) (p : BitVec 8) (up : Bool) (at_ : BitVec 64), p.toNat < 192 →
    let c := if s.chip.clk.switching || s.chip.inGap at_ then s.chip else s.chip.endSwitch
    let n := p.toNat
    let b := n / 16
    let a := (c.padEdge n up).reach at_
    let x := vget a.pins n
    let k := vget a.banks b
    let blind : Prop := ∃ l, x.blind = some l ∧ 0 ≤ (at_ - l).toInt ∧ (at_ - l).toInt < 512
    let others (t : State) : Prop := ∀ j, j < 12 → j ≠ b → vget t.chip.banks j = vget a.banks j
    let from_ (ps : List Part) (t : State) : Prop := State.keeps ps { s with chip := a } t
    (c.coreOn = true → c.frozen = false → c.absent n = false → x.tcu.getLsbD (if up then 0 else 1) = true →
      (¬ blind → k.fifo.length < 16 → ∃ t w, exec (.captureEdge p up at_) s = .next t ∧
        from_ [.pulses, .pins, .banks, .flags] t ∧ others t ∧
        vget t.chip.banks b = { k with fifo := k.fifo ++ [w], seq := k.seq + 1, gap := false } ∧
        w.extractLsb' 0 64 = at_ - x.delay ∧ w.extractLsb' 64 8 = p ∧ w.getLsbD 72 = up ∧ w.getLsbD 75 = k.gap ∧
        w.extractLsb' 80 16 = k.seq + 1 ∧ (vget t.chip.pins n).cap = some (at_ - x.delay, up) ∧
        t.chip.pulses.getLsbD (32 + b) = true) ∧
      (¬ blind → 16 ≤ k.fifo.length → ∃ t, exec (.captureEdge p up at_) s = .next t ∧
        from_ [.pulses, .pins, .banks, .edg] t ∧ others t ∧
        vget t.chip.banks b = { k with gap := true, ovf := satAdd k.ovf 1 } ∧ (vget t.chip.pins n).cap = x.cap) ∧
      (blind → ∃ t, exec (.captureEdge p up at_) s = .next t ∧ from_ [.pulses, .pins, .banks, .edg] t ∧ others t ∧
        vget t.chip.banks b = { k with rate := satAdd k.rate 1 } ∧ (vget t.chip.pins n).cap = x.cap)) ∧
    (c.pwr.pgood = true → c.pwr.pf = 0 → c.frozen = true → c.absent n = false →
      (vget c.pins n).tcu.getLsbD (if up then 0 else 1) = true → (vget c.banks b).holdCtr ≠ 255 →
      ∃ t, exec (.captureEdge p up at_) s = .next t ∧ State.keeps [.pins, .banks] { s with chip := c } t ∧
        (∀ j, j < 12 → j ≠ b → vget t.chip.banks j = vget c.banks j) ∧
        vget t.chip.banks b = { vget c.banks b with holdCtr := (vget c.banks b).holdCtr + 1 })) ∧
  ∀ (s : State) (b : Nat), b < 12 →
    let u : State := { s with chip := s.chip.endSwitch }
    let c := u.chip
    let k := vget c.banks b
    ∀ w r, c.coreOn = true → c.nextBank = some b → k.fifo = w :: r →
      (c.edg.wptr - c.edg.rptr = 16384 → ∃ t, exec .captureRamWrite s = .next t ∧ u.keeps [.edg] t ∧
        t.chip.edg.wptr = c.edg.wptr) ∧
      (c.edg.wptr - c.edg.rptr ≠ 16384 → ∃ t, exec .captureRamWrite s = .next t ∧
        u.keeps [.edg, .mem, .ecc, .banks] t ∧ (∀ j, j < 12 → j ≠ b → vget t.chip.banks j = vget c.banks j) ∧
        vget t.chip.banks b = { k with fifo := r } ∧
        t.chip.edg.wptr = c.edg.wptr + 1 ∧
        t.chip.getWord (0x20000000 + 16 * (c.edg.wptr.toNat % 16384)) = w ∧
        sameOutside 0 c.mem t.chip.mem (0x20000000 + 16 * (c.edg.wptr.toNat % 16384)) 16)

/-! ### Scrubbing, repair and the IRP (R328 to R340, R426) -/

/-- A request of the IRP, on a rising strobe of the lines that the master frond drives: STAGE, SWAP, SAFE and CALL put their
word of Table CHG-2 in Q6 with an acknowledge, STATUS answers at once with done; a reserved op, an empty group or a full Q6
is rejected and counted. Without a rising strobe, with the IRP off, in the cc after a change of the master frond, or with
lines that the master frond does not drive, nothing happens (R329, R330, R332). -/
def Obligations.IrpRequestsEnterQ6 : Prop :=
  ∀ (s : State) (lines : BitVec 16),
    let u : State := { s with chip := s.chip.endSwitch }
    let c := u.chip
    let m := vget c.scr.irpGrp (field lines 7 4)
    let ins (ext : Byte) (tgt : BitVec 32) (op : BitVec 64) := irpInsn lines ext tgt op
    let on : Prop := c.scr.irpEn = true ∧ lines.getLsbD 0 = true ∧ c.scr.lines.getLsbD 0 = false ∧ c.scr.hush = false ∧
      lines = c.masterLines
    let enters (i : Instr) (w : QWord) : Prop := ∃ t, exec i s = .next t ∧ u.keeps [.queues, .scr] t ∧
      t.chip.queue 6 = { c.queue 6 with words := (c.queue 6).words ++ [w] } ∧ (∀ j, j ≠ 6 → t.chip.queue j = c.queue j) ∧
      t.chip.scr = { c.scr with ack := true, lines := lines }
    c.coreOn = true →
    (on → c.freeSlots 6 ≠ 0 →
      (m ≠ 0 → field lines 1 3 = 1 →
        enters (.irpStage lines) (encodeWord 0x94 (ins 0 (natW 0 (field lines 4 3)) (m.setWidth 64)))) ∧
      (m ≠ 0 → field lines 1 3 = 2 → lines.getLsbD 11 = false →
        enters (.irpSwap lines) (encodeWord 0x24 (ins 0 0 (m.setWidth 64)))) ∧
      (m ≠ 0 → field lines 1 3 = 2 → lines.getLsbD 11 = true → enters (.irpSwap lines) (encodeWord 0x25 (ins 1 m 0))) ∧
      (m ≠ 0 → field lines 1 3 = 3 → enters (.irpSafe lines) (encodeWord 0x22 (ins 0 0 (m.setWidth 64)))) ∧
      (m ≠ 0 → field lines 1 3 = 4 →
        let r := c.irpSummary lines
        (r.getLsbD 0 = true ↔ ∀ n, n < 32 → m.getLsbD n = true → (vget c.fronds n).st = .run) ∧
        (r.getLsbD 1 = true ↔ ∃ n, n < 32 ∧ m.getLsbD n = true ∧ (vget c.fronds n).st = .safe) ∧
        ∃ t, exec (.irpStatus lines) s = .next t ∧ u.keeps [.scr] t ∧
          t.chip.scr = (if c.scr.done = true ∨ c.scr.resps ≠ [] then
              { c.scr with ack := true, lines := lines, resps := c.scr.resps ++ [r] }
            else { c.scr with ack := true, lines := lines, done := true, irpResp := r })) ∧
      (field lines 1 3 = 5 →
        enters (.irpCall lines) (encodeWord 0x05 (ins 0 (vget c.scr.irpRt (field lines 7 4)) 0)))) ∧
    (∀ i, i ∈ [Instr.irpStage lines, .irpSwap lines, .irpSafe lines, .irpStatus lines, .irpCall lines] →
      (on → c.freeSlots 6 = 0 ∨ (m = 0 ∧ field lines 1 3 ≠ 5) ∨ field lines 1 3 ∈ [0, 6, 7] →
        ∃ t, exec i s = .next t ∧ u.keeps [.scr] t ∧ t.chip.scr = { c.scr with
          reject := true, irpRej := satAdd c.scr.irpRej 1, evt := c.scr.evt ||| 0x10, lines := lines }) ∧
      (¬ on → exec i s = .next u))

/-! ### Reset values, words -/

/-- Registers read at reset as the reset column of their tables says; every queue, ring and transaction is empty, every
frond SAFE, every cam disarmed and every channel idle. -/
def Obligations.ResetLeavesTheTablesValues : Prop :=
  (∀ e, e ∈ [((0x00000000 : Nat), (0x48400002 : Word)), (0x00010000, 0), (0x00010004, 0x0A06), (0x00020000, 0x3E8),
      (0x00020100, 1), (0x00020200, 0), (0x00040000, 1), (0x00040004, 0x0820), (0x00050034, 0), (0x00060000, 0x24840A73),
      (0x00080004, 0x1A14), (0x00080020, 0x40), (0x00080040, 0x40), (0x00090100, 0xAAAAAAAA), (0x00090180, 0),
      (0x00090184, 0xFFFFFFFF), (0x000A0000, 0x4000), (0x000A1440, 1), (0x000B0000, 0), (0x000C0004, 0x00180120),
      (0x000C0044, 0x8000), (0x000C0104, 0x100), (0x000D0000, 0), (0x000E0080, 0x30000000), (0x000E0100, 1),
      (0x000F0008, 0x8800), (0x00100010, 0), (0x00110000, 0x03800000), (0x00120018, 0), (0x00130014, 0x640),
      (0x00140004, 0)] →
    (State.reset.chip.readReg Die.reset (Src.ofQueue 0) e.1).map (·.1) = some e.2) ∧
  State.reset.pending = [] ∧ State.reset.chip.mem = [] ∧
  (∀ q : Queue, (State.reset.chip.queue q).words = [] ∧ (State.reset.chip.queue q).halted = false ∧
    (State.reset.chip.queue q).rnext = 0x40 ∧ (State.reset.chip.queue q).txn = none) ∧
  (∀ n, n < 32 → (vget State.reset.chip.fronds n).st = .safe ∧ (vget State.reset.chip.cams n).armed = false) ∧
  ∀ k, k < 12 → (vget State.reset.chip.dma k).st = .idle

/-- The encoding of Table IMD-1 loses nothing: a well-formed instruction's word decodes to the instruction, on its own queue
and with every field, and a word that decodes to a command is that command's word (R145). -/
def Obligations.DecodeOfEncodeIsTheCommand : Prop :=
  (∀ (i : Instr) (q : Queue) (o : OpInfo) (f : Insn), i.insn? = some (q, o, f) → i.wellFormed = true →
    ∃ w, encode i = some w ∧ decodeWord q w = some i) ∧
  ∀ (q : Queue) (w : QWord) (i : Instr), decodeWord q w = some i →
    encode i = some w ∧ ∃ o f, i.insn? = some (q, o, f) ∧ w.extractLsb' 120 8 = o.code

/-! ### What every step keeps (R34, R35, R100, R165) -/

/-- Whatever command a step runs, and when none waits: the two lists that hold memory and its check bits stay in their
canonical form, the ticks of line time stay below the 16,000,000,000 of a second (R100), no queue ever holds more than its
slots (R35), and a transaction that a queue holds is an open context of its own, and a frond or a cam that is claimed is
claimed by a context that is open (R165 to R167). The state at reset has all of these. -/
def Obligations.EveryStepKeepsTheShape : Prop :=
  let claims (c : Chip) : Prop :=
    (∀ q k, c.txnOf q = some k → (vget c.eng.ctxs k.val).isOpen = true ∧ (vget c.eng.ctxs k.val).owner = q) ∧
    ∀ n, n < 32 → ∀ k : Fin 4,
    (vget c.fronds n).claim = some k ∨ (vget c.cams n).claim = some k → (vget c.eng.ctxs k.val).isOpen = true
  (∀ s t : State, step s = .next t →
    (memWf 0 s.chip.mem = true → memWf 0 t.chip.mem = true) ∧ (memWf 0 s.chip.ecc = true → memWf 0 t.chip.ecc = true) ∧
    (s.chip.lt.ticks.toNat < 16000000000 → t.chip.lt.ticks.toNat < 16000000000) ∧
    (∀ q, (s.chip.queue q).occupied ≤ depth q.val → (t.chip.queue q).occupied ≤ depth q.val) ∧
    (claims s.chip → claims t.chip)) ∧
  memWf 0 State.reset.chip.mem = true ∧ memWf 0 State.reset.chip.ecc = true ∧
  State.reset.chip.lt.ticks.toNat < 16000000000 ∧ (∀ q, (State.reset.chip.queue q).occupied ≤ depth q.val) ∧
  claims State.reset.chip
end

