-- ==== Sys2Proof/Laws/Memory.lean ====
section
/-!
SUPPORT. Bytes in memory: what a write leaves at its address and elsewhere, the canonical form that every memory operation
keeps, and a number read back from where it was written.
-/
namespace Sys2Proof.Machine

variable {d b v : Byte} {m m' : Mem} {a x n k : Nat}

/-! ### One byte -/

theorem memRead_insert (m : Mem) (a x : Nat) (b : Byte) :
    memRead d (memInsert m a b) x = if x = a then b else memRead d m x := by
  induction m with
  | nil => simp [memInsert, memRead]
  | cons e m ih =>
    obtain ⟨k, v⟩ := e
    simp only [memInsert]
    split
    · simp [memRead]
    · split
      · subst a; simp only [memRead]; split <;> rfl
      · simp only [memRead, ih]
        split
        · rename_i h1 h2 h3; subst h3; rw [if_neg]; exact fun h => h2 h.symm
        · rfl

theorem memRead_erase (m : Mem) (a x : Nat) :
    memRead d (m.filter fun e => e.1 != a) x = if x = a then d else memRead d m x := by
  induction m with
  | nil => simp [memRead]
  | cons e m ih =>
    obtain ⟨k, v⟩ := e
    by_cases hk : k = a
    · subst hk
      simp only [List.filter_cons, bne_self_eq_false, Bool.false_eq_true, if_false, ih, memRead]
      split <;> rfl
    · have : ((k, v).1 != a) = true := by simpa using hk
      simp only [List.filter_cons, this, if_true, memRead, ih]
      split
      · rename_i h; subst h; rw [if_neg hk]
      · rfl

/-- A read after a write: the byte written at its address, the old byte elsewhere. -/
theorem memRead_write (m : Mem) (a x : Nat) (b : Byte) :
    memRead d (memWrite d m a b) x = if x = a then b else memRead d m x := by
  unfold memWrite
  split
  · rename_i h; subst h; exact memRead_erase m a x
  · exact memRead_insert m a x b

theorem memRead_write_other (h : x ≠ a) : memRead d (memWrite d m a b) x = memRead d m x := by
  simp [memRead_write, h]

@[simp] theorem memRead_write_same : memRead d (memWrite d m a b) a = b := by simp [memRead_write]

/-! ### The canonical form -/

/-- The canonical form as a property: no default byte listed, addresses strictly rising. -/
theorem memWf_iff : memWf d m = true ↔ (∀ e ∈ m, e.2 ≠ d) ∧ m.Pairwise fun e e' => e.1 < e'.1 := by
  induction m with
  | nil => simp [memWf]
  | cons e m ih =>
    obtain ⟨k, v⟩ := e
    cases m with
    | nil => simp [memWf]
    | cons e' m =>
      obtain ⟨k', v'⟩ := e'
      simp only [memWf, Bool.and_eq_true, bne_iff_ne, decide_eq_true_eq, ih]
      simp only [List.pairwise_cons, List.mem_cons, forall_eq_or_imp]
      constructor
      · rintro ⟨⟨h1, h2⟩, ⟨h3, h4⟩, h5, h6⟩
        exact ⟨⟨h1, h3, h4⟩, ⟨h2, fun e he => Nat.lt_trans h2 (h5 e he)⟩, h5, h6⟩
      · rintro ⟨⟨h1, h3, h4⟩, ⟨h2, _⟩, h5, h6⟩
        exact ⟨⟨h1, h2⟩, ⟨h3, h4⟩, h5, h6⟩

theorem mem_memInsert {e : Nat × Byte} (h : e ∈ memInsert m a b) : e = (a, b) ∨ e ∈ m := by
  induction m with
  | nil => simp [memInsert] at h; exact .inl h
  | cons f m ih =>
    obtain ⟨k, v⟩ := f
    simp only [memInsert] at h
    split at h
    · simpa using h
    · split at h
      · rcases List.mem_cons.1 h with h | h
        · exact .inl h
        · exact .inr (List.mem_cons_of_mem _ h)
      · rcases List.mem_cons.1 h with h | h
        · exact .inr (h ▸ List.mem_cons_self ..)
        · rcases ih h with h | h
          · exact .inl h
          · exact .inr (List.mem_cons_of_mem _ h)

theorem memInsert_pairwise (h : m.Pairwise fun e e' => e.1 < e'.1) :
    (memInsert m a b).Pairwise fun e e' => e.1 < e'.1 := by
  induction m with
  | nil => simp [memInsert]
  | cons f m ih =>
    obtain ⟨k, v⟩ := f
    obtain ⟨h1, h2⟩ := List.pairwise_cons.1 h
    simp only [memInsert]
    split
    · rename_i hk
      refine List.pairwise_cons.2 ⟨fun e he => ?_, h⟩
      rcases List.mem_cons.1 he with rfl | he
      · exact hk
      · exact Nat.lt_trans hk (h1 e he)
    · split
      · rename_i hk; subst hk; exact List.pairwise_cons.2 ⟨h1, h2⟩
      · rename_i hk hk'
        refine List.pairwise_cons.2 ⟨fun e he => ?_, ih h2⟩
        rcases mem_memInsert he with rfl | he
        · show k < a; omega
        · exact h1 e he

/-- A write keeps the canonical form. -/
theorem memWf_write (h : memWf d m = true) : memWf d (memWrite d m a b) = true := by
  rw [memWf_iff] at h ⊢
  unfold memWrite
  split
  · exact ⟨fun e he => h.1 e (List.mem_filter.1 he).1, h.2.filter _⟩
  · rename_i hb
    refine ⟨fun e he => ?_, memInsert_pairwise h.2⟩
    rcases mem_memInsert he with rfl | he
    · exact hb
    · exact h.1 e he

theorem memWf_put : ∀ (n : Nat) (m : Mem) (a v : Nat), memWf d m = true → memWf d (memPut d m a v n) = true
  | 0, _, _, _, h => h
  | n + 1, _, _, _, h => memWf_put n _ _ _ (memWf_write h)

theorem memWf_putBytes : ∀ (bs : List Byte) (m : Mem) (a : Nat), memWf d m = true → memWf d (memPutBytes d m a bs) = true
  | [], _, _, h => h
  | _ :: bs, _, _, h => memWf_putBytes bs _ _ (memWf_write h)

theorem memWf_copy {src : Mem} (h : memWf d m = true) : memWf d (memCopy d src a m x n) = true := memWf_putBytes _ _ _ h

theorem memWf_filter (p : Nat × Byte → Bool) (h : memWf d m = true) : memWf d (m.filter p) = true := by
  rw [memWf_iff] at h ⊢
  exact ⟨fun e he => h.1 e (List.mem_filter.1 he).1, h.2.filter _⟩

/-! ### Several bytes -/

theorem memRead_put_other : ∀ (n : Nat) (m : Mem) (a v : Nat), ¬ (a ≤ x ∧ x < a + n) →
    memRead d (memPut d m a v n) x = memRead d m x
  | 0, _, _, _, _ => rfl
  | n + 1, m, a, v, h => by
    rw [memPut, memRead_put_other n _ _ _ (by omega), memRead_write_other (by omega)]

theorem memRead_putBytes_other : ∀ (bs : List Byte) (m : Mem) (a : Nat), ¬ (a ≤ x ∧ x < a + bs.length) →
    memRead d (memPutBytes d m a bs) x = memRead d m x
  | [], _, _, _ => rfl
  | b :: bs, m, a, h => by
    simp only [List.length_cons] at h
    rw [memPutBytes, memRead_putBytes_other bs _ _ (by omega), memRead_write_other (by omega)]

/-- Equal bytes make equal numbers. -/
theorem memNat_congr : ∀ (n a : Nat), (∀ x, a ≤ x → x < a + n → memRead d m x = memRead d m' x) →
    memNat d m a n = memNat d m' a n
  | 0, _, _ => rfl
  | n + 1, a, h => by
    rw [memNat, memNat, h a (Nat.le_refl a) (by omega), memNat_congr n (a + 1) fun x h1 h2 => h x (by omega) (by omega)]

/-- A number written is read back, cut to its width. -/
theorem memNat_put : ∀ (n : Nat) (m : Mem) (a v : Nat), memNat d (memPut d m a v n) a n = v % 256 ^ n
  | 0, _, _, v => by simp [memNat, Nat.mod_one]
  | n + 1, m, a, v => by
    rw [memNat, memPut, memNat_put n, memRead_put_other _ _ _ _ (by omega), memRead_write_same]
    rw [Nat.pow_succ, Nat.mul_comm (256 ^ n) 256, Nat.mod_mul]
    simp

theorem memNat_put_other (h : k + n ≤ a ∨ a + x ≤ k) : memNat d (memPut d m a v.toNat x) k n = memNat d m k n :=
  memNat_congr _ _ fun _ _ _ => memRead_put_other _ _ _ _ (by omega)

theorem memBytes_congr (h : ∀ x, a ≤ x → x < a + n → memRead d m x = memRead d m' x) :
    memBytes d m a n = memBytes d m' a n := by
  unfold memBytes
  refine List.map_congr_left fun i hi => h _ (by omega) ?_
  have := List.mem_range.1 hi
  omega

end Sys2Proof.Machine
end

