-- ==== Sys2Proof/Laws/State.lean ====
section
/-!
SUPPORT. What each update of the chip leaves in each field: one equation per field per update, all by unfolding, for the
simplifier.
-/
namespace Sys2Proof.Machine

variable (c : Chip)

section
variable (n : Nat)
@[simp] theorem Chip.setClkEvt_clk : (c.setClkEvt n).clk = { c.clk with evt := c.clk.evt ||| bitW n true } := rfl
@[simp] theorem Chip.setClkEvt_lt : (c.setClkEvt n).lt = c.lt := rfl
@[simp] theorem Chip.setClkEvt_ports : (c.setClkEvt n).ports = c.ports := rfl
@[simp] theorem Chip.setClkEvt_syncper : (c.setClkEvt n).syncper = c.syncper := rfl
@[simp] theorem Chip.setClkEvt_lnkfwd : (c.setClkEvt n).lnkfwd = c.lnkfwd := rfl
@[simp] theorem Chip.setClkEvt_syncT1 : (c.setClkEvt n).syncT1 = c.syncT1 := rfl
@[simp] theorem Chip.setClkEvt_syncDue : (c.setClkEvt n).syncDue = c.syncDue := rfl
@[simp] theorem Chip.setClkEvt_spi : (c.setClkEvt n).spi = c.spi := rfl
@[simp] theorem Chip.setClkEvt_mgt : (c.setClkEvt n).mgt = c.mgt := rfl
@[simp] theorem Chip.setClkEvt_jtg : (c.setClkEvt n).jtg = c.jtg := rfl
@[simp] theorem Chip.setClkEvt_prt : (c.setClkEvt n).prt = c.prt := rfl
@[simp] theorem Chip.setClkEvt_eng : (c.setClkEvt n).eng = c.eng := rfl
@[simp] theorem Chip.setClkEvt_fronds : (c.setClkEvt n).fronds = c.fronds := rfl
@[simp] theorem Chip.setClkEvt_pins : (c.setClkEvt n).pins = c.pins := rfl
@[simp] theorem Chip.setClkEvt_banks : (c.setClkEvt n).banks = c.banks := rfl
@[simp] theorem Chip.setClkEvt_edg : (c.setClkEvt n).edg = c.edg := rfl
@[simp] theorem Chip.setClkEvt_cams : (c.setClkEvt n).cams = c.cams := rfl
@[simp] theorem Chip.setClkEvt_pos : (c.setClkEvt n).pos = c.pos := rfl
@[simp] theorem Chip.setClkEvt_prs : (c.setClkEvt n).prs = c.prs := rfl
@[simp] theorem Chip.setClkEvt_scr : (c.setClkEvt n).scr = c.scr := rfl
@[simp] theorem Chip.setClkEvt_nvs : (c.setClkEvt n).nvs = c.nvs := rfl
@[simp] theorem Chip.setClkEvt_lic : (c.setClkEvt n).lic = c.lic := rfl
@[simp] theorem Chip.setClkEvt_dma : (c.setClkEvt n).dma = c.dma := rfl
@[simp] theorem Chip.setClkEvt_credits : (c.setClkEvt n).credits = c.credits := rfl
@[simp] theorem Chip.setClkEvt_rdTurn : (c.setClkEvt n).rdTurn = c.rdTurn := rfl
@[simp] theorem Chip.setClkEvt_wrTurn : (c.setClkEvt n).wrTurn = c.wrTurn := rfl
@[simp] theorem Chip.setClkEvt_flt : (c.setClkEvt n).flt = c.flt := rfl
@[simp] theorem Chip.setClkEvt_pwr : (c.setClkEvt n).pwr = c.pwr := rfl
@[simp] theorem Chip.setClkEvt_sec : (c.setClkEvt n).sec = c.sec := rfl
@[simp] theorem Chip.setClkEvt_mem : (c.setClkEvt n).mem = c.mem := rfl
@[simp] theorem Chip.setClkEvt_ecc : (c.setClkEvt n).ecc = c.ecc := rfl
@[simp] theorem Chip.setClkEvt_pulses : (c.setClkEvt n).pulses = c.pulses := rfl
@[simp] theorem Chip.setClkEvt_freeIx : (c.setClkEvt n).freeIx = c.freeIx := rfl
end

section
variable (n : Nat)
@[simp] theorem Chip.setEngEvt_clk : (c.setEngEvt n).clk = c.clk := rfl
@[simp] theorem Chip.setEngEvt_lt : (c.setEngEvt n).lt = c.lt := rfl
@[simp] theorem Chip.setEngEvt_ports : (c.setEngEvt n).ports = c.ports := rfl
@[simp] theorem Chip.setEngEvt_syncper : (c.setEngEvt n).syncper = c.syncper := rfl
@[simp] theorem Chip.setEngEvt_lnkfwd : (c.setEngEvt n).lnkfwd = c.lnkfwd := rfl
@[simp] theorem Chip.setEngEvt_syncT1 : (c.setEngEvt n).syncT1 = c.syncT1 := rfl
@[simp] theorem Chip.setEngEvt_syncDue : (c.setEngEvt n).syncDue = c.syncDue := rfl
@[simp] theorem Chip.setEngEvt_spi : (c.setEngEvt n).spi = c.spi := rfl
@[simp] theorem Chip.setEngEvt_mgt : (c.setEngEvt n).mgt = c.mgt := rfl
@[simp] theorem Chip.setEngEvt_jtg : (c.setEngEvt n).jtg = c.jtg := rfl
@[simp] theorem Chip.setEngEvt_prt : (c.setEngEvt n).prt = c.prt := rfl
@[simp] theorem Chip.setEngEvt_eng : (c.setEngEvt n).eng = { c.eng with evt := c.eng.evt ||| bitW n true } := rfl
@[simp] theorem Chip.setEngEvt_fronds : (c.setEngEvt n).fronds = c.fronds := rfl
@[simp] theorem Chip.setEngEvt_pins : (c.setEngEvt n).pins = c.pins := rfl
@[simp] theorem Chip.setEngEvt_banks : (c.setEngEvt n).banks = c.banks := rfl
@[simp] theorem Chip.setEngEvt_edg : (c.setEngEvt n).edg = c.edg := rfl
@[simp] theorem Chip.setEngEvt_cams : (c.setEngEvt n).cams = c.cams := rfl
@[simp] theorem Chip.setEngEvt_pos : (c.setEngEvt n).pos = c.pos := rfl
@[simp] theorem Chip.setEngEvt_prs : (c.setEngEvt n).prs = c.prs := rfl
@[simp] theorem Chip.setEngEvt_scr : (c.setEngEvt n).scr = c.scr := rfl
@[simp] theorem Chip.setEngEvt_nvs : (c.setEngEvt n).nvs = c.nvs := rfl
@[simp] theorem Chip.setEngEvt_lic : (c.setEngEvt n).lic = c.lic := rfl
@[simp] theorem Chip.setEngEvt_dma : (c.setEngEvt n).dma = c.dma := rfl
@[simp] theorem Chip.setEngEvt_credits : (c.setEngEvt n).credits = c.credits := rfl
@[simp] theorem Chip.setEngEvt_rdTurn : (c.setEngEvt n).rdTurn = c.rdTurn := rfl
@[simp] theorem Chip.setEngEvt_wrTurn : (c.setEngEvt n).wrTurn = c.wrTurn := rfl
@[simp] theorem Chip.setEngEvt_flt : (c.setEngEvt n).flt = c.flt := rfl
@[simp] theorem Chip.setEngEvt_pwr : (c.setEngEvt n).pwr = c.pwr := rfl
@[simp] theorem Chip.setEngEvt_sec : (c.setEngEvt n).sec = c.sec := rfl
@[simp] theorem Chip.setEngEvt_mem : (c.setEngEvt n).mem = c.mem := rfl
@[simp] theorem Chip.setEngEvt_ecc : (c.setEngEvt n).ecc = c.ecc := rfl
@[simp] theorem Chip.setEngEvt_pulses : (c.setEngEvt n).pulses = c.pulses := rfl
@[simp] theorem Chip.setEngEvt_freeIx : (c.setEngEvt n).freeIx = c.freeIx := rfl
end

section
variable (n : Nat)
@[simp] theorem Chip.setEdgEvt_clk : (c.setEdgEvt n).clk = c.clk := rfl
@[simp] theorem Chip.setEdgEvt_lt : (c.setEdgEvt n).lt = c.lt := rfl
@[simp] theorem Chip.setEdgEvt_ports : (c.setEdgEvt n).ports = c.ports := rfl
@[simp] theorem Chip.setEdgEvt_syncper : (c.setEdgEvt n).syncper = c.syncper := rfl
@[simp] theorem Chip.setEdgEvt_lnkfwd : (c.setEdgEvt n).lnkfwd = c.lnkfwd := rfl
@[simp] theorem Chip.setEdgEvt_syncT1 : (c.setEdgEvt n).syncT1 = c.syncT1 := rfl
@[simp] theorem Chip.setEdgEvt_syncDue : (c.setEdgEvt n).syncDue = c.syncDue := rfl
@[simp] theorem Chip.setEdgEvt_spi : (c.setEdgEvt n).spi = c.spi := rfl
@[simp] theorem Chip.setEdgEvt_mgt : (c.setEdgEvt n).mgt = c.mgt := rfl
@[simp] theorem Chip.setEdgEvt_jtg : (c.setEdgEvt n).jtg = c.jtg := rfl
@[simp] theorem Chip.setEdgEvt_prt : (c.setEdgEvt n).prt = c.prt := rfl
@[simp] theorem Chip.setEdgEvt_eng : (c.setEdgEvt n).eng = c.eng := rfl
@[simp] theorem Chip.setEdgEvt_fronds : (c.setEdgEvt n).fronds = c.fronds := rfl
@[simp] theorem Chip.setEdgEvt_pins : (c.setEdgEvt n).pins = c.pins := rfl
@[simp] theorem Chip.setEdgEvt_banks : (c.setEdgEvt n).banks = c.banks := rfl
@[simp] theorem Chip.setEdgEvt_edg : (c.setEdgEvt n).edg = { c.edg with evt := c.edg.evt ||| bitW n true } := rfl
@[simp] theorem Chip.setEdgEvt_cams : (c.setEdgEvt n).cams = c.cams := rfl
@[simp] theorem Chip.setEdgEvt_pos : (c.setEdgEvt n).pos = c.pos := rfl
@[simp] theorem Chip.setEdgEvt_prs : (c.setEdgEvt n).prs = c.prs := rfl
@[simp] theorem Chip.setEdgEvt_scr : (c.setEdgEvt n).scr = c.scr := rfl
@[simp] theorem Chip.setEdgEvt_nvs : (c.setEdgEvt n).nvs = c.nvs := rfl
@[simp] theorem Chip.setEdgEvt_lic : (c.setEdgEvt n).lic = c.lic := rfl
@[simp] theorem Chip.setEdgEvt_dma : (c.setEdgEvt n).dma = c.dma := rfl
@[simp] theorem Chip.setEdgEvt_credits : (c.setEdgEvt n).credits = c.credits := rfl
@[simp] theorem Chip.setEdgEvt_rdTurn : (c.setEdgEvt n).rdTurn = c.rdTurn := rfl
@[simp] theorem Chip.setEdgEvt_wrTurn : (c.setEdgEvt n).wrTurn = c.wrTurn := rfl
@[simp] theorem Chip.setEdgEvt_flt : (c.setEdgEvt n).flt = c.flt := rfl
@[simp] theorem Chip.setEdgEvt_pwr : (c.setEdgEvt n).pwr = c.pwr := rfl
@[simp] theorem Chip.setEdgEvt_sec : (c.setEdgEvt n).sec = c.sec := rfl
@[simp] theorem Chip.setEdgEvt_mem : (c.setEdgEvt n).mem = c.mem := rfl
@[simp] theorem Chip.setEdgEvt_ecc : (c.setEdgEvt n).ecc = c.ecc := rfl
@[simp] theorem Chip.setEdgEvt_pulses : (c.setEdgEvt n).pulses = c.pulses := rfl
@[simp] theorem Chip.setEdgEvt_freeIx : (c.setEdgEvt n).freeIx = c.freeIx := rfl
end

section
variable (n : Nat)
@[simp] theorem Chip.setCapEvt_clk : (c.setCapEvt n).clk = c.clk := rfl
@[simp] theorem Chip.setCapEvt_lt : (c.setCapEvt n).lt = c.lt := rfl
@[simp] theorem Chip.setCapEvt_ports : (c.setCapEvt n).ports = c.ports := rfl
@[simp] theorem Chip.setCapEvt_syncper : (c.setCapEvt n).syncper = c.syncper := rfl
@[simp] theorem Chip.setCapEvt_lnkfwd : (c.setCapEvt n).lnkfwd = c.lnkfwd := rfl
@[simp] theorem Chip.setCapEvt_syncT1 : (c.setCapEvt n).syncT1 = c.syncT1 := rfl
@[simp] theorem Chip.setCapEvt_syncDue : (c.setCapEvt n).syncDue = c.syncDue := rfl
@[simp] theorem Chip.setCapEvt_spi : (c.setCapEvt n).spi = c.spi := rfl
@[simp] theorem Chip.setCapEvt_mgt : (c.setCapEvt n).mgt = c.mgt := rfl
@[simp] theorem Chip.setCapEvt_jtg : (c.setCapEvt n).jtg = c.jtg := rfl
@[simp] theorem Chip.setCapEvt_prt : (c.setCapEvt n).prt = c.prt := rfl
@[simp] theorem Chip.setCapEvt_eng : (c.setCapEvt n).eng = c.eng := rfl
@[simp] theorem Chip.setCapEvt_fronds : (c.setCapEvt n).fronds = c.fronds := rfl
@[simp] theorem Chip.setCapEvt_pins : (c.setCapEvt n).pins = c.pins := rfl
@[simp] theorem Chip.setCapEvt_banks : (c.setCapEvt n).banks = c.banks := rfl
@[simp] theorem Chip.setCapEvt_edg : (c.setCapEvt n).edg = { c.edg with cevt := c.edg.cevt ||| bitW n true } := rfl
@[simp] theorem Chip.setCapEvt_cams : (c.setCapEvt n).cams = c.cams := rfl
@[simp] theorem Chip.setCapEvt_pos : (c.setCapEvt n).pos = c.pos := rfl
@[simp] theorem Chip.setCapEvt_prs : (c.setCapEvt n).prs = c.prs := rfl
@[simp] theorem Chip.setCapEvt_scr : (c.setCapEvt n).scr = c.scr := rfl
@[simp] theorem Chip.setCapEvt_nvs : (c.setCapEvt n).nvs = c.nvs := rfl
@[simp] theorem Chip.setCapEvt_lic : (c.setCapEvt n).lic = c.lic := rfl
@[simp] theorem Chip.setCapEvt_dma : (c.setCapEvt n).dma = c.dma := rfl
@[simp] theorem Chip.setCapEvt_credits : (c.setCapEvt n).credits = c.credits := rfl
@[simp] theorem Chip.setCapEvt_rdTurn : (c.setCapEvt n).rdTurn = c.rdTurn := rfl
@[simp] theorem Chip.setCapEvt_wrTurn : (c.setCapEvt n).wrTurn = c.wrTurn := rfl
@[simp] theorem Chip.setCapEvt_flt : (c.setCapEvt n).flt = c.flt := rfl
@[simp] theorem Chip.setCapEvt_pwr : (c.setCapEvt n).pwr = c.pwr := rfl
@[simp] theorem Chip.setCapEvt_sec : (c.setCapEvt n).sec = c.sec := rfl
@[simp] theorem Chip.setCapEvt_mem : (c.setCapEvt n).mem = c.mem := rfl
@[simp] theorem Chip.setCapEvt_ecc : (c.setCapEvt n).ecc = c.ecc := rfl
@[simp] theorem Chip.setCapEvt_pulses : (c.setCapEvt n).pulses = c.pulses := rfl
@[simp] theorem Chip.setCapEvt_freeIx : (c.setCapEvt n).freeIx = c.freeIx := rfl
end

section
variable (n : Nat)
@[simp] theorem Chip.setCamEvt_clk : (c.setCamEvt n).clk = c.clk := rfl
@[simp] theorem Chip.setCamEvt_lt : (c.setCamEvt n).lt = c.lt := rfl
@[simp] theorem Chip.setCamEvt_ports : (c.setCamEvt n).ports = c.ports := rfl
@[simp] theorem Chip.setCamEvt_syncper : (c.setCamEvt n).syncper = c.syncper := rfl
@[simp] theorem Chip.setCamEvt_lnkfwd : (c.setCamEvt n).lnkfwd = c.lnkfwd := rfl
@[simp] theorem Chip.setCamEvt_syncT1 : (c.setCamEvt n).syncT1 = c.syncT1 := rfl
@[simp] theorem Chip.setCamEvt_syncDue : (c.setCamEvt n).syncDue = c.syncDue := rfl
@[simp] theorem Chip.setCamEvt_spi : (c.setCamEvt n).spi = c.spi := rfl
@[simp] theorem Chip.setCamEvt_mgt : (c.setCamEvt n).mgt = c.mgt := rfl
@[simp] theorem Chip.setCamEvt_jtg : (c.setCamEvt n).jtg = c.jtg := rfl
@[simp] theorem Chip.setCamEvt_prt : (c.setCamEvt n).prt = c.prt := rfl
@[simp] theorem Chip.setCamEvt_eng : (c.setCamEvt n).eng = c.eng := rfl
@[simp] theorem Chip.setCamEvt_fronds : (c.setCamEvt n).fronds = c.fronds := rfl
@[simp] theorem Chip.setCamEvt_pins : (c.setCamEvt n).pins = c.pins := rfl
@[simp] theorem Chip.setCamEvt_banks : (c.setCamEvt n).banks = c.banks := rfl
@[simp] theorem Chip.setCamEvt_edg : (c.setCamEvt n).edg = c.edg := rfl
@[simp] theorem Chip.setCamEvt_cams : (c.setCamEvt n).cams = c.cams := rfl
@[simp] theorem Chip.setCamEvt_pos : (c.setCamEvt n).pos = { c.pos with evt := c.pos.evt ||| bitW n true } := rfl
@[simp] theorem Chip.setCamEvt_prs : (c.setCamEvt n).prs = c.prs := rfl
@[simp] theorem Chip.setCamEvt_scr : (c.setCamEvt n).scr = c.scr := rfl
@[simp] theorem Chip.setCamEvt_nvs : (c.setCamEvt n).nvs = c.nvs := rfl
@[simp] theorem Chip.setCamEvt_lic : (c.setCamEvt n).lic = c.lic := rfl
@[simp] theorem Chip.setCamEvt_dma : (c.setCamEvt n).dma = c.dma := rfl
@[simp] theorem Chip.setCamEvt_credits : (c.setCamEvt n).credits = c.credits := rfl
@[simp] theorem Chip.setCamEvt_rdTurn : (c.setCamEvt n).rdTurn = c.rdTurn := rfl
@[simp] theorem Chip.setCamEvt_wrTurn : (c.setCamEvt n).wrTurn = c.wrTurn := rfl
@[simp] theorem Chip.setCamEvt_flt : (c.setCamEvt n).flt = c.flt := rfl
@[simp] theorem Chip.setCamEvt_pwr : (c.setCamEvt n).pwr = c.pwr := rfl
@[simp] theorem Chip.setCamEvt_sec : (c.setCamEvt n).sec = c.sec := rfl
@[simp] theorem Chip.setCamEvt_mem : (c.setCamEvt n).mem = c.mem := rfl
@[simp] theorem Chip.setCamEvt_ecc : (c.setCamEvt n).ecc = c.ecc := rfl
@[simp] theorem Chip.setCamEvt_pulses : (c.setCamEvt n).pulses = c.pulses := rfl
@[simp] theorem Chip.setCamEvt_freeIx : (c.setCamEvt n).freeIx = c.freeIx := rfl
end

section
variable (n : Nat)
@[simp] theorem Chip.setPrsEvt_clk : (c.setPrsEvt n).clk = c.clk := rfl
@[simp] theorem Chip.setPrsEvt_lt : (c.setPrsEvt n).lt = c.lt := rfl
@[simp] theorem Chip.setPrsEvt_ports : (c.setPrsEvt n).ports = c.ports := rfl
@[simp] theorem Chip.setPrsEvt_syncper : (c.setPrsEvt n).syncper = c.syncper := rfl
@[simp] theorem Chip.setPrsEvt_lnkfwd : (c.setPrsEvt n).lnkfwd = c.lnkfwd := rfl
@[simp] theorem Chip.setPrsEvt_syncT1 : (c.setPrsEvt n).syncT1 = c.syncT1 := rfl
@[simp] theorem Chip.setPrsEvt_syncDue : (c.setPrsEvt n).syncDue = c.syncDue := rfl
@[simp] theorem Chip.setPrsEvt_spi : (c.setPrsEvt n).spi = c.spi := rfl
@[simp] theorem Chip.setPrsEvt_mgt : (c.setPrsEvt n).mgt = c.mgt := rfl
@[simp] theorem Chip.setPrsEvt_jtg : (c.setPrsEvt n).jtg = c.jtg := rfl
@[simp] theorem Chip.setPrsEvt_prt : (c.setPrsEvt n).prt = c.prt := rfl
@[simp] theorem Chip.setPrsEvt_eng : (c.setPrsEvt n).eng = c.eng := rfl
@[simp] theorem Chip.setPrsEvt_fronds : (c.setPrsEvt n).fronds = c.fronds := rfl
@[simp] theorem Chip.setPrsEvt_pins : (c.setPrsEvt n).pins = c.pins := rfl
@[simp] theorem Chip.setPrsEvt_banks : (c.setPrsEvt n).banks = c.banks := rfl
@[simp] theorem Chip.setPrsEvt_edg : (c.setPrsEvt n).edg = c.edg := rfl
@[simp] theorem Chip.setPrsEvt_cams : (c.setPrsEvt n).cams = c.cams := rfl
@[simp] theorem Chip.setPrsEvt_pos : (c.setPrsEvt n).pos = c.pos := rfl
@[simp] theorem Chip.setPrsEvt_prs : (c.setPrsEvt n).prs = { c.prs with evt := c.prs.evt ||| bitW n true } := rfl
@[simp] theorem Chip.setPrsEvt_scr : (c.setPrsEvt n).scr = c.scr := rfl
@[simp] theorem Chip.setPrsEvt_nvs : (c.setPrsEvt n).nvs = c.nvs := rfl
@[simp] theorem Chip.setPrsEvt_lic : (c.setPrsEvt n).lic = c.lic := rfl
@[simp] theorem Chip.setPrsEvt_dma : (c.setPrsEvt n).dma = c.dma := rfl
@[simp] theorem Chip.setPrsEvt_credits : (c.setPrsEvt n).credits = c.credits := rfl
@[simp] theorem Chip.setPrsEvt_rdTurn : (c.setPrsEvt n).rdTurn = c.rdTurn := rfl
@[simp] theorem Chip.setPrsEvt_wrTurn : (c.setPrsEvt n).wrTurn = c.wrTurn := rfl
@[simp] theorem Chip.setPrsEvt_flt : (c.setPrsEvt n).flt = c.flt := rfl
@[simp] theorem Chip.setPrsEvt_pwr : (c.setPrsEvt n).pwr = c.pwr := rfl
@[simp] theorem Chip.setPrsEvt_sec : (c.setPrsEvt n).sec = c.sec := rfl
@[simp] theorem Chip.setPrsEvt_mem : (c.setPrsEvt n).mem = c.mem := rfl
@[simp] theorem Chip.setPrsEvt_ecc : (c.setPrsEvt n).ecc = c.ecc := rfl
@[simp] theorem Chip.setPrsEvt_pulses : (c.setPrsEvt n).pulses = c.pulses := rfl
@[simp] theorem Chip.setPrsEvt_freeIx : (c.setPrsEvt n).freeIx = c.freeIx := rfl
end

section
variable (n : Nat)
@[simp] theorem Chip.setScrEvt_clk : (c.setScrEvt n).clk = c.clk := rfl
@[simp] theorem Chip.setScrEvt_lt : (c.setScrEvt n).lt = c.lt := rfl
@[simp] theorem Chip.setScrEvt_ports : (c.setScrEvt n).ports = c.ports := rfl
@[simp] theorem Chip.setScrEvt_syncper : (c.setScrEvt n).syncper = c.syncper := rfl
@[simp] theorem Chip.setScrEvt_lnkfwd : (c.setScrEvt n).lnkfwd = c.lnkfwd := rfl
@[simp] theorem Chip.setScrEvt_syncT1 : (c.setScrEvt n).syncT1 = c.syncT1 := rfl
@[simp] theorem Chip.setScrEvt_syncDue : (c.setScrEvt n).syncDue = c.syncDue := rfl
@[simp] theorem Chip.setScrEvt_spi : (c.setScrEvt n).spi = c.spi := rfl
@[simp] theorem Chip.setScrEvt_mgt : (c.setScrEvt n).mgt = c.mgt := rfl
@[simp] theorem Chip.setScrEvt_jtg : (c.setScrEvt n).jtg = c.jtg := rfl
@[simp] theorem Chip.setScrEvt_prt : (c.setScrEvt n).prt = c.prt := rfl
@[simp] theorem Chip.setScrEvt_eng : (c.setScrEvt n).eng = c.eng := rfl
@[simp] theorem Chip.setScrEvt_fronds : (c.setScrEvt n).fronds = c.fronds := rfl
@[simp] theorem Chip.setScrEvt_pins : (c.setScrEvt n).pins = c.pins := rfl
@[simp] theorem Chip.setScrEvt_banks : (c.setScrEvt n).banks = c.banks := rfl
@[simp] theorem Chip.setScrEvt_edg : (c.setScrEvt n).edg = c.edg := rfl
@[simp] theorem Chip.setScrEvt_cams : (c.setScrEvt n).cams = c.cams := rfl
@[simp] theorem Chip.setScrEvt_pos : (c.setScrEvt n).pos = c.pos := rfl
@[simp] theorem Chip.setScrEvt_prs : (c.setScrEvt n).prs = c.prs := rfl
@[simp] theorem Chip.setScrEvt_scr : (c.setScrEvt n).scr = { c.scr with evt := c.scr.evt ||| bitW n true } := rfl
@[simp] theorem Chip.setScrEvt_nvs : (c.setScrEvt n).nvs = c.nvs := rfl
@[simp] theorem Chip.setScrEvt_lic : (c.setScrEvt n).lic = c.lic := rfl
@[simp] theorem Chip.setScrEvt_dma : (c.setScrEvt n).dma = c.dma := rfl
@[simp] theorem Chip.setScrEvt_credits : (c.setScrEvt n).credits = c.credits := rfl
@[simp] theorem Chip.setScrEvt_rdTurn : (c.setScrEvt n).rdTurn = c.rdTurn := rfl
@[simp] theorem Chip.setScrEvt_wrTurn : (c.setScrEvt n).wrTurn = c.wrTurn := rfl
@[simp] theorem Chip.setScrEvt_flt : (c.setScrEvt n).flt = c.flt := rfl
@[simp] theorem Chip.setScrEvt_pwr : (c.setScrEvt n).pwr = c.pwr := rfl
@[simp] theorem Chip.setScrEvt_sec : (c.setScrEvt n).sec = c.sec := rfl
@[simp] theorem Chip.setScrEvt_mem : (c.setScrEvt n).mem = c.mem := rfl
@[simp] theorem Chip.setScrEvt_ecc : (c.setScrEvt n).ecc = c.ecc := rfl
@[simp] theorem Chip.setScrEvt_pulses : (c.setScrEvt n).pulses = c.pulses := rfl
@[simp] theorem Chip.setScrEvt_freeIx : (c.setScrEvt n).freeIx = c.freeIx := rfl
end

section
variable (n : Nat)
@[simp] theorem Chip.setNvsEvt_clk : (c.setNvsEvt n).clk = c.clk := rfl
@[simp] theorem Chip.setNvsEvt_lt : (c.setNvsEvt n).lt = c.lt := rfl
@[simp] theorem Chip.setNvsEvt_ports : (c.setNvsEvt n).ports = c.ports := rfl
@[simp] theorem Chip.setNvsEvt_syncper : (c.setNvsEvt n).syncper = c.syncper := rfl
@[simp] theorem Chip.setNvsEvt_lnkfwd : (c.setNvsEvt n).lnkfwd = c.lnkfwd := rfl
@[simp] theorem Chip.setNvsEvt_syncT1 : (c.setNvsEvt n).syncT1 = c.syncT1 := rfl
@[simp] theorem Chip.setNvsEvt_syncDue : (c.setNvsEvt n).syncDue = c.syncDue := rfl
@[simp] theorem Chip.setNvsEvt_spi : (c.setNvsEvt n).spi = c.spi := rfl
@[simp] theorem Chip.setNvsEvt_mgt : (c.setNvsEvt n).mgt = c.mgt := rfl
@[simp] theorem Chip.setNvsEvt_jtg : (c.setNvsEvt n).jtg = c.jtg := rfl
@[simp] theorem Chip.setNvsEvt_prt : (c.setNvsEvt n).prt = c.prt := rfl
@[simp] theorem Chip.setNvsEvt_eng : (c.setNvsEvt n).eng = c.eng := rfl
@[simp] theorem Chip.setNvsEvt_fronds : (c.setNvsEvt n).fronds = c.fronds := rfl
@[simp] theorem Chip.setNvsEvt_pins : (c.setNvsEvt n).pins = c.pins := rfl
@[simp] theorem Chip.setNvsEvt_banks : (c.setNvsEvt n).banks = c.banks := rfl
@[simp] theorem Chip.setNvsEvt_edg : (c.setNvsEvt n).edg = c.edg := rfl
@[simp] theorem Chip.setNvsEvt_cams : (c.setNvsEvt n).cams = c.cams := rfl
@[simp] theorem Chip.setNvsEvt_pos : (c.setNvsEvt n).pos = c.pos := rfl
@[simp] theorem Chip.setNvsEvt_prs : (c.setNvsEvt n).prs = c.prs := rfl
@[simp] theorem Chip.setNvsEvt_scr : (c.setNvsEvt n).scr = c.scr := rfl
@[simp] theorem Chip.setNvsEvt_nvs : (c.setNvsEvt n).nvs = { c.nvs with evt := c.nvs.evt ||| bitW n true } := rfl
@[simp] theorem Chip.setNvsEvt_lic : (c.setNvsEvt n).lic = c.lic := rfl
@[simp] theorem Chip.setNvsEvt_dma : (c.setNvsEvt n).dma = c.dma := rfl
@[simp] theorem Chip.setNvsEvt_credits : (c.setNvsEvt n).credits = c.credits := rfl
@[simp] theorem Chip.setNvsEvt_rdTurn : (c.setNvsEvt n).rdTurn = c.rdTurn := rfl
@[simp] theorem Chip.setNvsEvt_wrTurn : (c.setNvsEvt n).wrTurn = c.wrTurn := rfl
@[simp] theorem Chip.setNvsEvt_flt : (c.setNvsEvt n).flt = c.flt := rfl
@[simp] theorem Chip.setNvsEvt_pwr : (c.setNvsEvt n).pwr = c.pwr := rfl
@[simp] theorem Chip.setNvsEvt_sec : (c.setNvsEvt n).sec = c.sec := rfl
@[simp] theorem Chip.setNvsEvt_mem : (c.setNvsEvt n).mem = c.mem := rfl
@[simp] theorem Chip.setNvsEvt_ecc : (c.setNvsEvt n).ecc = c.ecc := rfl
@[simp] theorem Chip.setNvsEvt_pulses : (c.setNvsEvt n).pulses = c.pulses := rfl
@[simp] theorem Chip.setNvsEvt_freeIx : (c.setNvsEvt n).freeIx = c.freeIx := rfl
end

section
variable (n : Nat)
@[simp] theorem Chip.setLicEvt_clk : (c.setLicEvt n).clk = c.clk := rfl
@[simp] theorem Chip.setLicEvt_lt : (c.setLicEvt n).lt = c.lt := rfl
@[simp] theorem Chip.setLicEvt_ports : (c.setLicEvt n).ports = c.ports := rfl
@[simp] theorem Chip.setLicEvt_syncper : (c.setLicEvt n).syncper = c.syncper := rfl
@[simp] theorem Chip.setLicEvt_lnkfwd : (c.setLicEvt n).lnkfwd = c.lnkfwd := rfl
@[simp] theorem Chip.setLicEvt_syncT1 : (c.setLicEvt n).syncT1 = c.syncT1 := rfl
@[simp] theorem Chip.setLicEvt_syncDue : (c.setLicEvt n).syncDue = c.syncDue := rfl
@[simp] theorem Chip.setLicEvt_spi : (c.setLicEvt n).spi = c.spi := rfl
@[simp] theorem Chip.setLicEvt_mgt : (c.setLicEvt n).mgt = c.mgt := rfl
@[simp] theorem Chip.setLicEvt_jtg : (c.setLicEvt n).jtg = c.jtg := rfl
@[simp] theorem Chip.setLicEvt_prt : (c.setLicEvt n).prt = c.prt := rfl
@[simp] theorem Chip.setLicEvt_eng : (c.setLicEvt n).eng = c.eng := rfl
@[simp] theorem Chip.setLicEvt_fronds : (c.setLicEvt n).fronds = c.fronds := rfl
@[simp] theorem Chip.setLicEvt_pins : (c.setLicEvt n).pins = c.pins := rfl
@[simp] theorem Chip.setLicEvt_banks : (c.setLicEvt n).banks = c.banks := rfl
@[simp] theorem Chip.setLicEvt_edg : (c.setLicEvt n).edg = c.edg := rfl
@[simp] theorem Chip.setLicEvt_cams : (c.setLicEvt n).cams = c.cams := rfl
@[simp] theorem Chip.setLicEvt_pos : (c.setLicEvt n).pos = c.pos := rfl
@[simp] theorem Chip.setLicEvt_prs : (c.setLicEvt n).prs = c.prs := rfl
@[simp] theorem Chip.setLicEvt_scr : (c.setLicEvt n).scr = c.scr := rfl
@[simp] theorem Chip.setLicEvt_nvs : (c.setLicEvt n).nvs = c.nvs := rfl
@[simp] theorem Chip.setLicEvt_lic : (c.setLicEvt n).lic = { c.lic with evt := c.lic.evt ||| bitW n true } := rfl
@[simp] theorem Chip.setLicEvt_dma : (c.setLicEvt n).dma = c.dma := rfl
@[simp] theorem Chip.setLicEvt_credits : (c.setLicEvt n).credits = c.credits := rfl
@[simp] theorem Chip.setLicEvt_rdTurn : (c.setLicEvt n).rdTurn = c.rdTurn := rfl
@[simp] theorem Chip.setLicEvt_wrTurn : (c.setLicEvt n).wrTurn = c.wrTurn := rfl
@[simp] theorem Chip.setLicEvt_flt : (c.setLicEvt n).flt = c.flt := rfl
@[simp] theorem Chip.setLicEvt_pwr : (c.setLicEvt n).pwr = c.pwr := rfl
@[simp] theorem Chip.setLicEvt_sec : (c.setLicEvt n).sec = c.sec := rfl
@[simp] theorem Chip.setLicEvt_mem : (c.setLicEvt n).mem = c.mem := rfl
@[simp] theorem Chip.setLicEvt_ecc : (c.setLicEvt n).ecc = c.ecc := rfl
@[simp] theorem Chip.setLicEvt_pulses : (c.setLicEvt n).pulses = c.pulses := rfl
@[simp] theorem Chip.setLicEvt_freeIx : (c.setLicEvt n).freeIx = c.freeIx := rfl
end

section
variable (n : Nat)
@[simp] theorem Chip.setFltEvt_clk : (c.setFltEvt n).clk = c.clk := rfl
@[simp] theorem Chip.setFltEvt_lt : (c.setFltEvt n).lt = c.lt := rfl
@[simp] theorem Chip.setFltEvt_ports : (c.setFltEvt n).ports = c.ports := rfl
@[simp] theorem Chip.setFltEvt_syncper : (c.setFltEvt n).syncper = c.syncper := rfl
@[simp] theorem Chip.setFltEvt_lnkfwd : (c.setFltEvt n).lnkfwd = c.lnkfwd := rfl
@[simp] theorem Chip.setFltEvt_syncT1 : (c.setFltEvt n).syncT1 = c.syncT1 := rfl
@[simp] theorem Chip.setFltEvt_syncDue : (c.setFltEvt n).syncDue = c.syncDue := rfl
@[simp] theorem Chip.setFltEvt_spi : (c.setFltEvt n).spi = c.spi := rfl
@[simp] theorem Chip.setFltEvt_mgt : (c.setFltEvt n).mgt = c.mgt := rfl
@[simp] theorem Chip.setFltEvt_jtg : (c.setFltEvt n).jtg = c.jtg := rfl
@[simp] theorem Chip.setFltEvt_prt : (c.setFltEvt n).prt = c.prt := rfl
@[simp] theorem Chip.setFltEvt_eng : (c.setFltEvt n).eng = c.eng := rfl
@[simp] theorem Chip.setFltEvt_fronds : (c.setFltEvt n).fronds = c.fronds := rfl
@[simp] theorem Chip.setFltEvt_pins : (c.setFltEvt n).pins = c.pins := rfl
@[simp] theorem Chip.setFltEvt_banks : (c.setFltEvt n).banks = c.banks := rfl
@[simp] theorem Chip.setFltEvt_edg : (c.setFltEvt n).edg = c.edg := rfl
@[simp] theorem Chip.setFltEvt_cams : (c.setFltEvt n).cams = c.cams := rfl
@[simp] theorem Chip.setFltEvt_pos : (c.setFltEvt n).pos = c.pos := rfl
@[simp] theorem Chip.setFltEvt_prs : (c.setFltEvt n).prs = c.prs := rfl
@[simp] theorem Chip.setFltEvt_scr : (c.setFltEvt n).scr = c.scr := rfl
@[simp] theorem Chip.setFltEvt_nvs : (c.setFltEvt n).nvs = c.nvs := rfl
@[simp] theorem Chip.setFltEvt_lic : (c.setFltEvt n).lic = c.lic := rfl
@[simp] theorem Chip.setFltEvt_dma : (c.setFltEvt n).dma = c.dma := rfl
@[simp] theorem Chip.setFltEvt_credits : (c.setFltEvt n).credits = c.credits := rfl
@[simp] theorem Chip.setFltEvt_rdTurn : (c.setFltEvt n).rdTurn = c.rdTurn := rfl
@[simp] theorem Chip.setFltEvt_wrTurn : (c.setFltEvt n).wrTurn = c.wrTurn := rfl
@[simp] theorem Chip.setFltEvt_flt : (c.setFltEvt n).flt = { c.flt with evt := c.flt.evt ||| bitW n true } := rfl
@[simp] theorem Chip.setFltEvt_pwr : (c.setFltEvt n).pwr = c.pwr := rfl
@[simp] theorem Chip.setFltEvt_sec : (c.setFltEvt n).sec = c.sec := rfl
@[simp] theorem Chip.setFltEvt_mem : (c.setFltEvt n).mem = c.mem := rfl
@[simp] theorem Chip.setFltEvt_ecc : (c.setFltEvt n).ecc = c.ecc := rfl
@[simp] theorem Chip.setFltEvt_pulses : (c.setFltEvt n).pulses = c.pulses := rfl
@[simp] theorem Chip.setFltEvt_freeIx : (c.setFltEvt n).freeIx = c.freeIx := rfl
end

section
variable (n : Nat)
@[simp] theorem Chip.setPwrEvt_clk : (c.setPwrEvt n).clk = c.clk := rfl
@[simp] theorem Chip.setPwrEvt_lt : (c.setPwrEvt n).lt = c.lt := rfl
@[simp] theorem Chip.setPwrEvt_ports : (c.setPwrEvt n).ports = c.ports := rfl
@[simp] theorem Chip.setPwrEvt_syncper : (c.setPwrEvt n).syncper = c.syncper := rfl
@[simp] theorem Chip.setPwrEvt_lnkfwd : (c.setPwrEvt n).lnkfwd = c.lnkfwd := rfl
@[simp] theorem Chip.setPwrEvt_syncT1 : (c.setPwrEvt n).syncT1 = c.syncT1 := rfl
@[simp] theorem Chip.setPwrEvt_syncDue : (c.setPwrEvt n).syncDue = c.syncDue := rfl
@[simp] theorem Chip.setPwrEvt_spi : (c.setPwrEvt n).spi = c.spi := rfl
@[simp] theorem Chip.setPwrEvt_mgt : (c.setPwrEvt n).mgt = c.mgt := rfl
@[simp] theorem Chip.setPwrEvt_jtg : (c.setPwrEvt n).jtg = c.jtg := rfl
@[simp] theorem Chip.setPwrEvt_prt : (c.setPwrEvt n).prt = c.prt := rfl
@[simp] theorem Chip.setPwrEvt_eng : (c.setPwrEvt n).eng = c.eng := rfl
@[simp] theorem Chip.setPwrEvt_fronds : (c.setPwrEvt n).fronds = c.fronds := rfl
@[simp] theorem Chip.setPwrEvt_pins : (c.setPwrEvt n).pins = c.pins := rfl
@[simp] theorem Chip.setPwrEvt_banks : (c.setPwrEvt n).banks = c.banks := rfl
@[simp] theorem Chip.setPwrEvt_edg : (c.setPwrEvt n).edg = c.edg := rfl
@[simp] theorem Chip.setPwrEvt_cams : (c.setPwrEvt n).cams = c.cams := rfl
@[simp] theorem Chip.setPwrEvt_pos : (c.setPwrEvt n).pos = c.pos := rfl
@[simp] theorem Chip.setPwrEvt_prs : (c.setPwrEvt n).prs = c.prs := rfl
@[simp] theorem Chip.setPwrEvt_scr : (c.setPwrEvt n).scr = c.scr := rfl
@[simp] theorem Chip.setPwrEvt_nvs : (c.setPwrEvt n).nvs = c.nvs := rfl
@[simp] theorem Chip.setPwrEvt_lic : (c.setPwrEvt n).lic = c.lic := rfl
@[simp] theorem Chip.setPwrEvt_dma : (c.setPwrEvt n).dma = c.dma := rfl
@[simp] theorem Chip.setPwrEvt_credits : (c.setPwrEvt n).credits = c.credits := rfl
@[simp] theorem Chip.setPwrEvt_rdTurn : (c.setPwrEvt n).rdTurn = c.rdTurn := rfl
@[simp] theorem Chip.setPwrEvt_wrTurn : (c.setPwrEvt n).wrTurn = c.wrTurn := rfl
@[simp] theorem Chip.setPwrEvt_flt : (c.setPwrEvt n).flt = c.flt := rfl
@[simp] theorem Chip.setPwrEvt_pwr : (c.setPwrEvt n).pwr = { c.pwr with evt := c.pwr.evt ||| bitW n true } := rfl
@[simp] theorem Chip.setPwrEvt_sec : (c.setPwrEvt n).sec = c.sec := rfl
@[simp] theorem Chip.setPwrEvt_mem : (c.setPwrEvt n).mem = c.mem := rfl
@[simp] theorem Chip.setPwrEvt_ecc : (c.setPwrEvt n).ecc = c.ecc := rfl
@[simp] theorem Chip.setPwrEvt_pulses : (c.setPwrEvt n).pulses = c.pulses := rfl
@[simp] theorem Chip.setPwrEvt_freeIx : (c.setPwrEvt n).freeIx = c.freeIx := rfl
end

section
variable (n : Nat)
@[simp] theorem Chip.setSecEvt_clk : (c.setSecEvt n).clk = c.clk := rfl
@[simp] theorem Chip.setSecEvt_lt : (c.setSecEvt n).lt = c.lt := rfl
@[simp] theorem Chip.setSecEvt_ports : (c.setSecEvt n).ports = c.ports := rfl
@[simp] theorem Chip.setSecEvt_syncper : (c.setSecEvt n).syncper = c.syncper := rfl
@[simp] theorem Chip.setSecEvt_lnkfwd : (c.setSecEvt n).lnkfwd = c.lnkfwd := rfl
@[simp] theorem Chip.setSecEvt_syncT1 : (c.setSecEvt n).syncT1 = c.syncT1 := rfl
@[simp] theorem Chip.setSecEvt_syncDue : (c.setSecEvt n).syncDue = c.syncDue := rfl
@[simp] theorem Chip.setSecEvt_spi : (c.setSecEvt n).spi = c.spi := rfl
@[simp] theorem Chip.setSecEvt_mgt : (c.setSecEvt n).mgt = c.mgt := rfl
@[simp] theorem Chip.setSecEvt_jtg : (c.setSecEvt n).jtg = c.jtg := rfl
@[simp] theorem Chip.setSecEvt_prt : (c.setSecEvt n).prt = c.prt := rfl
@[simp] theorem Chip.setSecEvt_eng : (c.setSecEvt n).eng = c.eng := rfl
@[simp] theorem Chip.setSecEvt_fronds : (c.setSecEvt n).fronds = c.fronds := rfl
@[simp] theorem Chip.setSecEvt_pins : (c.setSecEvt n).pins = c.pins := rfl
@[simp] theorem Chip.setSecEvt_banks : (c.setSecEvt n).banks = c.banks := rfl
@[simp] theorem Chip.setSecEvt_edg : (c.setSecEvt n).edg = c.edg := rfl
@[simp] theorem Chip.setSecEvt_cams : (c.setSecEvt n).cams = c.cams := rfl
@[simp] theorem Chip.setSecEvt_pos : (c.setSecEvt n).pos = c.pos := rfl
@[simp] theorem Chip.setSecEvt_prs : (c.setSecEvt n).prs = c.prs := rfl
@[simp] theorem Chip.setSecEvt_scr : (c.setSecEvt n).scr = c.scr := rfl
@[simp] theorem Chip.setSecEvt_nvs : (c.setSecEvt n).nvs = c.nvs := rfl
@[simp] theorem Chip.setSecEvt_lic : (c.setSecEvt n).lic = c.lic := rfl
@[simp] theorem Chip.setSecEvt_dma : (c.setSecEvt n).dma = c.dma := rfl
@[simp] theorem Chip.setSecEvt_credits : (c.setSecEvt n).credits = c.credits := rfl
@[simp] theorem Chip.setSecEvt_rdTurn : (c.setSecEvt n).rdTurn = c.rdTurn := rfl
@[simp] theorem Chip.setSecEvt_wrTurn : (c.setSecEvt n).wrTurn = c.wrTurn := rfl
@[simp] theorem Chip.setSecEvt_flt : (c.setSecEvt n).flt = c.flt := rfl
@[simp] theorem Chip.setSecEvt_pwr : (c.setSecEvt n).pwr = c.pwr := rfl
@[simp] theorem Chip.setSecEvt_sec : (c.setSecEvt n).sec = { c.sec with evt := c.sec.evt ||| bitW n true } := rfl
@[simp] theorem Chip.setSecEvt_mem : (c.setSecEvt n).mem = c.mem := rfl
@[simp] theorem Chip.setSecEvt_ecc : (c.setSecEvt n).ecc = c.ecc := rfl
@[simp] theorem Chip.setSecEvt_pulses : (c.setSecEvt n).pulses = c.pulses := rfl
@[simp] theorem Chip.setSecEvt_freeIx : (c.setSecEvt n).freeIx = c.freeIx := rfl
end

section
variable (n : Nat)
@[simp] theorem Chip.setSpiEvt_clk : (c.setSpiEvt n).clk = c.clk := rfl
@[simp] theorem Chip.setSpiEvt_lt : (c.setSpiEvt n).lt = c.lt := rfl
@[simp] theorem Chip.setSpiEvt_ports : (c.setSpiEvt n).ports = c.ports := rfl
@[simp] theorem Chip.setSpiEvt_syncper : (c.setSpiEvt n).syncper = c.syncper := rfl
@[simp] theorem Chip.setSpiEvt_lnkfwd : (c.setSpiEvt n).lnkfwd = c.lnkfwd := rfl
@[simp] theorem Chip.setSpiEvt_syncT1 : (c.setSpiEvt n).syncT1 = c.syncT1 := rfl
@[simp] theorem Chip.setSpiEvt_syncDue : (c.setSpiEvt n).syncDue = c.syncDue := rfl
@[simp] theorem Chip.setSpiEvt_spi : (c.setSpiEvt n).spi = { c.spi with evt := c.spi.evt ||| bitW n true } := rfl
@[simp] theorem Chip.setSpiEvt_mgt : (c.setSpiEvt n).mgt = c.mgt := rfl
@[simp] theorem Chip.setSpiEvt_jtg : (c.setSpiEvt n).jtg = c.jtg := rfl
@[simp] theorem Chip.setSpiEvt_prt : (c.setSpiEvt n).prt = c.prt := rfl
@[simp] theorem Chip.setSpiEvt_eng : (c.setSpiEvt n).eng = c.eng := rfl
@[simp] theorem Chip.setSpiEvt_fronds : (c.setSpiEvt n).fronds = c.fronds := rfl
@[simp] theorem Chip.setSpiEvt_pins : (c.setSpiEvt n).pins = c.pins := rfl
@[simp] theorem Chip.setSpiEvt_banks : (c.setSpiEvt n).banks = c.banks := rfl
@[simp] theorem Chip.setSpiEvt_edg : (c.setSpiEvt n).edg = c.edg := rfl
@[simp] theorem Chip.setSpiEvt_cams : (c.setSpiEvt n).cams = c.cams := rfl
@[simp] theorem Chip.setSpiEvt_pos : (c.setSpiEvt n).pos = c.pos := rfl
@[simp] theorem Chip.setSpiEvt_prs : (c.setSpiEvt n).prs = c.prs := rfl
@[simp] theorem Chip.setSpiEvt_scr : (c.setSpiEvt n).scr = c.scr := rfl
@[simp] theorem Chip.setSpiEvt_nvs : (c.setSpiEvt n).nvs = c.nvs := rfl
@[simp] theorem Chip.setSpiEvt_lic : (c.setSpiEvt n).lic = c.lic := rfl
@[simp] theorem Chip.setSpiEvt_dma : (c.setSpiEvt n).dma = c.dma := rfl
@[simp] theorem Chip.setSpiEvt_credits : (c.setSpiEvt n).credits = c.credits := rfl
@[simp] theorem Chip.setSpiEvt_rdTurn : (c.setSpiEvt n).rdTurn = c.rdTurn := rfl
@[simp] theorem Chip.setSpiEvt_wrTurn : (c.setSpiEvt n).wrTurn = c.wrTurn := rfl
@[simp] theorem Chip.setSpiEvt_flt : (c.setSpiEvt n).flt = c.flt := rfl
@[simp] theorem Chip.setSpiEvt_pwr : (c.setSpiEvt n).pwr = c.pwr := rfl
@[simp] theorem Chip.setSpiEvt_sec : (c.setSpiEvt n).sec = c.sec := rfl
@[simp] theorem Chip.setSpiEvt_mem : (c.setSpiEvt n).mem = c.mem := rfl
@[simp] theorem Chip.setSpiEvt_ecc : (c.setSpiEvt n).ecc = c.ecc := rfl
@[simp] theorem Chip.setSpiEvt_pulses : (c.setSpiEvt n).pulses = c.pulses := rfl
@[simp] theorem Chip.setSpiEvt_freeIx : (c.setSpiEvt n).freeIx = c.freeIx := rfl
end

section
variable (p n : Nat)
@[simp] theorem Chip.setLnkEvt_clk : (c.setLnkEvt p n).clk = c.clk := rfl
@[simp] theorem Chip.setLnkEvt_lt : (c.setLnkEvt p n).lt = c.lt := rfl
@[simp] theorem Chip.setLnkEvt_ports :
    (c.setLnkEvt p n).ports = vmod c.ports p fun x => { x with evt := x.evt ||| bitW n true } := rfl
@[simp] theorem Chip.setLnkEvt_syncper : (c.setLnkEvt p n).syncper = c.syncper := rfl
@[simp] theorem Chip.setLnkEvt_lnkfwd : (c.setLnkEvt p n).lnkfwd = c.lnkfwd := rfl
@[simp] theorem Chip.setLnkEvt_syncT1 : (c.setLnkEvt p n).syncT1 = c.syncT1 := rfl
@[simp] theorem Chip.setLnkEvt_syncDue : (c.setLnkEvt p n).syncDue = c.syncDue := rfl
@[simp] theorem Chip.setLnkEvt_spi : (c.setLnkEvt p n).spi = c.spi := rfl
@[simp] theorem Chip.setLnkEvt_mgt : (c.setLnkEvt p n).mgt = c.mgt := rfl
@[simp] theorem Chip.setLnkEvt_jtg : (c.setLnkEvt p n).jtg = c.jtg := rfl
@[simp] theorem Chip.setLnkEvt_prt : (c.setLnkEvt p n).prt = c.prt := rfl
@[simp] theorem Chip.setLnkEvt_eng : (c.setLnkEvt p n).eng = c.eng := rfl
@[simp] theorem Chip.setLnkEvt_fronds : (c.setLnkEvt p n).fronds = c.fronds := rfl
@[simp] theorem Chip.setLnkEvt_pins : (c.setLnkEvt p n).pins = c.pins := rfl
@[simp] theorem Chip.setLnkEvt_banks : (c.setLnkEvt p n).banks = c.banks := rfl
@[simp] theorem Chip.setLnkEvt_edg : (c.setLnkEvt p n).edg = c.edg := rfl
@[simp] theorem Chip.setLnkEvt_cams : (c.setLnkEvt p n).cams = c.cams := rfl
@[simp] theorem Chip.setLnkEvt_pos : (c.setLnkEvt p n).pos = c.pos := rfl
@[simp] theorem Chip.setLnkEvt_prs : (c.setLnkEvt p n).prs = c.prs := rfl
@[simp] theorem Chip.setLnkEvt_scr : (c.setLnkEvt p n).scr = c.scr := rfl
@[simp] theorem Chip.setLnkEvt_nvs : (c.setLnkEvt p n).nvs = c.nvs := rfl
@[simp] theorem Chip.setLnkEvt_lic : (c.setLnkEvt p n).lic = c.lic := rfl
@[simp] theorem Chip.setLnkEvt_dma : (c.setLnkEvt p n).dma = c.dma := rfl
@[simp] theorem Chip.setLnkEvt_credits : (c.setLnkEvt p n).credits = c.credits := rfl
@[simp] theorem Chip.setLnkEvt_rdTurn : (c.setLnkEvt p n).rdTurn = c.rdTurn := rfl
@[simp] theorem Chip.setLnkEvt_wrTurn : (c.setLnkEvt p n).wrTurn = c.wrTurn := rfl
@[simp] theorem Chip.setLnkEvt_flt : (c.setLnkEvt p n).flt = c.flt := rfl
@[simp] theorem Chip.setLnkEvt_pwr : (c.setLnkEvt p n).pwr = c.pwr := rfl
@[simp] theorem Chip.setLnkEvt_sec : (c.setLnkEvt p n).sec = c.sec := rfl
@[simp] theorem Chip.setLnkEvt_mem : (c.setLnkEvt p n).mem = c.mem := rfl
@[simp] theorem Chip.setLnkEvt_ecc : (c.setLnkEvt p n).ecc = c.ecc := rfl
@[simp] theorem Chip.setLnkEvt_pulses : (c.setLnkEvt p n).pulses = c.pulses := rfl
@[simp] theorem Chip.setLnkEvt_freeIx : (c.setLnkEvt p n).freeIx = c.freeIx := rfl
end

section
variable (ch n : Nat)
@[simp] theorem Chip.setDmaEvt_clk : (c.setDmaEvt ch n).clk = c.clk := rfl
@[simp] theorem Chip.setDmaEvt_lt : (c.setDmaEvt ch n).lt = c.lt := rfl
@[simp] theorem Chip.setDmaEvt_ports : (c.setDmaEvt ch n).ports = c.ports := rfl
@[simp] theorem Chip.setDmaEvt_syncper : (c.setDmaEvt ch n).syncper = c.syncper := rfl
@[simp] theorem Chip.setDmaEvt_lnkfwd : (c.setDmaEvt ch n).lnkfwd = c.lnkfwd := rfl
@[simp] theorem Chip.setDmaEvt_syncT1 : (c.setDmaEvt ch n).syncT1 = c.syncT1 := rfl
@[simp] theorem Chip.setDmaEvt_syncDue : (c.setDmaEvt ch n).syncDue = c.syncDue := rfl
@[simp] theorem Chip.setDmaEvt_spi : (c.setDmaEvt ch n).spi = c.spi := rfl
@[simp] theorem Chip.setDmaEvt_mgt : (c.setDmaEvt ch n).mgt = c.mgt := rfl
@[simp] theorem Chip.setDmaEvt_jtg : (c.setDmaEvt ch n).jtg = c.jtg := rfl
@[simp] theorem Chip.setDmaEvt_prt : (c.setDmaEvt ch n).prt = c.prt := rfl
@[simp] theorem Chip.setDmaEvt_eng : (c.setDmaEvt ch n).eng = c.eng := rfl
@[simp] theorem Chip.setDmaEvt_fronds : (c.setDmaEvt ch n).fronds = c.fronds := rfl
@[simp] theorem Chip.setDmaEvt_pins : (c.setDmaEvt ch n).pins = c.pins := rfl
@[simp] theorem Chip.setDmaEvt_banks : (c.setDmaEvt ch n).banks = c.banks := rfl
@[simp] theorem Chip.setDmaEvt_edg : (c.setDmaEvt ch n).edg = c.edg := rfl
@[simp] theorem Chip.setDmaEvt_cams : (c.setDmaEvt ch n).cams = c.cams := rfl
@[simp] theorem Chip.setDmaEvt_pos : (c.setDmaEvt ch n).pos = c.pos := rfl
@[simp] theorem Chip.setDmaEvt_prs : (c.setDmaEvt ch n).prs = c.prs := rfl
@[simp] theorem Chip.setDmaEvt_scr : (c.setDmaEvt ch n).scr = c.scr := rfl
@[simp] theorem Chip.setDmaEvt_nvs : (c.setDmaEvt ch n).nvs = c.nvs := rfl
@[simp] theorem Chip.setDmaEvt_lic : (c.setDmaEvt ch n).lic = c.lic := rfl
@[simp] theorem Chip.setDmaEvt_dma :
    (c.setDmaEvt ch n).dma = vmod c.dma ch fun x => { x with evt := x.evt ||| bitW n true } := rfl
@[simp] theorem Chip.setDmaEvt_credits : (c.setDmaEvt ch n).credits = c.credits := rfl
@[simp] theorem Chip.setDmaEvt_rdTurn : (c.setDmaEvt ch n).rdTurn = c.rdTurn := rfl
@[simp] theorem Chip.setDmaEvt_wrTurn : (c.setDmaEvt ch n).wrTurn = c.wrTurn := rfl
@[simp] theorem Chip.setDmaEvt_flt : (c.setDmaEvt ch n).flt = c.flt := rfl
@[simp] theorem Chip.setDmaEvt_pwr : (c.setDmaEvt ch n).pwr = c.pwr := rfl
@[simp] theorem Chip.setDmaEvt_sec : (c.setDmaEvt ch n).sec = c.sec := rfl
@[simp] theorem Chip.setDmaEvt_mem : (c.setDmaEvt ch n).mem = c.mem := rfl
@[simp] theorem Chip.setDmaEvt_ecc : (c.setDmaEvt ch n).ecc = c.ecc := rfl
@[simp] theorem Chip.setDmaEvt_pulses : (c.setDmaEvt ch n).pulses = c.pulses := rfl
@[simp] theorem Chip.setDmaEvt_freeIx : (c.setDmaEvt ch n).freeIx = c.freeIx := rfl
end

section
variable (n : Nat) (f : Frond → Frond)
@[simp] theorem Chip.modFrond_clk : (c.modFrond n f).clk = c.clk := rfl
@[simp] theorem Chip.modFrond_lt : (c.modFrond n f).lt = c.lt := rfl
@[simp] theorem Chip.modFrond_ports : (c.modFrond n f).ports = c.ports := rfl
@[simp] theorem Chip.modFrond_syncper : (c.modFrond n f).syncper = c.syncper := rfl
@[simp] theorem Chip.modFrond_lnkfwd : (c.modFrond n f).lnkfwd = c.lnkfwd := rfl
@[simp] theorem Chip.modFrond_syncT1 : (c.modFrond n f).syncT1 = c.syncT1 := rfl
@[simp] theorem Chip.modFrond_syncDue : (c.modFrond n f).syncDue = c.syncDue := rfl
@[simp] theorem Chip.modFrond_spi : (c.modFrond n f).spi = c.spi := rfl
@[simp] theorem Chip.modFrond_mgt : (c.modFrond n f).mgt = c.mgt := rfl
@[simp] theorem Chip.modFrond_jtg : (c.modFrond n f).jtg = c.jtg := rfl
@[simp] theorem Chip.modFrond_prt : (c.modFrond n f).prt = c.prt := rfl
@[simp] theorem Chip.modFrond_eng : (c.modFrond n f).eng = c.eng := rfl
@[simp] theorem Chip.modFrond_fronds : (c.modFrond n f).fronds = vmod c.fronds n f := rfl
@[simp] theorem Chip.modFrond_pins : (c.modFrond n f).pins = c.pins := rfl
@[simp] theorem Chip.modFrond_banks : (c.modFrond n f).banks = c.banks := rfl
@[simp] theorem Chip.modFrond_edg : (c.modFrond n f).edg = c.edg := rfl
@[simp] theorem Chip.modFrond_cams : (c.modFrond n f).cams = c.cams := rfl
@[simp] theorem Chip.modFrond_pos : (c.modFrond n f).pos = c.pos := rfl
@[simp] theorem Chip.modFrond_prs : (c.modFrond n f).prs = c.prs := rfl
@[simp] theorem Chip.modFrond_scr : (c.modFrond n f).scr = c.scr := rfl
@[simp] theorem Chip.modFrond_nvs : (c.modFrond n f).nvs = c.nvs := rfl
@[simp] theorem Chip.modFrond_lic : (c.modFrond n f).lic = c.lic := rfl
@[simp] theorem Chip.modFrond_dma : (c.modFrond n f).dma = c.dma := rfl
@[simp] theorem Chip.modFrond_credits : (c.modFrond n f).credits = c.credits := rfl
@[simp] theorem Chip.modFrond_rdTurn : (c.modFrond n f).rdTurn = c.rdTurn := rfl
@[simp] theorem Chip.modFrond_wrTurn : (c.modFrond n f).wrTurn = c.wrTurn := rfl
@[simp] theorem Chip.modFrond_flt : (c.modFrond n f).flt = c.flt := rfl
@[simp] theorem Chip.modFrond_pwr : (c.modFrond n f).pwr = c.pwr := rfl
@[simp] theorem Chip.modFrond_sec : (c.modFrond n f).sec = c.sec := rfl
@[simp] theorem Chip.modFrond_mem : (c.modFrond n f).mem = c.mem := rfl
@[simp] theorem Chip.modFrond_ecc : (c.modFrond n f).ecc = c.ecc := rfl
@[simp] theorem Chip.modFrond_pulses : (c.modFrond n f).pulses = c.pulses := rfl
@[simp] theorem Chip.modFrond_freeIx : (c.modFrond n f).freeIx = c.freeIx := rfl
end

section
variable (n : Nat) (f : Cam → Cam)
@[simp] theorem Chip.modCam_clk : (c.modCam n f).clk = c.clk := rfl
@[simp] theorem Chip.modCam_lt : (c.modCam n f).lt = c.lt := rfl
@[simp] theorem Chip.modCam_ports : (c.modCam n f).ports = c.ports := rfl
@[simp] theorem Chip.modCam_syncper : (c.modCam n f).syncper = c.syncper := rfl
@[simp] theorem Chip.modCam_lnkfwd : (c.modCam n f).lnkfwd = c.lnkfwd := rfl
@[simp] theorem Chip.modCam_syncT1 : (c.modCam n f).syncT1 = c.syncT1 := rfl
@[simp] theorem Chip.modCam_syncDue : (c.modCam n f).syncDue = c.syncDue := rfl
@[simp] theorem Chip.modCam_spi : (c.modCam n f).spi = c.spi := rfl
@[simp] theorem Chip.modCam_mgt : (c.modCam n f).mgt = c.mgt := rfl
@[simp] theorem Chip.modCam_jtg : (c.modCam n f).jtg = c.jtg := rfl
@[simp] theorem Chip.modCam_prt : (c.modCam n f).prt = c.prt := rfl
@[simp] theorem Chip.modCam_eng : (c.modCam n f).eng = c.eng := rfl
@[simp] theorem Chip.modCam_fronds : (c.modCam n f).fronds = c.fronds := rfl
@[simp] theorem Chip.modCam_pins : (c.modCam n f).pins = c.pins := rfl
@[simp] theorem Chip.modCam_banks : (c.modCam n f).banks = c.banks := rfl
@[simp] theorem Chip.modCam_edg : (c.modCam n f).edg = c.edg := rfl
@[simp] theorem Chip.modCam_cams : (c.modCam n f).cams = vmod c.cams n f := rfl
@[simp] theorem Chip.modCam_pos : (c.modCam n f).pos = c.pos := rfl
@[simp] theorem Chip.modCam_prs : (c.modCam n f).prs = c.prs := rfl
@[simp] theorem Chip.modCam_scr : (c.modCam n f).scr = c.scr := rfl
@[simp] theorem Chip.modCam_nvs : (c.modCam n f).nvs = c.nvs := rfl
@[simp] theorem Chip.modCam_lic : (c.modCam n f).lic = c.lic := rfl
@[simp] theorem Chip.modCam_dma : (c.modCam n f).dma = c.dma := rfl
@[simp] theorem Chip.modCam_credits : (c.modCam n f).credits = c.credits := rfl
@[simp] theorem Chip.modCam_rdTurn : (c.modCam n f).rdTurn = c.rdTurn := rfl
@[simp] theorem Chip.modCam_wrTurn : (c.modCam n f).wrTurn = c.wrTurn := rfl
@[simp] theorem Chip.modCam_flt : (c.modCam n f).flt = c.flt := rfl
@[simp] theorem Chip.modCam_pwr : (c.modCam n f).pwr = c.pwr := rfl
@[simp] theorem Chip.modCam_sec : (c.modCam n f).sec = c.sec := rfl
@[simp] theorem Chip.modCam_mem : (c.modCam n f).mem = c.mem := rfl
@[simp] theorem Chip.modCam_ecc : (c.modCam n f).ecc = c.ecc := rfl
@[simp] theorem Chip.modCam_pulses : (c.modCam n f).pulses = c.pulses := rfl
@[simp] theorem Chip.modCam_freeIx : (c.modCam n f).freeIx = c.freeIx := rfl
end

section
variable (n : Nat) (f : Pin → Pin)
@[simp] theorem Chip.modPin_clk : (c.modPin n f).clk = c.clk := rfl
@[simp] theorem Chip.modPin_lt : (c.modPin n f).lt = c.lt := rfl
@[simp] theorem Chip.modPin_ports : (c.modPin n f).ports = c.ports := rfl
@[simp] theorem Chip.modPin_syncper : (c.modPin n f).syncper = c.syncper := rfl
@[simp] theorem Chip.modPin_lnkfwd : (c.modPin n f).lnkfwd = c.lnkfwd := rfl
@[simp] theorem Chip.modPin_syncT1 : (c.modPin n f).syncT1 = c.syncT1 := rfl
@[simp] theorem Chip.modPin_syncDue : (c.modPin n f).syncDue = c.syncDue := rfl
@[simp] theorem Chip.modPin_spi : (c.modPin n f).spi = c.spi := rfl
@[simp] theorem Chip.modPin_mgt : (c.modPin n f).mgt = c.mgt := rfl
@[simp] theorem Chip.modPin_jtg : (c.modPin n f).jtg = c.jtg := rfl
@[simp] theorem Chip.modPin_prt : (c.modPin n f).prt = c.prt := rfl
@[simp] theorem Chip.modPin_eng : (c.modPin n f).eng = c.eng := rfl
@[simp] theorem Chip.modPin_fronds : (c.modPin n f).fronds = c.fronds := rfl
@[simp] theorem Chip.modPin_pins : (c.modPin n f).pins = vmod c.pins n f := rfl
@[simp] theorem Chip.modPin_banks : (c.modPin n f).banks = c.banks := rfl
@[simp] theorem Chip.modPin_edg : (c.modPin n f).edg = c.edg := rfl
@[simp] theorem Chip.modPin_cams : (c.modPin n f).cams = c.cams := rfl
@[simp] theorem Chip.modPin_pos : (c.modPin n f).pos = c.pos := rfl
@[simp] theorem Chip.modPin_prs : (c.modPin n f).prs = c.prs := rfl
@[simp] theorem Chip.modPin_scr : (c.modPin n f).scr = c.scr := rfl
@[simp] theorem Chip.modPin_nvs : (c.modPin n f).nvs = c.nvs := rfl
@[simp] theorem Chip.modPin_lic : (c.modPin n f).lic = c.lic := rfl
@[simp] theorem Chip.modPin_dma : (c.modPin n f).dma = c.dma := rfl
@[simp] theorem Chip.modPin_credits : (c.modPin n f).credits = c.credits := rfl
@[simp] theorem Chip.modPin_rdTurn : (c.modPin n f).rdTurn = c.rdTurn := rfl
@[simp] theorem Chip.modPin_wrTurn : (c.modPin n f).wrTurn = c.wrTurn := rfl
@[simp] theorem Chip.modPin_flt : (c.modPin n f).flt = c.flt := rfl
@[simp] theorem Chip.modPin_pwr : (c.modPin n f).pwr = c.pwr := rfl
@[simp] theorem Chip.modPin_sec : (c.modPin n f).sec = c.sec := rfl
@[simp] theorem Chip.modPin_mem : (c.modPin n f).mem = c.mem := rfl
@[simp] theorem Chip.modPin_ecc : (c.modPin n f).ecc = c.ecc := rfl
@[simp] theorem Chip.modPin_pulses : (c.modPin n f).pulses = c.pulses := rfl
@[simp] theorem Chip.modPin_freeIx : (c.modPin n f).freeIx = c.freeIx := rfl
end

section
variable (n : Nat) (f : Bank → Bank)
@[simp] theorem Chip.modBank_clk : (c.modBank n f).clk = c.clk := rfl
@[simp] theorem Chip.modBank_lt : (c.modBank n f).lt = c.lt := rfl
@[simp] theorem Chip.modBank_ports : (c.modBank n f).ports = c.ports := rfl
@[simp] theorem Chip.modBank_syncper : (c.modBank n f).syncper = c.syncper := rfl
@[simp] theorem Chip.modBank_lnkfwd : (c.modBank n f).lnkfwd = c.lnkfwd := rfl
@[simp] theorem Chip.modBank_syncT1 : (c.modBank n f).syncT1 = c.syncT1 := rfl
@[simp] theorem Chip.modBank_syncDue : (c.modBank n f).syncDue = c.syncDue := rfl
@[simp] theorem Chip.modBank_spi : (c.modBank n f).spi = c.spi := rfl
@[simp] theorem Chip.modBank_mgt : (c.modBank n f).mgt = c.mgt := rfl
@[simp] theorem Chip.modBank_jtg : (c.modBank n f).jtg = c.jtg := rfl
@[simp] theorem Chip.modBank_prt : (c.modBank n f).prt = c.prt := rfl
@[simp] theorem Chip.modBank_eng : (c.modBank n f).eng = c.eng := rfl
@[simp] theorem Chip.modBank_fronds : (c.modBank n f).fronds = c.fronds := rfl
@[simp] theorem Chip.modBank_pins : (c.modBank n f).pins = c.pins := rfl
@[simp] theorem Chip.modBank_banks : (c.modBank n f).banks = vmod c.banks n f := rfl
@[simp] theorem Chip.modBank_edg : (c.modBank n f).edg = c.edg := rfl
@[simp] theorem Chip.modBank_cams : (c.modBank n f).cams = c.cams := rfl
@[simp] theorem Chip.modBank_pos : (c.modBank n f).pos = c.pos := rfl
@[simp] theorem Chip.modBank_prs : (c.modBank n f).prs = c.prs := rfl
@[simp] theorem Chip.modBank_scr : (c.modBank n f).scr = c.scr := rfl
@[simp] theorem Chip.modBank_nvs : (c.modBank n f).nvs = c.nvs := rfl
@[simp] theorem Chip.modBank_lic : (c.modBank n f).lic = c.lic := rfl
@[simp] theorem Chip.modBank_dma : (c.modBank n f).dma = c.dma := rfl
@[simp] theorem Chip.modBank_credits : (c.modBank n f).credits = c.credits := rfl
@[simp] theorem Chip.modBank_rdTurn : (c.modBank n f).rdTurn = c.rdTurn := rfl
@[simp] theorem Chip.modBank_wrTurn : (c.modBank n f).wrTurn = c.wrTurn := rfl
@[simp] theorem Chip.modBank_flt : (c.modBank n f).flt = c.flt := rfl
@[simp] theorem Chip.modBank_pwr : (c.modBank n f).pwr = c.pwr := rfl
@[simp] theorem Chip.modBank_sec : (c.modBank n f).sec = c.sec := rfl
@[simp] theorem Chip.modBank_mem : (c.modBank n f).mem = c.mem := rfl
@[simp] theorem Chip.modBank_ecc : (c.modBank n f).ecc = c.ecc := rfl
@[simp] theorem Chip.modBank_pulses : (c.modBank n f).pulses = c.pulses := rfl
@[simp] theorem Chip.modBank_freeIx : (c.modBank n f).freeIx = c.freeIx := rfl
end

section
variable (n : Nat) (f : QState → QState)
@[simp] theorem Chip.modQ_clk : (c.modQ n f).clk = c.clk := rfl
@[simp] theorem Chip.modQ_lt : (c.modQ n f).lt = c.lt := rfl
@[simp] theorem Chip.modQ_ports : (c.modQ n f).ports = c.ports := rfl
@[simp] theorem Chip.modQ_syncper : (c.modQ n f).syncper = c.syncper := rfl
@[simp] theorem Chip.modQ_lnkfwd : (c.modQ n f).lnkfwd = c.lnkfwd := rfl
@[simp] theorem Chip.modQ_syncT1 : (c.modQ n f).syncT1 = c.syncT1 := rfl
@[simp] theorem Chip.modQ_syncDue : (c.modQ n f).syncDue = c.syncDue := rfl
@[simp] theorem Chip.modQ_spi : (c.modQ n f).spi = c.spi := rfl
@[simp] theorem Chip.modQ_mgt : (c.modQ n f).mgt = c.mgt := rfl
@[simp] theorem Chip.modQ_jtg : (c.modQ n f).jtg = c.jtg := rfl
@[simp] theorem Chip.modQ_prt : (c.modQ n f).prt = c.prt := rfl
@[simp] theorem Chip.modQ_eng : (c.modQ n f).eng = { c.eng with queues := vmod c.eng.queues n f } := rfl
@[simp] theorem Chip.modQ_fronds : (c.modQ n f).fronds = c.fronds := rfl
@[simp] theorem Chip.modQ_pins : (c.modQ n f).pins = c.pins := rfl
@[simp] theorem Chip.modQ_banks : (c.modQ n f).banks = c.banks := rfl
@[simp] theorem Chip.modQ_edg : (c.modQ n f).edg = c.edg := rfl
@[simp] theorem Chip.modQ_cams : (c.modQ n f).cams = c.cams := rfl
@[simp] theorem Chip.modQ_pos : (c.modQ n f).pos = c.pos := rfl
@[simp] theorem Chip.modQ_prs : (c.modQ n f).prs = c.prs := rfl
@[simp] theorem Chip.modQ_scr : (c.modQ n f).scr = c.scr := rfl
@[simp] theorem Chip.modQ_nvs : (c.modQ n f).nvs = c.nvs := rfl
@[simp] theorem Chip.modQ_lic : (c.modQ n f).lic = c.lic := rfl
@[simp] theorem Chip.modQ_dma : (c.modQ n f).dma = c.dma := rfl
@[simp] theorem Chip.modQ_credits : (c.modQ n f).credits = c.credits := rfl
@[simp] theorem Chip.modQ_rdTurn : (c.modQ n f).rdTurn = c.rdTurn := rfl
@[simp] theorem Chip.modQ_wrTurn : (c.modQ n f).wrTurn = c.wrTurn := rfl
@[simp] theorem Chip.modQ_flt : (c.modQ n f).flt = c.flt := rfl
@[simp] theorem Chip.modQ_pwr : (c.modQ n f).pwr = c.pwr := rfl
@[simp] theorem Chip.modQ_sec : (c.modQ n f).sec = c.sec := rfl
@[simp] theorem Chip.modQ_mem : (c.modQ n f).mem = c.mem := rfl
@[simp] theorem Chip.modQ_ecc : (c.modQ n f).ecc = c.ecc := rfl
@[simp] theorem Chip.modQ_pulses : (c.modQ n f).pulses = c.pulses := rfl
@[simp] theorem Chip.modQ_freeIx : (c.modQ n f).freeIx = c.freeIx := rfl
end

section
variable (n : Nat) (f : Ctx → Ctx)
@[simp] theorem Chip.modCtx_clk : (c.modCtx n f).clk = c.clk := rfl
@[simp] theorem Chip.modCtx_lt : (c.modCtx n f).lt = c.lt := rfl
@[simp] theorem Chip.modCtx_ports : (c.modCtx n f).ports = c.ports := rfl
@[simp] theorem Chip.modCtx_syncper : (c.modCtx n f).syncper = c.syncper := rfl
@[simp] theorem Chip.modCtx_lnkfwd : (c.modCtx n f).lnkfwd = c.lnkfwd := rfl
@[simp] theorem Chip.modCtx_syncT1 : (c.modCtx n f).syncT1 = c.syncT1 := rfl
@[simp] theorem Chip.modCtx_syncDue : (c.modCtx n f).syncDue = c.syncDue := rfl
@[simp] theorem Chip.modCtx_spi : (c.modCtx n f).spi = c.spi := rfl
@[simp] theorem Chip.modCtx_mgt : (c.modCtx n f).mgt = c.mgt := rfl
@[simp] theorem Chip.modCtx_jtg : (c.modCtx n f).jtg = c.jtg := rfl
@[simp] theorem Chip.modCtx_prt : (c.modCtx n f).prt = c.prt := rfl
@[simp] theorem Chip.modCtx_eng : (c.modCtx n f).eng = { c.eng with ctxs := vmod c.eng.ctxs n f } := rfl
@[simp] theorem Chip.modCtx_fronds : (c.modCtx n f).fronds = c.fronds := rfl
@[simp] theorem Chip.modCtx_pins : (c.modCtx n f).pins = c.pins := rfl
@[simp] theorem Chip.modCtx_banks : (c.modCtx n f).banks = c.banks := rfl
@[simp] theorem Chip.modCtx_edg : (c.modCtx n f).edg = c.edg := rfl
@[simp] theorem Chip.modCtx_cams : (c.modCtx n f).cams = c.cams := rfl
@[simp] theorem Chip.modCtx_pos : (c.modCtx n f).pos = c.pos := rfl
@[simp] theorem Chip.modCtx_prs : (c.modCtx n f).prs = c.prs := rfl
@[simp] theorem Chip.modCtx_scr : (c.modCtx n f).scr = c.scr := rfl
@[simp] theorem Chip.modCtx_nvs : (c.modCtx n f).nvs = c.nvs := rfl
@[simp] theorem Chip.modCtx_lic : (c.modCtx n f).lic = c.lic := rfl
@[simp] theorem Chip.modCtx_dma : (c.modCtx n f).dma = c.dma := rfl
@[simp] theorem Chip.modCtx_credits : (c.modCtx n f).credits = c.credits := rfl
@[simp] theorem Chip.modCtx_rdTurn : (c.modCtx n f).rdTurn = c.rdTurn := rfl
@[simp] theorem Chip.modCtx_wrTurn : (c.modCtx n f).wrTurn = c.wrTurn := rfl
@[simp] theorem Chip.modCtx_flt : (c.modCtx n f).flt = c.flt := rfl
@[simp] theorem Chip.modCtx_pwr : (c.modCtx n f).pwr = c.pwr := rfl
@[simp] theorem Chip.modCtx_sec : (c.modCtx n f).sec = c.sec := rfl
@[simp] theorem Chip.modCtx_mem : (c.modCtx n f).mem = c.mem := rfl
@[simp] theorem Chip.modCtx_ecc : (c.modCtx n f).ecc = c.ecc := rfl
@[simp] theorem Chip.modCtx_pulses : (c.modCtx n f).pulses = c.pulses := rfl
@[simp] theorem Chip.modCtx_freeIx : (c.modCtx n f).freeIx = c.freeIx := rfl
end

section
variable (n : Nat) (f : Dma → Dma)
@[simp] theorem Chip.modDma_clk : (c.modDma n f).clk = c.clk := rfl
@[simp] theorem Chip.modDma_lt : (c.modDma n f).lt = c.lt := rfl
@[simp] theorem Chip.modDma_ports : (c.modDma n f).ports = c.ports := rfl
@[simp] theorem Chip.modDma_syncper : (c.modDma n f).syncper = c.syncper := rfl
@[simp] theorem Chip.modDma_lnkfwd : (c.modDma n f).lnkfwd = c.lnkfwd := rfl
@[simp] theorem Chip.modDma_syncT1 : (c.modDma n f).syncT1 = c.syncT1 := rfl
@[simp] theorem Chip.modDma_syncDue : (c.modDma n f).syncDue = c.syncDue := rfl
@[simp] theorem Chip.modDma_spi : (c.modDma n f).spi = c.spi := rfl
@[simp] theorem Chip.modDma_mgt : (c.modDma n f).mgt = c.mgt := rfl
@[simp] theorem Chip.modDma_jtg : (c.modDma n f).jtg = c.jtg := rfl
@[simp] theorem Chip.modDma_prt : (c.modDma n f).prt = c.prt := rfl
@[simp] theorem Chip.modDma_eng : (c.modDma n f).eng = c.eng := rfl
@[simp] theorem Chip.modDma_fronds : (c.modDma n f).fronds = c.fronds := rfl
@[simp] theorem Chip.modDma_pins : (c.modDma n f).pins = c.pins := rfl
@[simp] theorem Chip.modDma_banks : (c.modDma n f).banks = c.banks := rfl
@[simp] theorem Chip.modDma_edg : (c.modDma n f).edg = c.edg := rfl
@[simp] theorem Chip.modDma_cams : (c.modDma n f).cams = c.cams := rfl
@[simp] theorem Chip.modDma_pos : (c.modDma n f).pos = c.pos := rfl
@[simp] theorem Chip.modDma_prs : (c.modDma n f).prs = c.prs := rfl
@[simp] theorem Chip.modDma_scr : (c.modDma n f).scr = c.scr := rfl
@[simp] theorem Chip.modDma_nvs : (c.modDma n f).nvs = c.nvs := rfl
@[simp] theorem Chip.modDma_lic : (c.modDma n f).lic = c.lic := rfl
@[simp] theorem Chip.modDma_dma : (c.modDma n f).dma = vmod c.dma n f := rfl
@[simp] theorem Chip.modDma_credits : (c.modDma n f).credits = c.credits := rfl
@[simp] theorem Chip.modDma_rdTurn : (c.modDma n f).rdTurn = c.rdTurn := rfl
@[simp] theorem Chip.modDma_wrTurn : (c.modDma n f).wrTurn = c.wrTurn := rfl
@[simp] theorem Chip.modDma_flt : (c.modDma n f).flt = c.flt := rfl
@[simp] theorem Chip.modDma_pwr : (c.modDma n f).pwr = c.pwr := rfl
@[simp] theorem Chip.modDma_sec : (c.modDma n f).sec = c.sec := rfl
@[simp] theorem Chip.modDma_mem : (c.modDma n f).mem = c.mem := rfl
@[simp] theorem Chip.modDma_ecc : (c.modDma n f).ecc = c.ecc := rfl
@[simp] theorem Chip.modDma_pulses : (c.modDma n f).pulses = c.pulses := rfl
@[simp] theorem Chip.modDma_freeIx : (c.modDma n f).freeIx = c.freeIx := rfl
end

section
variable (n : Nat) (f : Port → Port)
@[simp] theorem Chip.modPort_clk : (c.modPort n f).clk = c.clk := rfl
@[simp] theorem Chip.modPort_lt : (c.modPort n f).lt = c.lt := rfl
@[simp] theorem Chip.modPort_ports : (c.modPort n f).ports = vmod c.ports n f := rfl
@[simp] theorem Chip.modPort_syncper : (c.modPort n f).syncper = c.syncper := rfl
@[simp] theorem Chip.modPort_lnkfwd : (c.modPort n f).lnkfwd = c.lnkfwd := rfl
@[simp] theorem Chip.modPort_syncT1 : (c.modPort n f).syncT1 = c.syncT1 := rfl
@[simp] theorem Chip.modPort_syncDue : (c.modPort n f).syncDue = c.syncDue := rfl
@[simp] theorem Chip.modPort_spi : (c.modPort n f).spi = c.spi := rfl
@[simp] theorem Chip.modPort_mgt : (c.modPort n f).mgt = c.mgt := rfl
@[simp] theorem Chip.modPort_jtg : (c.modPort n f).jtg = c.jtg := rfl
@[simp] theorem Chip.modPort_prt : (c.modPort n f).prt = c.prt := rfl
@[simp] theorem Chip.modPort_eng : (c.modPort n f).eng = c.eng := rfl
@[simp] theorem Chip.modPort_fronds : (c.modPort n f).fronds = c.fronds := rfl
@[simp] theorem Chip.modPort_pins : (c.modPort n f).pins = c.pins := rfl
@[simp] theorem Chip.modPort_banks : (c.modPort n f).banks = c.banks := rfl
@[simp] theorem Chip.modPort_edg : (c.modPort n f).edg = c.edg := rfl
@[simp] theorem Chip.modPort_cams : (c.modPort n f).cams = c.cams := rfl
@[simp] theorem Chip.modPort_pos : (c.modPort n f).pos = c.pos := rfl
@[simp] theorem Chip.modPort_prs : (c.modPort n f).prs = c.prs := rfl
@[simp] theorem Chip.modPort_scr : (c.modPort n f).scr = c.scr := rfl
@[simp] theorem Chip.modPort_nvs : (c.modPort n f).nvs = c.nvs := rfl
@[simp] theorem Chip.modPort_lic : (c.modPort n f).lic = c.lic := rfl
@[simp] theorem Chip.modPort_dma : (c.modPort n f).dma = c.dma := rfl
@[simp] theorem Chip.modPort_credits : (c.modPort n f).credits = c.credits := rfl
@[simp] theorem Chip.modPort_rdTurn : (c.modPort n f).rdTurn = c.rdTurn := rfl
@[simp] theorem Chip.modPort_wrTurn : (c.modPort n f).wrTurn = c.wrTurn := rfl
@[simp] theorem Chip.modPort_flt : (c.modPort n f).flt = c.flt := rfl
@[simp] theorem Chip.modPort_pwr : (c.modPort n f).pwr = c.pwr := rfl
@[simp] theorem Chip.modPort_sec : (c.modPort n f).sec = c.sec := rfl
@[simp] theorem Chip.modPort_mem : (c.modPort n f).mem = c.mem := rfl
@[simp] theorem Chip.modPort_ecc : (c.modPort n f).ecc = c.ecc := rfl
@[simp] theorem Chip.modPort_pulses : (c.modPort n f).pulses = c.pulses := rfl
@[simp] theorem Chip.modPort_freeIx : (c.modPort n f).freeIx = c.freeIx := rfl
end

section
variable (a : Nat) (v : Byte)
@[simp] theorem Chip.setEcc_clk : (c.setEcc a v).clk = c.clk := rfl
@[simp] theorem Chip.setEcc_lt : (c.setEcc a v).lt = c.lt := rfl
@[simp] theorem Chip.setEcc_ports : (c.setEcc a v).ports = c.ports := rfl
@[simp] theorem Chip.setEcc_syncper : (c.setEcc a v).syncper = c.syncper := rfl
@[simp] theorem Chip.setEcc_lnkfwd : (c.setEcc a v).lnkfwd = c.lnkfwd := rfl
@[simp] theorem Chip.setEcc_syncT1 : (c.setEcc a v).syncT1 = c.syncT1 := rfl
@[simp] theorem Chip.setEcc_syncDue : (c.setEcc a v).syncDue = c.syncDue := rfl
@[simp] theorem Chip.setEcc_spi : (c.setEcc a v).spi = c.spi := rfl
@[simp] theorem Chip.setEcc_mgt : (c.setEcc a v).mgt = c.mgt := rfl
@[simp] theorem Chip.setEcc_jtg : (c.setEcc a v).jtg = c.jtg := rfl
@[simp] theorem Chip.setEcc_prt : (c.setEcc a v).prt = c.prt := rfl
@[simp] theorem Chip.setEcc_eng : (c.setEcc a v).eng = c.eng := rfl
@[simp] theorem Chip.setEcc_fronds : (c.setEcc a v).fronds = c.fronds := rfl
@[simp] theorem Chip.setEcc_pins : (c.setEcc a v).pins = c.pins := rfl
@[simp] theorem Chip.setEcc_banks : (c.setEcc a v).banks = c.banks := rfl
@[simp] theorem Chip.setEcc_edg : (c.setEcc a v).edg = c.edg := rfl
@[simp] theorem Chip.setEcc_cams : (c.setEcc a v).cams = c.cams := rfl
@[simp] theorem Chip.setEcc_pos : (c.setEcc a v).pos = c.pos := rfl
@[simp] theorem Chip.setEcc_prs : (c.setEcc a v).prs = c.prs := rfl
@[simp] theorem Chip.setEcc_scr : (c.setEcc a v).scr = c.scr := rfl
@[simp] theorem Chip.setEcc_nvs : (c.setEcc a v).nvs = c.nvs := rfl
@[simp] theorem Chip.setEcc_lic : (c.setEcc a v).lic = c.lic := rfl
@[simp] theorem Chip.setEcc_dma : (c.setEcc a v).dma = c.dma := rfl
@[simp] theorem Chip.setEcc_credits : (c.setEcc a v).credits = c.credits := rfl
@[simp] theorem Chip.setEcc_rdTurn : (c.setEcc a v).rdTurn = c.rdTurn := rfl
@[simp] theorem Chip.setEcc_wrTurn : (c.setEcc a v).wrTurn = c.wrTurn := rfl
@[simp] theorem Chip.setEcc_flt : (c.setEcc a v).flt = c.flt := rfl
@[simp] theorem Chip.setEcc_pwr : (c.setEcc a v).pwr = c.pwr := rfl
@[simp] theorem Chip.setEcc_sec : (c.setEcc a v).sec = c.sec := rfl
@[simp] theorem Chip.setEcc_mem : (c.setEcc a v).mem = c.mem := rfl
@[simp] theorem Chip.setEcc_ecc : (c.setEcc a v).ecc = memWrite 0 c.ecc (a / 16) v := rfl
@[simp] theorem Chip.setEcc_pulses : (c.setEcc a v).pulses = c.pulses := rfl
@[simp] theorem Chip.setEcc_freeIx : (c.setEcc a v).freeIx = c.freeIx := rfl
end

section
variable (k : Nat)
@[simp] theorem Chip.setFlag_clk : (c.setFlag k).clk = c.clk := rfl
@[simp] theorem Chip.setFlag_lt : (c.setFlag k).lt = c.lt := rfl
@[simp] theorem Chip.setFlag_ports : (c.setFlag k).ports = c.ports := rfl
@[simp] theorem Chip.setFlag_syncper : (c.setFlag k).syncper = c.syncper := rfl
@[simp] theorem Chip.setFlag_lnkfwd : (c.setFlag k).lnkfwd = c.lnkfwd := rfl
@[simp] theorem Chip.setFlag_syncT1 : (c.setFlag k).syncT1 = c.syncT1 := rfl
@[simp] theorem Chip.setFlag_syncDue : (c.setFlag k).syncDue = c.syncDue := rfl
@[simp] theorem Chip.setFlag_spi : (c.setFlag k).spi = c.spi := rfl
@[simp] theorem Chip.setFlag_mgt : (c.setFlag k).mgt = c.mgt := rfl
@[simp] theorem Chip.setFlag_jtg : (c.setFlag k).jtg = c.jtg := rfl
@[simp] theorem Chip.setFlag_prt : (c.setFlag k).prt = c.prt := rfl
@[simp] theorem Chip.setFlag_eng :
    (c.setFlag k).eng = { c.eng with flags := c.eng.flags ||| BitVec.ofNat 64 (2 ^ k) } := rfl
@[simp] theorem Chip.setFlag_fronds : (c.setFlag k).fronds = c.fronds := rfl
@[simp] theorem Chip.setFlag_pins : (c.setFlag k).pins = c.pins := rfl
@[simp] theorem Chip.setFlag_banks : (c.setFlag k).banks = c.banks := rfl
@[simp] theorem Chip.setFlag_edg : (c.setFlag k).edg = c.edg := rfl
@[simp] theorem Chip.setFlag_cams : (c.setFlag k).cams = c.cams := rfl
@[simp] theorem Chip.setFlag_pos : (c.setFlag k).pos = c.pos := rfl
@[simp] theorem Chip.setFlag_prs : (c.setFlag k).prs = c.prs := rfl
@[simp] theorem Chip.setFlag_scr : (c.setFlag k).scr = c.scr := rfl
@[simp] theorem Chip.setFlag_nvs : (c.setFlag k).nvs = c.nvs := rfl
@[simp] theorem Chip.setFlag_lic : (c.setFlag k).lic = c.lic := rfl
@[simp] theorem Chip.setFlag_dma : (c.setFlag k).dma = c.dma := rfl
@[simp] theorem Chip.setFlag_credits : (c.setFlag k).credits = c.credits := rfl
@[simp] theorem Chip.setFlag_rdTurn : (c.setFlag k).rdTurn = c.rdTurn := rfl
@[simp] theorem Chip.setFlag_wrTurn : (c.setFlag k).wrTurn = c.wrTurn := rfl
@[simp] theorem Chip.setFlag_flt : (c.setFlag k).flt = c.flt := rfl
@[simp] theorem Chip.setFlag_pwr : (c.setFlag k).pwr = c.pwr := rfl
@[simp] theorem Chip.setFlag_sec : (c.setFlag k).sec = c.sec := rfl
@[simp] theorem Chip.setFlag_mem : (c.setFlag k).mem = c.mem := rfl
@[simp] theorem Chip.setFlag_ecc : (c.setFlag k).ecc = c.ecc := rfl
@[simp] theorem Chip.setFlag_pulses : (c.setFlag k).pulses = c.pulses := rfl
@[simp] theorem Chip.setFlag_freeIx : (c.setFlag k).freeIx = c.freeIx := rfl
end

section
variable (p : Nat)
@[simp] theorem Chip.dirty_clk : (c.dirty p).clk = c.clk := rfl
@[simp] theorem Chip.dirty_lt : (c.dirty p).lt = c.lt := rfl
@[simp] theorem Chip.dirty_ports : (c.dirty p).ports = c.ports := rfl
@[simp] theorem Chip.dirty_syncper : (c.dirty p).syncper = c.syncper := rfl
@[simp] theorem Chip.dirty_lnkfwd : (c.dirty p).lnkfwd = c.lnkfwd := rfl
@[simp] theorem Chip.dirty_syncT1 : (c.dirty p).syncT1 = c.syncT1 := rfl
@[simp] theorem Chip.dirty_syncDue : (c.dirty p).syncDue = c.syncDue := rfl
@[simp] theorem Chip.dirty_spi : (c.dirty p).spi = c.spi := rfl
@[simp] theorem Chip.dirty_mgt : (c.dirty p).mgt = c.mgt := rfl
@[simp] theorem Chip.dirty_jtg : (c.dirty p).jtg = c.jtg := rfl
@[simp] theorem Chip.dirty_prt : (c.dirty p).prt = c.prt := rfl
@[simp] theorem Chip.dirty_eng : (c.dirty p).eng = c.eng := rfl
@[simp] theorem Chip.dirty_fronds : (c.dirty p).fronds = c.fronds := rfl
@[simp] theorem Chip.dirty_pins : (c.dirty p).pins = c.pins := rfl
@[simp] theorem Chip.dirty_banks : (c.dirty p).banks = c.banks := rfl
@[simp] theorem Chip.dirty_edg : (c.dirty p).edg = c.edg := rfl
@[simp] theorem Chip.dirty_cams : (c.dirty p).cams = c.cams := rfl
@[simp] theorem Chip.dirty_pos : (c.dirty p).pos = c.pos := rfl
@[simp] theorem Chip.dirty_prs : (c.dirty p).prs = c.prs := rfl
@[simp] theorem Chip.dirty_scr : (c.dirty p).scr = c.scr := rfl
@[simp] theorem Chip.dirty_nvs :
    (c.dirty p).nvs = { c.nvs with dirtyP := c.nvs.dirtyP ||| BitVec.ofNat 1088 (2 ^ p) } := rfl
@[simp] theorem Chip.dirty_lic : (c.dirty p).lic = c.lic := rfl
@[simp] theorem Chip.dirty_dma : (c.dirty p).dma = c.dma := rfl
@[simp] theorem Chip.dirty_credits : (c.dirty p).credits = c.credits := rfl
@[simp] theorem Chip.dirty_rdTurn : (c.dirty p).rdTurn = c.rdTurn := rfl
@[simp] theorem Chip.dirty_wrTurn : (c.dirty p).wrTurn = c.wrTurn := rfl
@[simp] theorem Chip.dirty_flt : (c.dirty p).flt = c.flt := rfl
@[simp] theorem Chip.dirty_pwr : (c.dirty p).pwr = c.pwr := rfl
@[simp] theorem Chip.dirty_sec : (c.dirty p).sec = c.sec := rfl
@[simp] theorem Chip.dirty_mem : (c.dirty p).mem = c.mem := rfl
@[simp] theorem Chip.dirty_ecc : (c.dirty p).ecc = c.ecc := rfl
@[simp] theorem Chip.dirty_pulses : (c.dirty p).pulses = c.pulses := rfl
@[simp] theorem Chip.dirty_freeIx : (c.dirty p).freeIx = c.freeIx := rfl
end

section
variable (cause : BitVec 16) (cls idx : Nat) (x : BitVec 192) (info : BitVec 32) (path : LicEntry)
@[simp] theorem Chip.record_clk : (c.record cause cls idx x info path).clk = c.clk := rfl
@[simp] theorem Chip.record_lt : (c.record cause cls idx x info path).lt = c.lt := rfl
@[simp] theorem Chip.record_ports : (c.record cause cls idx x info path).ports = c.ports := rfl
@[simp] theorem Chip.record_syncper : (c.record cause cls idx x info path).syncper = c.syncper := rfl
@[simp] theorem Chip.record_lnkfwd : (c.record cause cls idx x info path).lnkfwd = c.lnkfwd := rfl
@[simp] theorem Chip.record_syncT1 : (c.record cause cls idx x info path).syncT1 = c.syncT1 := rfl
@[simp] theorem Chip.record_syncDue : (c.record cause cls idx x info path).syncDue = c.syncDue := rfl
@[simp] theorem Chip.record_spi : (c.record cause cls idx x info path).spi = c.spi := rfl
@[simp] theorem Chip.record_mgt : (c.record cause cls idx x info path).mgt = c.mgt := rfl
@[simp] theorem Chip.record_jtg : (c.record cause cls idx x info path).jtg = c.jtg := rfl
@[simp] theorem Chip.record_prt : (c.record cause cls idx x info path).prt = c.prt := rfl
@[simp] theorem Chip.record_eng : (c.record cause cls idx x info path).eng = c.eng := rfl
@[simp] theorem Chip.record_fronds : (c.record cause cls idx x info path).fronds = c.fronds := rfl
@[simp] theorem Chip.record_pins : (c.record cause cls idx x info path).pins = c.pins := rfl
@[simp] theorem Chip.record_banks : (c.record cause cls idx x info path).banks = c.banks := rfl
@[simp] theorem Chip.record_edg : (c.record cause cls idx x info path).edg = c.edg := rfl
@[simp] theorem Chip.record_cams : (c.record cause cls idx x info path).cams = c.cams := rfl
@[simp] theorem Chip.record_pos : (c.record cause cls idx x info path).pos = c.pos := rfl
@[simp] theorem Chip.record_prs : (c.record cause cls idx x info path).prs = c.prs := rfl
@[simp] theorem Chip.record_scr : (c.record cause cls idx x info path).scr = c.scr := rfl
@[simp] theorem Chip.record_nvs : (c.record cause cls idx x info path).nvs = c.nvs := rfl
@[simp] theorem Chip.record_lic :
    (c.record cause cls idx x info path).lic
      = c.lic.give ⟨path, cause, BitVec.ofNat 8 cls, BitVec.ofNat 8 idx, c.lt.word, info, x⟩ := rfl
@[simp] theorem Chip.record_dma : (c.record cause cls idx x info path).dma = c.dma := rfl
@[simp] theorem Chip.record_credits : (c.record cause cls idx x info path).credits = c.credits := rfl
@[simp] theorem Chip.record_rdTurn : (c.record cause cls idx x info path).rdTurn = c.rdTurn := rfl
@[simp] theorem Chip.record_wrTurn : (c.record cause cls idx x info path).wrTurn = c.wrTurn := rfl
@[simp] theorem Chip.record_flt : (c.record cause cls idx x info path).flt = c.flt := rfl
@[simp] theorem Chip.record_pwr : (c.record cause cls idx x info path).pwr = c.pwr := rfl
@[simp] theorem Chip.record_sec : (c.record cause cls idx x info path).sec = c.sec := rfl
@[simp] theorem Chip.record_mem : (c.record cause cls idx x info path).mem = c.mem := rfl
@[simp] theorem Chip.record_ecc : (c.record cause cls idx x info path).ecc = c.ecc := rfl
@[simp] theorem Chip.record_pulses : (c.record cause cls idx x info path).pulses = c.pulses := rfl
@[simp] theorem Chip.record_freeIx : (c.record cause cls idx x info path).freeIx = c.freeIx := rfl
end

end Sys2Proof.Machine
end

