-- ==== Sys2Proof/Laws/Units.lean ====
section
/-!
SUPPORT. Vectors of numbered units: an element after one was set or changed, and after every one was mapped.
-/
namespace Sys2Proof.Machine

variable {α : Type} {n : Nat} [NeZero n]

/-- Unit numbers that name the same element. -/
theorem vget_eq_of_mod (v : Vector α n) {i j : Nat} (h : i % n = j % n) : vget v i = vget v j := by
  unfold vget; congr 1

theorem vget_vset (v : Vector α n) (i j : Nat) (x : α) : vget (vset v i x) j = if i % n = j % n then x else vget v j := by
  unfold vget vset
  rw [Vector.getElem_set]
  rfl

@[simp] theorem vget_vset_same (v : Vector α n) (i : Nat) (x : α) : vget (vset v i x) i = x := by simp [vget_vset]

theorem vget_vset_other (v : Vector α n) {i j : Nat} (x : α) (h : i % n ≠ j % n) : vget (vset v i x) j = vget v j := by
  simp [vget_vset, h]

@[simp] theorem vget_vmod_same (v : Vector α n) (i : Nat) (f : α → α) : vget (vmod v i f) i = f (vget v i) := by simp [vmod]

theorem vget_vmod_other (v : Vector α n) {i j : Nat} (f : α → α) (h : i % n ≠ j % n) : vget (vmod v i f) j = vget v j :=
  vget_vset_other v _ h

theorem vget_vmod (v : Vector α n) (i j : Nat) (f : α → α) :
    vget (vmod v i f) j = if i % n = j % n then f (vget v j) else vget v j := by
  by_cases h : i % n = j % n
  · rw [if_pos h, ← vget_eq_of_mod (vmod v i f) h, vget_vmod_same, vget_eq_of_mod v h]
  · rw [if_neg h, vget_vmod_other v f h]

/-- Writing an element back changes nothing. -/
theorem vset_self (v : Vector α n) (i : Nat) : vset v i (vget v i) = v := by
  unfold vget vset; exact Vector.set_getElem_self _

theorem vmod_id (v : Vector α n) (i : Nat) (f : α → α) (h : f (vget v i) = vget v i) : vmod v i f = v := by
  unfold vmod; rw [h]; exact vset_self v i

theorem vget_vmapi (v : Vector α n) (f : Nat → α → α) {i : Nat} (h : i < n) : vget (vmapi f v) i = f i (vget v i) := by
  unfold vget vmapi
  simp [Nat.mod_eq_of_lt h]

/-- Vectors with equal elements are equal. -/
theorem vget_ext {v w : Vector α n} (h : ∀ i, i < n → vget v i = vget w i) : v = w := by
  ext i hi
  have := h i hi
  simpa [vget, Nat.mod_eq_of_lt hi] using this

end Sys2Proof.Machine
end

