-- ==== Sys2Proof/Laws/Engine.lean ====
section
/-!
SUPPORT. The engine: frames between chips, what a completion leaves, and the step of an instruction that issues, by how its
body ends.
-/
namespace Sys2Proof.Machine

/-! ### Frames -/

theorem Chip.keeps.refl (ps : List Part) (a : Chip) : a.keeps ps a := by
  intro p _; cases p <;> rfl

theorem Chip.keeps.trans {ps : List Part} {a b c : Chip} (h : a.keeps ps b) (h' : b.keeps ps c) : a.keeps ps c := by
  intro p hp
  have h1 := h p hp
  have h2 := h' p hp
  cases p <;> exact h2.trans h1

theorem Chip.keeps.mono {ps qs : List Part} {a b : Chip} (h : a.keeps ps b) (hs : ∀ p ∈ ps, p ∈ qs) : a.keeps qs b :=
  fun p hp => h p fun hq => hp (hs p hq)

/-! ### Queues -/

theorem Chip.queue_modQ_same (c : Chip) (q : Queue) (f : QState → QState) : (c.modQ q.val f).queue q = f (c.queue q) := by
  simp [Chip.queue]

theorem Chip.queue_modQ_other (c : Chip) {q k : Queue} (f : QState → QState) (h : k ≠ q) :
    (c.modQ q.val f).queue k = c.queue k := by
  simp only [Chip.queue, Chip.modQ_eng]
  refine vget_vmod_other _ _ ?_
  rw [Nat.mod_eq_of_lt q.isLt, Nat.mod_eq_of_lt k.isLt]
  exact fun e => h (Fin.ext e.symm)

/-- A queue depends on the vector of queues alone. -/
theorem Chip.queue_congr {a b : Chip} (h : b.eng.queues = a.eng.queues) (k : Queue) : b.queue k = a.queue k := by
  simp [Chip.queue, h]

/-! ### Memory words -/

theorem Chip.putWord_mem (c : Chip) (a : Nat) (w : QWord) : (c.putWord a w).mem = memPut 0 c.mem (a / 16 * 16) w.toNat 16 := by
  unfold Chip.putWord; split <;> rfl

theorem Chip.putWord_ecc (c : Chip) (a : Nat) (w : QWord) : (c.putWord a w).ecc = memWrite 0 c.ecc (a / 16) 0 := by
  unfold Chip.putWord; split <;> rfl

/-- A word written is read back. -/
theorem Chip.getWord_putWord (c : Chip) (a : Nat) (w : QWord) : (c.putWord a w).getWord a = w := by
  unfold Chip.getWord
  rw [Chip.putWord_mem, memNat_put]
  apply BitVec.eq_of_toNat_eq
  simp [Nat.mod_eq_of_lt w.isLt]

/-- A write of a word changes memory, its check codes and the dirty marks only. -/
theorem Chip.putWord_keeps (c : Chip) (a : Nat) (w : QWord) : c.keeps [.mem, .ecc, .nvs] (c.putWord a w) := by
  intro p hp
  unfold Chip.putWord
  cases p <;> first | exact absurd hp (by decide) | (split <;> rfl)

theorem Chip.putWord_nvs (c : Chip) (a : Nat) (w : QWord) (h : regionOf a ≠ some 4) : (c.putWord a w).nvs = c.nvs := by
  unfold Chip.putWord; rw [if_neg h]; rfl

/-! ### Completions -/

theorem Chip.copyCompletion_keeps (c : Chip) (q : Queue) (tag st : Byte) (res : DWord) :
    c.keeps [.mgt, .scr] (c.copyCompletion q tag st res) := by
  intro p hp
  unfold Chip.copyCompletion Chip.irpDone
  cases p <;> first | exact absurd hp (by decide) | (split <;> (try split) <;> (try split) <;> (try split) <;> rfl)

/-- The slots of the rings lie in the ring region, not in the store. -/
theorem ring_region (q : Queue) (n : Nat) (h : n < 64) : regionOf (0x28000000 + q.val * 0x400 + n * 16) = some 3 := by
  have hq := q.isLt
  unfold regionOf
  rw [if_neg (by omega), if_neg (by omega), if_neg (by omega), if_pos (by omega)]

theorem Chip.ringSlot_lt (c : Chip) (q : Queue) : field (c.queue q).rnext 0 6 < 64 := by
  unfold field; exact Nat.mod_lt _ (by decide)

/-- The queue and the events of a chip changed, and nothing else. -/
theorem Chip.modQ_keeps (c : Chip) (n : Nat) (f : QState → QState) : c.keeps [.queues] (c.modQ n f) := by
  intro p hp; cases p <;> first | exact absurd hp (by decide) | rfl

theorem Chip.setEngEvt_keeps (c : Chip) (n : Nat) : c.keeps [.engEvt] (c.setEngEvt n) := by
  intro p hp; cases p <;> first | exact absurd hp (by decide) | rfl

/-- The ring after a record, seen from the chip before it. -/
theorem Chip.ringWrite_spec (c : Chip) (q : Queue) (tag st : Byte) (res : DWord) :
    c.keeps [.queues, .engEvt, .mem, .ecc] (c.ringWrite q tag st res)
      ∧ (c.ringWrite q tag st res).mem
          = memPut 0 c.mem (c.ringSlot q) (completion tag st q ((c.queue q).rnext.getLsbD 6) c.lt res).toNat 16
      ∧ (c.ringWrite q tag st res).ecc = memWrite 0 c.ecc (c.ringSlot q / 16) 0
      ∧ (c.ringWrite q tag st res).eng.evt = c.eng.evt ||| bitW 2 (c.queue q).ringFull
      ∧ (c.ringWrite q tag st res).queue q = { c.queue q with
          rnext := (c.queue q).rnext + 1
          rcons := if (c.queue q).ringFull then (c.queue q).rcons + 1 else (c.queue q).rcons
          ovf := if (c.queue q).ringFull then satAdd16 (c.queue q).ovf 1 else (c.queue q).ovf }
      ∧ ∀ k : Queue, k ≠ q → (c.ringWrite q tag st res).queue k = c.queue k := by
  have hn := c.ringSlot_lt q
  have hslot : c.ringSlot q / 16 * 16 = c.ringSlot q := by unfold Chip.ringSlot; omega
  generalize hw : completion tag st q ((c.queue q).rnext.getLsbD 6) c.lt res = w
  obtain ⟨p, hp⟩ : ∃ p, p = c.putWord (c.ringSlot q) w := ⟨_, rfl⟩
  have hk : c.keeps [.mem, .ecc] p := by
    intro x hx
    by_cases hv : x = .nvs
    · subst hv hp
      exact c.putWord_nvs _ w (by rw [Chip.ringSlot, ring_region q _ hn]; decide)
    · subst hp
      exact c.putWord_keeps _ w x (by simp only [List.mem_cons, List.not_mem_nil, or_false] at hx ⊢; tauto)
  have hq : ∀ k, p.queue k = c.queue k := fun k => Chip.queue_congr (hk .queues (by decide)) k
  have hev : p.eng.evt = c.eng.evt := hk .engEvt (by decide)
  have hmem : p.mem = memPut 0 c.mem (c.ringSlot q) w.toNat 16 := by rw [hp, Chip.putWord_mem, hslot]
  have hecc : p.ecc = memWrite 0 c.ecc (c.ringSlot q / 16) 0 := by rw [hp, Chip.putWord_ecc]
  have hd : c.ringWrite q tag st res = if (c.queue q).ringFull then (p.setEngEvt 2).modQ q.val fun x =>
        { x with rnext := x.rnext + 1, rcons := x.rcons + 1, ovf := satAdd16 x.ovf 1 }
      else p.modQ q.val fun x => { x with rnext := x.rnext + 1 } := by rw [hp, ← hw]; rfl
  rw [hd]
  have hk' : c.keeps [.queues, .engEvt, .mem, .ecc] p := hk.mono (by decide)
  cases hf : (c.queue q).ringFull
  · simp only [Bool.false_eq_true, if_false]
    refine ⟨hk'.trans ((p.modQ_keeps _ _).mono (by decide)), hmem, hecc, ?_, ?_, ?_⟩
    · rw [Chip.modQ_eng]; simp [hev, bitW]
    · rw [Chip.queue_modQ_same, hq]
    · intro k h; rw [Chip.queue_modQ_other _ _ h, hq]
  · simp only [if_true]
    have hq' : ∀ k, (p.setEngEvt 2).queue k = c.queue k := fun k => (Chip.queue_congr rfl k).trans (hq k)
    refine ⟨hk'.trans (((p.setEngEvt_keeps 2).mono (by decide)).trans ((Chip.modQ_keeps _ _ _).mono (by decide))),
      hmem, hecc, ?_, ?_, ?_⟩
    · rw [Chip.modQ_eng, Chip.setEngEvt_eng, hev]
    · rw [Chip.queue_modQ_same, hq']
    · intro k h; rw [Chip.queue_modQ_other _ _ h, hq']

/-- The counts and events of a status. -/
theorem Chip.countStatus_spec (c : Chip) (q : Queue) (st : Byte) :
    c.keeps [.queues, .engEvt, .timeouts] (c.countStatus q st)
      ∧ (c.countStatus q st).eng.evt
          = c.eng.evt ||| (bitW 4 (failed st) ||| bitW 3 (st == St.order) ||| bitW 1 (st == St.timeout))
      ∧ (c.countStatus q st).eng.timeouts
          = (if st = St.timeout then satAdd c.eng.timeouts 1 else c.eng.timeouts)
      ∧ (c.countStatus q st).queue q = { c.queue q with
          errs := if failed st then satAdd16 (c.queue q).errs 1 else (c.queue q).errs
          warns := if failed st || st == St.ok then (c.queue q).warns else satAdd16 (c.queue q).warns 1 }
      ∧ ∀ k : Queue, k ≠ q → (c.countStatus q st).queue k = c.queue k := by
  -- the counts of the queue
  obtain ⟨d, hd⟩ : ∃ d, d = (if failed st then (c.setEngEvt 4).modQ q.val fun x => { x with errs := satAdd16 x.errs 1 }
    else if st = St.ok then c else c.modQ q.val fun x => { x with warns := satAdd16 x.warns 1 }) := ⟨_, rfl⟩
  have h1 : c.keeps [.queues, .engEvt] d ∧ d.eng.evt = c.eng.evt ||| bitW 4 (failed st) ∧ d.queue q = { c.queue q with
          errs := if failed st then satAdd16 (c.queue q).errs 1 else (c.queue q).errs
          warns := if failed st || st == St.ok then (c.queue q).warns else satAdd16 (c.queue q).warns 1 }
        ∧ ∀ k : Queue, k ≠ q → d.queue k = c.queue k := by
    subst hd
    by_cases hf : failed st
    · simp only [hf, if_true, Bool.true_or]
      refine ⟨((c.setEngEvt_keeps 4).mono (by decide)).trans ((Chip.modQ_keeps _ _ _).mono (by decide)), ?_, ?_, ?_⟩
      · rw [Chip.modQ_eng, Chip.setEngEvt_eng]
      · rw [Chip.queue_modQ_same]; rfl
      · intro k h; rw [Chip.queue_modQ_other _ _ h]; rfl
    · simp only [hf, Bool.false_eq_true, if_false, Bool.false_or]
      by_cases ho : st = St.ok
      · simp only [ho, if_true, beq_self_eq_true]
        refine ⟨Chip.keeps.refl _ _, by simp [bitW], ?_, fun _ _ => ?_⟩ <;> trivial
      · simp only [ho, if_false, beq_iff_eq]
        refine ⟨(Chip.modQ_keeps _ _ _).mono (by decide), by rw [Chip.modQ_eng]; simp [bitW], ?_, ?_⟩
        · rw [Chip.queue_modQ_same]
        · intro k h; rw [Chip.queue_modQ_other _ _ h]
  -- the events that single statuses set
  have hfin : c.countStatus q st =
      let d := if st = St.order then d.setEngEvt 3 else d
      if st = St.timeout then
        { d.setEngEvt 1 with eng := { (d.setEngEvt 1).eng with timeouts := satAdd d.eng.timeouts 1 } }
      else d := by rw [hd]; rfl
  obtain ⟨hk, he, hq, ho⟩ := h1
  have ht : d.eng.timeouts = c.eng.timeouts := hk .timeouts (by decide)
  have hot : St.order ≠ St.timeout := by decide
  rw [hfin]
  by_cases h3 : st = St.order
  · subst h3
    simp only [if_true, if_neg hot, beq_self_eq_true, beq_eq_false_iff_ne.2 hot]
    refine ⟨((hk.mono (by decide)).trans ((d.setEngEvt_keeps 3).mono (by decide))), ?_, ht, hq, ho⟩
    rw [Chip.setEngEvt_eng, he]; simp [bitW, BitVec.or_assoc]
  · by_cases h1 : st = St.timeout
    · subst h1
      simp only [if_neg h3, if_true, beq_self_eq_true, beq_eq_false_iff_ne.2 h3]
      refine ⟨(hk.mono (by decide)).trans ?_, ?_, ?_, hq, ho⟩
      · intro p hp; cases p <;> first | exact absurd hp (by decide) | rfl
      · show d.eng.evt ||| bitW 1 true = _
        rw [he]; simp [bitW, BitVec.or_assoc]
      · show satAdd d.eng.timeouts 1 = _
        rw [ht]
    · simp only [if_neg h3, if_neg h1, beq_eq_false_iff_ne.2 h3, beq_eq_false_iff_ne.2 h1]
      exact ⟨hk.mono (by decide), by rw [he]; simp [bitW], ht, hq, ho⟩

/-- XOFF and XON change their port alone. -/
theorem Chip.flowControl_keeps (c : Chip) (p : Nat) : c.keeps [.ports] (c.flowControl p) := by
  intro x hx
  unfold Chip.flowControl
  cases x <;> first | exact absurd hx (by decide) | (dsimp only; split <;> (try split) <;> (try split) <;> rfl)

/-- A chip after a completion. -/
theorem Chip.retire_spec (c : Chip) (q : Queue) (f : Insn) (st : Byte) (res : DWord) :
    c.keeps [.queues, .engEvt, .timeouts, .ports, .mgt, .scr, .mem, .ecc] (c.retire q f st res)
      ∧ (c.retire q f st res).queue q = (c.queue q).completed f st
      ∧ (∀ k : Queue, k ≠ q → (c.retire q f st res).queue k = c.queue k)
      ∧ (c.retire q f st res).eng.evt = c.eng.evt ||| completionEvents (c.queue q) f st
      ∧ (c.retire q f st res).eng.timeouts = (if st = St.timeout then satAdd c.eng.timeouts 1 else c.eng.timeouts)
      ∧ (c.retire q f st res).mem = (if records f st then
          memPut 0 c.mem (c.ringSlot q) (completion f.tag st q ((c.queue q).rnext.getLsbD 6) c.lt res).toNat 16 else c.mem)
      ∧ (c.retire q f st res).ecc = (if records f st then memWrite 0 c.ecc (c.ringSlot q / 16) 0 else c.ecc)
      ∧ (¬ (2 ≤ q.val ∧ q.val ≤ 4) → (c.retire q f st res).ports = c.ports)
      ∧ (c.retire q f st res).mgt = (c.copyCompletion q f.tag st res).mgt
      ∧ (c.retire q f st res).scr = (c.copyCompletion q f.tag st res).scr := by
  obtain ⟨c1, h1⟩ : ∃ x, x = c.copyCompletion q f.tag st res := ⟨_, rfl⟩
  have k1 : c.keeps [.mgt, .scr] c1 := h1 ▸ c.copyCompletion_keeps q f.tag st res
  have q1 : ∀ k, c1.queue k = c.queue k := fun k => Chip.queue_congr (k1 .queues (by decide)) k
  have l1 : c1.lt = c.lt := k1 .lt (by decide)
  have m1 : c1.mem = c.mem := k1 .mem (by decide)
  have e1 : c1.ecc = c.ecc := k1 .ecc (by decide)
  have v1 : c1.eng.evt = c.eng.evt := k1 .engEvt (by decide)
  have s1 : c1.ringSlot q = c.ringSlot q := by unfold Chip.ringSlot; rw [q1]
  obtain ⟨c2, h2⟩ : ∃ x, x = (if f.cmpl || failed st then c1.ringWrite q f.tag st res else c1) := ⟨_, rfl⟩
  have w2 : c.keeps [.mgt, .scr, .queues, .engEvt, .mem, .ecc] c2
      ∧ c2.mgt = c1.mgt ∧ c2.scr = c1.scr
      ∧ c2.mem = (if records f st then
          memPut 0 c.mem (c.ringSlot q) (completion f.tag st q ((c.queue q).rnext.getLsbD 6) c.lt res).toNat 16 else c.mem)
      ∧ c2.ecc = (if records f st then memWrite 0 c.ecc (c.ringSlot q / 16) 0 else c.ecc)
      ∧ c2.eng.evt = c.eng.evt ||| bitW 2 (records f st && (c.queue q).ringFull)
      ∧ c2.queue q = { c.queue q with
          rnext := if records f st then (c.queue q).rnext + 1 else (c.queue q).rnext
          rcons := if records f st && (c.queue q).ringFull then (c.queue q).rcons + 1 else (c.queue q).rcons
          ovf := if records f st && (c.queue q).ringFull then satAdd16 (c.queue q).ovf 1 else (c.queue q).ovf }
      ∧ ∀ k : Queue, k ≠ q → c2.queue k = c.queue k := by
    subst h2
    by_cases hr : (f.cmpl || failed st) = true
    · have hr' : records f st = true := hr
      obtain ⟨a, b, d, e, g, i⟩ := c1.ringWrite_spec q f.tag st res
      rw [if_pos hr]
      simp only [hr', if_true, Bool.true_and]
      refine ⟨(k1.mono (by decide)).trans (a.mono (by decide)), a .mgt (by decide), a .scr (by decide), ?_, ?_, ?_, ?_, ?_⟩
      · rw [b, m1, s1, q1, l1]
      · rw [d, e1, s1]
      · rw [e, v1, q1]
      · rw [g, q1]
      · intro k hk; rw [i k hk, q1]
    · have hr' : records f st = false := eq_false_of_ne_true hr
      rw [if_neg hr]
      simp only [hr', Bool.false_eq_true, if_false, Bool.false_and]
      refine ⟨k1.mono (by decide), trivial, trivial, m1, e1, ?_, ?_, fun k _ => q1 k⟩
      · rw [v1]; simp [bitW]
      · rw [q1]
  obtain ⟨k2, g2, r2, m2, e2, v2, p2, o2⟩ := w2
  obtain ⟨c3, h3⟩ : ∃ x, x = c2.countStatus q st := ⟨_, rfl⟩
  obtain ⟨k3, v3, t3, p3, o3⟩ := c2.countStatus_spec q st
  rw [← h3] at k3 v3 t3 p3 o3
  obtain ⟨c4, h4⟩ : ∃ x, x = c3.modQ q.val fun x => { x with
    chain := f.chain && failed st
    calls := match x.calls with | [] => [] | fr :: r => { fr with count := fr.count + 1 } :: r } := ⟨_, rfl⟩
  have k4 : c3.keeps [.queues] c4 := h4 ▸ c3.modQ_keeps _ _
  have p4 : c4.queue q = (c.queue q).completed f st := by rw [h4, Chip.queue_modQ_same, p3, p2]; rfl
  have o4 : ∀ k : Queue, k ≠ q → c4.queue k = c.queue k := fun k hk => by
    rw [h4, Chip.queue_modQ_other _ _ hk, o3 k hk, o2 k hk]
  have hret : c.retire q f st res = if 2 ≤ q.val ∧ q.val ≤ 4 then c4.flowControl (q.val - 2) else c4 := by
    rw [h4, h3, h2, h1]; rfl
  have k5 : c4.keeps [.ports] (c.retire q f st res) := by
    rw [hret]; split
    · exact Chip.flowControl_keeps _ _
    · exact Chip.keeps.refl _ _
  have kq : ∀ k, (c.retire q f st res).queue k = c4.queue k := fun k => Chip.queue_congr (k5 .queues (by decide)) k
  have k24 : c2.keeps [.queues, .engEvt, .timeouts, .ports] (c.retire q f st res) :=
    (k3.mono (by decide)).trans ((k4.mono (by decide)).trans (k5.mono (by decide)))
  refine ⟨(k2.mono (by decide)).trans (k24.mono (by decide)), (kq q).trans p4, fun k hk => (kq k).trans (o4 k hk), ?_, ?_, ?_,
    ?_, ?_, ?_, ?_⟩
  · rw [show (c.retire q f st res).eng.evt = c4.eng.evt from k5 .engEvt (by decide),
      show c4.eng.evt = c3.eng.evt from k4 .engEvt (by decide), v3, v2]
    simp only [completionEvents, BitVec.or_assoc]
  · rw [show (c.retire q f st res).eng.timeouts = c4.eng.timeouts from k5 .timeouts (by decide),
      show c4.eng.timeouts = c3.eng.timeouts from k4 .timeouts (by decide), t3,
      show c2.eng.timeouts = c.eng.timeouts from k2 .timeouts (by decide)]
  · exact (k24 .mem (by decide)).trans m2
  · exact (k24 .ecc (by decide)).trans e2
  · intro hn
    rw [hret, if_neg hn]
    exact ((k4 .ports (by decide)).trans (k3 .ports (by decide))).trans (k2 .ports (by decide))
  · rw [← h1]; exact (k24 .mgt (by decide)).trans g2
  · rw [← h1]; exact (k24 .scr (by decide)).trans r2

end Sys2Proof.Machine
end

