-- ==== Sys2Proof/Laws/Fabric.lean ====
section
/-!
SUPPORT. Frames of the fabric's shared operations: what settling the pins, advancing generations once, placing fronds and the
activation edge may change.
-/
namespace Sys2Proof.Machine

/-- A fold of steps that each keep the other parts keeps them. -/
theorem keeps_foldl {α : Type} {ps : List Part} {g : Chip → α → Chip} (h : ∀ (c : Chip) x, c.keeps ps (g c x))
    (l : List α) (c : Chip) : c.keeps ps (l.foldl g c) := by
  induction l generalizing c with
  | nil => exact Chip.keeps.refl ps c
  | cons x r ih => exact (h c x).trans (ih (g c x))

theorem Chip.settle_keeps (old new : Chip) : new.keeps [.pins, .banks, .edg] (old.settle new) := by
  intro p hp
  unfold Chip.settle
  dsimp only
  split <;> cases p <;> first | rfl | exact absurd hp (by decide)

theorem Chip.onceGen_keeps (old new : Chip) : new.keeps [.fronds, .cams, .banks] (old.onceGen new) := by
  intro p hp
  cases p <;> first | rfl | exact absurd hp (by decide)

theorem Chip.modFrond_keeps (c : Chip) (n : Nat) (f : Frond → Frond) : c.keeps [.fronds] (c.modFrond n f) := by
  intro p hp
  cases p <;> first | rfl | exact absurd hp (by decide)

theorem Chip.modCam_keeps (c : Chip) (n : Nat) (f : Cam → Cam) : c.keeps [.cams] (c.modCam n f) := by
  intro p hp
  cases p <;> first | rfl | exact absurd hp (by decide)

theorem Chip.hushIrp_keeps (c : Chip) (mask : Word) : c.keeps [.scr] (c.hushIrp mask) := by
  intro p hp
  unfold Chip.hushIrp
  split <;> cases p <;> first | rfl | exact absurd hp (by decide)

/-- Fronds placed in a state change, and the IRP's answer to its master. -/
theorem Chip.placeFronds_keeps (c : Chip) (mask : Word) (st : FrondState) : c.keeps [.fronds, .scr] (c.placeFronds mask st) := by
  have fold (f : Chip → Nat → Frond → Frond) (l : List Nat) (c : Chip) :
      c.keeps [.fronds] (l.foldl (fun c n => c.modFrond n (f c n)) c) := keeps_foldl (fun c n => c.modFrond_keeps n _) l c
  unfold Chip.placeFronds Chip.seatInit
  refine Chip.keeps.trans ?_ ((Chip.hushIrp_keeps _ _).mono (by decide))
  have h := fold (fun _ _ f => { f with st := st, gen := f.gen + 1 }) (maskList (c.changing mask st)) c
  split
  · exact (h.trans (fold (fun c n f => { f with ff := c.initBits n }) _ _)).mono (by decide)
  · exact h.mono (by decide)

/-- Placing fronds changes fronds, their pins and banks, and the IRP's answer to its master. -/
theorem Chip.setFronds_keeps (c : Chip) (mask : Word) (st : FrondState) :
    c.keeps [.fronds, .pins, .banks, .edg, .scr] (c.setFronds mask st) := by
  unfold Chip.setFronds
  exact ((Chip.placeFronds_keeps c mask st).mono (by decide)).trans ((Chip.settle_keeps _ _).mono (by decide))

theorem Chip.cancelStage_keeps (c : Chip) : c.keeps [.cams, .scr] c.cancelStage := by
  unfold Chip.cancelStage
  split
  · exact Chip.keeps.refl _ _
  · rename_i cams _
    have h : c.keeps [.cams] ((maskList cams).foldl Chip.freeShadow c) :=
      keeps_foldl (g := Chip.freeShadow) (fun c n => c.modCam_keeps n _) _ c
    refine Chip.keeps.trans (h.mono (by decide)) ?_
    intro p hp
    cases p <;> first | rfl | exact absurd hp (by decide)

/-- The edge of an activation changes fronds, cams, pins, banks and scrubbing. -/
theorem Chip.actEdge_keeps (c : Chip) (s : Staged) : c.keeps [.fronds, .cams, .pins, .banks, .edg, .scr] (c.actEdge s) := by
  unfold Chip.actEdge
  refine Chip.keeps.trans ((Chip.cancelStage_keeps c).mono (by decide)) ?_
  refine Chip.keeps.trans ?_ ((Chip.settle_keeps _ _).mono (by decide))
  intro p hp
  cases p <;> first | rfl | exact absurd hp (by decide)

theorem Chip.holdPins_keeps (c : Chip) : c.keeps [.pins] c.holdPins := by
  intro p hp
  cases p <;> first | rfl | exact absurd hp (by decide)

theorem Chip.releasePins_keeps (c : Chip) : c.keeps [.pins] c.releasePins := by
  intro p hp
  unfold Chip.releasePins
  split <;> cases p <;> first | rfl | exact absurd hp (by decide)

/-- The last edge of an activation changes fronds, pins, banks and the IRP's answer to its master. -/
theorem Chip.actRun_keeps (old c : Chip) (mask : Word) (free : Bool) :
    let run := c.placeFronds mask .run
    c.keeps [.fronds, .cams, .pins, .banks, .edg, .scr]
      (old.onceGen (old.settle (if free then run.holdPins else run.releasePins))) := by
  refine Chip.keeps.trans ?_ ((Chip.onceGen_keeps _ _).mono (by decide))
  refine Chip.keeps.trans ?_ ((Chip.settle_keeps _ _).mono (by decide))
  refine Chip.keeps.trans ((Chip.placeFronds_keeps c mask .run).mono (by decide)) ?_
  cases free
  · exact (Chip.releasePins_keeps _).mono (by decide)
  · exact (Chip.holdPins_keeps _).mono (by decide)

/-- With no store to begin, the store of a routine or of an activation, nothing begins. -/
theorem Chip.startPosted_none {c : Chip} (hp : ∀ k, (c.queue k).posted = false) (hr : c.prs.rtStore = false) :
    c.startPosted = c := by
  have hc : c.claimPort = c := by
    unfold Chip.claimPort
    split
    · rw [show (List.finRange 8).find? (fun q => (c.queue q).posted) = none by simp [hp]]
    · rfl
  have hs : c.startStores 8 = c := by
    unfold Chip.startStores
    rw [show c.readyStore = none by simp [Chip.readyStore, hp]]
    split <;> simp_all
  unfold Chip.startPosted Chip.startActStore
  simp [hs, hc, hr]

/-- What an activation without register entries and routine words gives the recorder: one record. -/
theorem Chip.activate_lic {c : Chip} {die : Die} {s : Staged} (hg : s.regs = []) (ho : s.rout = [])
    (hp : ∀ k, (c.queue k).posted = false) (hr : c.prs.rtStore = false) :
    ∃ r, r.entry = .general ∧ r.cause = 0x0002 ∧ r.info = 0 ∧ (c.activate die s).lic = c.lic.give r := by
  have h0 : c.keeps [.fronds, .cams, .pins, .banks, .edg, .scr] (c.onceGen (c.actEdge s)) :=
    ((Chip.actEdge_keeps c s).trans ((Chip.onceGen_keeps c _).mono (by decide)))
  unfold Chip.activate
  simp only [hg, ho, Chip.putRoutine, List.map_nil, List.dedup_nil, List.foldl_nil, List.isEmpty_nil, Bool.not_true,
    Bool.or_false]
  generalize c.onceGen (c.actEdge s) = a at h0
  generalize hb : ({ a with prs := _, scr := _ } : Chip) = b
  have h1 : a.keeps [.prs, .scr] b := by subst hb; intro p hp; cases p <;> first | rfl | exact absurd hp (by decide)
  have hbr : b.prs.rtStore = a.prs.rtStore := by subst hb; rfl
  generalize hd : a.onceGen _ = d
  have h2 : b.keeps [.fronds, .cams, .pins, .banks, .edg, .scr] d := by
    subst hd; exact Chip.actRun_keeps a b s.runMask (!s.release)
  have hq : d.eng.queues = c.eng.queues :=
    (h2 .queues (by decide)).trans ((h1 .queues (by decide)).trans (h0 .queues (by decide)))
  have hl : d.lic = c.lic := (h2 .lic (by decide)).trans ((h1 .lic (by decide)).trans (h0 .lic (by decide)))
  have hs : d.prs.rtStore = false := by
    rw [show d.prs = b.prs from h2 .prs (by decide), hbr, show a.prs = c.prs from h0 .prs (by decide), hr]
  generalize ctxAt 32 _ ||| ctxAt 36 _ ||| ctxAt 40 _ = ctx
  have hn : ((d.setPrsEvt 2).record 0x0002 9 (if s.slot then 1 else 0) ctx).startPosted = _ :=
    Chip.startPosted_none (fun k => (congrArg QState.posted (Chip.queue_congr hq k)).trans (hp k)) hs
  rw [hn]
  refine ⟨⟨.general, 0x0002, 9, BitVec.ofNat 8 (if s.slot then 1 else 0), d.lt.word, 0, ctx⟩, rfl, rfl, rfl, ?_⟩
  rw [← hl]
  rfl

end Sys2Proof.Machine
end

