-- ==== Sys2Proof/Laws/Insn.lean ====
section
/-!
SUPPORT. The step of an instruction row that issues, by how its body ends: with a completion, with a wait, or with a chip of
its own; and where the word of a row stands when it issues.
-/
namespace Sys2Proof.Machine

/-! ### Completions and waits -/

/-- The chip `e` retired on line time `l` is what `Completes` describes. -/
theorem completes_retire {q : Queue} {f : Insn} {st : Byte} {res : DWord} {l : LineTime} {s : State} {e : Chip} :
    Completes q f st res l s e
      { s with chip := { { e with lt := l }.retire q f st res with lt := e.lt } } := by
  obtain ⟨k, hq, ho, hv, ht, hm, hc, hp, hg, hs⟩ := Chip.retire_spec { e with lt := l } q f st res
  obtain ⟨d, hd⟩ : ∃ d, d = Chip.retire { e with lt := l } q f st res := ⟨_, rfl⟩
  rw [← hd] at k hq ho hv ht hm hc hp hg hs ⊢
  have hrec : ∀ x, x = e.ringSlot q → x / 16 * 16 = x := fun x hx => by subst hx; unfold Chip.ringSlot; omega
  have hpart : ∀ p, p ∉ [Part.queues, .engEvt, .timeouts, .ports, .mgt, .scr, .mem, .ecc] →
      Chip.same p e { d with lt := e.lt } := fun p hpp => by
    by_cases hl : p = .lt
    · subst hl; rfl
    · have := k p hpp
      cases p <;> first | exact absurd rfl hl | exact this
  refine ⟨rfl, rfl, fun p hpp => hpart p (fun h => hpp (by revert h; cases p <;> decide)),
    ⟨[], by simp, hpart .memo (by decide)⟩, hq, ho, hv, ht, ?_, ?_, ?_, ?_, hp, ?_, ?_, ?_, ?_⟩
  · intro hr
    show Chip.getWord _ _ = _
    unfold Chip.getWord
    rw [hrec _ rfl]
    show BitVec.ofNat 128 (memNat 0 d.mem (e.ringSlot q) 16) = _
    rw [hm, if_pos hr]
    show BitVec.ofNat 128 (memNat 0 (memPut 0 e.mem (e.ringSlot q)
      (completion f.tag st q ((e.queue q).rnext.getLsbD 6) l res).toNat 16) (e.ringSlot q) 16) = _
    generalize completion f.tag st q ((e.queue q).rnext.getLsbD 6) l res = w
    rw [memNat_put]
    apply BitVec.eq_of_toNat_eq
    simp [Nat.mod_eq_of_lt w.isLt]
  · intro hr
    show (memRead 0 d.ecc (e.ringSlot q / 16)).toNat = 0
    rw [hc, if_pos hr]
    show (memRead 0 (memWrite 0 e.ecc (e.ringSlot q / 16) 0) (e.ringSlot q / 16)).toNat = 0
    simp
  · intro x hx
    show memRead 0 d.mem x = _
    rw [hm]
    split
    · rename_i hr
      exact memRead_put_other _ _ _ _ fun hb => hx ⟨hr, hb⟩
    · rfl
  · intro w hw
    show memRead 0 d.ecc w = _
    rw [hc]
    split
    · rename_i hr
      exact memRead_write_other fun hb => hw ⟨hr, hb⟩
    · rfl
  · intro hq5
    show d.mgt = _
    rw [hg]; unfold Chip.copyCompletion Chip.irpDone; rw [if_neg hq5]; split <;> (try split) <;> (try split) <;> rfl
  · intro hq5
    show d.mgt.lastSt = st ∧ d.mgt.lastTag = f.tag
    rw [hg]; unfold Chip.copyCompletion; rw [if_pos hq5]; exact ⟨rfl, rfl⟩
  · intro hq6
    show d.scr = _
    rw [hs]; unfold Chip.copyCompletion; rw [if_neg hq6]; split <;> rfl
  · intro hq6 hi
    have hq5 : q ≠ 5 := by subst hq6; decide
    refine ⟨fun hd hr => ?_, fun hd => ?_⟩ <;>
      (show d.scr = _; rw [hs]; unfold Chip.copyCompletion Chip.irpDone; rw [if_neg hq5, if_pos hq6]; simp_all)

/-- The same with the line time of the chip itself. -/
theorem completes_retire_now {q : Queue} {f : Insn} {st : Byte} {res : DWord} {s : State} {e : Chip} :
    Completes q f st res e.lt s e { s with chip := e.retire q f st res } := by
  have h := completes_retire (q := q) (f := f) (st := st) (res := res) (l := e.lt) (s := s) (e := e)
  have hl : (e.retire q f st res).lt = e.lt := (Chip.retire_spec e q f st res).1 .lt (by decide)
  have : ({ { e with lt := e.lt }.retire q f st res with lt := e.lt } : Chip) = e.retire q f st res := by
    conv_rhs => rw [show e.retire q f st res = { e.retire q f st res with lt := (e.retire q f st res).lt } from rfl, hl]
  rwa [this] at h

theorem waits_begin {q : Queue} {code : BitVec 8} {f : Insn} {k : WaitKind} {x res : BitVec 64} {s : State} {e : Chip} :
    Waits q code f k x res s e { s with chip := e.beginWait q code f k x res } := by
  refine ⟨rfl, rfl, ?_, ⟨[], by simp, rfl⟩, ?_, ?_, rfl⟩
  · intro p hp; cases p <;> first | exact absurd hp (by decide) | rfl
  · show vget (vmod _ _ _) _ = _
    rw [vget_vmod_same]; rfl
  · intro j hj
    show vget (vmod _ _ _) _ = _
    rw [vget_vmod_other]; · rfl
    rw [Nat.mod_eq_of_lt q.isLt, Nat.mod_eq_of_lt j.isLt]
    exact fun e => hj (Fin.ext e.symm)

/-! ### The changes of a cc are noted -/

/-- Noting units changes the memory of the cc alone. -/
theorem Chip.noteUnits_eq (e : Chip) (l : List UnitNote) :
    e.noteUnits l = { e with eng := { e.eng with memo := (e.noteUnits l).eng.memo } } := by
  unfold Chip.noteUnits Chip.modMemo
  split <;> rfl

/-- What a completion leaves is the same when the units that its instruction changed are noted. -/
theorem Completes.noted {q : Queue} {f : Insn} {st : Byte} {res : DWord} {l : LineTime} {s t : State} {e : Chip}
    {n : List UnitNote} (hn : ∀ x ∈ n, x.queue = q ∧ x.f = f) (h : Completes q f st res l s (e.noteUnits n) t)
    (hm : t.chip.eng.memo = (e.noteUnits n).eng.memo) : Completes q f st res l s e t := by
  rw [Chip.noteUnits_eq] at h
  obtain ⟨h1, h2, h3, -, h5, h6, h7, h8, h9, h10, h11, h12, h13, h14, h15, h16, h17⟩ := h
  exact ⟨h1, h2, fun p hp => by have := h3 p hp; cases p <;> first | exact absurd hp (by decide) | exact this,
    ⟨n, hn, hm⟩, h5, h6, h7, h8, h9, h10, h11, h12, h13, h14, h15, h16, h17⟩

/-- So what a wait leaves. -/
theorem Waits.noted {q : Queue} {code : BitVec 8} {f : Insn} {k : WaitKind} {x res : BitVec 64} {s t : State} {e : Chip}
    {n : List UnitNote} (hn : ∀ x ∈ n, x.queue = q ∧ x.f = f) (h : Waits q code f k x res s (e.noteUnits n) t)
    (hm : t.chip.eng.memo = (e.noteUnits n).eng.memo) : Waits q code f k x res s e t := by
  rw [Chip.noteUnits_eq] at h
  obtain ⟨h1, h2, h3, -, h5, h6, h7⟩ := h
  exact ⟨h1, h2, fun p hp => by have := h3 p hp; cases p <;> first | exact absurd hp (by decide) | exact this,
    ⟨n, hn, hm⟩, h5, h6, h7⟩

/-- The units that an instruction notes are its own. -/
theorem changes_own (a b : Chip) (q : Queue) (f : Insn) : ∀ x ∈ a.changes b q f, x.queue = q ∧ x.f = f := by
  intro x hx
  unfold Chip.changes at hx
  simp only [List.mem_append, List.mem_map] at hx
  rcases hx with (((⟨_, _, rfl⟩ | ⟨_, _, rfl⟩) | ⟨_, _, rfl⟩) | ⟨_, _, rfl⟩) | hx <;>
    first | exact ⟨rfl, rfl⟩ | skip
  split at hx
  · simp only [List.mem_singleton] at hx; subst hx; exact ⟨rfl, rfl⟩
  · simp at hx

/-- The units noted with what a body ends with. -/
theorem Done.noting_eq (b : Chip) (q : Queue) (code : Byte) (f : Insn) :
    (∀ st res e, ∃ n, (∀ x ∈ n, x.queue = q ∧ x.f = f) ∧
      Done.noting b q code f (.done st res e) = .done st res (e.noteUnits n))
    ∧ ∀ k t res e, ∃ n, (∀ x ∈ n, x.queue = q ∧ x.f = f) ∧
      Done.noting b q code f (.wait k t res e) = .wait k t res (e.noteUnits n) := by
  constructor <;> intros <;> unfold Done.noting <;> split
  · exact ⟨[], by simp, rfl⟩
  · exact ⟨_, changes_own _ _ _ _, rfl⟩
  · exact ⟨[], by simp, rfl⟩
  · exact ⟨_, changes_own _ _ _ _, rfl⟩

/-! ### Records describe their instruction -/

theorem tellRecords_of_le {n : Nat} {info : BitVec 32} {l : List LicRec} (h : l.length ≤ n) : tellRecords n info l = l := by
  unfold tellRecords
  rw [List.take_of_length_le h, List.drop_eq_nil_of_le h]
  simp

/-- A body that gives the recorder nothing is described by nothing. -/
theorem Chip.describe_none {b e : Chip} {info : BitVec 32} (h : b.noRecord e) : e.describe b info = e := by
  obtain ⟨hb, hw⟩ := h
  unfold Chip.describe Chip.sortRecords
  rw [← hb, ← hw, tellRecords_of_le le_rfl, tellRecords_of_le le_rfl]
  simp [recSort]

/-- A record that a body adds without its instruction is given it. -/
theorem Chip.describe_one {b e : Chip} {r : LicRec} {info : BitVec 32} (h : b.oneRecord e r) (hr : r.info = 0) :
    e.describe b info = { e with lic := { b.lic with buf := b.lic.buf ++ [{ r with info := info }] } } := by
  unfold Chip.oneRecord at h
  unfold Chip.describe Chip.sortRecords tellRecords
  simp [h, hr, recSort, recInsert]

/-- A body that finds the entries it needs does not wait for the writer. -/
theorem takeWriter_of_wait {b e : Chip} {q : Queue} {code st : Byte} {t r res : BitVec 64}
    (h : e.lic.wait = b.lic.wait) : (Done.done st res e).takeWriter b q code t r = .done st res e := by
  simp [Done.takeWriter, h]

/-- So a body that begins a wait. -/
theorem takeWriter_of_wait' {b e : Chip} {q : Queue} {code : Byte} {k : WaitKind} {t r x res : BitVec 64}
    (h : e.lic.wait = b.lic.wait) : (Done.wait k x res e).takeWriter b q code t r = .wait k x res e := by
  simp [Done.takeWriter, h]

/-! ### The row -/

/-- With no switch of the clock in flight nothing ends before a command. -/
theorem Chip.endSwitch_none {c : Chip} (h : c.clk.switch = none) : c.endSwitch = c := by
  simp [Chip.endSwitch, Chip.runSwitch, h]

/-- The chip that an issuing instruction leaves, from how its body ends. -/
theorem insn_issues {o : OpInfo} {body : Body} {q : Queue} {f : Insn} {s : State} {b : Chip}
    (h : s.chip.issuesAs o q f b) :
    insn o body q f s = .next { s with chip := Chip.finish q o.code f b.lt (runBody body q f s.die o.code b) } := by
  obtain ⟨hon, c, ht, hch, hf, hpre, rfl⟩ := h
  have hcore : s.chip.endSwitch.coreOn = true := by
    unfold Chip.engineOn at hon; exact (Bool.and_eq_true _ _ ▸ hon).1
  unfold insn onChip inFlight runInsn
  simp only [hcore, hon, Bool.not_true, Bool.false_eq_true, if_false, ht]
  unfold Chip.issue
  unfold Chip.begun at hpre
  simp only [hch, Bool.false_eq_true, if_false, hf, hpre]
  rfl

/-- An instruction whose body ends with a status and gives the recorder nothing: its effect, then its completion. -/
theorem insn_done {o : OpInfo} {body : Body} {q : Queue} {f : Insn} {s : State} {b e : Chip} {st : Byte} {res : DWord}
    (h : s.chip.issuesAs o q f b) (hb : body q f s.die b = .done st res e) (hr : b.noRecord e) :
    ∃ t, insn o body q f s = .next t ∧ Completes q f st res b.lt s e t := by
  obtain ⟨n, hn, he⟩ := (Done.noting_eq b q o.code f).1 st res e
  have hr' : b.noRecord (e.noteUnits n) := by rw [Chip.noteUnits_eq]; exact hr
  refine ⟨_, insn_issues h, ?_⟩
  unfold runBody
  rw [hb, takeWriter_of_wait hr.2, he]
  simp only [Done.describe, Chip.describe_none hr', Chip.finish]
  exact completes_retire.noted hn ((Chip.retire_spec _ q f st res).1 .memo (by decide))

/-- An instruction whose body adds one record: the record names it. -/
theorem insn_done_record {o : OpInfo} {body : Body} {q : Queue} {f : Insn} {s : State} {b e : Chip} {st : Byte} {res : DWord}
    {r : LicRec} (h : s.chip.issuesAs o q f b) (hb : body q f s.die b = .done st res e) (hr : b.oneRecord e r)
    (hi : r.info = 0) :
    ∃ t, insn o body q f s = .next t ∧ Completes q f st res b.lt s
      { e with lic := { b.lic with buf := b.lic.buf ++ [{ r with info := insnInfo q o.code f.tag st }] } } t := by
  refine ⟨_, insn_issues h, ?_⟩
  have hw : e.lic.wait = b.lic.wait := by unfold Chip.oneRecord at hr; rw [hr]
  obtain ⟨n, hn, he⟩ := (Done.noting_eq b q o.code f).1 st res e
  have hr' : b.oneRecord (e.noteUnits n) r := by rw [Chip.noteUnits_eq]; exact hr
  unfold runBody
  rw [hb, takeWriter_of_wait hw, he]
  rw [Done.describe, Chip.describe_one hr' hi]
  generalize ({ b.lic with buf := b.lic.buf ++ [{ r with info := insnInfo q o.code f.tag st }] } : Lic) = lic
  have hc (x : Lic) : ({ e.noteUnits n with lic := x } : Chip) = ({ e with lic := x } : Chip).noteUnits n := by
    unfold Chip.noteUnits Chip.modMemo; split <;> rfl
  rw [hc]
  exact completes_retire.noted hn ((Chip.retire_spec _ q f st res).1 .memo (by decide))

/-- An instruction whose body ends with a wait. -/
theorem insn_wait {o : OpInfo} {body : Body} {q : Queue} {f : Insn} {s : State} {b e : Chip} {k : WaitKind}
    {x res : BitVec 64} (h : s.chip.issuesAs o q f b) (hb : body q f s.die b = .wait k x res e)
    (hr : e.lic.wait = b.lic.wait) :
    ∃ t, insn o body q f s = .next t ∧ Waits q o.code f k x res s e t := by
  obtain ⟨n, hn, he⟩ := (Done.noting_eq b q o.code f).2 k x res e
  refine ⟨_, insn_issues h, ?_⟩
  unfold runBody
  rw [hb, takeWriter_of_wait' hr, he]
  exact waits_begin.noted hn rfl

/-- An instruction whose body leaves a chip of its own. -/
theorem insn_hold {o : OpInfo} {body : Body} {q : Queue} {f : Insn} {s : State} {b e : Chip}
    (h : s.chip.issuesAs o q f b) (hb : body q f s.die b = .hold e) :
    insn o body q f s = .next { s with chip := e } := by
  rw [insn_issues h]; unfold runBody; rw [hb]
  unfold Done.noting
  split <;> rfl

/-! ### What the chip of a body is -/

/-- Taking a word changes queues, and in a routine the check codes and counts of a corrected fetch, nothing else. -/
theorem Chip.begun_keeps (c : Chip) (q : Queue) : c.keeps [.queues] (c.begun q) := c.modQ_keeps _ _

/-- With nothing before it, the word of a row leaves the chip as it is, but for the kind of its slot in Q5 and Q7. -/
theorem take_empty {c : Chip} {q : Queue} {w : QWord} (hh : (c.queue q).halted = false) (hw : (c.queue q).wait = none)
    (hc : (c.queue q).calls = []) (hn : (c.queue q).words = []) :
    c.take q w = .yes (if q = 5 ∨ q = 7 then c.modQ q.val (QState.note false) else c) := by
  unfold Chip.take Chip.fetchCheck
  simp [hh, hw, hc, hn, Chip.fetchWaits]

theorem begun_self {c : Chip} {q : Queue} (h : (c.queue q).fenceOk = false) : c.begun q = c := by
  have : vmod c.eng.queues q.val (fun x => { x with fenceOk := false }) = c.eng.queues := by
    refine vmod_id _ _ _ ?_
    have h' : (vget c.eng.queues q.val).fenceOk = false := h
    conv_rhs => rw [show vget c.eng.queues q.val
      = { vget c.eng.queues q.val with fenceOk := (vget c.eng.queues q.val).fenceOk } from rfl, h']
  unfold Chip.begun Chip.modQ
  rw [this]

end Sys2Proof.Machine
end

