-- ==== Sys2Proof/Tests/Slice0.lean ====
section
/-!
SUPPORT. The tests: ill-formed commands that WellFormed refuses, words written out from Table IMD-1, small steps with the
results that the spec's tables give, and for each statement with hypotheses a state and operands that meet them.
-/
namespace Sys2Proof.Tests
open Sys2Proof.Machine

set_option Elab.async false

/-! ### Small states -/

/-- The chip with power good, start-up over and the personality slot machine in USER. -/
def up : Chip :=
  { Chip.reset with
    pwr := { Pwr.reset with pgood := true, fuseRead := true }
    clk := { Clk.reset with xtalOk := true }
    prs := { Prs.reset with ldr := .user }
    nvs := { Nvs.reset with vcapOk := true }
    lic := { Lic.reset with restored := true } }

/-- A chip as a state with no command waiting. -/
def at_ (c : Chip) (d : Die := Die.reset) : State := ⟨[], d, c⟩

/-- The core runs and no switch of the clock is in flight. -/
def on (c : Chip) : Bool := c.clk.switch.isNone && c.coreOn

/-- Instruction fields: target, operand, ext. -/
def ins (tgt : Word) (op : DWord) (ext : Byte := 0) : Insn := ⟨false, false, true, false, 0, 0x5A, ext, tgt, op⟩

/-- The same, staged in a transaction. -/
def tx (tgt : Word) (op : DWord) (ext : Byte := 0) : Insn := { ins tgt op ext with tx := true }

/-- A queue set in a chip. -/
def withQ (c : Chip) (q : Queue) (g : QState → QState) : Chip := c.modQ q.val g

/-- The chip once queue `q`, which stands empty, has taken an instruction: in Q5 and Q7 the kind of its slot is noted. -/
def issued (a : Chip) (q : Queue) : Chip := if q = 5 ∨ q = 7 then a.modQ q.val (QState.note false) else a

/-- Queue `q` stands empty and the instruction passes checks 1 to 3. -/
def ready (a : Chip) (o : OpInfo) (q : Queue) (f : Insn) : Bool :=
  let b := issued a q
  a.clk.switch.isNone && a.engineOn && !(a.queue q).halted && (a.queue q).wait.isNone && (a.queue q).calls.isEmpty
    && (a.queue q).words.isEmpty && !(b.queue q).chain && !(b.queue q).fenceOk && (b.precheck o q f).isNone
    && !b.fenced q o.code f

/-- An instruction that is ready issues on the chip that has taken it. -/
theorem issues {a b : Chip} {o : OpInfo} {q : Queue} {f : Insn} (h : ready a o q f = true) (hb : issued a q = b := by rfl) :
    a.issuesAs o q f b := by
  subst hb
  simp only [ready, Bool.and_eq_true, Bool.not_eq_true', Option.isNone_iff_eq_none, List.isEmpty_iff] at h
  obtain ⟨⟨⟨⟨⟨⟨⟨⟨⟨h0, h1⟩, h2⟩, h3⟩, h4⟩, h5⟩, h6⟩, h7⟩, h8⟩, h9⟩ := h
  have hb := begun_self h7
  unfold Chip.issuesAs
  rw [Chip.endSwitch_none h0]
  exact ⟨h1, issued a q, take_empty h2 h3 h4 h5, h6, h9, by rw [hb]; exact h8, hb.symm⟩

/-- Issue and the clause's other hypotheses. -/
theorem meets {a b : Chip} {o : OpInfo} {q : Queue} {f : Insn} {P : Prop} (h : ready a o q f = true) (hP : P)
    (hb : issued a q = b := by rfl) : a.issuesAs o q f b ∧ P := ⟨issues h hb, hP⟩
/-! ### Well-formed commands: one ill-formed command for each check -/

theorem test_function_bits_name_the_row : fnOk (.linkCtlEnable 0 (ins 0 2)) = false ∧
    (Instr.linkCtlEnable 0 (ins 0 2)).wellFormed = false ∧ (Instr.linkCtlEnable 0 (ins 0 1)).wellFormed = true := by decide

theorem test_operands_stay_in_range : operandOk (.linkUp 3) = false ∧ (Instr.linkUp 3).wellFormed = false ∧
    (Instr.linkUp 2).wellFormed = true ∧ (Instr.calPinMeasure 192).wellFormed = false ∧
    (Instr.bypass 0x004).wellFormed = false ∧ (Instr.bypass 0x005).wellFormed = true ∧
    (Instr.warmReset 0 [(6, 1)]).wellFormed = false ∧ (Instr.warmReset 0 [(5, 1)]).wellFormed = true := by decide

theorem test_reserved_bits_are_zero : reservedOk (.nop 0 { ins 0 0 with rsv := 1 }) = false ∧
    (Instr.nop 0 { ins 0 0 with rsv := 1 }).wellFormed = false ∧ (Instr.nop 0 (ins 0 0)).wellFormed = true := by decide

theorem test_queue_may_issue : queueOk (.nvUnlock 2 (ins 0 0)) = false ∧ (Instr.nvUnlock 2 (ins 0 0)).wellFormed = false ∧
    (Instr.nvUnlock 1 (ins 0 0)).wellFormed = true := by decide

/-! ### Words of Table IMD-1; the first two stand in the spec's worked examples -/

theorem test_word_edge_pulse : decodeWord 0 0x3120310903A9817C0000000000000008
    = some (.edgePulse 0 ⟨false, false, true, false, 0, 0x31, 0x09, 0x03A9817C, 0x8⟩) := by decide

theorem test_word_wait_time : decodeWord 1 0x03203200000000000000117836045000
    = some (.waitTime 1 ⟨false, false, true, false, 0, 0x32, 0, 0, 0x0000117836045000⟩) := by decide

theorem test_word_cam_arm_tx_fence_chain : decodeWord 3 0x41D0AB000000001F0000000000000000
    = some (.camArm 3 ⟨true, true, false, true, 0, 0xAB, 0, 0x1F, 0⟩) := by decide

theorem test_word_functions : decodeWord 0 0xB2000000000000010000000000000006 = some (.linkCtlSyncNow 0 (wordFields 0xB2000000000000010000000000000006)) ∧
    decodeWord 0 0xB2000000000000010000000000000007 = none ∧ decodeWord 0 0x0F000000000000000000000000000000 = none ∧
    decodeWord 0 0xD0000000000000000000000000000000 = none := by decide

theorem test_table_gives_no_bits : decodeTableWord 128 0 = none ∧ State.reset.withFetchWord 128 0 = State.reset := ⟨rfl, rfl⟩
/-! ### Hypotheses that can be met: one theorem for each statement, one line for each of its clauses -/

/-- A queue that waits. -/
def waiting (c : Chip) (q : Queue) (k : WaitKind) (code : BitVec 8) (f : Insn) (t res : BitVec 64) : Chip :=
  withQ c q fun x => { x with wait := some ⟨k, code, f, t, 0, res⟩ }

/-- No queue waits for a channel to drain. -/
theorem no_drain {a : Chip} (h : ∀ k, (a.queue k).wait = none) : ∀ k w, (a.queue k).wait = some w → w.kind ≠ .drain :=
  fun k w hw => by rw [h k] at hw; cases hw

theorem witness_StepRunsTheFrontCommand :
    ({ at_ up with pending := [.vcapOk, .reset] } : State).pending = Instr.vcapOk :: [Instr.reset] := rfl

theorem witness_IdleStepIsOneClockPeriod : (at_ up).pending = [] ∧ up.coreOn = true ∧ up.clk.switch = none ∧
    (∀ q, (up.queue q).words = [] ∧ (up.queue q).calls = []) ∧ up.scr.irpEn = false ∧ up.scr.running = none ∧
    up.stager = none ∧ up.mgt.stretch = false ∧ up.lt.slew = 0 := by decide

/-- A queue whose ring holds 64 records. -/
def fullRing (q : Queue) : Chip := withQ up q fun x => { x with rnext := 0x3F, rcons := 0x7F }

theorem witness_IssueAndRetirement_WordIssuesFromItsPlace :
    (up.clk.switch = none ∧ up.engineOn = true ∧ (up.queue 7).halted = false ∧ (up.queue 7).wait = none ∧
      (up.queue 7).calls = [] ∧ (up.queue 7).chain = false ∧ (up.queue 7).fenceOk = false ∧
      Op.fence.named (ins 0 0) = true ∧ Op.fence.permits 7 = true ∧ (ins 0 0).tx = false ∧ up.executing 7 = false ∧
      (up.queue 7).words = []) ∧
    (Op.st.named (ins 0x10008 1) = true ∧ Op.st.permits 5 = true ∧ Op.st.code = 0x11 ∧ q5May (ins 0x10008 1) = true) ∧
    (let a := withQ up 0 fun x => { x with words := [encodeWord Op.sigEvt.code (ins 0 1)] };
      a.clk.switch = none ∧ a.engineOn = true ∧ (a.queue 0).halted = false ∧ (a.queue 0).wait = none ∧ (a.queue 0).calls = [] ∧
      (a.queue 0).chain = false ∧ (a.queue 0).fenceOk = false ∧ Op.sigEvt.named (ins 0 1) = true ∧
      Op.sigEvt.permits 0 = true ∧ (ins 0 1).fence = false ∧ (a.queue 0).words = encodeWord Op.sigEvt.code (ins 0 1) :: []) := by
  decide

theorem witness_IssueAndRetirement_FullRingLosesItsOldestRecord : (ins 0 0).cmpl = true ∧ 0x10 ≤ St.range.toNat ∧
    ((fullRing 5).queue 5).rnext - ((fullRing 5).queue 5).rcons = 64 := by decide

theorem witness_ChecksComeBeforeTheEffect :
    let chained := withQ up 1 fun x => { x with chain := true }
    let behind := withQ up 2 fun x => { x with wait := some ⟨.storeDone, 0x16, ins 0 0, 0, 0, 0⟩ }
    let odd : Insn := { ins 0 0 with rsv := 8 }
    up.clk.switch = none ∧ up.engineOn = true ∧
    ((Instr.nop 1 (ins 0 0)).insn? = some (1, Op.nop, ins 0 0) ∧ chained.clk.switch = none ∧ chained.engineOn = true ∧
      chained.take 1 (encodeWord Op.nop.code (ins 0 0)) = .yes chained ∧ (chained.queue 1).chain = true) ∧
    ((Instr.fence 1 (ins 0 0)).insn? = some (1, Op.fence, ins 0 0) ∧ behind.clk.switch = none ∧ behind.engineOn = true ∧
      behind.take 1 (encodeWord Op.fence.code (ins 0 0)) = .yes behind ∧ (behind.queue 1).chain = false ∧
      behind.fenced 1 Op.fence.code (ins 0 0) = true) ∧
    ((Instr.nop 1 odd).insn? = some (1, Op.nop, odd) ∧ up.take 1 (encodeWord Op.nop.code odd) = .yes up ∧
      (up.queue 1).chain = false ∧ up.fenced 1 Op.nop.code odd = false ∧ Op.nop.named odd = false) ∧
    ((Instr.nvUnlock 4 (ins 0 0)).insn? = some (4, Op.nvUnlock, ins 0 0) ∧
      up.take 4 (encodeWord Op.nvUnlock.code (ins 0 0)) = .yes up ∧ up.fenced 4 Op.nvUnlock.code (ins 0 0) = false ∧
      Op.nvUnlock.named (ins 0 0) = true ∧ Op.nvUnlock.permits 4 = false) ∧
    ((Instr.st 5 (ins 0x10000000 1)).insn? = some (5, Op.st, ins 0x10000000 1) ∧
      up.take 5 (encodeWord Op.st.code (ins 0x10000000 1)) = .yes (issued up 5) ∧
      ((issued up 5).queue 5).chain = false ∧ (issued up 5).fenced 5 Op.st.code (ins 0x10000000 1) = false ∧
      Op.st.named (ins 0x10000000 1) = true ∧ Op.st.code = 0x11 ∧ q5May (ins 0x10000000 1) = false) ∧
    ((Instr.ctrInc 0 (tx 0x3F 1)).insn? = some (0, Op.ctrInc, tx 0x3F 1) ∧
      up.take 0 (encodeWord Op.ctrInc.code (tx 0x3F 1)) = .yes up ∧ up.fenced 0 Op.ctrInc.code (tx 0x3F 1) = false ∧
      Op.ctrInc.named (tx 0x3F 1) = true ∧ Op.ctrInc.permits 0 = true ∧ up.txnOf 0 = none) ∧
    (Instr.nop 0 (ins 0 0)).insn? = some (0, Op.nop, ins 0 0) ∧ Chip.reset.clk.switch = none ∧ Chip.reset.coreOn = false :=
  ⟨rfl, by decide, ⟨rfl, rfl, by decide, take_empty rfl rfl rfl rfl, by decide⟩,
    ⟨rfl, rfl, by decide, take_empty rfl rfl rfl rfl, by decide⟩, ⟨rfl, take_empty rfl rfl rfl rfl, by decide⟩,
    ⟨rfl, take_empty rfl rfl rfl rfl, by decide⟩, ⟨rfl, take_empty rfl rfl rfl rfl, by decide⟩,
    ⟨rfl, take_empty rfl rfl rfl rfl, by decide⟩, rfl, rfl, by decide⟩

theorem witness_QueueControlInstructions :
    up.issuesAs Op.nop 7 (ins 0 0) (issued up 7) ∧ up.issuesAs Op.fence 0 (ins 0 0) up ∧
    (up.issuesAs Op.sigEvt 0 (ins 0 0x7FFFFFFF80000000) up ∧
      ∀ k, k < 32 → ((0x7FFFFFFF80000000 : DWord).getLsbD k && (0x7FFFFFFF80000000 : DWord).getLsbD (32 + k)) = false) ∧
    (up.issuesAs Op.sigEvt 0 (ins 0 0x8000000080000000) up ∧
      ∃ k, k < 32 ∧ (0x8000000080000000 : DWord).getLsbD k = true ∧ (0x8000000080000000 : DWord).getLsbD (32 + k) = true) ∧
    (up.issuesAs Op.haltQ 0 (ins 6 0 1) up ∧ (Fin.ofNat 8 6 : Queue) ≠ 7 ∧ (1 : Byte).getLsbD 1 = false) ∧
    (up.issuesAs Op.haltQ 0 (ins 0 0 0) up ∧ (0 : Byte).getLsbD 1 = false ∧ (0 : Byte).getLsbD 0 = false) ∧
    (up.issuesAs Op.haltQ 0 (ins 7 0 1) up ∧ (Fin.ofNat 8 7 : Queue) = 7) ∧
    (up.issuesAs Op.haltQ 0 (ins 0 0 2) up ∧ (Fin.ofNat 8 0 : Queue) = 0 ∧ (2 : Byte).getLsbD 1 = true) ∧
    (up.issuesAs Op.haltQ 0 (ins 1 0 3) up ∧ (Fin.ofNat 8 1 : Queue) ≠ 0 ∧ (3 : Byte).getLsbD 1 = true ∧
      (up.queue 1).wait = none ∧ (up.queue 1).calls = []) :=
  ⟨issues (by decide), issues (by decide), meets (by decide) (by decide), meets (by decide) ⟨31, by decide⟩,
    meets (by decide) (by decide), meets (by decide) (by decide), meets (by decide) (by decide),
    meets (by decide) (by decide), meets (by decide) (by decide)⟩

/-- The extrapolator tracks a standing model at position 5. -/
def tracking : Chip := { up with pos := { Pos.reset with st := .tracking, p0 := 5 } }

set_option maxRecDepth 2000 in
theorem witness_WaitsTestWhatTheyName :
    let flagged : Chip := { up with eng := { up.eng with flags := 2 } }
    let evt := { waiting up 0 .event 0x04 (ins 0 3) 3 0 with eng := { (waiting up 0 .event 0x04 (ins 0 3) 3 0).eng with flags := 2 } }
    let stuck := waiting up 0 .event 0x04 (ins 0 3) 3 0
    let timed := waiting up 0 .time 0x03 (ins 0 64) 64 0
    let far : DWord := 0x8000000000000000
    let farther := waiting up 0 .time 0x03 (ins 0 far) far 0
    let pos := { waiting tracking 0 .position 0x02 (ins 0 5) 5 4 with pos := tracking.pos }
    (flagged.issuesAs Op.waitEvt 0 (ins 0 3) flagged ∧ flagged.eng.flags &&& (ins 0 3).op ≠ 0) ∧
    (up.issuesAs Op.waitEvt 0 (ins 0 3) up ∧ (ins 0 3).op ≠ 0 ∧ up.eng.flags &&& (ins 0 3).op = 0) ∧
    (up.issuesAs Op.waitEvt 0 (ins 0 0) up ∧ (ins 0 0).op = 0) ∧
    (evt.clk.switch = none ∧ evt.coreOn = true ∧ (evt.queue 0).wait = some ⟨.event, 0x04, ins 0 3, 3, 0, 0⟩ ∧ evt.eng.flags &&& 3 ≠ 0) ∧
    (stuck.clk.switch = none ∧ stuck.coreOn = true ∧ stuck.eng.flags &&& 3 = 0 ∧ (stuck.queue 0).wait = some ⟨.event, 0x04, ins 0 3, 3, 0, 0⟩ ∧ stuck.txnOf 0 = none ∧
      stuck.prs.rtStore = false ∧ (∀ k, (stuck.queue k).posted = false) ∧ stuck.eng.nvQ ≠ some 0 ∧ stuck.circle = true ∧
      stuck.youngest = some (0, ⟨.event, 0x04, ins 0 3, 3, 0, 0⟩)) ∧
    (up.issuesAs Op.waitTime 0 (ins 0 (-1)) up ∧ ((-1 : DWord) - up.now).toInt < 0) ∧
    (up.issuesAs Op.waitTime 0 (ins 0 63) up ∧ 0 ≤ ((63 : DWord) - up.now).toInt ∧ ((63 : DWord) - up.next).toInt < 0) ∧
    (up.issuesAs Op.waitTime 0 (ins 0 64 1) up ∧ 0 ≤ (up.now + 64 - up.now).toInt ∧ 0 ≤ (up.now + 64 - up.next).toInt) ∧
    (timed.clk.switch = none ∧ timed.coreOn = true ∧ (timed.queue 0).wait = some ⟨.time, 0x03, ins 0 64, 64, 0, 0⟩ ∧
      ((64 : DWord) - (timed.advance 64).next).toInt < 0) ∧
    (farther.clk.switch = none ∧ farther.coreOn = true ∧ (farther.queue 0).wait = some ⟨.time, 0x03, ins 0 far, far, 0, 0⟩ ∧
      0 ≤ (far - (farther.advance far).next).toInt) ∧
    (tracking.issuesAs Op.waitPos 0 (ins 0 5) tracking ∧ (0 : Byte).getLsbD 0 = false ∧ tracking.moving = true ∧ 0 ≤ (tracking.look.getD 0 - 5).toInt) ∧
    (tracking.issuesAs Op.waitPos 0 (ins 0 6) tracking ∧ (tracking.look.getD 0 - 6).toInt < 0) ∧
    (up.issuesAs Op.waitPos 0 (ins 0 6) up ∧ up.moving = false) ∧
    (tracking.issuesAs Op.waitPos 0 (ins 0 5 1) tracking ∧ (1 : Byte).getLsbD 0 = true) ∧
    (pos.clk.switch = none ∧ pos.coreOn = true ∧ (pos.queue 0).wait = some ⟨.position, 0x02, ins 0 5, 5, 0, 4⟩ ∧ (pos.advance 0).moving = true ∧
      0 ≤ ((pos.advance 0).look.getD 0 - (5 : DWord)).toInt) :=
  ⟨meets (by decide) (by decide), meets (by decide) (by decide), meets (by decide) rfl, by decide, by decide,
    meets (by decide) (by decide), meets (by decide) (by decide), meets (by decide) (by decide), by decide, by decide,
    meets (by decide) (by decide), meets (by decide) (by decide), meets (by decide) (by decide), meets (by decide) rfl, by decide⟩

/-- A recall without an instruction runs. -/
def recalling : Chip := { up with nvs := { up.nvs with recl := some none } }

/-- Queue 0 in a routine, `n` levels deep. -/
def inRoutine (n : Nat) : Chip := withQ up 0 fun x => { x with calls := List.replicate n ⟨ins 0x30000000 0, 0x30000010, 1, false⟩ }

theorem witness_CallAndRetNestRoutines :
    let deep := { inRoutine 4 with mem := memPut 0 [] 0x30000010 (encodeWord Op.call.code (ins 0x30000000 0)).toNat 16 }
    let r := { inRoutine 1 with mem := memPut 0 [] 0x30000010 (encodeWord Op.ret.code (ins 0 0)).toNat 16 }
    (up.issuesAs Op.call 0 (ins 0x3003FFF0 0) up ∧ 0x3003FFF0 % 16 = 0 ∧ 0x30000000 ≤ 0x3003FFF0 ∧ 0x3003FFF0 < 0x30040000 ∧
      (up.queue 0).calls.length < 4 ∧ up.nvs.recl = none) ∧
    (recalling.issuesAs Op.call 0 (ins 0x30000000 0) recalling ∧ recalling.nvs.recl ≠ none) ∧
    (up.issuesAs Op.call 0 (ins 0x30000008 0) up ∧ (ins 0x30000008 0).tgt.toNat % 16 ≠ 0) ∧
    (up.issuesAs Op.call 0 (ins 0x30040000 0) up ∧ 0x30040000 ≤ (ins 0x30040000 0).tgt.toNat) ∧
    (up.issuesAs Op.call 0 (ins 0x2FFFFFF0 0) up ∧ (ins 0x2FFFFFF0 0).tgt.toNat < 0x30000000) ∧
    (∃ b, deep.issuesAs Op.call 0 (ins 0x30000000 0) b ∧ 4 ≤ (b.queue 0).calls.length) ∧
    (up.issuesAs Op.ret 0 (ins 0 0) up ∧ (up.queue 0).calls = []) ∧
    (∃ b, r.issuesAs Op.ret 0 (ins 0 0) b ∧ (b.queue 0).calls = ⟨ins 0x30000000 0, 0x30000020, 1, false⟩ :: [] ∧
      b.prs.rtStore = false ∧ ∀ k, (b.queue k).posted = false) :=
  ⟨meets (by decide) (by decide), meets (by decide) (by decide), meets (by decide) (by decide), meets (by decide) (by decide),
    meets (by decide) (by decide), ⟨_, ⟨by decide, _, rfl, by decide, by decide, by decide, rfl⟩, by decide⟩,
    meets (by decide) rfl, _, ⟨by decide, _, rfl, by decide, by decide, by decide, rfl⟩, by decide, by decide, by decide⟩
/-- Chip `c` with `v` stored in `n` bytes at an address. -/
def withMem (c : Chip) (a n v : Nat) : Chip := { c with mem := memPut 0 c.mem a v n }

/-- Chip `c` with the check state of one word. -/
def withEcc (c : Chip) (a : Nat) (e : Byte) : Chip := { c with ecc := memPut 0 c.ecc (a / 16) e.toNat 1 }

theorem witness_RegisterAccessesReadAndWriteWords :
    (up.issuesAs Op.ld 0 (ins 0x00000000 0 0) up ∧ (up.readRegs Die.reset (up.ldSrc 0) 0 1).isSome = true) ∧
    (up.issuesAs Op.ld 6 (ins 0x00030000 0 2) up ∧ 0x00030000 % 16 = 0 ∧
      (up.readRegs Die.reset (up.ldSrc 6) 0x00030000 4).isSome = true) ∧
    (up.issuesAs Op.ld 0 (ins 0x0FFFFFF8 0 1) up ∧ 0x0FFFFFF8 % 8 = 0 ∧ up.readRegs Die.reset (up.ldSrc 0) 0x0FFFFFF8 2 = none) ∧
    (up.issuesAs Op.st 0 (ins 0x00130014 7 0) up ∧ up.noRecord (up.writeReg Die.reset (Src.ofQueue 0) 0x00130014 7).2) ∧
    (up.issuesAs Op.st 0 (ins 0x00080008 0x1F00000010 1) up ∧ 0x00080008 % 8 = 0 ∧
      let c := (up.writeReg Die.reset (Src.ofQueue 0) 0x00080008 0x10).2
      failed (up.writeReg Die.reset (Src.ofQueue 0) 0x00080008 0x10).1 = false ∧
        failed (c.writeReg Die.reset (Src.ofQueue 0) 0x0008000C 0x1F).1 = false ∧
        failed (up.writeReg Die.reset (Src.ofQueue 0) 0x0008000C 0x1F).1 = false ∧
        up.noRecord (c.writeReg Die.reset (Src.ofQueue 0) 0x0008000C 0x1F).2) ∧
    (up.issuesAs Op.st 0 (ins 0x0FFFFFF8 0 1) up ∧
      ∃ st, firstFail [up.writeReg Die.reset (Src.ofQueue 0) 0x0FFFFFF8 0,
        up.writeReg Die.reset (Src.ofQueue 0) 0x0FFFFFFC 0] = some (st, up) ∧
        up.noRecord up) ∧
    (up.issuesAs Op.rmw 0 (ins 0x00130014 0xFFFFFFFF00000001 0) up ∧
      (up.readReg Die.reset (Src.ofQueue 0) 0x00130014).isSome = true ∧
      up.noRecord (up.writeReg Die.reset (Src.ofQueue 0) 0x00130014 1).2) ∧
    (up.issuesAs Op.ldSnap 0 (ins 0x00030000 0 0) up ∧
      (up.readRegs Die.reset (Src.ofQueue 0) 0x00030000 4).isSome = true) :=
  ⟨meets (by decide) (by decide), meets (by decide) (by decide), meets (by decide) (by decide),
    meets (by decide) ⟨by decide, by decide⟩, meets (by decide) ⟨by decide, by decide, by decide, by decide, by decide, by decide⟩,
    meets (by decide) ⟨_, rfl, by decide, by decide⟩, meets (by decide) ⟨by decide, by decide, by decide⟩,
    meets (by decide) (by decide)⟩

/-- The writer's general entries are all in use. -/
def fullWriter : Lic := { up.lic with buf := List.replicate 14 ⟨.general, 0x1201, 0, 0, 0, 0, 0⟩ }

theorem witness_LoadsAndStoresReachTheRams :
    let one := withEcc up 0x10000000 1
    let bad := withEcc up 0x7000FFF0 2
    let full : Chip := { bad with lic := fullWriter }
    (up.issuesAs Op.ld 0 (ins 0x30000000 0 0) up ∧ loadRange 0x30000000 = none ∧ regionOf 0x30000000 ≠ some 6 ∧
      up.mayRead (up.ldSrc 0) = true ∧ up.eccAt 0x30000000 = 0) ∧
    (one.issuesAs Op.ld 0 (ins 0x10000008 0 1) one ∧ loadRange 0x10000008 = none ∧ regionOf 0x10000008 ≠ some 6 ∧
      one.eccAt 0x10000008 = 1) ∧
    (bad.issuesAs Op.ld 0 (ins 0x7000FFFC 0 0) bad ∧ loadRange 0x7000FFFC = none ∧ regionOf 0x7000FFFC ≠ some 6 ∧
      2 ≤ bad.eccAt 0x7000FFFC ∧ bad.lic.room = true) ∧
    (full.issuesAs Op.ld 0 (ins 0x7000FFFC 0 0) full ∧ 2 ≤ full.eccAt 0x7000FFFC ∧ 14 ≤ full.lic.general) ∧
    (up.issuesAs Op.st 0 (ins 0x3003FFF8 1 1) up ∧ storeRange 0x3003FFF8 = none ∧
      up.mayWrite (Src.ofQueue 0) 0x3003FFF8 = true ∧ up.eccAt 0x3003FFF8 = 0) ∧
    (bad.issuesAs Op.st 0 (ins 0x7000FFFC 1 0) bad ∧ storeRange 0x7000FFFC = none ∧ 2 ≤ bad.eccAt 0x7000FFFC ∧
      bad.lic.room = true) ∧
    regionOf 0x30000000 = some 4 ∧ regionOf 0x10000008 ≠ some 4 :=
  ⟨meets (by decide) (by decide), meets (by decide) (by decide), meets (by decide) (by decide), meets (by decide) (by decide),
    meets (by decide) (by decide), meets (by decide) (by decide), by decide⟩

theorem witness_LoadsAndStoresReachTheRams_WideLoadFillsItsDestination :
    (up.issuesAs Op.ld 0 (ins 0x100FFFF0 0x7000FFF0 2) up ∧ (2 : Byte).toNat % 4 = 2 ∧ 0x100FFFF0 % 16 = 0 ∧ destCheck 0 0x7000FFF0 1 = none ∧
      loadRange 0x100FFFF0 = none ∧ regionOf 0x100FFFF0 ≠ some 6 ∧ regionOf 0x100FFFF0 ≠ some 4 ∧
      up.eccAt 0x100FFFF0 = 0) := meets (by decide) (by decide)

theorem witness_RefusedAccessesChangeNothing :
    up.issuesAs Op.ld 0 (ins 0 0 3) up ∧ (up.issuesAs Op.ld 0 (ins 0x4 0 1) up ∧ 0x4 % 8 ≠ 0) ∧
    (up.issuesAs Op.ld 0 (ins 0x38003FFC 0 0) up ∧ 0x38003FFC < 0x38004000) ∧
    (up.issuesAs Op.ld 0 (ins 0x10100000 0 0) up ∧ regionOf 0x10100000 = none) ∧
    ((up.openCtx 0 0).issuesAs Op.st 0 (tx 0x10000000 1 0) (up.openCtx 0 0)) ∧
    (up.issuesAs Op.st 0 (ins 0x4 0 1) up ∧ 0x4 % 8 ≠ 0) ∧ (up.issuesAs Op.st 0 (ins 0x38000000 0 0) up) ∧
    ((up.openCtx 0 0).issuesAs Op.rmw 0 (tx 0x10000000 1 0) (up.openCtx 0 0)) ∧
    (up.issuesAs Op.rmw 0 (ins 0x2 0 0) up ∧ 2 % 4 ≠ 0) ∧ (up.issuesAs Op.ldSnap 0 (ins 0x8 0 0) up ∧ 8 % 16 ≠ 0) :=
  ⟨issues (by decide), meets (by decide) (by decide), meets (by decide) (by decide), meets (by decide) (by decide),
    issues (by decide), meets (by decide) (by decide), issues (by decide),
    issues (by decide), meets (by decide) (by decide), meets (by decide) (by decide)⟩

/-- A sealed part. -/
def sealedDie : Die := { Die.reset with keyProg := true, sealed := true }

theorem witness_FabricInstructions_ShadowEditsWriteTheirBytes :
    (up.issuesAs Op.termWr 0 (ins 0x95F1F 7) up ∧ field (0x95F1F : Word) 8 9 = 351 ∧ field (0x95F1F : Word) 17 3 = 4 ∧
      Die.reset.sealed = false ∧ (vget up.fronds 31).shadowBusy = false ∧
      up.barred 0 false (vget up.fronds 31).claim = false) ∧
    ((at_ up sealedDie).chip.issuesAs Op.termWr 0 (ins 0 7 1) up ∧ (at_ up sealedDie).die.sealed = true ∧
      up.lic.room = true) ∧
    (up.issuesAs Op.termWr 0 (ins 0x16000 7) up ∧ 352 ≤ field (0x16000 : Word) 8 9) ∧
    (up.issuesAs Op.termWr 0 (ins 0xA0000 7) up ∧ 5 ≤ field (0xA0000 : Word) 17 3) ∧
    (up.issuesAs Op.mcCfg 0 (ins 0x3F00 0xA300) up ∧ mcCfgOk 0xA300 = true) :=
  ⟨meets (by decide) (by decide), meets (by decide) (by decide), meets (by decide) (by decide),
    meets (by decide) (by decide), meets (by decide) (by decide)⟩

/-- An instruction of Q0 has changed a unit in this cc. -/
def noted (c : Chip) (u : UnitId) (rank : Nat) : Chip := c.noteUnits [⟨u, 4, rank, 0, ins 0 1, 0⟩]

theorem witness_FabricInstructions_FrondStatesFollowTheirInstructions :
    let ran := noted (up.modFrond 31 fun x => { x with st := .run, gen := 5 }) (.frond 31) 2
    let fell := noted (up.modFrond 31 fun x => { x with st := .reset, gen := 5 }) (.frond 31) 0
    (up.issuesAs Op.frondSafe 5 (ins 0 0x80000001 1) (issued up 5) ∧ (0x80000001 : Word) ≠ 0 ∧ (issued up 5).memo.units = []) ∧
    (ran.issuesAs Op.frondSafe 5 (ins 0 0x80000000) (issued ran 5) ∧ (0x80000000 : Word) = bitW 31 true ∧
      ((issued ran 5).contest (.frond 31) 0).map (·.1) = some .lt) ∧
    (fell.issuesAs Op.frondSafe 5 (ins 0 0x80000000 1) (issued fell 5) ∧
      ((issued fell 5).contest (.frond 31) 1).map (·.1) = some .gt) ∧
    (up.issuesAs Op.frondRun 0 (ins 0 0xFFFFFFFF) up ∧ up.prs.ldr ≠ .loader ∧ up.suspect 0xFFFFFFFF = false) ∧
    ({ up with prs := { up.prs with ldr := .loader } }.issuesAs Op.frondRun 0 (ins 0 1)
      { up with prs := { up.prs with ldr := .loader } }) ∧ up.issuesAs Op.frondSafe 0 (ins 0 0) up :=
  ⟨meets (by decide) (by decide), meets (by decide) (by decide), meets (by decide) (by decide),
    meets (by decide) (by decide), issues (by decide), issues (by decide)⟩

/-- Every frond has an image in its shadow plane. -/
def shadowed : Chip := { tracking with fronds := Vector.replicate 32 { Frond.reset with shadowOk := true } }

theorem witness_PlaneSwapsExchangePlanes_PlaneSwapExchangesPlanes :
    (shadowed.issuesAs Op.planeSwap 6 (ins 0 0x80000001) shadowed ∧ shadowed.swapCheck 6 false 0x80000001 = none) ∧
    (up.issuesAs Op.planeSwap 6 (ins 0 0x80000000) up ∧ up.scr.irpEn = false ∧
      ∃ n, n < 32 ∧ (0x80000000 : Word).getLsbD n = true ∧ (vget up.fronds n).shadowOk = false) :=
  ⟨meets (by decide) (by decide), meets (by decide) ⟨by decide, 31, by decide⟩⟩

theorem witness_PlaneSwapsExchangePlanes_SwapAtPositionClaimsAndWaits :
    let full := { waiting shadowed 1 .position 0x25 (ins 1 6) 6 0 with eng := { (waiting shadowed 1 .position 0x25 (ins 1 6) 6 0).eng with ctxs := Vector.replicate 4 { Ctx.reset with isOpen := true, owner := 1 } } }
    (shadowed.issuesAs Op.planeSwapAt 0 (ins 0xFFFFFFFF 6) shadowed ∧ shadowed.txnOf 0 = none ∧
      (shadowed.queue 0).posted = false ∧ shadowed.freeCtx = some 0 ∧ shadowed.swapCheck 0 true 0xFFFFFFFF = none ∧
      shadowed.passed (ins 0xFFFFFFFF 6) = false ∧ shadowed.scr.stg = none ∧
      ∀ n, n < 32 → (vget shadowed.fronds n).claim = none) ∧
    (full.issuesAs Op.planeSwapAt 0 (ins 1 6) full ∧ full.txnOf 0 = none ∧ (full.queue 0).posted = false ∧
      full.freeCtx = none) ∧
    ((up.openCtx 0 3).issuesAs Op.planeSwapAt 0 (ins 1 6) (up.openCtx 0 3) ∧ (up.openCtx 0 3).txnOf 0 = some 3) :=
  ⟨meets (by decide) (by decide), meets (by decide) (by decide), meets (by decide) (by decide)⟩

/-- Pin 191 in EPU mode with `n` requests waiting. -/
def epu (n : Nat) : Chip := { up with
  pins := vmod up.pins 191 fun p => { p with cfg := 0x4001, q := List.replicate n ⟨2, 0, 0, 1, none, none⟩, held := false } }

theorem witness_EdgeRequestsEnterTheirQueue :
    ((epu 7).issuesAs Op.edgeSet 0 (ins 0x1BF 64) (epu 7) ∧ edgeRange (epu 7) 0x30 (ins 0x1BF 64) = true ∧
      (vget (epu 7).pins 191).q.length < 8) ∧
    ((epu 0).issuesAs Op.edgePulse 0 (ins 0x101BF 63) (epu 0) ∧ edgeRange (epu 0) 0x31 (ins 0x101BF 63) = true ∧
      (vget (epu 0).pins 191).q = []) ∧
    ((epu 8).issuesAs Op.edgeSet 0 (ins 0x0BF 64) (epu 8) ∧ edgeRange (epu 8) 0x30 (ins 0x0BF 64) = true ∧
      8 ≤ (vget (epu 8).pins 191).q.length) ∧
    (up.issuesAs Op.edgeSet 0 (ins 0xC0 64) up ∧ edgeRange up 0x30 (ins 0xC0 64) = false) ∧
    ((epu 0).issuesAs Op.edgePulse 0 (ins 0x0F1BF 64) (epu 0) ∧ edgeRange (epu 0) 0x31 (ins 0x0F1BF 64) = false) :=
  ⟨meets (by decide) (by decide), meets (by decide) (by decide), meets (by decide) (by decide),
    meets (by decide) (by decide), meets (by decide) (by decide)⟩

theorem witness_PinInstructions_CalibrationAndCaptureInstructions :
    let caught : Chip := { up with pins := vmod up.pins 191 fun p => { p with tcu := 3, cap := some (5, true) } }
    (up.issuesAs Op.edgeCal 0 (ins 11 0) up ∧ field (11 : Word) 0 4 < 12) ∧
    (up.issuesAs Op.edgeCal 0 (ins 12 0) up ∧ 12 ≤ field (12 : Word) 0 4) ∧
    (up.issuesAs Op.capArm 0 (ins 191 0 3) up ∧ field (191 : Word) 0 8 < 192 ∧ (vget up.pins 191).tcu = 0) ∧
    (caught.issuesAs Op.capArm 0 (ins 191 0 0) caught ∧ (vget caught.pins 191).tcu ≠ 0) ∧
    (up.issuesAs Op.capRead 0 (ins 191 0) up ∧ (vget up.pins 191).cap = none) ∧
    (caught.issuesAs Op.capRead 0 (ins 191 0) caught ∧ (vget caught.pins 191).cap = some (5, true)) ∧
    (up.issuesAs Op.capRead 0 (ins 192 0) up ∧ 192 ≤ field (192 : Word) 0 8) :=
  ⟨meets (by decide) (by decide), meets (by decide) (by decide), meets (by decide) (by decide),
    meets (by decide) (by decide), meets (by decide) (by decide), meets (by decide) (by decide),
    meets (by decide) (by decide)⟩

theorem witness_PinInstructions_PinSafeForcesItsPins :
    let expecting : Chip := { up with mgt := { up.mgt with expValid := true } }
    (up.issuesAs Op.pinSafe 7 (ins 11 0xFFFF 0) (issued up 7) ∧ field (0xFFFF : DWord) 0 16 ≠ 0) ∧
    (expecting.issuesAs Op.pinSafe 5 (ins 0 1 1) (issued expecting 5) ∧ (issued expecting 5).memo.units = [] ∧
      (expecting.mgt.expValid && expecting.mgt.expGen == (vget expecting.banks 0).gen) = true) ∧
    (up.issuesAs Op.pinSafe 5 (ins 0 1 1) (issued up 5) ∧ (issued up 5).memo.units = [] ∧
      (up.mgt.expValid && up.mgt.expGen == (vget up.banks 0).gen) = false) ∧
    (up.issuesAs Op.pinSafe 0 (ins 12 1) up ∧ 12 ≤ field (12 : Word) 0 4) ∧
    (up.issuesAs Op.pinSafe 0 (ins 0 0) up ∧ field (0 : DWord) 0 16 = 0) :=
  ⟨meets (by decide) (by decide), meets (by decide) (by decide), meets (by decide) (by decide), meets (by decide) (by decide),
    meets (by decide) (by decide)⟩

/-- Cam 31 holds a table and is armed. -/
def held31 : Chip := { up with cams := vmod up.cams 31 fun k => { k with tabOk := true, armed := true } }

theorem witness_CamInstructions_CamLoadTakesAValidTable :
    let held := held31
    let good := withMem up 0x100FFFF0 16 0x00000000_00000000_00000001_00000005
    (held.issuesAs Op.camLoad 0 (ins 31 0x1100FFFF0) held ∧ (vget held.cams 31).armed = true) ∧
    (good.issuesAs Op.camLoad 0 (ins 31 0x1100FFFF0) good ∧ 0x100FFFF0 % 16 = 0 ∧ 0x100FFFF0 + 16 * 1 ≤ 0x10100000 ∧
      (vget good.cams 31).armed = false ∧ (vget good.cams 31).claim = none ∧
      1 ≤ good.tabFree + (vget good.cams 31).table.length ∧ (∀ i, i < 1 → good.eccAt (0x100FFFF0 + 16 * i) = 0) ∧
      (tableOf [good.getWord 0x100FFFF0]).isSome = true) ∧
    (up.issuesAs Op.camLoad 0 (ins 31 0x210000000) up ∧ (∀ i, i < 2 → up.eccAt (0x10000000 + 16 * i) = 0) ∧
      tableOf [up.getWord 0x10000000, up.getWord 0x10000010] = none) :=
  ⟨meets (by decide) (by decide), meets (by decide) (by decide), meets (by decide) (by decide)⟩

theorem witness_CamInstructions_CamsArmDisarmAndNudge :
    let held := held31
    let loaded : Chip := { up with cams := vmod up.cams 31 fun k => { k with tabOk := true } }
    let taken : Chip := { up with cams := vmod up.cams 31 fun k => { k with claim := some 0 } }
    let expecting : Chip := { held with mgt := { held.mgt with expValid := true } }
    let met : Chip := { noted held (.cam 31) 1 with mgt := { held.mgt with expValid := true, expGen := 4 } }
    (up.issuesAs Op.camArm 0 (ins 31 0) up ∧ (vget up.cams 31).tabOk = false) ∧
    (loaded.issuesAs Op.camArm 0 (ins 31 0) loaded ∧ (vget loaded.cams 31).tabOk = true ∧ (vget loaded.cams 31).claim = none) ∧
    (held.issuesAs Op.camDisarm 7 (ins 31 0) (issued held 7) ∧ (vget held.cams 31).armed = true) ∧
    (expecting.issuesAs Op.camDisarm 5 (ins 31 0) (issued expecting 5) ∧ (issued expecting 5).memo.units = [] ∧
      (expecting.mgt.expValid && expecting.mgt.expGen == (vget expecting.cams 31).gen) = true) ∧
    (met.issuesAs Op.camDisarm 5 (ins 31 0) (issued met 5) ∧
      (issued met 5).contest (.cam 31) 0 = some (.lt, ⟨.cam 31, 4, 1, 0, ins 0 1, 0⟩) ∧ met.mgt.expValid = true ∧
      met.mgt.expGen = 4 ∧ ((issued met 5).queue 0).wait = none) ∧
    (held.issuesAs Op.camDisarm 5 (ins 31 0) (issued held 5) ∧ (issued held 5).memo.units = [] ∧
      (held.mgt.expValid && held.mgt.expGen == (vget held.cams 31).gen) = false) ∧
    (taken.issuesAs Op.camNudge 0 (ins 31 1) taken ∧ (vget taken.cams 31).claim ≠ none ∧
      (vget taken.cams 31).claim ≠ taken.txnOf 0) ∧
    (up.issuesAs Op.camNudge 0 (ins 31 0xFFFFFFFF) up ∧ (vget up.cams 31).claim = none) :=
  ⟨meets (by decide) (by decide), meets (by decide) (by decide), meets (by decide) (by decide),
    meets (by decide) (by decide), meets (by decide) (by decide), meets (by decide) (by decide),
    meets (by decide) (by decide), meets (by decide) (by decide)⟩
/-- Chip `c` with other store registers. -/
def withNvs (c : Chip) (g : Nvs → Nvs) : Chip := { c with nvs := g c.nvs }

theorem witness_StoreAccesses_NvWritesAndReadsTheUserArea :
    let shut := withNvs up fun x => { x with bp := 3 }
    let src := withMem up 0x7000FFF0 16 0x11
    (shut.issuesAs Op.nvWr 0 (ins 0x3003FFF8 7 0x80) shut ∧ shut.mayWrite (Src.ofQueue 0) 0x3003FFF8 = false ∧
      shut.lic.room = true) ∧
    (up.issuesAs Op.nvWr 0 (ins 0x3003FFF8 7 0x80) up ∧ up.mayWrite (Src.ofQueue 0) 0x3003FFF8 = true ∧
      up.eccAt 0x3003FFF8 = 0 ∧ 0x3003FFF8 + 8 ≤ 0x30040000) ∧
    (src.issuesAs Op.nvWr 0 (ins 0x3003FFF0 0x7000FF00 0x10) src ∧ field (0x10 : Byte) 0 5 = 16 ∧
      destCheck 0 0x7000FF00 16 = none ∧ src.mayWrite (Src.ofQueue 0) 0x3003FFF0 = true ∧
      ∀ i, i < 16 → src.eccAt (0x7000FF00 + 16 * i) = 0) ∧
    (up.issuesAs Op.nvRd 0 (ins 0x3003FFF8 0) up ∧ up.mayRead (Src.ofQueue 0) = true ∧ up.eccAt 0x3003FFF8 = 0) ∧
    (up.issuesAs Op.nvRd 0 (ins 0x30000004 0) up ∧ 0x30000004 % 8 ≠ 0) :=
  ⟨meets (by decide) (by decide), meets (by decide) (by decide), meets (by decide) (by decide),
    meets (by decide) (by decide), meets (by decide) (by decide)⟩

theorem witness_StoreAccesses_CountersAddAndRead :
    up.issuesAs Op.ctrInc 0 (ins 63 0xFFFFFFFFFFFF) up ∧ up.issuesAs Op.ctrRd 0 (ins 63 0) up :=
  ⟨issues (by decide), issues (by decide)⟩

/-- A store of page 5 past its snapshot, for queue 0. -/
def storing : Chip := withNvs (waiting up 0 .storeDone 0x62 (ins 0 0) 0 256) fun x =>
  { x with flyP := 32, store := some ⟨0, [5], [], [], [], [], some 0, none⟩ }

set_option exponentiation.threshold 2000 in
/-- The record of a part as shipped is good, and the newest. -/
theorem shipped_newest {n : Nvs} (h : n.slots = Nvs.reset.slots) : n.newest = some (CommitRec.shipped, 0) := by
  have hs : CommitRec.shipped.valid = true := by simp [CommitRec.shipped, CommitRec.valid, CommitRec.seal, CommitRec.body]
  have he : CommitRec.erased.valid = false := by simp [CommitRec.erased, CommitRec.valid]
  have h0 : vget n.slots 0 = CommitRec.shipped := by rw [h]; rfl
  have h1 : vget n.slots 1 = CommitRec.erased := by rw [h]; rfl
  simp only [Nvs.newest, h0, h1, hs, he]

set_option exponentiation.threshold 2000 in
set_option maxRecDepth 4000 in
theorem witness_StoresAndRecallsMoveGenerations_StoresSnapshotAndCommit :
    let dirty := withNvs up fun x => { x with dirtyP := 1, dirtyC := 2 }
    (up.issuesAs Op.nvStore 0 (ins 0 0) up ∧ (up.queue 0).posted = false ∧ up.portFree = true ∧ up.nvs.dirtyP = 0 ∧
      up.nvs.dirtyC = 0) ∧
    (dirty.issuesAs Op.nvStore 0 (ins 0 0) dirty ∧ dirty.portFree = true ∧ dirty.nvs.dirtyP ≠ 0) ∧
    (∃ b, (withMem (inRoutine 1) 0x30000010 16 (encodeWord Op.nvStore.code (ins 0 0)).toNat).issuesAs
      Op.nvStore 0 (ins 0 0) b ∧ (b.queue 0).calls ≠ []) ∧
    (storing.clk.switch = none ∧ storing.nvs.store = some ⟨0, [5], [], [], [], [], some 0, none⟩ ∧ storing.storeOn = true ∧
      (storing.queue 0).wait = some ⟨.storeDone, 0x62, ins 0 0, 0, 0, 256⟩ ∧ storing.prs.rtStore = false ∧
      ∀ k, (storing.queue k).posted = false) :=
  ⟨meets (by decide) (by decide), meets (by decide) (by decide),
    ⟨_, ⟨by decide, _, rfl, by decide, by decide, by decide, rfl⟩, by decide⟩, by decide⟩

set_option exponentiation.threshold 2000 in
set_option maxRecDepth 4000 in
theorem witness_StoresAndRecallsMoveGenerations_RecallLoadsTheNewestGeneration :
    let reading := withNvs (waiting up 6 .recl 0x63 (ins 0 0) 0 0) fun x => { x with recl := some (some 6) }
    (∃ b, (withMem (inRoutine 1) 0x30000010 16 (encodeWord Op.nvRecall.code (ins 0 0)).toNat).issuesAs
      Op.nvRecall 0 (ins 0 0) b ∧ (b.queue 0).calls ≠ []) ∧
    (up.issuesAs Op.nvRecall 0 (ins 0 0) up ∧ (∀ k, (up.queue k).calls = []) ∧ (up.queue 0).posted = false ∧ up.portFree = true) ∧
    (reading.clk.switch = none ∧ reading.nvs.recl = some (some 6) ∧ reading.coreOn = true ∧ reading.nvs.newest = some (CommitRec.shipped, 0) ∧
      reading.nvs.bpl = false ∧ (reading.queue 6).wait = some ⟨.recl, 0x63, ins 0 0, 0, 0, 0⟩) :=
  ⟨⟨_, ⟨by decide, _, rfl, by decide, by decide, by decide, rfl⟩, by decide⟩, meets (by decide) (by decide),
    rfl, rfl, by decide, shipped_newest rfl, rfl, rfl⟩

theorem witness_PasswordsProtectTheStore_PasswordsAndBlockProtection :
    let last := withNvs up fun x => { x with hostTry := 1 }
    let frozen := withNvs up fun x => { x with bpl := true }
    (up.issuesAs Op.nvUnlock 0 (ins 0 0 1) up ∧ (1 : Byte).getLsbD 0 = true) ∧
    (up.issuesAs Op.nvUnlock 1 (ins 0 0) up ∧ up.nvs.hostOut = false ∧ (0 : DWord) = up.nvs.hostPw) ∧
    (up.issuesAs Op.nvUnlock 1 (ins 0 1) up ∧ up.nvs.hostOut = false ∧ (1 : DWord) ≠ up.nvs.hostPw ∧
      up.nvs.hostTry ≠ 1 ∧ up.lic.room = true) ∧
    (last.issuesAs Op.nvUnlock 1 (ins 0 1) last ∧ last.nvs.hostOut = false ∧ (1 : DWord) ≠ last.nvs.hostPw ∧
      last.nvs.hostTry = 1 ∧ last.lic.wait = [] ∧ last.lic.general < 13) ∧
    (up.issuesAs Op.nvUnlock 5 (ins 0 0) (issued up 5) ∧ up.nvs.mgtOut = false ∧ (0 : DWord) = up.nvs.mgtPw) ∧
    (up.issuesAs Op.nvProt 0 (ins 0 7) up ∧ up.nvs.bpl = false ∧ up.nvs.hostMode = 0) ∧
    (frozen.issuesAs Op.nvProt 1 (ins 0 0) frozen ∧ frozen.nvs.bpl = true ∧ frozen.lic.room = true) :=
  ⟨meets (by decide) (by decide), meets (by decide) (by decide), meets (by decide) (by decide),
    meets (by decide) (by decide), meets (by decide) (by decide), meets (by decide) (by decide),
    meets (by decide) (by decide)⟩

theorem witness_PasswordsProtectTheStore_PasswordSettingAndStatus :
    let closed := withNvs up fun x => { x with hostMode := 1 }
    (up.issuesAs Op.pwSet 0 (ins 1 0 2) up ∧ (2 : Byte).extractLsb' 0 2 ≠ 3 ∧ up.nvs.hostMode = 0) ∧
    (closed.issuesAs Op.pwSet 0 (ins 0 0) closed ∧ closed.nvs.hostMode ≠ 0 ∧ closed.nvs.hostUnl = false) ∧
    (up.issuesAs Op.pwSet 0 (ins 0 0 3) up ∧ (3 : Byte).extractLsb' 0 2 = 3) ∧ up.issuesAs Op.secStat 0 (ins 0 0) up :=
  ⟨meets (by decide) (by decide), meets (by decide) (by decide), meets (by decide) (by decide), issues (by decide)⟩

/-- Channel `ch` changed. -/
def withDma (c : Chip) (ch : Nat) (g : Dma → Dma) : Chip := c.modDma ch g

/-- Channel 11 with a descriptor of one word from the end of the shared RAM to its start. -/
def described (cfg : Word) : Chip := withDma up 11 fun d => { d with src := 0x100FFFF0, dst := 0x10000000, len := 16, cfg := cfg }

theorem witness_DmaInstructions_DmaGoLatchesItsDescriptor :
    let go := described 0
    let paced := withDma up 3 fun d => { d with src := 0x20000000, dst := 0x10000000, len := 0x40000, cfg := 0x00800122 }
    let poor : Chip := { go with credits := 0 }
    let queued := waiting (go.modDma 11 (·.latch 1)) 1 .credits 0x70 (ins 11 0) 0 1
    let owned : Chip := { queued with eng := { queued.eng with serial := 1 } }
    let busy := withDma go 11 fun d => { d with st := .running, buf := [5], credits := 1 }
    let first (c : Chip) : Nat := ((c.modDma 11 (·.latch 0)).modDma 11 Dma.start).nextBurst 11
    (up.issuesAs Op.dmaGo 0 (ins 12 0) up ∧ dmaGoCheck Die.reset 12 (vget up.dma 12) = some (St.range, false)) ∧
    (busy.issuesAs Op.dmaGo 0 (ins 11 0) busy ∧ dmaGoCheck Die.reset 11 (vget busy.dma 11) = none ∧
      (busy.queue 0).posted = false ∧ (vget busy.dma 11).active = true) ∧
    (owned.issuesAs Op.dmaGo 0 (ins 11 0) owned ∧ dmaGoCheck Die.reset 11 (vget owned.dma 11) = none ∧
      (owned.queue 0).posted = false ∧ (vget owned.dma 11).active = false ∧ owned.goWaits 0 11 = true) ∧
    (poor.issuesAs Op.dmaGo 0 (ins 11 0) poor ∧ dmaGoCheck Die.reset 11 (vget poor.dma 11) = none ∧
      (vget poor.dma 11).active = false ∧ field (vget poor.dma 11).cfg 23 2 = 0 ∧ poor.goWaits 0 11 = false ∧
      poor.credits < first poor) ∧
    (go.issuesAs Op.dmaGo 0 (ins 11 0) go ∧ dmaGoCheck Die.reset 11 (vget go.dma 11) = none ∧ go.goWaits 0 11 = false ∧
      first go = 1 ∧ 1 ≤ go.credits ∧ field (vget go.dma 11).cfg 23 2 = 0 ∧
      field (vget go.dma 11).cfg 0 2 = 0 ∧ ∀ i, i < 1 → go.eccAt (0x100FFFF0 + 16 * i) = 0) ∧
    (paced.issuesAs Op.dmaGo 0 (ins 3 0) paced ∧ dmaGoCheck Die.reset 3 (vget paced.dma 3) = none ∧
      (vget paced.dma 3).active = false ∧ paced.goWaits 0 3 = false ∧ field (vget paced.dma 3).cfg 23 2 = 1) :=
  ⟨meets (by decide) (by decide), meets (by decide) (by decide), meets (by decide) (by decide), meets (by decide) (by decide),
    meets (by decide) (by decide), meets (by decide) (by decide)⟩

theorem witness_DmaInstructions_DmaStopAndStat :
    let go := described 0
    let busy := withDma go 11 fun d => { d with st := .running, buf := [5], credits := 1 }
    (up.issuesAs Op.dmaStop 0 (ins 12 0) up ∧ 12 ≤ field (12 : Word) 0 4) ∧
    (busy.issuesAs Op.dmaStop 0 (ins 11 0 1) busy ∧ (vget busy.dma 11).active = true ∧
      ∀ k w, (busy.queue k).wait = some w → w.kind ≠ .drain) ∧
    (go.issuesAs Op.dmaStop 0 (ins 11 0) go ∧ (vget go.dma 11).active = false) ∧
    (busy.issuesAs Op.dmaStop 7 (ins 11 0) (issued busy 7) ∧ (vget busy.dma 11).st = .running ∧ (vget busy.dma 11).buf ≠ []) ∧
    (up.issuesAs Op.dmaStat 0 (ins 11 0) up ∧ field (11 : Word) 0 4 < 12) ∧
    (up.issuesAs Op.dmaStat 0 (ins 15 0) up ∧ 12 ≤ field (15 : Word) 0 4) :=
  ⟨meets (by decide) (by decide), meets (by decide) ⟨by decide, no_drain (by decide)⟩, meets (by decide) (by decide),
    meets (by decide) (by decide), meets (by decide) (by decide), meets (by decide) (by decide)⟩
/-- Channel 11 running, its descriptor latched: `n` words from the start of the shared RAM to its end. -/
def running (n : Nat) (g : Dma → Dma := id) : Chip := withDma up 11 fun d => g { d with
  st := .running, lsrc := 0x10000000, ldst := 0x100FFFF0, llen := BitVec.ofNat 32 (16 * n) }

theorem witness_DmaEnginesMoveWords_DmaBurstsMoveWords :
    let a := running 1
    let b := running 1 fun d => { d with buf := [7], chk := [0], rd := 1, credits := 1 }
    let c := running 1 fun d => { d with buf := [7], chk := [2], rd := 1, credits := 1 }
    (a.clk.switch = none ∧ a.coreOn = true ∧ turnOf a.rdTurn a.dmaReady = some 11 ∧ (vget a.dma 11).smode = 0 ∧
      field (vget a.dma 11).lcfg 14 3 = 0 ∧ (vget a.dma 11).srcAddr 0 = 0x10000000 ∧ a.nextBurst 11 = 1 ∧
      ∀ i, i < 1 → a.eccAt (0x10000000 + 16 * i) = 0) ∧
    (up.clk.switch = none ∧ up.coreOn = true ∧ turnOf up.rdTurn up.dmaReady ≠ some 11 ∧
      turnOf up.wrTurn up.dmaHolds ≠ some 11) ∧
    (b.clk.switch = none ∧ b.coreOn = true ∧ turnOf b.wrTurn b.dmaHolds = some 11 ∧
      (vget b.dma 11).buf = 7 :: [] ∧ (vget b.dma 11).chk.headD 0 = 0 ∧
      burstLen (vget b.dma 11).dmode (vget b.dma 11).ldst.toNat (vget b.dma 11).dclog (field (vget b.dma 11).lcfg 20 3)
        (vget b.dma 11).wr 1 = 1 ∧ (vget b.dma 11).dstAddr 0 = 0x100FFFF0) ∧
    (c.clk.switch = none ∧ c.coreOn = true ∧ turnOf c.wrTurn c.dmaHolds = some 11 ∧
      (vget c.dma 11).buf = 7 :: [] ∧ 2 ≤ ((vget c.dma 11).chk.headD 0).toNat ∧
      1 ≤ burstLen (vget c.dma 11).dmode (vget c.dma 11).ldst.toNat (vget c.dma 11).dclog (field (vget c.dma 11).lcfg 20 3)
        (vget c.dma 11).wr 1 ∧ ∀ k w, (c.queue k).wait = some w → w.kind ≠ .drain) :=
  ⟨by decide, by decide, by decide,
    ⟨by decide, by decide, by decide, by decide, by decide, by decide, no_drain (by decide)⟩⟩

theorem witness_DmaEnginesMoveWords_DmaAcknowledgesAndRetries :
    let done := running 1 fun d => { d with rd := 1, wr := 1 }
    let part := running 2 fun d => { d with rd := 1, wr := 1 }
    let failing := running 1 fun d => { d with fail := some (St.eccUncorr, 0x10000000) }
    (done.clk.switch = none ∧ done.coreOn = true ∧ (vget done.dma 11).active = true ∧ (vget done.dma 11).ref = none ∧
      (vget done.dma 11).llen ≠ 0 ∧ 16 * (vget done.dma 11).wr = (vget done.dma 11).llen.toNat ∧
      ∀ k w, (done.queue k).wait = some w → w.kind ≠ .drain) ∧
    (part.clk.switch = none ∧ part.coreOn = true ∧ (vget part.dma 11).st = .running ∧ (vget part.dma 11).ref = none ∧
      16 * (vget part.dma 11).wr ≠ (vget part.dma 11).llen.toNat) ∧
    (failing.clk.switch = none ∧ failing.coreOn = true ∧ (vget failing.dma 11).active = true ∧
      (vget failing.dma 11).fail = some (St.eccUncorr, 0x10000000) ∧
      field (vget failing.dma 11).lcfg 17 3 ≤ (vget failing.dma 11).tries + 1 ∧ (vget failing.dma 11).buf = [] ∧
      ∀ k w, (failing.queue k).wait = some w → w.kind ≠ .drain) ∧
    (up.clk.switch = none ∧ up.coreOn = true ∧ (vget up.dma 11).fail = none) :=
  ⟨⟨by decide, by decide, by decide, by decide, by decide, by decide, no_drain (by decide)⟩, by decide,
    ⟨by decide, by decide, by decide, by decide, by decide, by decide, no_drain (by decide)⟩, by decide⟩

/-- Queue 0 holds context 3. -/
def inTxn : Chip := up.openCtx 0 3

theorem witness_TransactionsOpenCommitAndAbort_TransactionsOpenAndAbort :
    let full : Chip := { up with eng := { up.eng with ctxs := Vector.replicate 4 { Ctx.reset with isOpen := true, owner := 1 } } }
    (up.issuesAs Op.txnBegin 4 (ins 0 0) up ∧ up.txnOf 4 = none ∧ (up.queue 4).posted = false ∧ up.freeCtx = some 0) ∧
    (full.issuesAs Op.txnBegin 4 (ins 0 0) full ∧ full.txnOf 4 = none ∧ full.freeCtx = none) ∧
    (inTxn.issuesAs Op.txnBegin 0 (ins 0 0) inTxn ∧ inTxn.txnOf 0 ≠ none) ∧
    (up.issuesAs Op.txnAbort 0 (ins 3 0) up ∧ (vget up.eng.ctxs 3).isOpen = false) ∧
    (full.issuesAs Op.txnAbort 2 (ins 3 0) full ∧ (vget full.eng.ctxs 3).isOpen = true ∧
      (vget full.eng.ctxs 3).storing = false ∧ (vget full.eng.ctxs 3).owner ≠ 2) ∧
    (inTxn.issuesAs Op.txnAbort 0 (ins 3 0) inTxn ∧ (vget inTxn.eng.ctxs 3).isOpen = true ∧
      (vget inTxn.eng.ctxs 3).storing = false ∧ (vget inTxn.eng.ctxs 3).owner = 0 ∧ (inTxn.queue 0).wait = none) :=
  ⟨meets (by decide) (by decide), meets (by decide) (by decide), meets (by decide) (by decide),
    meets (by decide) (by decide), meets (by decide) (by decide), meets (by decide) (by decide)⟩

theorem witness_TransactionsOpenCommitAndAbort_CommitsCheckTheirClaims :
    let stale := { inTxn.claimFrond 3 31 with fronds := vmod (inTxn.claimFrond 3 31).fronds 31 fun x => { x with gen := 1 } }
    ((up.openCtx 1 3).issuesAs Op.txnCommit 1 (ins 0 0) (up.openCtx 1 3) ∧ (up.openCtx 1 3).txnOf 1 = some 3 ∧
      (vget (up.openCtx 1 3).eng.ctxs 3).regs = [] ∧ (vget (up.openCtx 1 3).eng.ctxs 3).fronds = [] ∧
      (vget (up.openCtx 1 3).eng.ctxs 3).cams = [] ∧ (vget (up.openCtx 1 3).eng.ctxs 3).edges = [] ∧
      (vget (up.openCtx 1 3).eng.ctxs 3).nv = [] ∧ (vget (up.openCtx 1 3).eng.ctxs 3).ctrs = [] ∧
      (vget (up.openCtx 1 3).eng.ctxs 3).owner = 1 ∧ (up.openCtx 1 3).claimsGood 3 = true) ∧
    (stale.issuesAs Op.txnCommit 0 (ins 0 0) stale ∧ stale.txnOf 0 = some 3 ∧ (vget stale.eng.ctxs 3).owner = 0 ∧
      (vget stale.eng.ctxs 3).regs = [] ∧ (vget stale.eng.ctxs 3).nv = [] ∧ (vget stale.eng.ctxs 3).ctrs = [] ∧
      stale.claimsGood 3 = false ∧ stale.prs.rtStore = false ∧ (∀ j, (stale.queue j).posted = false) ∧
      stale.eng.nvQ ≠ some 0) ∧
    (up.issuesAs Op.txnCommit 0 (ins 0 0) up ∧ up.txnOf 0 = none) ∧
    (inTxn.issuesAs Op.txnCommitAt 0 (ins 0 5) inTxn ∧ inTxn.txnOf 0 = some 3 ∧ inTxn.passed (ins 0 5) = false ∧
      (vget inTxn.eng.ctxs 3).nv = [] ∧ (vget inTxn.eng.ctxs 3).ctrs = []) ∧
    (up.issuesAs Op.txnCommitAt 0 (ins 0 5) up ∧ up.txnOf 0 = none) :=
  ⟨meets (by decide) (by decide), meets (by decide) (by decide), meets (by decide) (by decide),
    meets (by decide) (by decide), meets (by decide) (by decide)⟩

/-- Pin 191 in EPU mode and queue 0 in context 3, which holds `n` edge requests. -/
def edgesStaged (n : Nat) : Chip := (({ inTxn with pins := (epu 0).pins }).modCtx 3 fun x =>
  { x with edges := List.replicate n ⟨0, 0x30, ins 0 0⟩ })

theorem witness_StagedInstructionsOnlyStage :
    let loaded : Chip := { inTxn with cams := vmod inTxn.cams 31 fun k => { k with tabOk := true } }
    (inTxn.issuesAs Op.ctrInc 0 (tx 63 0xFFFFFFFFFFFF) inTxn ∧ (tx 63 0xFFFFFFFFFFFF).tx = true ∧ inTxn.txnOf 0 = some 3 ∧
      (vget inTxn.eng.ctxs 3).ctrs = []) ∧
    (inTxn.issuesAs Op.camNudge 0 (tx 31 0xFFFFFFFF) inTxn ∧ (vget inTxn.cams 31).claim = none) ∧
    (loaded.issuesAs Op.camArm 0 (tx 31 0) loaded ∧ loaded.txnOf 0 = some 3 ∧ (vget loaded.cams 31).claim = none ∧
      (vget loaded.cams 31).tabOk = true) ∧
    ((edgesStaged 31).issuesAs Op.edgeSet 0 (tx 0x1BF 64) (edgesStaged 31) ∧ (edgesStaged 31).txnOf 0 = some 3 ∧
      edgeRange (edgesStaged 31) 0x30 (tx 0x1BF 64) = true ∧ (vget (edgesStaged 31).eng.ctxs 3).edges.length < 32) ∧
    ((edgesStaged 32).issuesAs Op.edgeSet 0 (tx 0x1BF 64) (edgesStaged 32) ∧
      edgeRange (edgesStaged 32) 0x30 (tx 0x1BF 64) = true ∧ 32 ≤ (vget (edgesStaged 32).eng.ctxs 3).edges.length) ∧
    (inTxn.issuesAs Op.st 0 (tx 0x00130014 7) inTxn ∧ (vget inTxn.eng.ctxs 3).regs = [] ∧
      (inTxn.writeReg Die.reset (Src.ofQueue 0) 0x00130014 7).1 = St.ok) :=
  ⟨meets (by decide) (by decide), meets (by decide) (by decide), meets (by decide) (by decide),
    meets (by decide) (by decide), meets (by decide) (by decide), meets (by decide) (by decide)⟩

/-- A stream staged from slot A that names no variants, its trailer of 64 bytes at the start of the slot. -/
def stream : Staged := ⟨false, false, false, 7, 1, false, 0, 0, 1, [], 64, List.replicate 32 0, 0, [], []⟩

/-- Slot A holds a trailer that matches `stream` and the shadows its images. -/
def staged : Chip := { up with
  prs := { up.prs with
    staged := some stream
    marks := [(0, 1)]
    flash := memPutBytes 0xFF [] 0 ([0x42, 0x45, 0x4E, 0x44, 64, 0, 0, 0] ++ List.replicate 56 0) }
  fronds := Vector.replicate 32 { Frond.reset with shadowOk := true } }

/-- The header of a plain stream of `n` segments and `len` bytes (Table PRS-2). -/
def header (kind n len : Nat) : List Byte :=
  [0x42, 0x52, 0x53, 0x4B, 1, 0, BitVec.ofNat 8 kind, 0] ++ natBytes n 2 ++ [0, 0] ++ natBytes len 4 ++ [0x40, 0x48, 1, 0]
    ++ natBytes 7 4 ++ natBytes 1 4 ++ [0, 0, BitVec.ofNat 8 kind, 0] ++ List.replicate 224 0

/-- The entry of a FRONDIMG segment (Table PRS-3). -/
def imageEntry (n off : Nat) : List Byte :=
  [1, BitVec.ofNat 8 n, 0, 0] ++ natBytes off 4 ++ natBytes 13024 4 ++ List.replicate 20 0

/-- Bytes at consecutive addresses. -/
def bytesAt (a : Nat) : List Byte → Mem
  | [] => []
  | b :: r => (a, b) :: bytesAt (a + 1) r

/-- Reading back bytes at consecutive addresses. -/
theorem memRead_bytesAt (a i : Nat) (l : List Byte) : memRead 0xFF (bytesAt a l) (a + i) = l.getD i 0xFF := by
  induction l generalizing a i with
  | nil => rfl
  | cons b r ih =>
    cases i with
    | zero => simp [bytesAt, memRead]
    | succ i =>
      have := ih (a + 1) i
      rw [show a + 1 + i = a + (i + 1) by omega] at this
      simpa [bytesAt, memRead] using this

theorem memBytes_bytesAt {a k n : Nat} {l : List Byte} (h : k + n ≤ l.length) :
    memBytes 0xFF (bytesAt a l) (a + k) n = (l.drop k).take n := by
  apply List.ext_getElem
  · simp [memBytes]; omega
  · intro i h1 h2
    simp only [memBytes, List.length_map, List.length_range] at h1
    simp only [memBytes, List.getElem_map, List.getElem_range, List.getElem_take, List.getElem_drop, Nat.add_assoc,
      memRead_bytesAt]
    rw [List.getD_eq_getElem (hn := by omega)]

/-- A read of flash with no word to correct. -/
theorem fread_readable {p : Prs} {a n : Nat} (hr : (p.flashRead a n).any (·.2 == 0) = true) :
    p.fread a n = pure (memBytes 0xFF p.flash a n) := by
  have : p.flashRead a n = some (memBytes 0xFF p.flash a n, 0) := by
    simp only [Prs.flashRead] at hr ⊢
    split at hr
    · rename_i hc
      rw [if_pos hc]
      simp only [Option.any_some, beq_iff_eq] at hr
      rw [hr]
    · cases hr
  unfold Prs.fread
  rw [this]
  rfl

/-- A read of flash that holds a list of bytes from `a` on, in sectors that are VALID. -/
theorem fread_bytesAt {p : Prs} {a k n : Nat} {l bs : List Byte} (hf : p.flash = bytesAt a l) (hk : k + n ≤ l.length)
    (hb : (l.drop k).take n = bs) (hr : (p.flashRead (a + k) n).any (·.2 == 0) = true) : p.fread (a + k) n = pure bs := by
  rw [fread_readable hr, hf, memBytes_bytesAt hk, hb]

/-- What the header of a stream of `n` images says. -/
def headerOf (kind n len : Nat) : Hdr :=
  ⟨0, n, len, 7, 1, 0, 0, kind, List.replicate 16 0, List.replicate 32 0, 0⟩

/-- The table of images that follow each other. -/
def images (off : Nat) : List Nat → List Seg
  | [] => []
  | n :: r => ⟨1, n, 0, off, 13024, 0, List.replicate 16 0, (imageEntry n off).take 16⟩ :: images (off + 13024) r

theorem length_natBytes (v n : Nat) : (natBytes v n).length = n := by
  induction n generalizing v with
  | zero => rfl
  | succ n ih => simp [natBytes, ih]

/-- Step 1 of R300 on flash that begins with a header and a table which pass the checks. -/
theorem stream_reads {p : Prs} {r kind n len : Nat} {tab : List Byte} {segs : List Seg}
    (hf : p.flash = bytesAt (regionBase r) (header kind n len ++ tab)) (hl : tab.length = 32 * n)
    (h0 : (p.flashRead (regionBase r) 256).any (·.2 == 0) = true)
    (h1 : (p.flashRead (regionBase r + 256) (32 * n)).any (·.2 == 0) = true)
    (hh : readHeader (header kind n len) (r == 2) = pure (headerOf kind n len))
    (ht : ((List.range n).map fun i => segOf ((tab.drop (32 * i)).take 32)) = segs)
    (hs : segs.forM (checkSeg (headerOf kind n len) (r == 2)) = pure ())
    (hg : (checkLayout (headerOf kind n len) (256 + 32 * n) segs && checkCounts (r == 2) segs) = true) :
    p.readStream r = pure (headerOf kind n len, segs) := by
  have hlen : (header kind n len).length = 256 := by
    simp only [header, List.length_append, length_natBytes, List.length_replicate]; rfl
  unfold Prs.readStream
  rw [← Nat.add_zero (regionBase r)] at h0
  rw [← Nat.add_zero (regionBase r), fread_bytesAt (k := 0) hf (by simp [hlen]) (bs := header kind n len) (by simp [hlen]) h0,
    pure_bind, hh, pure_bind]
  simp only [Nat.add_zero]
  rw [show (headerOf kind n len).n = n from rfl,
    fread_bytesAt (k := 256) hf (by simp [hlen, hl]) (bs := tab) (by simp [hlen, ← hl]) h1, pure_bind,
    ht, hs]
  simp only [Bool.and_eq_true] at hg
  simp [need, hg]

/-- Image entries pass the segment checks. -/
theorem images_checked {h : Hdr} {vb : Bool} (h0 : h.mode = 0) (hv : vb = true → 0 < h.variants) {l : List Nat} (off : Nat)
    (hl : ∀ n ∈ l, n < 32) : (images off l).forM (checkSeg h vb) = pure () := by
  induction l generalizing off with
  | nil => rfl
  | cons n r ih =>
    have hn := hl n (by simp)
    have : checkSeg h vb ⟨1, n, 0, off, 13024, 0, List.replicate 16 0, (imageEntry n off).take 16⟩ = pure () := by
      cases vb <;> simp [checkSeg, need, h0, hn, zeros, imageEntry, hv, natBytes]
    show (do checkSeg h vb _; (images _ r).forM (checkSeg h vb)) = _
    rw [this, pure_bind]
    exact ih _ fun x hx => hl x (by simp [hx])

/-- Slot B begins with the header and the table of a personality of 32 images; its first sector is VALID. -/
def slotB : Chip := { up with prs := { up.prs with
  marks := [(256, 1)]
  flash := bytesAt 0x100000 (header 0 32 418112 ++ (List.range 32).flatMap fun i => imageEntry i (1280 + 13024 * i)) } }

theorem slotB_opens : ((slotB.prs.openStream Die.reset 1).run.run 0 : Except Byte (Hdr × List Seg) × Nat)
    = (.ok (headerOf 0 32 418112, images 1280 (List.range 32)), 0) := by
  unfold Prs.openStream
  rw [stream_reads (p := slotB.prs) (r := 1) (kind := 0) (n := 32)
    (tab := (List.range 32).flatMap fun i => imageEntry i (1280 + 13024 * i)) (segs := images 1280 (List.range 32)) rfl
    (by decide +kernel) (by decide +kernel) (by decide +kernel) rfl (by decide +kernel)
    (images_checked rfl (by decide) _ (by decide)) (by decide +kernel)]
  rfl

/-- The variant bank begins with the header and the table of one image of frond 31; its first `n` sectors are VALID. -/
def banked (n : Nat) (c : Chip) : Chip := { c with prs := { c.prs with
  varOk := true
  actVars := 1
  marks := (List.range n).map fun i => (512 + i, 1)
  flash := bytesAt 0x200000 (header 1 1 13376 ++ imageEntry 31 288) } }

theorem banked_readable {m : Nat} {c : Chip} (h : c.prs.flashEcc = []) (ho : c.prs.op = none) (a n : Nat) :
    (banked m c).prs.flashRead a n = (banked m up).prs.flashRead a n := by
  simp [Prs.flashRead, Prs.busyIn, banked, h, ho, up, Prs.reset]

theorem banked_reads {m : Nat} {c : Chip} (hm : m = 1 ∨ m = 4) (h : c.prs.flashEcc = []) (ho : c.prs.op = none) :
    (banked m c).prs.readStream 2 = pure (headerOf 1 1 13376, images 288 [31]) := by
  obtain rfl | rfl := hm <;>
    exact stream_reads (p := (banked _ c).prs) (r := 2) (kind := 1) (n := 1) (tab := imageEntry 31 288) (segs := images 288 [31])
      rfl rfl (by rw [banked_readable h ho]; decide +kernel) (by rw [banked_readable h ho]; decide +kernel) rfl
      (by decide +kernel) rfl (by decide +kernel)

theorem banked_opens {c : Chip} (h : c.prs.flashEcc = []) (ho : c.prs.op = none) :
    (banked 1 c).bankTable = (.ok (headerOf 1 1 13376, images 288 [31]), 0) := by
  unfold Chip.bankTable
  rw [banked_reads (.inl rfl) h ho]
  rfl

theorem witness_StagingAndVerification_StagingLoadsASlot :
    let claimed : Chip := { up with fronds := vmod up.fronds 0 fun x => { x with claim := some 0 } }
    let loading := waiting up 3 .staging 0x90 (ins 1 0) 0 0
    let r := (loading.markBusy 0xFFFFFFFF false).stageSlot Die.reset true
    (claimed.issuesAs Op.persStage 0 (ins 0 0) claimed ∧ claimed.stageBusy 0 = true) ∧
    (up.issuesAs Op.persStage 0 (ins 1 0) up ∧ up.stageBusy 1 = false ∧ memRead 0 up.prs.marks 256 ≠ 1 ∧
      ∃ st k, ((up.prs.openStream Die.reset 1).run.run 0 : Except Byte (Hdr × List Seg) × Nat) = (.error st, k)) ∧
    (slotB.issuesAs Op.persStage 0 (ins 1 0) slotB ∧ slotB.stageBusy 1 = false ∧
      ∃ x k, ((slotB.prs.openStream Die.reset 1).run.run 0 : Except Byte (Hdr × List Seg) × Nat) = (.ok x, k)) ∧
    (loading.clk.switch = none ∧ loading.coreOn = true ∧
      (loading.queue 3).wait = some ⟨.staging, 0x90, ins 1 0, 0, 0, 0⟩ ∧ loading.noRecord r.2.2.2) :=
  ⟨meets (by decide) (by decide), meets (by decide) ⟨by decide, by decide, _, _, rfl⟩,
    meets (by decide) ⟨by decide, _, _, slotB_opens⟩, rfl, by decide, rfl, rfl, rfl⟩

theorem witness_StagingAndVerification_VerifyChecksTheStagedStream :
    let ending := { waiting staged 2 .staging 0x91 (ins 0 0) 0 0 with prs := staged.prs }
    let short := { ending with prs := { ending.prs with staged := some { stream with length := 80 } } }
    let lost := { ending with prs := { ending.prs with staged := none } }
    let other := waiting up 2 .staging 0x91 (ins 0 0 1) 0 0
    (up.issuesAs Op.persVerify 0 (ins 0 0) up ∧ up.prs.staged = none) ∧
    (staged.issuesAs Op.persVerify 0 (ins 1 0) staged ∧ staged.prs.staged = some stream ∧ stream.slot ≠ true) ∧
    (staged.issuesAs Op.persVerify 0 (ins 0 0) staged ∧ staged.stageBusy 0 = false ∧ stream.variants = 0) ∧
    (up.issuesAs Op.persVerify 0 (ins 0 0 1) up ∧ up.stageBusy 0 = false) ∧
    (ending.clk.switch = none ∧ ending.coreOn = true ∧ (ending.queue 2).wait = some ⟨.staging, 0x91, ins 0 0, 0, 0, 0⟩ ∧
      ending.prs.staged = some stream ∧ failed (ending.verifyStaged Die.reset stream).1 = false) ∧
    (short.prs.staged = some { stream with length := 80 } ∧
      failed (short.verifyStaged Die.reset { stream with length := 80 }).1 = true) ∧
    (lost.prs.staged = none) ∧
    (other.clk.switch = none ∧ other.coreOn = true ∧ (other.queue 2).wait = some ⟨.staging, 0x91, ins 0 0 1, 0, 0, 0⟩) :=
  ⟨meets (by decide) (by decide), meets (by decide) (by decide), meets (by decide) (by decide), meets (by decide) (by decide),
    by decide, by decide, rfl, by decide⟩

/-- A verified stream staged from slot A, every check of R305 passed. -/
def verified : Chip := { staged with prs := { staged.prs with staged := some { stream with verified := true } } }

set_option maxRecDepth 2000 in
theorem witness_ActivationSwapsEverything :
    let good : Staged := { stream with verified := true }
    let torn : Chip := { verified with fronds := up.fronds }
    let full : Chip := { verified with lic := fullWriter }
    (up.issuesAs Op.persActivate 0 (ins 0 0) up ∧ up.prs.staged = none) ∧
    (staged.issuesAs Op.persActivate 0 (ins 0 0) staged ∧ staged.prs.staged = some stream ∧ stream.verified = false) ∧
    (torn.issuesAs Op.persActivate 0 (ins 0 0) torn ∧ torn.prs.staged = some good ∧
      ∃ st x, torn.actCheck (Src.ofQueue 0) good = some (st, x) ∧ x.lic.wait.length ≤ torn.lic.wait.length) ∧
    (verified.issuesAs Op.persActivate 0 (ins 0 0) verified ∧ verified.prs.staged = some good ∧
      verified.actCheck (Src.ofQueue 0) good = none ∧ verified.lic.general = 0 ∧ good.regs = [] ∧ good.rout = [] ∧
      verified.prs.rtStore = false ∧ (∀ k, (verified.queue k).posted = false) ∧ verified.lic.room = true) ∧
    (full.issuesAs Op.persActivate 0 (ins 0 0) full ∧ full.prs.staged = some good ∧
      full.actCheck (Src.ofQueue 0) good = none ∧ 0 < full.lic.general ∧
      full.lic.wait.length < (full.activate Die.reset good).lic.wait.length) :=
  ⟨meets (by decide) (by decide), meets (by decide) (by decide), meets (by decide) ⟨rfl, _, _, rfl, by decide⟩,
    meets (by decide) ⟨rfl, rfl, by decide, rfl, rfl, rfl, by decide, by decide⟩,
    meets (by decide) ⟨rfl, rfl, by decide, by
      obtain ⟨r, he, _, _, h⟩ := Chip.activate_lic (c := { verified with lic := fullWriter }) (die := Die.reset)
        (s := { stream with verified := true }) rfl rfl (by decide) rfl
      rw [h]
      show 0 < (fullWriter.give r).wait.length
      have hr : fullWriter.room = false := by decide
      simp [Lic.give, he, hr]⟩⟩
/-- A flash operation of queue 0 on a sector. -/
def flashing (prog : Bool) (marks : Mem) : Chip :=
  let c := waiting up 0 .flashDone (if prog then 0x95 else 0x96) (ins 0 0) 0 0
  { c with prs := { c.prs with op := some ⟨prog, 511, if prog then List.replicate 4096 5 else [], false, some 0⟩, marks := marks } }

theorem witness_FlashBootPreferenceAndVariants_BootPreferenceAndVariants :
    let bound : Chip := { up with prs := { up.prs with varOk := true, actVars := 2, actSlot := some true } }
    let ending := banked 1 (waiting up 6 .staging 0x94 (ins 0 0x80000000) 0 0x80000000)
    let own := (images 288 [31]).filter fun x => x.variant == 0
    (up.issuesAs Op.persSlot 0 (ins 0 3) up ∧ up.prs.bootpref = none) ∧
    (up.issuesAs Op.variantStage 0 (ins 7 1) up ∧ up.prs.varOk = false) ∧
    (bound.issuesAs Op.variantStage 0 (ins 2 1) bound ∧ bound.prs.varOk = true ∧ bound.prs.actVars ≤ field (2 : Word) 0 3) ∧
    ((banked 1 up).issuesAs Op.variantStage 6 (ins 0 0x80000000) (banked 1 up) ∧ (banked 1 up).prs.varOk = true ∧
      field (0 : Word) 0 3 < (banked 1 up).prs.actVars ∧ (∃ h, (banked 1 up).bankTable = (.ok (h, images 288 [31]), 0)) ∧
      (0x80000000 : Word) &&& ~~~(imageMask own) = 0 ∧ (banked 1 up).scr.irpEn = false ∧ (banked 1 up).anyClaim = false ∧
      (banked 1 up).staging = false ∧ (banked 1 up).scr.running = none) ∧
    (ending.clk.switch = none ∧ ending.coreOn = true ∧
      (ending.queue 6).wait = some ⟨.staging, 0x94, ins 0 0x80000000, 0, 0, 0x80000000⟩ ∧
      ∃ h, ending.bankTable = (.ok (h, images 288 [31]), 0) ∧
        ending.noRecord (ending.stageVariant Die.reset h (images 288 [31]) 0 0x80000000).2) :=
  ⟨meets (by decide) (by decide), meets (by decide) (by decide), meets (by decide) (by decide),
    meets (by decide) ⟨rfl, by decide, ⟨_, banked_opens rfl rfl⟩, by decide, by decide, by decide, by decide, by decide⟩,
    rfl, by decide, rfl, _, banked_opens rfl rfl, by decide +kernel, by decide +kernel⟩

theorem witness_FlashBootPreferenceAndVariants_FlashOperationsRunToTheirEnd :
    let bound : Chip := { up with prs := { up.prs with actSlot := some true } }
    ((flashing false []).issuesAs Op.persErase 1 (ins 0x2FF000 0) (flashing false []) ∧ (flashing false []).prs.op ≠ none) ∧
    (bound.issuesAs Op.persErase 0 (ins 0x1FF000 0) bound ∧ bound.prs.op = none ∧ bound.staging = false ∧
      bound.prs.ldr ≠ .loader ∧ bound.prs.actSlot = some (decide (0x100000 ≤ 0x1FF000))) ∧
    (bound.issuesAs Op.persErase 0 (ins 0x0FF000 0) bound ∧ bound.staging = false ∧
      bound.prs.actSlot ≠ some (decide (0x100000 ≤ 0x0FF000))) ∧
    (up.issuesAs Op.persProg 0 (ins 0x1FF000 0x7000F000) up ∧ 0x7000F000 + 4096 ≤ 0x70010000 ∧ up.prs.op = none ∧
      up.staging = false ∧ up.prs.actSlot ≠ some true ∧ ∀ i, i < 256 → up.eccAt (0x7000F000 + 16 * i) = 0) ∧
    ((flashing false [(511, 1)]).clk.switch = none ∧ (flashing false [(511, 1)]).storeOn = true ∧
      (flashing false [(511, 1)]).prs.op = some ⟨false, 511, [], false, some 0⟩ ∧
      ((flashing false [(511, 1)]).queue 0).wait = some ⟨.flashDone, 0x96, ins 0 0, 0, 0, 0⟩) ∧
    ((flashing true []).clk.switch = none ∧ (flashing true []).storeOn = true ∧
      (flashing true []).prs.op = some ⟨true, 511, List.replicate 4096 5, false, some 0⟩ ∧
      ((flashing true []).queue 0).wait = some ⟨.flashDone, 0x95, ins 0 0, 0, 0, 0⟩ ∧
      memRead 0 (flashing true []).prs.marks 511 = 0 ∧ (List.replicate 4096 (5 : Byte)).length = 4096) :=
  ⟨meets (by decide) (by decide), meets (by decide) (by decide), meets (by decide) (by decide),
    meets (by decide) ⟨by decide, by decide, by decide, by decide, fun _ _ => rfl⟩, by decide, rfl, rfl, rfl, rfl, rfl,
    List.length_replicate⟩

theorem witness_NoStepClearsAFuse : sealedDie.fusesKept (at_ up sealedDie).die ∧
    step (at_ up sealedDie) = .next { at_ up sealedDie with chip := up.tick sealedDie } :=
  ⟨⟨id, id, id, id, fun _ h => h, rfl⟩, rfl⟩

/-- The staging of the key by queue 1, up to a quarter. -/
def keyed (n : Nat) : Chip := { up with sec := { up.sec with owner := some 1, quarter := n } }

/-- A fuse operation of queue 0. -/
def fusing (k : Nat) (q : Option Queue) : Chip :=
  let c := waiting up 0 .fuseDone 0xA0 (ins 0 0) 0 0
  { c with sec := { c.sec with op := some ⟨k, q, 1⟩ } }

theorem witness_LocksFusesAndKeys_LocksAndFuses :
    let keyDie : Die := { Die.reset with keyProg := true }
    (up.issuesAs Op.lockSet 0 (ins 0 3) up ∧ (3 : Word) &&& ~~~3 = 0) ∧
    (up.issuesAs Op.lockSet 0 (ins 0 4) up ∧ (4 : Word) &&& ~~~3 ≠ 0) ∧ up.issuesAs Op.lockSet 0 (ins 1 0) up ∧
    (up.issuesAs Op.lockSet 0 (ins 2 0x5EA0000000000000) up ∧
      ((0x5EA0000000000000 : DWord).extractLsb' 48 16 == 0x5EA1) = false) ∧
    ((at_ up sealedDie).chip.issuesAs Op.lockSet 0 (ins 2 0x5EA1000000000000) up ∧ (at_ up sealedDie).die.sealed = true) ∧
    ((fusing 3 none).issuesAs Op.lockSet 1 (ins 3 0x5EA1000000000000) (fusing 3 none) ∧ Die.reset.readback = false ∧
      (fusing 3 none).sec.op ≠ none) ∧
    (up.issuesAs Op.lockSet 0 (ins 2 0x5EA1000000000000) up ∧ up.sec.op = none ∧ Die.reset.sealed = false ∧
      Die.reset.keyProg = false) ∧
    ((at_ up keyDie).chip.issuesAs Op.lockSet 0 (ins 2 0x5EA1000000000000) up ∧
      ((0x5EA1000000000000 : DWord).extractLsb' 48 16 == 0x5EA1) = true ∧ up.sec.op = none ∧ keyDie.sealed = false ∧
      keyDie.keyProg = true) ∧
    (up.issuesAs Op.lockSet 0 (ins 4 0x5EA1000000000000) up ∧ up.sec.op = none ∧ Die.reset.jtagLock = false) ∧
    (up.issuesAs Op.lockSet 0 (ins 5 0) up ∧ 5 ≤ field (5 : Word) 0 4) ∧
    ((fusing 3 (some 0)).sec.op = some ⟨3, some 0, 1⟩ ∧
      ((fusing 3 (some 0)).queue 0).wait = some ⟨.fuseDone, 0xA0, ins 0 0, 0, 0, 0⟩) ∧
    (fusing 1 none).sec.op = some ⟨1, none, 1⟩ :=
  ⟨meets (by decide) (by decide), meets (by decide) (by decide), issues (by decide), meets (by decide) (by decide),
    meets (by decide) (by decide), meets (by decide) (by decide), meets (by decide) (by decide), meets (by decide) (by decide),
    meets (by decide) (by decide), meets (by decide) (by decide), by decide, rfl⟩

theorem witness_LocksFusesAndKeys_KeyQuartersProgramTheKey :
    let key := stageQuarter (keyed 3).sec.stageKey 3 5
    let same : Die := { Die.reset with keyProg := true, key := key }
    let other : Die := { Die.reset with keyProg := true, key := 1 }
    let blown : Die := { Die.reset with key := 1 }
    let busy : Chip := { keyed 3 with sec := { (keyed 3).sec with op := some ⟨1, none, 0⟩ } }
    (up.issuesAs Op.keyProg 1 (ins 0 5) up ∧ up.sec.owner = none) ∧
    ((keyed 2).issuesAs Op.keyProg 1 (ins 0 5) (keyed 2) ∧ (keyed 2).sec.owner = some 1) ∧
    ((keyed 2).issuesAs Op.keyProg 0 (ins 2 5) (keyed 2) ∧ (keyed 2).sec.owner = some 1 ∧ (1 : Queue) ≠ 0) ∧
    (up.issuesAs Op.keyProg 1 (ins 1 5) up ∧ up.sec.owner = none) ∧
    ((keyed 2).issuesAs Op.keyProg 1 (ins 1 5) (keyed 2) ∧ (keyed 2).sec.quarter ≠ field (1 : Word) 0 2) ∧
    ((keyed 2).issuesAs Op.keyProg 1 (ins 2 5) (keyed 2) ∧ (keyed 2).sec.quarter = field (2 : Word) 0 2) ∧
    ((keyed 3).issuesAs Op.keyProg 1 (ins 3 5) (keyed 3) ∧ (keyed 3).sec.owner = some 1 ∧ (keyed 3).sec.quarter = 3 ∧
      (keyed 3).lic.room = true ∧ (keyed 3).sec.op = none) ∧
    (same.keyProg = true ∧ key = same.key) ∧ (other.keyProg = true ∧ key ≠ other.key) ∧
    (blown.keyProg = false ∧ blown.key &&& ~~~key ≠ 0) ∧ (Die.reset.keyProg = false ∧ Die.reset.key &&& ~~~key = 0) ∧
    (busy.issuesAs Op.keyProg 1 (ins 3 5) busy ∧ busy.sec.owner = some 1 ∧ busy.sec.quarter = 3 ∧ busy.sec.op ≠ none) ∧
    ((fusing 4 (some 0)).sec.op = some ⟨4, some 0, 1⟩ ∧
      ((fusing 4 (some 0)).queue 0).wait = some ⟨.fuseDone, 0xA0, ins 0 0, 0, 0, 0⟩) ∧
    (fusing 4 none).sec.op = some ⟨4, none, 1⟩ :=
  ⟨meets (by decide) rfl, meets (by decide) rfl, meets (by decide) (by decide), meets (by decide) rfl,
    meets (by decide) (by decide), meets (by decide) (by decide), meets (by decide) (by decide), by decide, by decide,
    by decide, by decide, meets (by decide) (by decide), by decide, rfl⟩

/-- A clock unit in a state, its crystal and its line good or not. -/
def clocked (st : ClkState) (xtal line lost : Bool) : Chip := { up with
  clk := { up.clk with st := st, xtalOk := xtal, lineOk := line, cdrLock := !lost, lineLost := lost } }

/-- A switch in flight for queue 3. -/
def switching (x : Switch) (line : Bool) : Chip :=
  let c := waiting (clocked x.start true line false) 3 .switch 0xB0 (ins 0 2) 0 0
  { c with clk := { c.clk with switch := some x } }

theorem witness_ClockAndTimeInstructions_ClockSelection :
    let two : Switch := ⟨false, true, .line, 0x10, .forced, .queue 3, 2⟩
    let one := { two with left := 1 }
    let holds (c : Chip) : Bool := c.coreOn && c.scr.irpEn == false && c.scr.running.isNone && c.stager.isNone
      && c.mgt.stretch == false && (List.finRange 8).all fun q => (c.queue q).words.isEmpty && (c.queue q).calls.isEmpty
    up.issuesAs Op.clkSel 0 (ins 0 3) up ∧
    ((clocked .line false true false).issuesAs Op.clkSel 0 (ins 0 1) (clocked .line false true false)) ∧
    ((clocked .line true false true).issuesAs Op.clkSel 0 (ins 0 1) (clocked .line true false true)) ∧
    ((clocked .fallback true false true).issuesAs Op.clkSel 0 (ins 0 2) (clocked .fallback true false true)) ∧
    ((clocked .fallback true true false).issuesAs Op.clkSel 0 (ins 0 1) (clocked .fallback true true false)) ∧
    ((clocked .line true true false).issuesAs Op.clkSel 0 (ins 0 1) (clocked .line true true false)) ∧
    ((clocked .forced true true false).issuesAs Op.clkSel 0 (ins 0 1) (clocked .forced true true false)) ∧
    ((clocked .line true true false).issuesAs Op.clkSel 0 (ins 0 2) (clocked .line true true false)) ∧
    ((clocked .qualifying true true false).issuesAs Op.clkSel 0 (ins 0 2) (clocked .qualifying true true false)) ∧
    ((clocked .forced true false false).issuesAs Op.clkSel 0 (ins 0 2) (clocked .forced true false false)) ∧
    ((switching two true).clk.switch = some two ∧ holds (switching two true) = true) ∧
    ((switching one true).clk.switch = some one ∧ holds (switching one true) = true ∧ one.caller = .queue 3 ∧
      ((switching one true).queue 3).wait = some ⟨.switch, 0xB0, ins 0 2, 0, 0, 0⟩) :=
  ⟨issues (by decide), issues (by decide), issues (by decide), issues (by decide), issues (by decide), issues (by decide),
    issues (by decide), issues (by decide), issues (by decide), issues (by decide), by decide, by decide⟩

theorem witness_ClockAndTimeInstructions_ClockForcing :
    let early : Switch := ⟨false, true, .line, 0x10, .forced, .queue 3, 4⟩
    let last : Switch := ⟨true, true, .line, 0x10, .forced, .queue 3, 1⟩
    let named : Chip := { up with mgt := { up.mgt with expValid := true, expGen := up.clk.gen } }
    let met := switching early true
    let done := switching last true
    up.issuesAs Op.clkForce 0 (ins 0 0) up ∧
    (up.issuesAs Op.clkForce 5 (ins 0 1) (issued up 5) ∧ up.mgt.expValid = false) ∧
    (named.issuesAs Op.clkForce 5 (ins 0 2) (issued named 5) ∧ named.mgt.expValid = true ∧ named.mgt.expGen = named.clk.gen ∧
      named.clk.lineOk = false) ∧
    (up.issuesAs Op.clkForce 0 (ins 0 2) up ∧ up.clk.lineOk = false) ∧
    ((clocked .fallback true false true).issuesAs Op.clkForce 0 (ins 0 1) (clocked .fallback true false true)) ∧
    ((clocked .forced true false true).issuesAs Op.clkForce 0 (ins 0 1) (clocked .forced true false true)) ∧
    ((clocked .line true true false).issuesAs Op.clkForce 0 (ins 0 1) (clocked .line true true false)) ∧
    ((clocked .fallback true true false).issuesAs Op.clkForce 0 (ins 0 2) (clocked .fallback true true false)) ∧
    (met.clk.switch = some early ∧ (met.queue 3).wait = some ⟨.switch, 0xB0, ins 0 2, 0, 0, 0⟩ ∧ met.engineOn = true ∧
      met.queue 0 = QState.reset ∧ Op.clkForce.named (ins 0 2) = true ∧ Op.clkForce.permits 0 = true ∧
      met.clk.lineOk = true ∧ met.clk.st ≠ .line) ∧
    (done.pwr.pgood = true ∧ done.pwr.pf = 0 ∧ done.clk.switch = some last ∧ last.into ≠ last.start ∧ done.clk.st ≠ .hold ∧
      done.clk.xtalRuns = true ∧ done.clk.holdCnt.toNat + 1 < 2 ^ 48 ∧ (∀ k, k < 3 → (vget done.ports k).lost = false) ∧
      (done.queue 3).wait = some ⟨.switch, 0xB0, ins 0 2, 0, 0, 0⟩) :=
  ⟨issues (by decide), meets (by decide) rfl, meets (by decide) (by decide), meets (by decide) rfl, issues (by decide),
    issues (by decide), issues (by decide), issues (by decide), by decide, by decide⟩

theorem witness_ClockAndTimeInstructions_LineTimeInstructions :
    (up.issuesAs Op.ltSet 0 (ins 0xFFFFFFFF 15999999999) up ∧
      ((15999999999 : DWord).extractLsb' 0 34).toNat < 16000000000) ∧
    (up.issuesAs Op.ltSet 0 (ins 0 16000000000) up ∧ 16000000000 ≤ ((16000000000 : DWord).extractLsb' 0 34).toNat) ∧
    (up.issuesAs Op.ltAdj 0 (ins 157 0x80000000) up ∧ 157 ≤ field (157 : Word) 0 16 ∧
      -(2 ^ 31) ≤ up.lt.slew.toInt + ((0x80000000 : DWord).setWidth 32 : Word).toInt) ∧
    (up.issuesAs Op.ltAdj 0 (ins 156 1) up ∧ field (156 : Word) 0 16 < 157) :=
  ⟨meets (by decide) (by decide), meets (by decide) (by decide), meets (by decide) (by decide), meets (by decide) (by decide)⟩

/-- Every port UP, pausing its sender or not. -/
def linked (xoff : Bool) : Chip := { up with ports := Vector.replicate 3 { Port.reset true with st := 2, xoffRx := xoff } }

theorem witness_LinkControl :
    let behind : Chip := { linked false with ports := vmod (linked false).ports 2 fun x => { x with fwdBuf := [frameOf 2 0 0 []] } }
    let lined : Chip := { linked false with clk := (clocked .line true true false).clk }
    up.issuesAs Op.linkCtl 0 (ins 2 1) up ∧
    (lined.issuesAs Op.linkCtl 0 (ins 0 2) lined ∧ lined.clk.st = .line) ∧
    (up.issuesAs Op.linkCtl 0 (ins 0 2) up ∧ up.clk.st ≠ .line ∧ (vget up.ports 0).st ≠ 2) ∧
    ((linked false).issuesAs Op.linkCtl 0 (ins 2 2) (linked false) ∧ (vget (linked false).ports 2).st = 2 ∧
      (linked false).lic.room = true) ∧
    ((linked false).issuesAs Op.linkCtl 0 (ins 2 3) (linked false) ∧ (vget (linked false).ports 2).st = 2 ∧
      (linked false).lic.room = true) ∧
    ((linked false).issuesAs Op.linkCtl 0 (ins 2 0x2F00010F004) (linked false) ∧
      field (0x2F00010F004 : DWord) 16 5 = 16 ∧ field (0x2F00010F004 : DWord) 8 8 + 16 ≤ 256 ∧
      field (0x2F00010F004 : DWord) 32 10 + 16 ≤ 768 ∧ (vget (linked false).ports 2).xoffRx = false ∧
      (vget (linked false).ports 2).held = false ∧
      ∀ i, i < 16 → (linked false).eccAt (0x60003000 + 2 * 0x4000 + 16 * (0xF0 + i)) = 0) ∧
    (up.issuesAs Op.linkCtl 0 (ins 2 0x10004) up ∧ (vget up.ports 2).st ≠ 2) ∧
    ((linked true).issuesAs Op.linkCtl 0 (ins 2 0x10004) (linked true) ∧ (vget (linked true).ports 2).xoffRx = true) ∧
    (behind.issuesAs Op.linkCtl 0 (ins 2 0x10004) behind ∧ (vget behind.ports 2).st = 2 ∧
      (vget behind.ports 2).xoffRx = false ∧ (vget behind.ports 2).fwdBuf ≠ []) ∧
    ((linked false).issuesAs Op.linkCtl 0 (ins 0 0xFF75) (linked false) ∧ (vget (linked false).ports 0).held = false ∧
      (linked false).eccAt (0x60003000 + 0 * 0x4000 + 16 * 0xFF) = 0) ∧
    (linked false).issuesAs Op.linkCtl 0 (ins 0 6) (linked false) :=
  ⟨issues (by decide), meets (by decide) rfl, meets (by decide) (by decide), meets (by decide) (by decide),
    meets (by decide) (by decide), meets (by decide) (by decide), meets (by decide) (by decide), meets (by decide) rfl,
    meets (by decide) (by decide), meets (by decide) (by decide), issues (by decide)⟩
theorem witness_RecorderAndSnapInstructions_RecorderInstructions :
    let full : Chip := { up with lic := fullWriter }
    let torn := withMem up (slotAddr 511) 1 1
    let bad := withEcc up (slotAddr 511) 2
    let good (c : Chip) : Prop := ∀ k, k < 4 → c.eccAt (slotAddr 511 + 16 * k) = 0
    (up.issuesAs Op.licMark 0 (ins 0xFFFF 5) up ∧ up.lic.room = true) ∧
    (full.issuesAs Op.licMark 0 (ins 0xFFFF 5) full ∧ 14 ≤ full.lic.general) ∧
    (up.issuesAs Op.licRead 0 (ins 0 511) up ∧ good up ∧ (up.slotBytes 511).all (· == 0) = true) ∧
    (up.issuesAs Op.licRead 0 (ins 0x7000FFC0 511) up ∧ (0x7000FFC0 : Word).toNat ≠ 0 ∧ destCheck 0 0x7000FFC0 4 = none) ∧
    (torn.issuesAs Op.licRead 0 (ins 0 511) torn ∧ good torn ∧ slotGood (torn.slotBytes 511) = false ∧
      (torn.slotBytes 511).all (· == 0) = false) ∧
    (bad.issuesAs Op.licRead 0 (ins 0 511) bad ∧ 2 ≤ bad.eccAt (slotAddr 511) ∧ bad.lic.room = true) ∧
    (up.issuesAs Op.licRead 0 (ins 0x7000FFD0 511) up ∧ ∃ st, destCheck 0 0x7000FFD0 4 = some st) :=
  ⟨meets (by decide) (by decide), meets (by decide) (by decide), meets (by decide) (by decide), meets (by decide) (by decide),
    meets (by decide) (by decide +kernel), meets (by decide) (by decide), meets (by decide) ⟨_, rfl⟩⟩

theorem witness_RecorderAndSnapInstructions_SnapCopiesTheFabric :
    up.issuesAs Op.snap 0 (ins 0 0) up ∧
    (up.issuesAs Op.snap 0 (ins 0 0x7000FEF0) up ∧ ∃ st, destCheck 0 0x7000FEF0 18 = some st) ∧
    (up.issuesAs Op.snap 0 (ins 0 0x7000FEE0) up ∧ destCheck 0 0x7000FEE0 18 = none ∧ Die.reset.readback = false) ∧
    ((at_ up { Die.reset with readback := true }).chip.issuesAs Op.snap 0 (ins 0 0x10000000) up ∧
      destCheck 0 0x10000000 18 = none ∧ up.lic.room = true) :=
  ⟨issues (by decide), meets (by decide) ⟨_, rfl⟩, meets (by decide) (by decide), meets (by decide) (by decide)⟩

/-- Frond 31 with an image; `good` says whether its golden signature is that of its plane. -/
def imaged (good : Bool) (g : Frond → Frond := id) : Chip := { up with
  fronds := vmod up.fronds 31 fun x => g { x with
    activeOk := true, golden := if good then up.signature (up.activeBase 31) else ~~~up.signature (up.activeBase 31) } }

/-- The plane and the signature of frond 31 do not depend on the change. -/
theorem imaged_signature (good : Bool) (g : Frond → Frond) (hp : ∀ x, (g x).plane = x.plane) :
    (imaged good g).signature ((imaged good g).activeBase 31) = up.signature (up.activeBase 31) := by
  have : (imaged good g).activeBase 31 = up.activeBase 31 := by
    unfold Chip.activeBase imaged; simp only [vget_vmod_same, hp]
  rw [this]; rfl

theorem good_signature (g : Frond → Frond) (h : ∀ x, (g x).golden = x.golden) (hp : ∀ x, (g x).plane = x.plane) :
    (imaged true g).signature ((imaged true g).activeBase 31) = (vget (imaged true g).fronds 31).golden := by
  rw [imaged_signature true g hp]
  unfold imaged; simp only [vget_vmod_same, h]; rfl

theorem bad_signature (g : Frond → Frond) (h : ∀ x, (g x).golden = x.golden) (hp : ∀ x, (g x).plane = x.plane) :
    (imaged false g).signature ((imaged false g).activeBase 31) ≠ (vget (imaged false g).fronds 31).golden := by
  have h2 : (vget (imaged false g).fronds 31).golden = ~~~up.signature (up.activeBase 31) := by
    unfold imaged; simp only [vget_vmod_same, h]; rfl
  rw [imaged_signature false g hp, h2]
  intro e
  have := congrArg (·.getLsbD 0) e
  simp at this

theorem witness_ScrubbingAndRepair_ScrubControl :
    up.issuesAs Op.scrubCtl 0 (ins 0 0 0) up ∧ up.issuesAs Op.scrubCtl 0 (ins 0 0 1) up ∧
    (up.issuesAs Op.scrubCtl 0 (ins 0 0 2) up ∧ ((0 : DWord).setWidth 32 : Word) = 0 ∧
      (up.scrubPass 0xFFFFFFFF).2.lic.wait = up.lic.wait) ∧
    ((imaged true).issuesAs Op.scrubCtl 0 (ins 0 0x80000000 2) (imaged true) ∧
      ((0x80000000 : DWord).setWidth 32 : Word) = BitVec.ofNat 32 (2 ^ 31) ∧ (vget (imaged true).fronds 31).activeOk = true ∧
      (imaged true).prs.ldr ≠ .loader ∧ (vget (imaged true).fronds 31).gsrc ≠ 3 ∧
      (vget (imaged true).fronds 31).check.getLsbD 1 = false ∧
      (imaged true).signature ((imaged true).activeBase 31) = (vget (imaged true).fronds 31).golden) ∧
    ((imaged false).issuesAs Op.scrubCtl 0 (ins 0 0x80000000 2) (imaged false) ∧
      (imaged false).signature ((imaged false).activeBase 31) ≠ (vget (imaged false).fronds 31).golden) ∧
    (imaged false).lic.room = true ∧ up.issuesAs Op.scrubCtl 0 (ins 0 0 3) up :=
  ⟨issues (by decide), issues (by decide), meets (by decide) (by decide +kernel),
    meets (by decide) ⟨by decide, by decide, by decide, by decide, by decide, good_signature id (fun _ => rfl) fun _ => rfl⟩,
    meets (by decide) (bad_signature id (fun _ => rfl) fun _ => rfl), by decide, issues (by decide)⟩

/-- Frond 31 changed, under repair or not. -/
def mending (run : Bool) (c : Chip) (g : Frond → Frond) : Chip := { c with
  fronds := vmod c.fronds 31 g, scr := { c.scr with running := if run then some 31 else none } }

/-- The image of frond 31 that the variant bank holds, every byte of it erased. -/
def bankImage : List Byte := memBytes 0xFF (banked 4 up).prs.flash 0x200120 13024

/-- A repair of frond 31 reads the variant bank. -/
def reading31 : Chip := mending true (banked 4 tracking) fun x =>
  { x with shadowBusy := true, gsrc := 1, golden := crc64 bankImage }

theorem reading31_image : reading31.goldenSegment Die.reset 31 = .image bankImage 0 := by
  have hr : reading31.prs.readStream 2 = pure (headerOf 1 1 13376, images 288 [31]) := banked_reads (.inr rfl) rfl rfl
  have hf : reading31.prs.fread 0x200120 13024 = pure bankImage := fread_readable (by decide +kernel)
  have hs : reading31.prs.segment Die.reset 2 (headerOf 1 1 13376) (images 288 [31]) 0
      ⟨1, 31, 0, 288, 13024, 0, List.replicate 16 0, (imageEntry 31 288).take 16⟩ = pure bankImage := by
    unfold Prs.segment
    rw [show regionBase 2 + 288 = 0x200120 from rfl, hf]
    rfl
  have hm : ((images 288 [31]).mapIdx fun i s => (i, s)).find? (fun e =>
      e.2.kind == 1 && e.2.target == 31 && (2 != 2 || e.2.variant == (vget reading31.fronds 31).gvar.toNat))
      = some (0, ⟨1, 31, 0, 288, 13024, 0, List.replicate 16 0, (imageEntry 31 288).take 16⟩) := by decide +kernel
  have hg : (vget reading31.fronds 31).gsrc.toNat = 1 := rfl
  have hv : reading31.prs.varOk = true := rfl
  unfold Chip.goldenSegment
  simp only [hg, hv, if_true, hr, pure_bind, hm, hs]
  rfl

theorem reading31_golden : (vget reading31.fronds 31).golden = crc64 bankImage := by
  unfold reading31 mending
  simp only [vget_vmod_same]

theorem witness_ScrubbingAndRepair :
    let paused : Chip := { up with scr := { up.scr with paused := true } }
    let open_ := mending false up fun x => { x with gsrc := 3, activeOk := true }
    let lost := mending false up fun x => { x with check := 2 }
    let ask : Chip := { lost with scr := { lost.scr with want := 0x80000000 } }
    let blind := mending true up fun x => { x with shadowBusy := true }
    let mid := mending true up fun x => { x with check := 3, waitBnd := true, shadowOk := true }
    let back := mending true up fun x =>
      { x with check := 3, waitBnd := true, activeOk := true, mpol := 2, wasRun := true, st := .safe }
    let late := mending true tracking fun x => { x with waitBnd := true }
    let open2 := mending false up fun x => { x with window := true }
    (on (imaged true) = true ∧ (imaged true).scr.paused = false ∧ (imaged true).scrubNext = some 31 ∧
      (vget (imaged true).fronds 31).check.getLsbD 1 = false ∧ (vget (imaged true).fronds 31).gsrc ≠ 3 ∧
      (imaged true).signature ((imaged true).activeBase 31) = (vget (imaged true).fronds 31).golden) ∧
    (on (imaged false) = true ∧ (imaged false).scr.paused = false ∧ (imaged false).scrubNext = some 31 ∧
      (imaged false).lic.room = true ∧
      (imaged false).signature ((imaged false).activeBase 31) ≠ (vget (imaged false).fronds 31).golden) ∧
    (on open_ = true ∧ open_.scr.paused = false ∧ open_.scrubNext = some 31 ∧ (vget open_.fronds 31).gsrc = 3) ∧
    (on paused = true ∧ paused.scr.paused = true) ∧
    (on up = true ∧ (up.scr.want ||| up.scr.auto).getLsbD 31 = false ∧ up.scr.running ≠ some 31 ∧
      (vget up.fronds 31).window = false) ∧
    (on ask = true ∧ (ask.scr.want ||| ask.scr.auto).getLsbD 31 = true ∧ (vget ask.fronds 31).check = 2 ∧
      ask.scr.running = none ∧ ask.staging = false) ∧
    (on blind = true ∧ blind.scr.running = some 31 ∧ (vget blind.fronds 31).shadowBusy = true ∧ blind.lic.room = true ∧
      ∃ step st m, blind.goldenSegment Die.reset 31 = .fails step st m) ∧
    (on reading31 = true ∧ reading31.scr.running = some 31 ∧ (vget reading31.fronds 31).shadowBusy = true ∧
      reading31.moving = true ∧ reading31.pulses.getLsbD 44 = false ∧
      ∃ bs m, reading31.goldenSegment Die.reset 31 = .image bs m ∧ crc64 bs = (vget reading31.fronds 31).golden) ∧
    (on mid = true ∧ mid.scr.running = some 31 ∧ (vget mid.fronds 31).shadowBusy = false ∧
      (vget mid.fronds 31).waitBnd = true ∧ mid.moving = false ∧ (vget mid.fronds 31).pol.getLsbD 1 = false ∧
      (vget mid.fronds 31).mpol.getLsbD 1 = false) ∧
    (on back = true ∧ back.scr.running = some 31 ∧ (vget back.fronds 31).shadowBusy = false ∧
      (vget back.fronds 31).waitBnd = true ∧ back.moving = false ∧ (vget back.fronds 31).pol.getLsbD 1 = false ∧
      ((vget back.fronds 31).mpol.getLsbD 1 && (vget back.fronds 31).wasRun) = true ∧ (vget back.fronds 31).st = .safe ∧
      (vget back.fronds 31).activeOk = true) ∧
    (on late = true ∧ late.scr.running = some 31 ∧ (vget late.fronds 31).shadowBusy = false ∧ late.moving = true ∧
      late.pulses.getLsbD 44 = false) ∧
    (on open2 = true ∧ (vget open2.fronds 31).window = true) :=
  ⟨⟨by decide, by decide, by decide, by decide, by decide, good_signature id (fun _ => rfl) fun _ => rfl⟩,
    ⟨by decide, by decide, by decide, by decide, bad_signature id (fun _ => rfl) fun _ => rfl⟩, by decide, by decide, by decide,
    by decide, ⟨by decide, by decide, by decide, by decide, _, _, _, rfl⟩,
    ⟨by decide, by decide, rfl, by decide, by decide, _, _, reading31_image, reading31_golden.symm⟩, by decide, by decide, by decide, by decide⟩

theorem witness_CoreResetClearsTheCore :
    let c : Chip := { up with prt := { up.prt with cross := [(0, up.prt.epoch, 1, 5)] } }
    c.issuesAs Op.coreReset 0 (ins 0 0) c ∧ ∀ e, e ∈ c.prt.cross → e.2.1 = c.prt.epoch :=
  meets (by decide) (by decide)

/-- No context is free: queue 1 holds them all. -/
def contextless (c : Chip) : Chip := { c with eng := { c.eng with
  ctxs := Vector.replicate 4 { Ctx.reset with isOpen := true, owner := 1 } } }

theorem witness_WaitsEndOrGoOn :
    let asks := waiting up 6 .context 0x80 (ins 0 0) 0 0
    let short := contextless asks
    let fence := waiting up 0 .fence 0x00 { ins 0 0 with fence := true } 0 0
    let behind := withQ fence 1 fun x => { x with wait := some ⟨.storeDone, 0x62, ins 0 0, 0, 0, 0⟩ }
    let halted := withQ fence 0 fun x => { x with halted := true }
    let w : Wait := ⟨.context, 0x80, ins 0 0, 0, 0, 0⟩
    let v : Wait := ⟨.fence, 0x00, { ins 0 0 with fence := true }, 0, 0, 0⟩
    (on short = true ∧ (short.queue 6).wait = some w ∧ w.kind.executing = false ∧
      (short.waitMet Die.reset 6 w).isNone = true ∧ short.txnOf 6 = none ∧ short.prs.rtStore = false ∧
      (∀ k, (short.queue k).posted = false) ∧ (short.queue 6).posted = false ∧ short.freeCtx = none) ∧
    (on asks = true ∧ (asks.queue 6).wait = some w ∧ asks.txnOf 6 = none ∧ (asks.queue 6).posted = false ∧
      asks.freeCtx = some 0 ∧ (asks.waitMet Die.reset 6 w).isSome = true) ∧
    (on storing = true ∧ (storing.queue 0).wait = some ⟨.storeDone, 0x62, ins 0 0, 0, 0, 256⟩ ∧
      WaitKind.storeDone.executing = true) ∧
    (on fence = true ∧ (fence.queue 0).wait = some v ∧ Op.nop.named v.f = true ∧ v.f.tx = false ∧
      (fence.queue 0).chain = false ∧ fence.executing 0 = false ∧ (fence.queue 0).halted = false) ∧
    (on behind = true ∧ (behind.queue 0).wait = some v ∧ (behind.queue 0).chain = false ∧ behind.executing 0 = true) ∧
    (on halted = true ∧ (halted.queue 0).wait = some v ∧ (halted.queue 0).chain = false ∧
      (halted.queue 0).halted = true) := by decide

theorem witness_StallsTimersAndTheHandler_StallCirclesBreakAtTheYoungest :
    let stuck := waiting up 0 .event 0x04 (ins 0 3) 3 0
    let busy := withQ up 7 fun x => { x with words := [0] }
    (on stuck = true ∧ stuck.circle = true ∧ stuck.youngest = some (0, ⟨.event, 0x04, ins 0 3, 3, 0, 0⟩) ∧
      stuck.txnOf 0 = none ∧ stuck.lic.room = true ∧ stuck.prs.rtStore = false ∧ (∀ k, (stuck.queue k).posted = false) ∧
      stuck.eng.nvQ ≠ some 0) ∧
    (on busy = true ∧ busy.circle = false) := by decide

theorem witness_StallsTimersAndTheHandler_TimerSourceAndHandler :
    let timer : Chip := { up with eng := { up.eng with evtsrc := vset up.eng.evtsrc 31 0x61F } }
    let asks (general reserved : Nat) (w : QWord) : Chip :=
      { withQ up 7 fun x => { x with
          words := List.replicate (general + reserved) 0
          kinds := List.replicate general false ++ List.replicate reserved true } with
        flt := { up.flt with list := [⟨w, false⟩] } }
    let safe := encodeWord Op.frondSafe.code (ins 0 1)
    (on timer = true ∧ field (vget timer.eng.evtsrc 31) 8 4 = 6) ∧
    (on up = true ∧ field (vget up.eng.evtsrc 31) 8 4 ≠ 6 ∧ up.flt.list = []) ∧
    (on (asks 11 4 0) = true ∧ (asks 11 4 0).flt.list = [⟨0, false⟩] ∧ (asks 11 4 0).general7 < 12) ∧
    (on (asks 12 3 safe) = true ∧ 12 ≤ (asks 12 3 safe).general7 ∧ (asks 12 3 safe).reserved7 < 4 ∧
      reservedOp safe = true) ∧
    (on (asks 12 4 safe) = true ∧ 12 ≤ (asks 12 4 safe).general7 ∧ 4 ≤ (asks 12 4 safe).reserved7) ∧
    (on (asks 12 0 0) = true ∧ 12 ≤ (asks 12 0 0).general7 ∧ reservedOp 0 = false) := by decide
/-- The clock in HOLD. -/
def inHold_ : Chip := { up with clk := { up.clk with st := .hold } }

/-- The core held in reset. -/
def inReset : Chip := { up with pwr := { up.pwr with held := true } }

theorem witness_TheHostPortTakesItsCommands_PushesFillFreeSlots :
    (on up = true ∧ up.spiServed = true ∧ up.hostShut = false ∧ up.pwr.held = false ∧
      ((withQ up 1 fun x => { x with words := List.replicate 31 0 }).queue 1).occupied = 31) ∧
    (inReset.clk.switch = none ∧ inReset.spiServed = true ∧ inReset.hostShut = false ∧ inReset.pwr.held = true) := by decide

theorem witness_TheHostPortTakesItsCommands_StatusIdAndPortReset :
    (Chip.reset.clk.switch = none ∧ Chip.reset.spiServed = false) ∧
    (let c : Chip := { up with spi := { up.spi with armed := true } }; on c = true ∧ c.spiServed = true ∧ c.spi.armed = true) ∧
    (on up = true ∧ up.spiServed = true ∧ up.spi.armed = false) := by decide

theorem witness_TheHostPortTakesItsCommands_RingsAndWindowOverTheHostPort :
    (on up = true ∧ up.spiServed = true ∧ up.hostShut = false ∧ (0x001FF0 : BitVec 24).toNat % 16 = 0 ∧
      (0x001FF0 : BitVec 24).toNat + 16 * ((16 + 15) / 16) ≤ 0x2000 ∧
      ∀ k, 16 * k < 16 → up.eccAt (0x28000000 + 0x1FF0 + 16 * k) = 0) ∧
    ((0x00FFF0 : BitVec 24).toNat + 16 * ((16 + 15) / 16) ≤ 0x10000 ∧
      ∀ k, 16 * k < 16 → up.eccAt (0x70000000 + 0xFFF0 + 16 * k) = 0) ∧
    (0x000008 : BitVec 24).toNat % 16 ≠ 0 ∧ 0x2000 ≤ (0x002000 : BitVec 24).toNat ∧ 0x10000 ≤ (0x010000 : BitVec 24).toNat ∧
    (up.spi.ctrl.getLsbD 0 = true ∧ (0x00FFF0 : BitVec 24).toNat + 16 * [(5 : QWord)].length ≤ 0x10000) ∧
    (inHold_.clk.switch = none ∧ inHold_.spiServed = true ∧ inHold_.inHold = true) :=
  ⟨⟨by decide, by decide, by decide, by decide, by decide, fun _ _ => rfl⟩, ⟨by decide, fun _ _ => rfl⟩, by decide, by decide,
    by decide, by decide, by decide⟩

theorem witness_TheManagementPortTakesItsCommands_ManagementStores :
    let busy := withQ up 5 fun x => { x with words := List.replicate 32 0 }
    (on up = true ∧ up.mgtServed = true ∧ up.mgt.stretch = false ∧ (3 : Word).toNat % 4 ≠ 0) ∧
    ((0x00070000 : Word).toNat % 4 = 0 ∧ island (0x00070000 : Word).toNat = false ∧ up.pwr.held = false ∧ up.inHold = false ∧
      up.freeSlots 5 ≠ 0) ∧
    (on busy = true ∧ busy.mgtServed = true ∧ busy.mgt.stretch = false ∧ busy.pwr.held = false ∧ busy.inHold = false ∧
      busy.freeSlots 5 = 0) ∧
    (inHold_.clk.switch = none ∧ inHold_.mgtServed = true ∧ inHold_.mgt.stretch = false ∧ inHold_.pwr.held = false ∧
      inHold_.inHold = true) := by decide

theorem witness_TheManagementPortTakesItsCommands_ManagementReads :
    let at_ (p : Word) : Chip := { up with mgt := { up.mgt with ptr := p } }
    (on (at_ 0x00010004) = true ∧ (at_ 0x00010004).mgtServed = true ∧ (at_ 0x00010004).mgt.stretch = false ∧
      (at_ 0x00010004).mgt.ptr = 0x00010004) ∧
    (on (at_ 0x00070000) = true ∧ (at_ 0x00070000).mgtServed = true ∧ (at_ 0x00070000).mgt.stretch = false ∧
      island (at_ 0x00070000).mgt.ptr.toNat = false ∧ (at_ 0x00070000).inHold = false ∧
      (at_ 0x00070000).freeSlots 5 ≠ 0 ∧ (at_ 0x00070000).pwr.held = false) ∧
    (on up = true ∧ up.mgtServed = true ∧ up.mgt.stretch = false ∧ up.q5Pending = false ∧ up.eccAt (slotAddr 511) = 0) := by
  decide

theorem witness_TheManagementPortTakesItsCommands_ManagementInstructionsAndTimeouts :
    let asked : Chip := { up with mgt := { up.mgt with stretch := true, more := [5] } }
    (on up = true ∧ up.mgtServed = true ∧ up.mgt.stretch = false ∧ (1 : Word).getLsbD 0 = true ∧ up.inHold = false ∧
      up.freeSlots 5 ≠ 0 ∧ up.pwr.held = false) ∧
    (inHold_.clk.switch = none ∧ inHold_.mgtServed = true ∧ inHold_.mgt.stretch = false ∧ inHold_.inHold = true ∧
      inHold_.mgt.iw.extractLsb' 120 8 ≠ 0xB1) ∧
    (on asked = true ∧ asked.mgt.stretch = true) := by decide

theorem witness_TimePolicyAndPlainRegisters_TimePolicyAndRecorderRegisters :
    let locked : Chip := { up with sec := { up.sec with locks := 2 } }
    let again : Chip := { up with lic := { up.lic with coalSince := true } }
    let early : Chip := { up with lt := { up.lt with wtickl := 0xFFFFFFFF, wtickh := 3 } }
    (up.clk.switch = none ∧ up.engineOn = true ∧ (0 : Queue) ≠ 5 ∧
      (up.lt.wtickh ++ up.lt.wtickl : BitVec 34).toNat < 16000000000) ∧
    (early.clk.switch = none ∧ early.engineOn = true ∧ 16000000000 ≤ (early.lt.wtickh ++ early.lt.wtickl : BitVec 34).toNat) ∧
    (up.sec.locks.getLsbD 1 = false ∧ up.clk.st ≠ .fallback) ∧
    (locked.clk.switch = none ∧ locked.engineOn = true ∧ locked.sec.locks.getLsbD 1 = true) ∧
    ((0 : Word) = up.lic.last ∧ up.lic.coalSince = false) ∧
    (again.clk.switch = none ∧ again.engineOn = true ∧ (0 : Word) = again.lic.last ∧ again.lic.coalSince = true) ∧
    (up.edg.wptr - (0x4000 : Word).extractLsb' 0 15).toNat ≤ 16384 ∧
    16384 < (up.edg.wptr - (1 : Word).extractLsb' 0 15).toNat := by decide

theorem witness_UnitRegisters :
    let locked : Chip := { up with sec := { up.sec with locks := 1 } }
    (up.clk.switch = none ∧ up.engineOn = true ∧ (7 : Queue) ≠ 5 ∧ (191 : BitVec 8).toNat < 192 ∧ (11 : BitVec 4).toNat < 12) ∧
    evtSrcOk 0x61F = true ∧ evtSrcOk 0x603 = false ∧
    ((0x4000 : Word).getLsbD 1 = false ∧ up.fabricLocked = false ∧
      (0x4000 : Word).extractLsb' 0 2 = (vget up.pins 191).cfg.extractLsb' 0 2) ∧
    ((0x4001 : Word).getLsbD 1 = false ∧ (0x4001 : Word).extractLsb' 0 2 ≠ (vget up.pins 191).cfg.extractLsb' 0 2 ∧
      (vget up.pins 191).armed = false) ∧
    ((epu 1).clk.switch = none ∧ (epu 1).engineOn = true ∧ (epu 1).fabricLocked = false ∧
      (0x4000 : Word).extractLsb' 0 2 ≠ (vget (epu 1).pins 191).cfg.extractLsb' 0 2 ∧ (vget (epu 1).pins 191).armed = true) ∧
    bindOk 0x4080 = true ∧ bindOk 0x0080 = false ∧
    (locked.clk.switch = none ∧ locked.engineOn = true ∧ locked.fabricLocked = true) ∧
    (∀ j, (up.queue j).wait = none) ∧ ((2 : BitVec 2).toNat < 3 ∧ (1 : Word).getLsbD 0 = true) ∧ up.jtg.test = false := by decide

theorem witness_TimePolicyAndPlainRegisters_RegisterWritesFollowTheirAccessType :
    let named : Chip := { up with mgt := { up.mgt with expValid := true, expGen := up.clk.gen } }
    (up.clk.switch = none ∧ up.engineOn = true ∧ (0 : Queue) ≠ 5) ∧ q5Store (0x10000000 : Word).toNat 1 = false ∧
    (named.clk.switch = none ∧ named.engineOn = true ∧ named.sec.locks.getLsbD 1 = false ∧ named.clk.st ≠ .fallback ∧
      named.mgt.expValid = true ∧ named.mgt.expGen = named.clk.gen) ∧
    (up.sec.locks.getLsbD 1 = false ∧ up.clk.st ≠ .fallback ∧ up.mgt.expValid = false) := by decide

theorem witness_BoundaryScanInstructions :
    let test : Chip := { up with jtg := { up.jtg with test := true } }
    (on up = true ∧ up.pwr.pgood = true ∧ up.jtg.test = false ∧ up.lic.room = true) ∧
    listedCode 0x000 = true ∧ listedCode 0x3FE = false ∧
    (on test = true ∧ test.pwr.pgood = true ∧ test.jtg.test = true) ∧
    { Die.reset with jtagLock := true }.jtagLock = true ∧ Die.reset.jtagLock = false := by decide

theorem witness_InSystemAndPrivateInstructions_InSystemProgramming :
    let isc : Chip := { up with jtg := { up.jtg with isc := true, addr := 0x1FF000, idx := 255 } }
    (on up = true ∧ up.pwr.pgood = true ∧ up.jtagServed = true ∧ Die.reset.jtagLock = false ∧ up.sec.jtagHold = false ∧
      up.jtg.test = false ∧ up.jtg.isc = false) ∧
    ((0x2FF000 : BitVec 24).toNat % 4096 = 0 ∧ (0x2FF000 : BitVec 24).toNat < 0x300000) ∧
    0x300000 ≤ (0x300000 : BitVec 24).toNat ∧ (0x000001 : BitVec 24).toNat % 4096 ≠ 0 ∧
    (on isc = true ∧ isc.pwr.pgood = true ∧ isc.sec.jtagHold = false ∧ isc.jtg.test = false ∧ isc.jtg.isc = true ∧
      isc.jtagServed = true ∧ isc.jtg.addr.toNat < 0x200000 ∧ isc.flashCheck (isc.jtg.addr.toNat / 4096) = none ∧
      memRead 0 isc.prs.flashEcc ((isc.jtg.addr.toNat + 16 * isc.jtg.idx.toNat) / 16) = 0) ∧
    (Die.reset.sealed = false ∧ Die.reset.readback = false) ∧ (sealedDie.sealed = true ∧ sealedDie.jtagLock = false) := by decide

theorem witness_InSystemAndPrivateInstructions_PrivateInstructions :
    let test : Chip := { up with jtg := { up.jtg with test := true } }
    (on up = true ∧ up.pwr.pgood = true ∧ up.jtagServed = true ∧ Die.reset.jtagLock = false ∧ up.sec.jtagHold = false ∧
      up.jtg.test = false ∧ Die.reset.keyProg = false) ∧
    (on test = true ∧ test.pwr.pgood = true ∧ test.jtagServed = true ∧ test.sec.jtagHold = false ∧ test.jtg.test = true ∧
      (191 : BitVec 8).toNat < 192) := by decide

/-- Start-up at a step. -/
def step_ (n : BitVec 3) : Chip := { up with pwr := { up.pwr with step := n } }

theorem witness_StartupStepsFollowEachOther :
    let qual (n : Bool) : Chip := { step_ 5 with clk := { up.clk with lineOk := n } }
    let bare : Chip := { step_ 4 with nvs := { (step_ 4).nvs with slots := Vector.replicate 2 CommitRec.erased } }
    let waits : Chip := { qual false with clk := { (qual false).clk with deciding := true, policy := 4 } }
    (Chip.reset.clk.switch = none ∧ Chip.reset.pwr.pgood = false ∧ Chip.reset.pwr.pf ≠ 1) ∧
    ((step_ 1).clk.switch = none ∧ (step_ 1).pwr.pgood = true ∧ (step_ 1).pwr.step = 1) ∧
    ((step_ 3).clk.switch = none ∧ (step_ 3).pwr.pgood = true ∧ (step_ 3).pwr.step = 3 ∧ (step_ 3).islandOn = true ∧
      (step_ 3).lic.wait = [] ∧ (∀ x, x ∈ (step_ 3).lic.buf → x.entry = .general) ∧ (step_ 3).lic.general < 14) ∧
    ((step_ 4).clk.switch = none ∧ (step_ 4).pwr.pgood = true ∧ (step_ 4).pwr.step = 4 ∧ (step_ 4).nvs.vcapOk = true ∧
      (step_ 4).clk.st ≠ .hold ∧ (step_ 4).nvs.newest = some (CommitRec.shipped, 0)) ∧
    (bare.pwr.step = 4 ∧ bare.nvs.newest = none) ∧
    ((qual true).clk.switch = none ∧ (qual true).pwr.pgood = true ∧ (qual true).pwr.step = 5 ∧
      (qual true).clk.st = .qualifying ∧ (qual true).clk.lineOk = true) ∧
    ((qual false).clk.switch = none ∧ (qual false).clk.st = .qualifying ∧ (qual false).clk.lineOk = false ∧
      (qual false).clk.tmoExpired = false ∧ field (qual false).clk.policy 2 2 ≠ 3) ∧
    (waits.clk.switch = none ∧ waits.pwr.step = 5 ∧ waits.clk.st = .qualifying ∧ waits.clk.lineOk = false ∧
      waits.clk.deciding = true ∧ waits.clk.policy.getLsbD 1 = false) := by
  refine ⟨by decide, by decide, by decide, ⟨rfl, rfl, rfl, rfl, by decide, shipped_newest rfl⟩, ⟨rfl, ?_⟩, by decide, by decide,
    by decide⟩
  decide +kernel

theorem witness_SlotAttemptsBootOrLoad :
    let again : Chip := { step_ 6 with prs := { up.prs with tried := 1 } }
    ((step_ 6).clk.switch = none ∧ (step_ 6).pwr.pgood = true ∧ (step_ 6).coreOn = true ∧ (step_ 6).pwr.step = 6 ∧
      (step_ 6).pwr.resetN = true ∧ (step_ 6).prs.op = none ∧ (step_ 6).prs.tried = 0 ∧ (step_ 6).lic.room = true ∧
      memRead 0 (step_ 6).prs.marks (if (step_ 6).firstSlot then 256 else 0) ≠ 1) ∧
    (again.clk.switch = none ∧ again.pwr.pgood = true ∧ again.coreOn = true ∧ again.pwr.step = 6 ∧ again.pwr.resetN = true ∧
      again.prs.op = none ∧ again.prs.tried = 1 ∧ again.lic.wait = [] ∧ again.lic.general < 13 ∧
      memRead 0 again.prs.marks (if !again.firstSlot then 256 else 0) ≠ 1) := by decide

theorem witness_PowerFailAndAutoStore :
    let failing : Chip := { up with pwr := { up.pwr with pf := 1, pgood := false } }
    let dirty := withNvs failing fun x => { x with dirtyP := 1 }
    let left : Chip := { failing with lic := { failing.lic with unstored := [511] } }
    (up.clk.switch = none ∧ up.pwr.pgood = true ∧ up.sec.op = none ∧ up.pwr.pf ≠ 1) ∧
    (failing.clk.switch = none ∧ failing.pwr.pf = 1 ∧ failing.islandOn = true ∧ failing.nvs.dirtyP = 0 ∧
      failing.nvs.flyP = 0 ∧ failing.nvs.dirtyC = 0 ∧ failing.nvs.flyC = 0) ∧
    (dirty.clk.switch = none ∧ dirty.pwr.pf = 1 ∧ dirty.nvs.dirtyP ||| dirty.nvs.flyP ≠ 0) ∧
    (left.clk.switch = none ∧ left.pwr.pf = 1 ∧ left.islandOn = true ∧ left.nextUnstored = some 511) := by
  refine ⟨by decide, ⟨rfl, rfl, by decide, rfl, rfl, rfl, rfl⟩, ⟨rfl, rfl, fun h => ?_⟩, by decide +kernel⟩
  exact absurd (congrArg (·.getLsbD 0) h) (by decide +kernel)

theorem witness_SensorsResetAndSafeBalls_SensorsSetTheirEvents :
    (up.clk.switch = none ∧ up.pwr.pgood = true ∧ (11 : BitVec 4).toNat < 12 ∧
      up.pwr.vio.extractLsb' (2 * 11) 2 ≠ (3 : BitVec 2) ∧ up.nvs.vcapOk = true ∧ up.lic.room = true) := by decide

theorem witness_SensorsResetAndSafeBalls_ResetAndSafeBalls :
    let low : Chip := { inReset with pwr := { inReset.pwr with safeN := false } }
    (up.clk.switch = none ∧ up.pwr.pgood = true ∧ up.pwr.step = 0 ∧ up.clk.st ≠ .hold ∧ up.pwr.held = false ∧
      up.pwr.safeN = true) ∧
    (inHold_.clk.switch = none ∧ inHold_.pwr.pgood = true ∧ inHold_.pwr.step = 0 ∧ inHold_.clk.st = .hold) ∧
    (inReset.clk.switch = none ∧ inReset.pwr.pgood = true ∧ inReset.pwr.step = 0 ∧ inReset.pwr.held = true ∧
      inReset.clk.st ≠ .hold ∧ ∀ e, e ∈ inReset.prt.cross → e.2.1 = inReset.prt.epoch) ∧
    (low.clk.switch = none ∧ low.pwr.pgood = true ∧ low.pwr.safeN = false) ∧ (up.pwr.held = false) := by decide

theorem witness_RecorderDrainsAndStores :
    let r : LicRec := ⟨.general, 0x1C01, 0, 0, 0, 0, 0⟩
    let one : Chip := { up with lic := { up.lic with buf := [r] } }
    let mark : Chip := { up with lic := { up.lic with buf := [{ r with cause := 0x0F00 }] } }
    let body := sealRecord (r.body 0 1 0 0)
    let two : Chip := { one with
      lic := { one.lic with next := 1, since := 1 }
      mem := memPutBytes 0 [] (slotAddr 0) body }
    let left : Chip := { up with lic := { up.lic with unstored := [511] } }
    (one.clk.switch = none ∧ one.recorderOn = true ∧ one.lic.buf = r :: [] ∧ one.repeatSlot r = none ∧ r.cause ≠ 0x0F00) ∧
    (mark.clk.switch = none ∧ mark.recorderOn = true ∧ mark.repeatSlot { r with cause := 0x0F00 } = none) ∧
    (two.clk.switch = none ∧ two.recorderOn = true ∧ two.lic.buf = r :: [] ∧ two.repeatSlot r = some 0) ∧
    (left.clk.switch = none ∧ left.recorderOn = true ∧ left.nextUnstored = some 511 ∧
      ∀ k, k < 4 → left.eccAt (slotAddr 511 + 16 * k) < 2) := by
  decide +kernel

theorem witness_RecoveredClockIsQualified_RecoveredClockEvents :
    let locked (c : Chip) : Chip := { c with clk := { c.clk with cdrLock := true } }
    let frozen : Chip := { linked false with clk := { up.clk with st := .hold } }
    (up.clk.switch = none ∧ up.pwr.pgood = true ∧ up.clk.lossWait = none ∧ up.clk.cdrLock = false) ∧
    ((locked up).clk.switch = none ∧ (locked up).pwr.pgood = true ∧ (locked up).clk.cdrLock = true ∧
      (vget (locked up).ports 0).st ≠ 2) ∧
    ((locked (linked false)).clk.switch = none ∧ (locked (linked false)).pwr.pgood = true ∧
      (locked (linked false)).frozen = false ∧ (locked (linked false)).lic.room = true ∧
      (locked (linked false)).clk.cdrLock = true ∧ (vget (locked (linked false)).ports 0).st = 2 ∧
      (vget (locked (linked false)).ports (2 : BitVec 2).toNat).st = 2) ∧
    (frozen.clk.switch = none ∧ frozen.pwr.pgood = true ∧ frozen.frozen = true ∧
      (vget frozen.ports (2 : BitVec 2).toNat).st = 2) := by decide

theorem witness_RecoveredClockIsQualified_QualificationWindows :
    let line (p : BitVec 3) : Chip := { up with
      clk := { up.clk with cdrLock := true, pllLock := true, passes := p, st := .qualifying } }
    let ok (n : Nat) (c : Chip) : Bool :=
      true && c.clk.cdrLock && c.clk.pllLock && decide (65530 ≤ n) && decide (n ≤ 65542)
    ((line 2).clk.switch = none ∧ (line 2).pwr.pgood = true ∧ (line 2).clk.xtalOk = true ∧ ok 65530 (line 2) = true ∧
      (line 2).clk.passes.toNat < 3) ∧
    ((line 3).clk.switch = none ∧ (line 3).pwr.pgood = true ∧ (line 3).clk.xtalOk = true ∧ ok 65542 (line 3) = true ∧
      (line 3).clk.passes = 3 ∧ (line 3).clk.lineOk = false ∧ (line 3).clk.st = .qualifying ∧ (line 3).pwr.step = 0) ∧
    ok 65529 (line 3) = false ∧ ok 65543 (line 3) = false := by decide

theorem witness_HoldBeginsAndEnds_LossesEnterHold :
    let all (c : Chip) : Bool := c.pwr.pgood && c.pwr.step == 0 && c.lic.free .clock
    let lined : Chip := { clocked .line true true false with clk := { (clocked .line true true false).clk with lclk := true } }
    let fly (x : Switch) (line : Bool) : Chip := { switching x line with
      clk := { (switching x line).clk with cdrLock := line, lclk := true } }
    let toLine : Switch := ⟨true, true, .line, 0x10, .forced, .queue 3, 4⟩
    let toXtal : Switch := ⟨true, false, .forced, 0x10, .line, .queue 3, 4⟩
    let selLine : Switch := ⟨false, true, .line, 0x10, .forced, .queue 3, 3⟩
    let selXtal : Switch := ⟨false, false, .forced, 0x10, .line, .queue 3, 3⟩
    (all lined = true ∧ lined.clk.switch = none ∧ lined.clk.st = .line ∧ lined.clk.xtalRuns = true ∧ lined.clk.lclk = true) ∧
    (all up = true ∧ up.clk.switch = none ∧ up.clk.xtalRuns = true ∧ up.clk.st = .qualifying ∧ up.clk.cdrLock = false) ∧
    (all (fly toLine true) = true ∧ (fly toLine true).clk.switch = some toLine ∧ (fly toLine true).clk.xtalRuns = true ∧
      (fly toLine true).clk.lclk = true) ∧
    (all (fly toXtal false) = true ∧ (fly toXtal false).clk.switch = some toXtal ∧ (fly toXtal false).clk.cdrLock = false ∧
      (fly toXtal false).clk.xtalRuns = true) ∧
    (all (fly toLine false) = true ∧ (fly toLine false).clk.switch = some toLine ∧ (fly toLine false).clk.cdrLock = false ∧
      toLine.start ≠ .hold ∧ toLine.into ≠ toLine.start ∧
      ((fly toLine false).queue 3).wait = some ⟨.switch, 0xB0, ins 0 2, 0, 0, 0⟩) ∧
    (all (fly selXtal true) = true ∧ (fly selXtal true).clk.switch = some selXtal ∧ (fly selXtal true).clk.st = .line) ∧
    (all (fly selLine true) = true ∧ (fly selLine true).clk.switch = some selLine ∧ (fly selLine true).clk.xtalRuns = true ∧
      (fly selLine true).clk.st = .forced) ∧
    (all (fly selLine false) = true ∧ (fly selLine false).clk.switch = some selLine ∧ (fly selLine false).clk.st = .forced ∧
      (fly selLine false).clk.cdrLock = false) := by decide

theorem witness_HoldBeginsAndEnds_HoldEndsOnAGoodSource :
    let wild (n : BitVec 48) : Chip := { clocked .hold true false true with
      clk := { (clocked .hold true false true).clk with policy := 1, holdCnt := n } }
    let quiet (c : Chip) : Bool := c.pwr.pgood && c.clk.st == .hold && !c.pwr.latched &&
      (List.finRange 8).all fun q => (c.queue q).wait.isNone
    let last (n : Nat) : Switch := ⟨true, false, .fallback, 0x90, .hold, .device, n⟩
    let ends (n : Nat) : Chip := { wild 0 with clk := { (wild 0).clk with switch := some (last n) } }
    let dead := clocked .hold false false true
    (quiet (clocked .hold true true false) = true ∧ (clocked .hold true true false).clk.switch = none ∧
      (clocked .hold true true false).clk.lineOk = true ∧ (clocked .hold true true false).clk.xtalOk = true) ∧
    (quiet (wild 0xFFFFFFFFFFFE) = true ∧ (wild 0xFFFFFFFFFFFE).clk.switch = none ∧
      (wild 0xFFFFFFFFFFFE).clk.policy.getLsbD 0 = true ∧ (wild 0xFFFFFFFFFFFE).clk.xtalOk = true ∧
      (wild 0xFFFFFFFFFFFE).clk.lineOk = false ∧
      max (wild 0xFFFFFFFFFFFE).clk.holdCnt.toNat (25000 * max 1 (field (wild 0xFFFFFFFFFFFE).clk.policy 8 8)) < 2 ^ 48) ∧
    (quiet dead = true ∧ dead.clk.switch = none ∧ dead.clk.lineOk = false ∧ dead.clk.xtalOk = false) ∧
    (quiet (ends 2) = true ∧ (ends 2).clk.switch = some (last 2) ∧ (ends 2).pwr.pf = 0 ∧ (ends 2).clk.xtalOk = true ∧
      (ends 2).clk.xtalRuns = true ∧ (ends 2).clk.policy.getLsbD 1 = false ∧
      (ends 2).clk.holdCnt.toNat + 1 < 2 ^ 48 - 1) ∧
    (quiet (ends 1) = true ∧ (ends 1).clk.switch = some (last 1) ∧ (last 1).into ≠ .hold) := by decide
/-- A port UP and a frame that passes every check. -/
def arrives (c : Chip) (p : Nat) (fr : Frame) : Bool :=
  on c && (vget c.ports p).st == 2 && fr.codeErrs == 0 && frameCrc fr == fr.crc && frameForm fr

/-- A DATA frame for offset `dest` with `n` bytes of data. -/
def dataTo (dest n : Nat) : Frame := frameOf 3 0 0 (natBytes dest 2 ++ [0, 0] ++ List.replicate n 1)

theorem witness_FramesAreCheckedThenTakeEffect :
    let x := frameOf 6 0 255 []
    let cmd (route : Byte) := frameOf 2 route 0 (List.replicate 16 0)
    let full : Chip := withQ (linked false) 4 fun q => { q with words := List.replicate 32 0 }
    let off : Chip := { linked false with ports := vmod (linked false).ports 0 fun p => { p with st := 1 } }
    (on up = true ∧ (vget up.ports 2).st ≠ 2) ∧
    (on (linked false) = true ∧ (vget (linked false).ports 2).st = 2 ∧ { x with codeErrs := 15 }.codeErrs ≠ 0 ∧
      { x with codeErrs := 15 }.codeErrs < 16 ∧ 16 ≤ { x with codeErrs := 16 }.codeErrs ∧ (linked false).lic.room = true) ∧
    (x.codeErrs = 0 ∧ frameCrc { x with crc := ~~~x.crc } ≠ ~~~x.crc) ∧
    (frameCrc (frameOf 9 0 0 []) = (frameOf 9 0 0 []).crc ∧ frameForm (frameOf 9 0 0 []) = false) ∧
    (arrives (linked false) 2 x = true ∧ x.typ = 6) ∧
    (arrives (linked false) 2 (frameOf 7 0 0 []) = true ∧ (frameOf 7 0 0 []).typ = 7) ∧
    (arrives (linked false) 2 (cmd 0) = true ∧ (cmd 0).typ = 2 ∧ (cmd 0).route &&& 7 = 0 ∧
      ((linked false).queue 4).occupied < 32) ∧
    (arrives full 2 (cmd 0) = true ∧ 32 ≤ (full.queue 4).occupied ∧ full.lic.room = true) ∧
    (arrives (linked false) 2 (cmd 7) = true ∧ (cmd 7).typ = 2 ∧ (cmd 7).route &&& 7 ≠ 0 ∧
      (vget (linked false).ports 0).st = 2 ∧ (vget (linked false).ports 0).fwdBuf.length < 4) ∧
    (arrives off 2 (cmd 7) = true ∧ (vget off.ports 0).st ≠ 2) := by decide +kernel

theorem witness_FramesAreCheckedThenTakeEffect_data :
    let fits (fr : Frame) (dest : Nat) : Bool := arrives (linked false) 2 fr && fr.typ == 3 &&
      bytesNat (fr.payload.take 2) == dest
    (fits (dataTo 0x2FF0 16) 0x2FF0 = true ∧ (((dataTo 0x2FF0 16).payload.drop 4).length = 16) ∧ 0x2FF0 + 16 ≤ 0x3000) ∧
    (fits (dataTo 0x3000 16) 0x3000 = true ∧ 0x3000 < 0x3000 + 16) ∧ (fits (dataTo 8 16) 8 = true ∧ 8 % 16 ≠ 0) ∧
    (fits (dataTo 0 20) 0 = true ∧ ((dataTo 0 20).payload.drop 4).length % 16 ≠ 0) := by decide +kernel

/-- A POS frame with velocity `v` for time `ts`. -/
def pos (v : BitVec 64) (ts : BitVec 64) : Frame :=
  frameOf 1 1 0 (natBytes 5 8 ++ natBytes v.toNat 8 ++ (up.ltBytes ts))

theorem witness_PositionModelsComeAndGo :
    let ts (fr : Frame) := ltStamp (BitVec.ofNat 128 (bytesNat (fr.payload.drop 16)))
    let v (fr : Frame) := BitVec.ofNat 64 (bytesNat ((fr.payload.drop 8).take 8))
    let big : BitVec 64 := 0x00FFFFFFFFFFFFFF
    let coast : Chip := { up with pos := { tracking.pos with st := .coasting } }
    (arrives (linked false) 0 (pos big 7) = true ∧ (pos big 7).typ = 1 ∧ (v (pos big 7)).toInt.natAbs < 2 ^ 56 ∧
      (linked false).pos.st = .none ∧ ts (pos big 7) = 7 ∧ (pos big 7).route.setWidth 3 ≠ (7 : BitVec 3)) ∧
    (arrives (linked false) 0 (pos (big + 1) 7) = true ∧ ¬ (v (pos (big + 1) 7)).toInt.natAbs < 2 ^ 56) ∧
    (on tracking = true ∧ tracking.pos.st = .tracking) ∧
    (on coast = true ∧ coast.pos.st = .coasting ∧ coast.lic.room = true) ∧ (on up = true ∧ up.pos.st ≠ .coasting) := by decide +kernel

/-- Port 2 UP with what its transmitter holds. -/
def sending (xoff : Bool) (g : Port → Port) : Chip := { linked xoff with ports := vmod (linked xoff).ports 2 g }

theorem witness_PortsForwardAnswerAndTrain :
    let fr := frameOf 1 1 0 []
    let ok (c : Chip) : Bool := on c && (vget c.ports 2).st == 2
    let p := sending false fun p => { p with posBuf := some fr }
    let f (x : Bool) := sending x fun p => { p with fwdBuf := [fr] }
    let a := sending false fun p => { p with rsp := [([], 5)] }
    (2 : BitVec 2).toNat < 3 ∧ (ok p = true ∧ (vget p.ports 2).posBuf = some fr) ∧
    (ok (f false) = true ∧ (vget (f false).ports 2).xoffRx = false ∧ (vget (f false).ports 2).posBuf = none ∧
      (vget (f false).ports 2).rsp = [] ∧ (vget (f false).ports 2).fwdBuf = fr :: []) ∧
    (vget (f true).ports 2).xoffRx = true ∧ (vget p.ports 2).posBuf ≠ none ∧
    (ok a = true ∧ (vget a.ports 2).posBuf = none ∧ (vget a.ports 2).rsp = ([], 5) :: []) ∧
    (on up = true ∧ (vget up.ports 0).st = 1) ∧ (vget up.ports 1).st ≠ 1 ∧ (vget up.ports 0).st ≠ 0 ∧
    (linked false).lic.room = true ∧ (vget up.ports 1).st = 0 := by decide +kernel

/-- A SYNC_RSP with the times t1, t2, t3. -/
def rsp (t1 t2 t3 : BitVec 64) : Frame := frameOf 5 0 0 (up.ltBytes t1 ++ up.ltBytes t2 ++ up.ltBytes t3)

theorem witness_SyncExchangesAlignLineTime :
    let stamp (fr : Frame) (k : Nat) := ltStamp (BitVec.ofNat 128 (bytesNat ((fr.payload.drop k).take 16)))
    let theta (fr : Frame) (at_ : BitVec 64) := (stamp fr 16 - 0 - (at_ - stamp fr 32)).sdiv 2
    let sent : Chip := { linked false with syncT1 := some 0, lt := { up.lt with ticks := 128000 } }
    let slewing : Chip := { up with lt := { up.lt with slew := 1 } }
    (arrives (linked false) 2 (frameOf 4 0 0 (up.ltBytes 5)) = true ∧ (frameOf 4 0 0 (up.ltBytes 5)).typ = 4) ∧
    (arrives sent 0 (rsp 0 65600 65600) = true ∧ (rsp 0 65600 65600).typ = 5 ∧ sent.syncT1 = some 0 ∧
      stamp (rsp 0 65600 65600) 0 = 0 ∧ sent.now = 128000 ∧ ((128000 : BitVec 64) - 0).toInt ≤ 128000 ∧
      sent.lt.alignEn = true ∧ (theta (rsp 0 65600 65600) 128000).toInt.natAbs = 1600) ∧
    (arrives sent 0 (rsp 0 65601 65601) = true ∧ sent.lic.room = true ∧ 1600 < (theta (rsp 0 65601 65601) 128000).toInt.natAbs) ∧
    ((vget (linked false).ports 0).st = 2 ∧ (linked false).syncper &&& 0xFFFF ≠ 0 ∧ on (linked false) = true) ∧
    { up with syncper := 0 }.syncper &&& 0xFFFF = 0 ∧ sent.syncT1 ≠ none ∧ (on slewing = true ∧ slewing.lt.slew ≠ 0) ∧
    ((LineTime.written up.lt 999999999 15999999999).sec.toNat < 1000000000 ∧
      (LineTime.written up.lt 999999999 15999999999).ticks.toNat < 16000000000) := by decide +kernel

/-- Cam 31 armed, with breakpoints at the angles; the model stands at position 5. -/
def cammed (angles : List Word) (g : Cam → Cam := id) : Chip := { tracking with
  pos := { tracking.pos with bndQ := -1 }
  cams := vmod tracking.cams 31 fun k => g { k with
    armed := true, tabOk := true, table := angles.map fun a => ⟨a, 3, 0, 0⟩, prevQ := 0 } }

theorem witness_CamsFireForTheirCrossings :
    let crossing (c : Chip) := ((vget c.cams 31).release ((c.advance 0).look.getD 0)).crossings ((c.advance 0).look.getD 0)
    let ok (c : Chip) : Bool := on c && (vget c.cams 31).armed && !(vget c.cams 31).firedNow 0 && c.moving &&
      (vget c.cams 31).table.all fun b => b.ecc == 0
    let full := cammed [4, 5] fun k => { k with waiting := List.replicate 7 ⟨4, 0, true⟩ }
    let late := cammed [] fun k => { k with waiting := [⟨4, 0, true⟩] }
    (on up = true ∧ (vget up.cams 31).armed = false) ∧
    (ok full = true ∧ (crossing full).length = 2 ∧ (vget full.cams 31).waiting.length + 1 ≤ 8) ∧
    (ok (cammed [6]) = true ∧ crossing (cammed [6]) = [] ∧ (vget (cammed [6]).cams 31).waiting = []) ∧
    (ok late = true ∧ crossing late = [] ∧ (vget late.cams 31).waiting = ⟨4, 0, true⟩ :: [] ∧
      (vget late.cams 31).latch ≠ some 4) := by decide +kernel

theorem witness_CamsFireForTheirCrossings_BoundariesAndLatches :
    let gap (c : Chip) : Nat := (((c.advance 0).look.getD 0) - (vget c.cams 31).offset - 5).toInt.natAbs
    let far := cammed [] fun k => { k with latch := some 5, cfg := 0 }
    let near := cammed [] fun k => { k with latch := some 5, cfg := 1 }
    (on (cammed []) = true ∧ (cammed []).moving = true ∧
      (crossFwd (cammed []).pos.bndQ (((cammed []).advance 0).look.getD 0) 0).isSome = true) ∧
    (on up = true ∧ up.moving = false) ∧
    (on far = true ∧ far.pos.st ≠ .none ∧ (vget far.cams 31).latch = some 5 ∧ field (vget far.cams 31).cfg 0 16 * 256 ≤ gap far) ∧
    (near.pos.st ≠ .none ∧ (vget near.cams 31).latch = some 5 ∧ gap near < field (vget near.cams 31).cfg 0 16 * 256) := by
  decide +kernel

/-- Pin 191 in EPU mode and released, with one request whose edge is known. -/
def due (t : BitVec 64) (last : Option (BitVec 64) := none) : Chip := { up with
  pwr := { up.pwr with vio := 0xFFFFFF }
  pins := vmod (epu 0).pins 191 fun p => { p with lastT := last, q := [⟨0, 0, t, 1, none, some ⟨t, 1, false, none⟩⟩] }
  fronds := Vector.replicate 32 { Frond.reset with st := .run } }

theorem witness_EdgesFallAndCalibrationRuns_EdgesFallAtTheirTime :
    let fall (c : Chip) (t : BitVec 64) : Int :=
      max (max (t - (vget c.pins 191).delay - (c.advance 0).now).toInt (match (vget c.pins 191).lastT with
        | some l => if (l - (c.advance 0).now).toInt ≤ 64 then (l + 16 - (c.advance 0).now).toInt else 0
        | none => 0)) 0
    let steps (c : Chip) : Nat := min 64 (c.advance 0).lt.tick.len
    (on (epu 0) = true ∧ (epu 0).epuPin 191 = true ∧ { epu 0 with pins := vmod (epu 0).pins 191 fun p =>
      { p with held := true } }.forced 191 = true) ∧
    (on (due 63) = true ∧ (due 63).epuPin 191 = true ∧ (due 63).forced 191 = false ∧ (vget (due 63).pins 191).bedges = [] ∧
      (vget (due 63).pins 191).q = [⟨0, 0, 63, 1, none, some ⟨63, 1, false, none⟩⟩] ∧ fall (due 63) 63 < steps (due 63)) ∧
    ((due 64).forced 191 = false ∧ steps (due 64) ≤ fall (due 64) 64) ∧
    fall (due 0 (some 47)) 0 < steps (due 0 (some 47)) := by decide +kernel

theorem witness_EdgesFallAndCalibrationRuns_CalibrationPassesMeasureIdlePins :
    let off : Chip := { up with edg := { up.edg with calctrl := 0 } }
    let next (n : Nat) : Chip := { up with edg := { up.edg with calNext := n } }
    let turn (c : Chip) (n : Nat) : Prop := (vget c.pins n).idle = true ∧
      ∀ i, i < (n + 192 - c.edg.calNext % 192) % 192 → (vget c.pins ((c.edg.calNext + i) % 192)).idle = false
    (on off = true ∧ off.edg.calctrl.getLsbD 0 = false ∧ (191 : BitVec 8).toNat < 192 ∧ (11 : BitVec 4).toNat < 12) ∧
    (on up = true ∧ up.edg.calctrl.getLsbD 0 = true ∧ (next 191).edg.calctrl.getLsbD 0 = true) ∧
    ¬ turn (epu 1) 191 ∧ turn (next 191) 191 ∧ (∀ i, 191 % 16 < i → i < 16 → (vget up.pins (191 / 16 * 16 + i)).idle = false) ∧
    turn up 0 ∧ (∃ i, 0 % 16 < i ∧ i < 16 ∧ (vget up.pins (0 / 16 * 16 + i)).idle = true) :=
  ⟨by decide, by decide, fun h => absurd h.1 (by decide), ⟨by decide, fun i h => absurd h (Nat.not_lt_zero i)⟩,
    fun i h1 h2 => absurd h1 (by omega), ⟨by decide, fun i h => absurd h (Nat.not_lt_zero i)⟩, ⟨1, by decide⟩⟩

/-- Pin 191 present with its TCU armed for both edges. -/
def tcu (last : Option (BitVec 64)) (g : Bank → Bank := id) : Chip := { up with
  pwr := { up.pwr with vio := 0xFFFFFF }
  pins := vmod up.pins 191 fun p => { p with tcu := 3, blind := last }
  banks := vmod up.banks 11 g }

theorem witness_CapturesReachTheRing :
    let full := tcu none fun k => { k with fifo := List.replicate 16 0 }
    let held : Chip := { tcu none with clk := { up.clk with st := .hold } }
    let ready := tcu none fun k => { k with fifo := [7] }
    let wrapped : Chip := { ready with edg := { up.edg with wptr := 0x4000 } }
    (on (tcu none) = true ∧ (tcu none).absent 191 = false ∧ (vget (tcu none).pins 191).tcu.getLsbD 1 = true ∧
      (vget (tcu none).pins 191).blind = none ∧ (vget (tcu none).banks 11).fifo.length < 16) ∧
    (on full = true ∧ 16 ≤ (vget full.banks 11).fifo.length) ∧
    ((vget (tcu (some 0)).pins 191).blind = some 0 ∧ 0 ≤ ((511 : BitVec 64) - 0).toInt ∧ ((511 : BitVec 64) - 0).toInt < 512) ∧
    (held.clk.switch = none ∧ held.pwr.pgood = true ∧ held.pwr.pf = 0 ∧ held.clk.st = .hold ∧ held.absent 191 = false ∧
      (vget held.banks 11).holdCtr ≠ 255) ∧
    (on ready = true ∧ ready.nextBank = some 11 ∧ (vget ready.banks 11).fifo = 7 :: [] ∧
      ready.edg.wptr - ready.edg.rptr ≠ 16384) ∧
    (wrapped.nextBank = some 11 ∧ wrapped.edg.wptr - wrapped.edg.rptr = 16384) := by decide

/-- The IRP with a group of frond 31, and its master frond SAFE with the safe outputs that spell `lines` (R228, R329). -/
def requesting (lines : BitVec 16) (m : Word := 0x80000000) : Chip :=
  let c : Chip := { up with scr := { up.scr with irpEn := true, irpGrp := vset up.scr.irpGrp 15 m } }
  withMem c (c.activeBase 0 + 12672 + 96) 32
    ((List.range 16).foldl (fun a k => if lines.getLsbD k then a + 0x20 * 2 ^ (16 * k) else a) 0)

theorem witness_IrpRequestsEnterQ6 :
    let line (op : Nat) : BitVec 16 := BitVec.ofNat 16 (1 + 2 * op + 128 * 15)
    let asks (c : Chip) (l : BitVec 16) : Bool := on c && c.scr.irpEn && l.getLsbD 0 && !c.scr.lines.getLsbD 0 && !c.scr.hush &&
      l == c.masterLines
    let asked (l : BitVec 16) : Bool := asks (requesting l) l && (requesting l).freeSlots 6 != 0 &&
      vget (requesting l).scr.irpGrp (field l 7 4) != 0
    let full : Chip := withQ (requesting (line 1)) 6 fun x => { x with words := List.replicate 32 0 }
    (asked (line 1) = true ∧ field (line 1) 1 3 = 1) ∧
    (asked (line 2) = true ∧ field (line 2) 1 3 = 2 ∧ (line 2).getLsbD 11 = false) ∧
    (asked (line 2 ||| 0x800) = true ∧ field (line 2 ||| 0x800) 1 3 = 2 ∧ (line 2 ||| 0x800).getLsbD 11 = true) ∧
    (asked (line 3) = true ∧ field (line 3) 1 3 = 3) ∧ (asked (line 4) = true ∧ field (line 4) 1 3 = 4) ∧
    (asked (line 5) = true ∧ field (line 5) 1 3 = 5) ∧ (asks full (line 1) = true ∧ full.freeSlots 6 = 0) ∧
    (asks (requesting (line 1) 0) (line 1) = true ∧ vget (requesting (line 1) 0).scr.irpGrp (field (line 1) 7 4) = 0 ∧
      field (line 1) 1 3 ≠ 5) ∧
    (asked (line 7) = true ∧ field (line 7) 1 3 ∈ [0, 6, 7]) ∧ (on up = true ∧ asks up (line 1) = false) := by decide +kernel

theorem witness_DecodeOfEncodeIsTheCommand :
    let i := Instr.linkCtlSyncNow 1 (ins 0 6)
    i.insn? = some (1, Op.linkCtl, ins 0 6) ∧ i.wellFormed = true ∧
      (decodeWord 1 (encodeWord Op.linkCtl.code (ins 0 6))).isSome = true := by decide

/-! ### The spec's worked examples -/

/-- The ASCII string "123456789". -/
def digits9 : List Byte := [0x31, 0x32, 0x33, 0x34, 0x35, 0x36, 0x37, 0x38, 0x39]

/-- The check values of R78 and R333. -/
theorem test_crc_check_values : crc32 digits9 = 0xCBF43926 ∧ crc64 digits9 = 0x6C40DF5F0B497347 := by decide +kernel

/-- Example LNK-1: theta 37 and delay 1,199. -/
theorem test_sync_measure : syncMeasure 5000000000 5000001240 5000026840 5000028002 4 = (37, 1199) := by decide

/-- Example CAM-1: the jaw fires at Ts + 23,783 with the nudge and at Ts + 15,259 without it. -/
theorem test_event_time :
    let p : Pos := { Pos.reset with st := .tracking, p0 := 0x00001000BFFF0000, v := 18446744073, ts := 1000 }
    p.eventTime 0x00001000C0000000 0x8F00 true 24500 = 24783 ∧ p.eventTime 0x00001000C0000000 0 true 24500 = 16259 := by
  decide

/-- Example LIC-1: bytes 0 to 7 of record 7,500. -/
theorem test_record_head : ((⟨.general, 0x2101, 0, 0, BitVec.ofNat 128 0, 0, BitVec.ofNat 192 0⟩ : LicRec).body 7500 1 0 0).take 8
    = [0x1C, 0x4C, 0x01, 0x21, 0x4C, 0x1D, 0x00, 0x00] := by decide

/-- Table WRK-2: every word of the changeover is a command of Q0. -/
theorem test_words_of_the_changeover :
    [(0x1020C100000D00000000000000000000 : QWord), 0x9420C2000000000100000000000000F0, 0x1020C002000C00100000000000000000,
      0x8020C300000000000000000000000000, 0x2480C4000000000000000000000000F0, 0x1180C600000A0D400000000000000960,
      0x6080C580300010200000000000000001, 0x6480C800000000020000000000000001, 0x8320C900000000000000271000000000,
      0xC020CA00000001010000003A00000001].all (fun w => (decodeWord 0 w).isSome) = true
    ∧ decodeWord 0 0x8320C900000000000000271000000000
      = some (.txnCommitAt 0 ⟨false, false, true, false, 0, 0xC9, 0, 0, 0x0000271000000000⟩) := by decide

/-! ### Witnesses of the clauses on commits -/

/-- Queue 0 in context 3, which holds what `g` puts there; the machine stands at position 5. -/
def holding (g : Ctx → Ctx) : Chip := { inTxn.modCtx 3 g with pos := tracking.pos }

/-- A chip passes the commit checks that do not look at registers, edges or a journal. -/
def commits (c : Chip) : Bool :=
  let y := vget c.eng.ctxs 3
  decide (c.txnOf 0 = some 3) && y.owner == 0 && y.nv.isEmpty && y.ctrs.isEmpty && c.claimsGood 3

/-- Context 3 with PWR.TLIM staged. -/
def regStaged : Chip := holding fun x => { x with regs := [(0x00130014, 7)] }

/-- Context 3 with frond 31 staged to a kind, its planes good. -/
def frondStaged (kind : Nat) : Chip :=
  let c := (holding id).modFrond 31 fun f => { f with activeOk := true, shadowOk := true, planeOk := true }
  (c.claimFrond 3 31).modCtx 3 fun x => { x with fronds := [⟨31, kind⟩] }

/-- Context 3 with an operation of cam 31 staged, its tables loaded. -/
def camStaged (kind : Nat) (z : Word) : Chip :=
  let c := (holding id).modCam 31 fun m => { m with tabOk := true, shadowOk := true }
  (c.claimCam 3 31).modCtx 3 fun x => { x with cams := [⟨31, kind, z⟩] }

/-- Context 3 with an edge of pin 191 staged. -/
def edgeStaged : Chip := (({ holding id with pins := (epu 0).pins }).modCtx 3 fun x =>
  { x with edges := [⟨191, 0x30, ins 0x1BF 4096⟩] })

theorem edge_room (p : Nat) :
    ((vget edgeStaged.eng.ctxs 3).edges.filter fun g => g.code != 0x33 && g.pin == p) = [] ∨
      (vget edgeStaged.pins p).q.length
        + ((vget edgeStaged.eng.ctxs 3).edges.filter fun g => g.code != 0x33 && g.pin == p).length ≤ 8 := by
  by_cases h : p = 191
  · subst h; exact .inr (by decide)
  · refine .inl ?_
    show ([⟨191, 0x30, ins 0x1BF 4096⟩] : List EdgeStage).filter _ = []
    simp [Ne.symm h]

/-- Context 3 with a counter and a store word staged. -/
def journalStaged : Chip := holding fun x => { x with ctrs := [(63, 5)], nv := [(0x3003FFFF, 1)] }

theorem witness_CommitsCheckTheirClaims_applied :
    (regStaged.issuesAs Op.txnCommit 0 (ins 0 0) regStaged ∧ commits regStaged = true ∧
      (vget regStaged.eng.ctxs 3).regs = [(0x00130014, 7)] ∧ (vget regStaged.eng.ctxs 3).edges = [] ∧
      (regStaged.commitReg Die.reset 0 0x00130014 7).2.lic = regStaged.lic ∧
      (regStaged.writeReg Die.reset (Src.ofQueue 0) 0x00130014 7).1 ≠ St.locked ∧
      failed (regStaged.commitReg Die.reset 0 0x00130014 7).1 = false) ∧
    ((frondStaged 3).issuesAs Op.txnCommit 0 (ins 0 0) (frondStaged 3) ∧ commits (frondStaged 3) = true ∧
      (vget (frondStaged 3).eng.ctxs 3).fronds = [⟨31, 3⟩] ∧ (vget (frondStaged 3).fronds 31).activeOk = true ∧
      (vget (frondStaged 3).fronds 31).check ≠ 3) ∧
    ((frondStaged 1).issuesAs Op.txnCommit 0 (ins 0 0) (frondStaged 1) ∧ commits (frondStaged 1) = true) ∧
    ((frondStaged 2).issuesAs Op.txnCommit 0 (ins 0 0) (frondStaged 2) ∧ commits (frondStaged 2) = true) ∧
    ((frondStaged 0).issuesAs Op.txnCommit 0 (ins 0 0) (frondStaged 0) ∧ commits (frondStaged 0) = true) ∧
    ((frondStaged 4).issuesAs Op.txnCommit 0 (ins 0 0) (frondStaged 4) ∧ commits (frondStaged 4) = true) :=
  ⟨meets (by decide) (by decide +kernel), meets (by decide) (by decide +kernel), meets (by decide) (by decide +kernel),
    meets (by decide) (by decide +kernel), meets (by decide) (by decide +kernel), meets (by decide) (by decide +kernel)⟩

theorem witness_CommitsCheckTheirClaims_cams_and_edges :
    ((camStaged 0 0).issuesAs Op.txnCommit 0 (ins 0 0) (camStaged 0 0) ∧ commits (camStaged 0 0) = true ∧
      (vget (camStaged 0 0).eng.ctxs 3).cams = [⟨31, 0, 0⟩] ∧ (camStaged 0 0).scr.stg = none ∧
      (camStaged 0 0).prs.staged = none) ∧
    ((camStaged 1 0).issuesAs Op.txnCommit 0 (ins 0 0) (camStaged 1 0) ∧ commits (camStaged 1 0) = true) ∧
    ((camStaged 2 0).issuesAs Op.txnCommit 0 (ins 0 0) (camStaged 2 0) ∧ commits (camStaged 2 0) = true) ∧
    ((camStaged 3 0xFFFFFFFF).issuesAs Op.txnCommit 0 (ins 0 0) (camStaged 3 0xFFFFFFFF) ∧ commits (camStaged 3 0xFFFFFFFF) = true) ∧
    (edgeStaged.issuesAs Op.txnCommit 0 (ins 0 0) edgeStaged ∧ commits edgeStaged = true ∧
      (vget edgeStaged.eng.ctxs 3).edges = [⟨191, 0x30, ins 0x1BF 4096⟩] ∧ 191 = field (ins 0x1BF 4096).tgt 0 8) ∧
    ((edgesStaged 1).issuesAs Op.txnCommit 0 (ins 0 0) (edgesStaged 1) ∧ (edgesStaged 1).txnOf 0 = some 3) :=
  ⟨meets (by decide) (by decide +kernel), meets (by decide) (by decide +kernel), meets (by decide) (by decide +kernel),
    meets (by decide) (by decide +kernel), meets (by decide) (by decide +kernel), meets (by decide) (by decide +kernel)⟩

theorem witness_CommitsCheckTheirClaims_journal_and_position :
    let full : Chip := { edgeStaged with pins := vmod edgeStaged.pins 191 fun x => { x with q := List.replicate 8 ⟨0, 0, 0, 0, none, none⟩ } }
    let late := frondStaged 1
    let at5 (c : Chip) : Chip := ((withQ c 0 fun x => { x with wait := some ⟨.position, 0x83, ins 0 5, 5, 0, 4⟩ }).modCtx 3 fun x =>
      { x with waiting := true })
    (journalStaged.issuesAs Op.txnCommit 0 (ins 0 0) journalStaged ∧ journalStaged.txnOf 0 = some 3 ∧
      (vget journalStaged.eng.ctxs 3).ctrs = [(63, 5)] ∧ (vget journalStaged.eng.ctxs 3).nv = [(0x3003FFFF, 1)] ∧
      (vget journalStaged.eng.ctxs 3).nvFull = [] ∧ journalStaged.claimsGood 3 = true ∧ journalStaged.portFree = true ∧
      (journalStaged.queue 0).posted = false ∧ journalStaged.mayWrite (Src.ofQueue 0) 0x3003FFFF = true) ∧
    (full.issuesAs Op.txnCommit 0 (ins 0 0) full ∧ full.claimsGood 3 = true ∧ full.prs.rtStore = false ∧
      (∀ j, (full.queue j).posted = false) ∧ full.eng.nvQ ≠ some 0 ∧ (vget full.eng.ctxs 3).waiting = false ∧
      8 ≤ (vget full.pins 191).q.length) ∧
    (late.issuesAs Op.txnCommitAt 0 (ins 0 5) late ∧ commits late = true ∧ late.passed (ins 0 5) = true) ∧
    (on (at5 late) = true ∧ ((at5 late).queue 0).wait = some ⟨.position, 0x83, ins 0 5, 5, 0, 4⟩ ∧ commits (at5 late) = true ∧
      ((at5 late).advance 0).moving = true ∧ 0 ≤ (((at5 late).advance 0).look.getD 0 - (5 : DWord)).toInt ∧
      ((at5 late).advance 0).eng.memo.words = []) ∧
    (on (at5 edgeStaged) = true ∧ ((at5 edgeStaged).queue 0).wait = some ⟨.position, 0x83, ins 0 5, 5, 0, 4⟩ ∧
      commits (at5 edgeStaged)) ∧
    (on (at5 regStaged) = true ∧ ((at5 regStaged).queue 0).wait = some ⟨.position, 0x83, ins 0 5, 5, 0, 4⟩ ∧
      commits (at5 regStaged)) :=
  ⟨meets (by decide) (by decide +kernel), meets (by decide) (by decide +kernel), meets (by decide) (by decide +kernel),
    by decide +kernel, by decide +kernel, by decide +kernel⟩

/-! ### Witnesses of the clauses on staging -/

/-- The breakpoint of angle 7 in Code RAM, cleared words around it. -/
def oneTable : Chip := { inTxn with mem := memPut 0 [] 0x10000000 7 16 }

theorem witness_StagedInstructionsOnlyStage_accesses :
    let read : Chip := holding fun x => { x with regs := [(0x00130014, 7)] }
    let stored : Chip := holding fun x => { x with nv := [(0x30000001, 9)], ctrs := [(63, 5)] }
    (inTxn.issuesAs Op.rmw 0 (tx 0x00130014 0xFF00000001 0) inTxn ∧
      inTxn.readReg Die.reset (Src.ofQueue 0) 0x00130014 = some (0x640, inTxn) ∧
      (inTxn.writeReg Die.reset (Src.ofQueue 0) 0x00130014 0x641).1 = St.ok) ∧
    (read.issuesAs Op.ld 0 (tx 0x00130014 0 0) read ∧ (vget read.eng.ctxs 3).regs = [(0x00130014, 7)] ∧
      read.readReg Die.reset (read.ldSrc 0) 0x00130014 = some (0x640, read)) ∧
    (stored.issuesAs Op.nvRd 0 (tx 0x30000000 0) stored ∧ (vget stored.eng.ctxs 3).regs = [] ∧
      stored.mayRead (Src.ofQueue 0) = true ∧ stored.eccAt 0x30000000 = 0) ∧
    (stored.issuesAs Op.ctrRd 0 (tx 63 0) stored ∧ stored.txnOf 0 = some 3) ∧
    (inTxn.issuesAs Op.nvWr 0 (tx 0x3003FFF8 0xFF 0x80) inTxn ∧ inTxn.mayWrite (Src.ofQueue 0) 0x3003FFF8 = true ∧
      inTxn.eccAt 0x3003FFF8 < 2) ∧
    (inTxn.issuesAs Op.nvWr 0 (tx 0x300000F0 0x10000000 2) inTxn ∧ destCheck 0 0x10000000 2 = none ∧
      inTxn.mayWrite (Src.ofQueue 0) 0x300000F0 = true ∧ ∀ i, i < 2 → inTxn.eccAt (0x10000000 + 16 * i) = 0) :=
  ⟨meets (by decide) ⟨rfl, by decide +kernel⟩, meets (by decide) ⟨by decide +kernel, rfl⟩, meets (by decide) (by decide +kernel),
    meets (by decide) (by decide +kernel), meets (by decide) (by decide +kernel), meets (by decide) (by decide +kernel)⟩

theorem witness_StagedInstructionsOnlyStage_edges_and_cams :
    ((edgesStaged 31).issuesAs Op.edgePulse 0 (tx 0x101BF 64) (edgesStaged 31) ∧
      edgeRange (edgesStaged 31) 0x31 (tx 0x101BF 64) = true ∧ (vget (edgesStaged 31).eng.ctxs 3).edges.length < 32) ∧
    ((edgesStaged 32).issuesAs Op.edgePulse 0 (tx 0x101BF 64) (edgesStaged 32) ∧
      32 ≤ (vget (edgesStaged 32).eng.ctxs 3).edges.length) ∧
    ((edgesStaged 31).issuesAs Op.pinSafe 0 (tx 11 0x8000) (edgesStaged 31) ∧
      field (tx 11 0x8000).tgt 0 4 < 12 ∧ field (tx 11 0x8000).op 0 16 ≠ 0) ∧
    ((edgesStaged 32).issuesAs Op.pinSafe 0 (tx 11 0x8000) (edgesStaged 32) ∧ (edgesStaged 32).txnOf 0 = some 3) ∧
    (inTxn.issuesAs Op.camDisarm 0 (tx 31 0) inTxn ∧ (vget inTxn.cams 31).claim = none) ∧
    (oneTable.issuesAs Op.camLoad 0 (tx 31 0x110000000) oneTable ∧ (vget oneTable.cams 31).claim = none ∧
      (∀ i, i < 1 → oneTable.eccAt (0x10000000 + 16 * i) = 0) ∧ 1 ≤ oneTable.tabFree + (vget oneTable.cams 31).shadow.length ∧
      oneTable.scr.stg = none ∧ oneTable.prs.staged = none ∧ (tableOf [oneTable.getWord 0x10000000]).isSome = true) :=
  ⟨meets (by decide) (by decide +kernel), meets (by decide) (by decide +kernel), meets (by decide) (by decide +kernel),
    meets (by decide) (by decide +kernel), meets (by decide) (by decide +kernel), meets (by decide) (by decide +kernel)⟩

theorem witness_StagedInstructionsOnlyStage_fronds :
    let good : Chip := { inTxn with fronds := Vector.replicate 32 { Frond.reset with activeOk := true, shadowOk := true, planeOk := true } }
    (inTxn.issuesAs Op.termWr 0 (tx 0x9FF1F 7) inTxn ∧ field (tx 0x9FF1F 7).tgt 8 9 < 512 ∧ (vget inTxn.fronds 31).claim = none ∧
      (vget inTxn.fronds 31).shadowBusy = false) ∧
    (inTxn.issuesAs Op.termWr 0 (tx 0x95F1F 7) inTxn ∧ field (tx 0x95F1F 7).tgt 8 9 = 351 ∧ field (tx 0x95F1F 7).tgt 17 3 = 4) ∧
    (inTxn.issuesAs Op.mcCfg 0 (tx 0x3F1F 0) inTxn ∧ mcCfgOk (((tx 0x3F1F 0).op).setWidth 16) = true) ∧
    (good.issuesAs Op.frondSafe 0 (tx 0 0x80000001) good ∧ good.txnOf 0 = some 3 ∧ (vget good.eng.ctxs 3).fronds = [] ∧
      (vget good.eng.ctxs 3).fclaims = [] ∧ ∀ j, j < 32 → (vget good.fronds j).claim = none) ∧
    (good.issuesAs Op.frondSafe 0 (tx 0 0x80000001 1) good ∧ good.txnOf 0 = some 3) ∧
    (good.issuesAs Op.frondRun 0 (tx 0 0x80000001) good ∧ good.prs.ldr ≠ .loader ∧ good.suspect 0x80000001 = false) ∧
    (good.issuesAs Op.planeSwap 0 (tx 0 0x80000001) good ∧ good.swapCheck 0 true 0x80000001 = none ∧ good.scr.stg = none) :=
  ⟨meets (by decide) (by decide +kernel), meets (by decide) (by decide +kernel), meets (by decide) (by decide +kernel),
    meets (by decide) (by decide +kernel), meets (by decide) (by decide +kernel), meets (by decide) (by decide +kernel),
    meets (by decide) (by decide +kernel)⟩

/-! ### Witnesses of the clauses on DMA, waits and swaps -/

theorem witness_DmaInstructions_DmaGoLatchesItsDescriptor_drops :
    let gone : Chip := (described 0).modMemo fun m => { m with drops := 0x800 }
    (gone.issuesAs Op.dmaGo 0 (ins 11 0) gone ∧ dmaGoCheck Die.reset 11 (vget gone.dma 11) = none ∧
      (vget gone.dma 11).active = false ∧ gone.memo.drops.getLsbD 11 = true) :=
  meets (by decide) (by decide +kernel)

theorem witness_DmaInstructions_DmaStopAndStat_drops :
    let gone : Chip := (described 0).modMemo fun m => { m with drops := 0x800 }
    (gone.issuesAs Op.dmaStop 0 (ins 11 0) gone ∧ field (11 : Word) 0 4 < 12 ∧ gone.memo.drops.getLsbD 11 = true) ∧
    ((described 0).issuesAs Op.dmaStop 0 (ins 11 0) (described 0) ∧ (described 0).memo.drops.getLsbD 11 = false) :=
  ⟨meets (by decide) (by decide +kernel), meets (by decide) (by decide +kernel)⟩

theorem witness_DmaEnginesMoveWords_DmaAcknowledgesAndRetries_retry :
    let drained := running 1 fun d => { d with st := .draining, rd := 1, wr := 1 }
    let failed (n : Word) (w : Bool) := running 1 fun d => { d with
      fail := some (St.busErr, 0x10000000), failW := w, credits := 1, buf := if w then [7] else [], chk := if w then [0] else []
      rd := if w then 1 else 0, lcfg := n }
    (on drained = true ∧ (vget drained.dma 11).st = .draining ∧ (vget drained.dma 11).ref = none ∧
      (vget drained.dma 11).buf = [] ∧ (vget drained.dma 11).fail = none) ∧
    (on (failed 0x60000 false) = true ∧ (vget (failed 0x60000 false).dma 11).active = true ∧
      (vget (failed 0x60000 false).dma 11).fail = some (St.busErr, 0x10000000) ∧
      (vget (failed 0x60000 false).dma 11).smode = 0 ∧ field (vget (failed 0x60000 false).dma 11).lcfg 14 3 = 0 ∧
      (vget (failed 0x60000 false).dma 11).srcAddr 0 = 0x10000000 ∧ (vget (failed 0x60000 false).dma 11).tries + 1 < 3 ∧
      ∀ i, i < 1 → (failed 0x60000 false).eccAt (0x10000000 + 16 * i) = 0) ∧
    (on (failed 0x60000 true) = true ∧ (vget (failed 0x60000 true).dma 11).failW = true ∧
      (vget (failed 0x60000 true).dma 11).buf = 7 :: [] ∧ (vget (failed 0x60000 true).dma 11).chk.headD 0 = 0 ∧
      (vget (failed 0x60000 true).dma 11).writeLen = 1 ∧ (vget (failed 0x60000 true).dma 11).dstAddr 0 = 0x100FFFF0) ∧
    (on (failed 0x20000 true) = true ∧ field (vget (failed 0x20000 true).dma 11).lcfg 17 3 ≤ (vget (failed 0x20000 true).dma 11).tries + 1) ∧
    (on (failed 0x20000 false) = true ∧ (vget (failed 0x20000 false).dma 11).buf = []) := by decide +kernel

/-- Queue 0 in context 3 waits with an opcode and a kind. -/
def waitsIn (kind : WaitKind) (code : BitVec 8) : Chip :=
  withQ (holding id) 0 fun x => { x with wait := some ⟨kind, code, ins 0 6, 6, 0, 0⟩ }

theorem witness_WaitsEndOrGoOn_in_a_transaction :
    let evt := waitsIn .event 0x04
    let at6 := waitsIn .position 0x83
    let deep := withQ at6 0 fun x => { x with calls := [⟨ins 0x30000000 0, 0x30000010, 1, false⟩] }
    (on evt = true ∧ (evt.queue 0).wait = some ⟨.event, 0x04, ins 0 6, 6, 0, 0⟩ ∧ evt.txnOf 0 = some 3 ∧
      (evt.waitMet Die.reset 0 ⟨.event, 0x04, ins 0 6, 6, 0, 0⟩).isNone = true ∧ evt.prs.rtStore = false ∧
      ∀ j, (evt.queue j).posted = false) ∧
    (on at6 = true ∧ (at6.queue 0).wait = some ⟨.position, 0x83, ins 0 6, 6, 0, 0⟩ ∧ at6.txnOf 0 = some 3 ∧
      (at6.waitMet Die.reset 0 ⟨.position, 0x83, ins 0 6, 6, 0, 0⟩).isNone = true ∧ (vget at6.eng.ctxs 3).owner = 0 ∧
      (at6.queue 0).calls = []) ∧
    (on deep = true ∧ deep.txnOf 0 = some 3 ∧
      (deep.waitMet Die.reset 0 ⟨.position, 0x83, ins 0 6, 6, 0, 0⟩).isNone = true ∧ (deep.queue 0).calls ≠ []) := by
  decide +kernel

theorem witness_StallsTimersAndTheHandler_StallCirclesBreakAtTheYoungest_in_a_transaction :
    let stuck := waitsIn .event 0x04
    on stuck = true ∧ stuck.circle = true ∧ stuck.youngest = some (0, ⟨.event, 0x04, ins 0 6, 6, 0, 0⟩) ∧
      stuck.txnOf 0 = some 3 ∧ (vget stuck.eng.ctxs 3).owner = 0 ∧ (stuck.queue 0).calls = [] ∧ stuck.lic.room = true ∧
      stuck.prs.rtStore = false ∧ (∀ k, (stuck.queue k).posted = false) ∧ stuck.eng.nvQ ≠ some 0 := by decide +kernel

theorem witness_PlaneSwapsExchangePlanes_SwapAtPositionClaimsAndWaits_at_its_position :
    let base : Chip := { shadowed.openCtx 0 3 with pos := tracking.pos }
    let claimed : Chip := withQ ((base.claimFrond 3 31).modCtx 3 fun x => { x with waiting := true }) 0 fun x =>
      { x with wait := some ⟨.position, 0x25, ins 0x80000000 5, 5, 0, 4⟩ }
    let moved : Chip := { claimed with fronds := vmod claimed.fronds 31 fun x => { x with gen := x.gen + 1 } }
    (on claimed = true ∧ (claimed.queue 0).wait = some ⟨.position, 0x25, ins 0x80000000 5, 5, 0, 4⟩ ∧
      claimed.txnOf 0 = some 3 ∧ (vget claimed.eng.ctxs 3).owner = 0 ∧ (claimed.advance 0).moving = true ∧
      0 ≤ ((claimed.advance 0).look.getD 0 - (5 : DWord)).toInt ∧ (claimed.advance 0).claimsGood 3 = true ∧
      ∀ n, n < 32 → (0x80000000 : Word).getLsbD n = true → (vget claimed.fronds n).shadowOk = true ∧
        (vget claimed.fronds n).shadowBusy = false) ∧
    (on moved = true ∧ moved.txnOf 0 = some 3 ∧ (moved.advance 0).moving = true ∧ (moved.advance 0).claimsGood 3 = false) := by
  decide +kernel

/-! ### Witnesses of the clauses on clocks, pins, links, ports and registers -/

theorem witness_ClockAndTimeInstructions_ClockSelection_to_the_crystal :
    ((clocked .fallback true false true).issuesAs Op.clkSel 0 (ins 0 1) (clocked .fallback true false true) ∧
      (clocked .fallback true false true).clk.xtalOk = true) ∧
    ((clocked .qualifying true false true).issuesAs Op.clkSel 0 (ins 0 1) (clocked .qualifying true false true) ∧
      (clocked .qualifying true false true).clk.lineLost = true) ∧
    ((clocked .forced true false true).issuesAs Op.clkSel 0 (ins 0 1) (clocked .forced true false true) ∧
      (clocked .forced true false true).clk.st = .forced) :=
  ⟨meets (by decide) (by decide), meets (by decide) (by decide), meets (by decide) (by decide)⟩

/-- A glitch-free switch to the line in its third period, or a forced one with one period to go. -/
def inFlight (c : Chip) (forced : Bool) : Chip :=
  let x : Switch := if forced then ⟨true, true, .line, 0x10, .forced, .queue 3, 1⟩ else ⟨false, true, .line, 0x10, .forced, .queue 3, 2⟩
  { c with clk := { (switching x true).clk with switch := some x }, eng := (switching x true).eng }

theorem witness_EdgesFallAndCalibrationRuns_EdgesFallAtTheirTime_through_a_switch :
    let c := inFlight (due 100) false
    c.clk.switching = true ∧ c.coreOn = true ∧ c.epuPin 191 = true ∧ c.forced 191 = false ∧ (vget c.pins 191).bedges = [] ∧
      ((vget c.pins 191).q.head?.bind (·.edge)).isSome = true ∧ (vget c.pins 191).q.length = 1 := by decide +kernel

theorem witness_CapturesReachTheRing_through_a_switch :
    let c := inFlight (tcu none) false
    let g := inFlight (tcu none) true
    (c.clk.switching = true ∧ c.coreOn = true ∧ c.frozen = false ∧ c.absent 191 = false ∧
      (vget c.pins 191).tcu.getLsbD 0 = true ∧ (vget c.pins 191).blind = none) ∧
    (g.inGap 64 = true ∧ g.pwr.pgood = true ∧ g.pwr.pf = 0 ∧ g.frozen = true ∧ g.absent 191 = false ∧
      (vget g.banks 11).holdCtr ≠ 255) := by decide +kernel

theorem witness_LocksFusesAndKeys_LocksAndFuses_programmer :
    let off : Chip := { fusing 3 none with clk := { up.clk with st := .hold } }
    (fusing 3 (some 0)).storeOn = true ∧ (fusing 1 none).storeOn = true ∧ (fusing 4 (some 0)).storeOn = true ∧
      off.storeOn = false := by decide

theorem witness_FramesAreCheckedThenTakeEffect_characters :
    (linked false).clk.switch = none ∧ (linked false).coreOn = true ∧ (vget (linked false).ports 2).st = 2 ∧
      (frameOf 6 0 255 []).line = [] ∧ (frameOf 6 0 255 []).codeErrs = 0 ∧ (frameOf 6 0 255 []).typ ≠ 0xB5 := by decide +kernel

theorem witness_PortsForwardAnswerAndTrain_characters :
    let errs (n : Nat) := ((Ear.quiet (vget (linked false).ports 2).rd).hearAll 0 (List.replicate n 0)).errs.length
    (on up = true ∧ (vget up.ports 0).st = 1 ∧ (trainedOn (polarity ((vget up.ports 0).ctrl.getLsbD 1) (idleChars 257))).isSome = true) ∧
    (trainedOn (polarity ((vget up.ports 0).ctrl.getLsbD 1) []) = none) ∧
    (on (linked false) = true ∧ (vget (linked false).ports 2).st = 2 ∧ (linked false).lic.room = true ∧ errs 16 = 16 ∧ errs 15 = 15 ∧
      (vget (linked false).ports 2).errT = [] ∧ (vget (linked false).ports 2).ctrl.getLsbD 1 = false) := by decide +kernel

theorem witness_TheHostPortTakesItsCommands_PushesFillFreeSlots_refused_or_accepted :
    let shut : Chip := { up with clk := { up.clk with st := .hold } }
    let waits : Chip := { inReset with prt := { inReset.prt with cross := [(0, inReset.prt.epoch, 0, 5)] } }
    (shut.clk.switch = none ∧ shut.spiServed = true ∧ shut.hostShut = true) ∧
    (waits.clk.switch = none ∧ waits.spiServed = true ∧ waits.hostShut = false ∧ waits.accepted 0 = 1) := by decide

theorem witness_RegisterWritesFollowTheirAccessType_classes :
    let locked : Chip := { up with sec := { up.sec with locks := 1 } }
    (on up = true ∧ (⟨0x00010000, 1, 4, .ro, 0, []⟩ : RegRow) ∈ regRows ∧ (⟨0x000F0018, 1, 4, .w1c, 0x7FF, [.nvs]⟩ : RegRow) ∈ regRows ∧
      (⟨0x00080020, 8, 4, .rw, 0x7F, [.queues]⟩ : RegRow) ∈ regRows ∧ (⟨0x000E0100, 32, 4, .rwl, 3, [.fronds]⟩ : RegRow) ∈ regRows ∧
      locked.fabricLocked = true ∧ up.fabricLocked = false) ∧
    (regRows.all fun g => (List.range g.count).all fun k => g.addr + g.stride * k != 0x00000014) = true := by decide +kernel

theorem witness_UnitRegisters_more :
    let locked : Chip := { up with sec := { up.sec with locks := 1 } }
    let test : Chip := { up with jtg := { up.jtg with test := true } }
    (on up = true ∧ (2 : Word).getLsbD 1 = true) ∧ (on locked = true ∧ locked.fabricLocked = true ∧ (0x4001 : Word).getLsbD 1 = false) ∧
    (on (linked false) = true ∧ (0 : Word).getLsbD 0 = false ∧ (vget (linked false).ports 0).st = 2) ∧
    (on test = true ∧ test.jtg.test = true) := by decide

theorem witness_ActivationSwapsEverything_checked :
    let good : Staged := { stream with verified := true }
    verified.issuesAs Op.persActivate 0 (ins 0 0) verified ∧ verified.prs.staged = some good ∧ good.verified = true ∧
      (∀ n, n < 32 → (vget verified.fronds n).shadowOk = true ∧ (vget verified.fronds n).claim = none ∧
        (vget verified.cams n).claim = none ∧ (good.cams.getLsbD n = true → (vget verified.cams n).shadowOk = true)) ∧
      (∀ k, (verified.queue k).calls = []) ∧ verified.sec.locks.getLsbD 0 = false ∧ verified.sec.locks.getLsbD 1 = false ∧
      good.rout = [] ∧ verified.lic.general = 0 :=
  meets (by decide) (by decide +kernel)

theorem witness_StoreAccesses_NvWritesAndReadsTheUserArea_corrected :
    let src := (withMem up 0x7000FFF0 16 0x11).setEcc 0x7000FFF0 1
    src.issuesAs Op.nvWr 0 (ins 0x3003FFF0 0x7000FF00 0x10) src ∧ destCheck 0 0x7000FF00 16 = none ∧
      src.mayWrite (Src.ofQueue 0) 0x3003FFF0 = true ∧ (∀ i, i < 16 → src.eccAt (0x7000FF00 + 16 * i) ≤ 1) ∧
      src.eccAt (0x7000FF00 + 16 * 15) = 1 :=
  meets (by decide) (by decide)

theorem witness_EveryStepKeepsTheShape :
    let c : Chip := (up.openCtx 0 3).claimFrond 3 31
    ({ at_ c with pending := [.readId] }.chip = c ∧ ∃ t, step { at_ c with pending := [.readId] } = .next t) ∧
      memWf 0 c.mem = true ∧ memWf 0 c.ecc = true ∧ c.lt.ticks.toNat < 16000000000 ∧
      (∀ q, (c.queue q).occupied ≤ depth q.val) ∧ c.txnOf 0 = some 3 ∧ (vget c.fronds 31).claim = some 3 ∧
      (∀ q k, c.txnOf q = some k → (vget c.eng.ctxs k.val).isOpen = true ∧ (vget c.eng.ctxs k.val).owner = q) ∧
      ∀ n, n < 32 → ∀ k : Fin 4, (vget c.fronds n).claim = some k ∨ (vget c.cams n).claim = some k →
        (vget c.eng.ctxs k.val).isOpen = true :=
  ⟨⟨rfl, _, rfl⟩, by decide⟩

/-! ### The characters of a link (R72, R73) -/

/-- D0.0 at negative disparity, K28.5 of either disparity inverted into the other, and two IDLE sets. -/
theorem test_characters :
    dataChar false 0 = 0b1001110100 ∧ decodeChar false 0b1001110100 = .data 0 ∧ polarity true [k285 false] = [k285 true] ∧
      decodeChar false 0 = .bad ∧
      idleChars 4 = [k285 false, dataChar true 0xB5, k285 true, dataChar false 0xB5] := by decide

/-- PWR.STAT with VCCAUX below 1.68 V: neither pgood nor vccaux_ok, with aux_warn (R432, R433). -/
theorem test_aux_warn :
    ∃ t, execAuxWarn (at_ up) = .next t ∧ (pwrVal t.chip 0).map (fun w => (w.getLsbD 0, w.getLsbD 2, w.getLsbD 11)) =
      some (false, false, true) := ⟨_, rfl, by decide⟩
end Sys2Proof.Tests
end

/-! ### Registers at reset -/
section
namespace Sys2Proof.Machine

/-- Settles O58: the tables' reset values and the empty units are read off the state at reset. -/
theorem resetLeavesTheTablesValues : Obligations.ResetLeavesTheTablesValues := by
  unfold Obligations.ResetLeavesTheTablesValues
  refine ⟨?registers, rfl, rfl, ?queues, ?fronds, ?channels⟩
  case registers => decide
  case queues => decide
  case fronds => decide
  case channels => decide
end Sys2Proof.Machine
end

section
namespace Sys2Proof.Machine

/-! ### CLK.POLICY from both paths in one cc (R131 to R133) -/

/-- The row of a register store while the engine runs: the store's effect, its status in `eng.lastSt`. -/
theorem regRow_engineOn {q : Queue} {a : Nat} {v : Word} {s : State} (h : s.chip.endSwitch.engineOn = true) :
    regRow q a v s = .next { s with chip :=
      { (s.chip.endSwitch.regStore s.die q a v).2 with
        eng := { (s.chip.endSwitch.regStore s.die q a v).2.eng with
          lastSt := (s.chip.endSwitch.regStore s.die q a v).1 } } } := by
  simp [regRow, onChip, inFlight, Chip.reaches, h]

/-- A powered device at work, its clock QUALIFYING; MGT.EXPECT names generation 0, that of the clock. -/
def expectant : Chip :=
  { Chip.reset with
    pwr := { Pwr.reset with pgood := true, fuseRead := true }
    clk := { Clk.reset with xtalOk := true }
    prs := { Prs.reset with ldr := .user }
    mgt := { Mgt.reset with expGen := 0, expValid := true } }

/-- ST of 0x0B06 to CLK.POLICY. -/
def policyStore : Insn :=
  { tx := false, fence := false, cmpl := false, chain := false, rsv := 0, tag := 0, ext := 0, tgt := 0x00010004, op := 0x0B06 }

/-- What the ST leaves when queue 0 issues it. -/
def storedPolicy : State :=
  ⟨[], Die.reset, runInsn Op.st 0 policyStore Die.reset stBody expectant.endSwitch⟩

/-- The state after the data path's ST is one that a command leaves. -/
theorem exec_policyStore : exec (.st 0 policyStore) ⟨[], Die.reset, expectant⟩ = .next storedPolicy := rfl

/-- The ST has advanced the generation of the clock, so MGT.EXPECT no longer names it. -/
theorem storedPolicy_meets :
    storedPolicy.chip.endSwitch.engineOn = true ∧ storedPolicy.chip.endSwitch.sec.locks.getLsbD 1 = false ∧
      storedPolicy.chip.endSwitch.clk.st ≠ .fallback ∧
      storedPolicy.chip.endSwitch.mgt.expGen ≠ storedPolicy.chip.endSwitch.clk.gen := by
  decide +kernel

/-- The management path's store of the same value in the same cc leads to the state that the ST has made: it completes OK
(R133). -/
theorem mgtPolicy_ok : (storedPolicy.chip.endSwitch.regStore Die.reset 5 0x10004 0x0B06).1 = St.ok := by decide +kernel

/-- Refutes O38: a store to CLK.POLICY from Q5 need not act on the expected generation alone. In the cc in which an ST of
queue 0 has written the same value, and so advanced the generation, R133 has both complete OK: the store of Q5 whose MGT.EXPECT
names the generation before the ST is OK, and not STALE. The state is the one that the ST leaves (`exec_policyStore`). -/
theorem not_timePolicyAndPlainRegisters : ¬ Obligations.TimePolicyAndPlainRegisters := by
  unfold Obligations.TimePolicyAndPlainRegisters
  rintro ⟨-, h⟩
  obtain ⟨hon, hlock, hst, hgen⟩ := storedPolicy_meets
  obtain ⟨-, -, -, -, -, -, -, -, -, hpolicy⟩ := h 5 storedPolicy 0x0B06 hon
  obtain ⟨t, ht, -, hstale, -⟩ := (hpolicy hlock hst).2 (.inr hgen)
  have hrow : exec (.clkPolicyWrite 5 0x0B06) storedPolicy = regRow 5 0x10004 0x0B06 storedPolicy := rfl
  rw [hrow, regRow_engineOn hon] at ht
  cases ht
  exact absurd (mgtPolicy_ok.symm.trans hstale) (by decide)

end Sys2Proof.Machine
end

section
namespace Sys2Proof.Machine

/-! ### Register words: what a read changes, how a write ends -/

theorem loadRange_register {a : Nat} (h : a < 0x10000000) : loadRange a = none := by simp [loadRange, h]

theorem storeRange_register {a : Nat} (h : a < 0x10000000) : storeRange a = none := by simp [storeRange, h]

/-- Chip `e` is chip `c` after register reads: they fill holding registers of line time (R101) and clear the mark of LIC.LAST
(R390), and change nothing else. -/
def Chip.readFrom (c e : Chip) : Prop :=
  e = { c with lt := { c.lt with hold := e.lt.hold }, lic := { c.lic with coalSince := e.lic.coalSince } }

theorem Chip.readFrom.trans {a b c : Chip} (h : a.readFrom b) (h' : b.readFrom c) : a.readFrom c := by
  unfold Chip.readFrom at h h' ⊢
  rw [h', h]

theorem Chip.readFrom.keeps {c e : Chip} (h : c.readFrom e) : c.keeps [.lt, .lic] e := by
  intro p hp
  rw [h]
  cases p <;> first | exact absurd hp (by decide) | rfl

theorem Chip.readFrom.now {c e : Chip} (h : c.readFrom e) : e.now = c.now := by rw [h]; rfl

theorem Chip.readFrom.noRecord {c e : Chip} (h : c.readFrom e) : c.noRecord e := by rw [h]; exact ⟨rfl, rfl⟩

theorem readReg_readFrom {c e : Chip} {d : Die} {s : Src} {a : Nat} {v : Word} (h : c.readReg d s a = some (v, e)) :
    c.readFrom e := by
  unfold Chip.readReg at h
  simp only [Option.map_eq_some_iff, Prod.mk.injEq] at h
  obtain ⟨-, -, -, rfl⟩ := h
  generalize (s.fromQ && a == (if s.ptr then 0x30004 else 0x30000)) = snapshot
  generalize (a == 0x100004) = lastRead
  cases snapshot
  · cases lastRead <;> rfl
  · rfl

theorem readRegs_readFrom {d : Die} {s : Src} {n : Nat} {c e : Chip} {a v : Nat}
    (h : c.readRegs d s a n = some (v, e)) : c.readFrom e := by
  induction n generalizing c a v with
  | zero => cases h; rfl
  | succ n ih =>
    unfold Chip.readRegs at h
    cases hr : c.readReg d s a with
    | none => simp [hr] at h
    | some r =>
      cases hn : r.2.readRegs d s (a + 4) n with
      | none => simp [hr, hn] at h
      | some w =>
        simp only [hr, hn, Option.some.injEq, Prod.mk.injEq] at h
        obtain ⟨-, rfl⟩ := h
        exact (readReg_readFrom hr).trans (ih hn)

/-- A register write ends OK or fails: no other status completes one. -/
def okOrFails (r : Wr) : Prop := failed r.1 = true ∨ r.1 = St.ok

@[simp] theorem okOrFails_ok (c : Chip) : okOrFails (St.ok, c) := .inr rfl
@[simp] theorem okOrFails_range (c : Chip) : okOrFails (St.range, c) :=
  .inl (show failed St.range = true by decide)
@[simp] theorem okOrFails_busy (c : Chip) : okOrFails (St.busy, c) :=
  .inl (show failed St.busy = true by decide)
@[simp] theorem okOrFails_stale (c : Chip) : okOrFails (St.stale, c) :=
  .inl (show failed St.stale = true by decide)

@[simp] theorem okOrFails_locked (c : Chip) (s : Src) (a : Nat) : okOrFails (c.lockedWrite s a) :=
  .inl (show failed St.locked = true by decide)

/-- A change from the management path is OK or STALE (R132). -/
@[simp] theorem okOrFails_expected (good : Bool) (c : Chip) : okOrFails (if good then St.ok else St.stale, c) := by
  cases good
  · exact okOrFails_stale c
  · exact okOrFails_ok c

@[simp] theorem okOrFails_ite {p : Prop} [Decidable p] {r r' : Wr} :
    okOrFails (if p then r else r') ↔ (p → okOrFails r) ∧ (¬ p → okOrFails r') := by split <;> simp_all

theorem wrClk_okOrFails (c : Chip) (s : Src) (a : Nat) (v : Word) : okOrFails (wrClk c s a v) := by
  unfold wrClk wrPolicy
  split <;> simp

theorem wrLnk_okOrFails (c : Chip) (o : Nat) (v : Word) : okOrFails (wrLnk c o v) := by
  simp only [wrLnk, okOrFails_ite, okOrFails_ok, implies_true, true_and]
  intros
  split <;> simp

theorem wrLt_okOrFails (c : Chip) (o : Nat) (v : Word) : okOrFails (wrLt c o v) := by
  unfold wrLt wrLtCtrl
  split <;> simp

theorem wrEng_okOrFails (c : Chip) (o : Nat) (v : Word) : okOrFails (wrEng c o v) := by
  simp [wrEng, wrEvtSrc]

theorem wrFrd_okOrFails (c : Chip) (s : Src) (a : Nat) (v : Word) : okOrFails (wrFrd c s a v) := by
  simp [wrFrd, wrFrdPol, wrSafest]

theorem wrEdg_okOrFails (c : Chip) (s : Src) (a : Nat) (v : Word) : okOrFails (wrEdg c s a v) := by
  simp only [wrEdg, wrPincfg, wrPinsrc, wrBind, okOrFails_ite, okOrFails_ok, okOrFails_range, okOrFails_busy,
    okOrFails_locked, implies_true, and_true, true_and]
  intros
  split <;> exact .inr rfl

theorem wrCap_okOrFails (c : Chip) (o : Nat) (v : Word) : okOrFails (wrCap c o v) := by
  unfold wrCap wrRptr
  split <;> simp

theorem wrCam_okOrFails (c : Chip) (o : Nat) (v : Word) : okOrFails (wrCam c o v) := by
  unfold wrCam
  split <;> simp

theorem wrScr_okOrFails (c : Chip) (s : Src) (a : Nat) (v : Word) : okOrFails (wrScr c s a v) := by
  simp only [wrScr, wrScrPol, okOrFails_ite, okOrFails_ok, okOrFails_range, okOrFails_locked, implies_true, and_true,
    true_and]
  intros
  split <;> simp

theorem wrLic_okOrFails (c : Chip) (o : Nat) (v : Word) : okOrFails (wrLic c o v) := by
  unfold wrLic wrLicAck
  split <;> simp

theorem wrDma_okOrFails (c : Chip) (s : Src) (o : Nat) (v : Word) : okOrFails (wrDma c s o v) := by
  simp only [wrDma, wrDmaCtrl, okOrFails_ite, okOrFails_ok, implies_true, true_and]
  intros
  split <;> simp

theorem writeReg_okOrFails (c : Chip) (d : Die) (s : Src) (a : Nat) (v : Word) : okOrFails (c.writeReg d s a v) := by
  simp only [Chip.writeReg, okOrFails_ite, okOrFails_range, implies_true, true_and]
  intros
  split
  case h_2 => exact wrClk_okOrFails ..
  case h_3 => exact wrLnk_okOrFails ..
  case h_4 => exact wrLt_okOrFails ..
  case h_8 => exact wrEng_okOrFails ..
  case h_9 => exact wrFrd_okOrFails ..
  case h_10 => exact wrEdg_okOrFails ..
  case h_11 => exact wrCap_okOrFails ..
  case h_12 => exact wrCam_okOrFails ..
  case h_14 => exact wrScr_okOrFails ..
  case h_16 => exact wrLic_okOrFails ..
  case h_17 => exact wrDma_okOrFails ..
  case h_21 => simp
  case h_1 => simp [wrSys]
  case h_6 => simp [wrMgt]
  case h_7 => simp [wrPrt]
  case h_5 => unfold wrSpi; split <;> simp
  case h_13 => unfold wrPrs; split <;> simp
  case h_15 => unfold wrNvs; split <;> simp
  case h_18 => unfold wrFlt; split <;> simp
  case h_19 => unfold wrPwr; split <;> simp
  case h_20 => unfold wrSec; split <;> simp

/-! ### LD, ST, RMW and LD.SNAP on registers (R8, R146, R190 to R192) -/

section
variable {q : Queue} {f : Insn} {b : Chip}

theorem Chip.covered_live (c : Chip) (q : Queue) {f : Insn} (a n : Nat) (h : f.tx = false) : c.covered q f a n = false := by
  simp [Chip.covered, h]

theorem Chip.through_live (c : Chip) (q : Queue) {f : Insn} (a v n : Nat) (h : f.tx = false) : c.through q f a v n = v := by
  simp [Chip.through, h]

theorem load_register {c e : Chip} {d : Die} {x : Src} {a n v : Nat} (h : a < 0x10000000)
    (hr : c.readRegs d x a (n / 4) = some (v, e)) : c.load d x a n = (St.ok, v, e) := by
  simp only [Chip.load, loadRange_register h, h, if_true, hr]

theorem load_unlisted {c : Chip} {d : Die} {x : Src} {a n : Nat} (h : a < 0x10000000)
    (hr : c.readRegs d x a (n / 4) = none) : c.load d x a n = (St.range, 0, c) := by
  simp only [Chip.load, loadRange_register h, h, if_true, hr]

theorem store_register {c : Chip} {d : Die} {x : Src} {a n v : Nat} (h : a < 0x10000000) :
    c.store d x a n v = c.writeRegs d x a v (n / 4) := by
  simp only [Chip.store, storeRange_register h, h, if_true]

theorem ofNat_high (v : DWord) : BitVec.ofNat 32 (v.toNat / 4294967296) = v.extractLsb' 32 32 := by
  apply BitVec.eq_of_toNat_eq
  simp [BitVec.extractLsb', Nat.shiftRight_eq_div_pow]

/-- One register word stored: its write. -/
theorem writeRegs_one (c : Chip) (d : Die) (x : Src) (a : Nat) (v : DWord) :
    c.writeRegs d x a v.toNat 1 = c.writeReg d x a (v.setWidth 32) := by
  have hs := writeReg_okOrFails c d x a (v.setWidth 32)
  cases hw : c.writeReg d x a (v.setWidth 32) with
  | mk st e =>
    rw [hw] at hs
    cases hf : failed st with
    | true => simp [Chip.writeRegs, firstFail, hw, hf]
    | false =>
      obtain rfl : st = St.ok := hs.resolve_left (by simp [hf])
      simp [Chip.writeRegs, firstFail, writeSeq, hw, hf]

/-- Two register words stored, none of which fails alone: one write after the other. -/
theorem writeRegs_two {c c₁ c₂ : Chip} {d : Die} {x : Src} {a : Nat} {v : DWord} {lo hi : Byte}
    (h₁ : c.writeReg d x a (v.setWidth 32) = (lo, c₁)) (h₂ : c₁.writeReg d x (a + 4) (v.extractLsb' 32 32) = (hi, c₂))
    (hlo : failed lo = false) (hhi : failed hi = false)
    (hal : failed (c.writeReg d x (a + 4) (v.extractLsb' 32 32)).1 = false) :
    c.writeRegs d x a v.toNat 2 = (hi, c₂) := by
  have hs := writeReg_okOrFails c₁ d x (a + 4) (v.extractLsb' 32 32)
  rw [h₂] at hs
  obtain rfl : hi = St.ok := hs.resolve_left (by simp [hhi])
  simp [Chip.writeRegs, firstFail, writeSeq, List.range_succ, ofNat_high, h₁, h₂, hlo, hhi, hal]

/-- Two register words stored, of which one fails alone: the failure that the checks find first, and nothing else. -/
theorem writeRegs_two_fails {c e : Chip} {d : Die} {x : Src} {a : Nat} {v : DWord} {st : Byte}
    (h : firstFail [c.writeReg d x a (v.setWidth 32), c.writeReg d x (a + 4) (v.extractLsb' 32 32)] = some (st, e)) :
    c.writeRegs d x a v.toNat 2 = (st, e) := by
  simp [Chip.writeRegs, List.range_succ, ofNat_high, h]


/-- LD of live bytes without a destination: the load's value, or its failure. -/
theorem ldBody_live {d : Die} {st : Byte} {v : Nat} {c : Chip} (htx : f.tx = false) (hw : field f.ext 0 2 < 3)
    (hdest : field f.ext 0 2 = 2 → field f.op 0 32 = 0) (hal : f.tgt.toNat % (4 * 2 ^ field f.ext 0 2) = 0)
    (hl : b.load d (b.ldSrc q) f.tgt.toNat (4 * 2 ^ field f.ext 0 2) = (st, v, c)) :
    ldBody q f d b = if failed st then .fail st c else .done st (BitVec.ofNat 64 v) c := by
  have hnone : ¬ (field f.ext 0 2 = 2 ∧ field f.op 0 32 ≠ 0) := fun h => h.2 (hdest h.1)
  unfold ldBody
  simp only [if_neg (Nat.ne_of_lt hw), hal, ne_eq, not_true_eq_false, if_false, if_neg hnone, Chip.covered_live b q _ _ htx,
    Bool.false_eq_true, hl, Chip.through_live c q _ _ _ htx]

/-- ST of registers outside a transaction. -/
theorem stBody_register {d : Die} (htx : f.tx = false) (ha : f.tgt.toNat < 0x10000000)
    (hal : f.tgt.toNat % (if f.ext.getLsbD 0 then 8 else 4) = 0) :
    stBody q f d b =
      let r := b.writeRegs d (Src.ofQueue q) f.tgt.toNat f.op.toNat ((if f.ext.getLsbD 0 then 8 else 4) / 4)
      .done r.1 0 r.2 := by
  simp only [stBody, htx, Bool.false_eq_true, false_and, if_false, hal, ne_eq, not_true_eq_false, store_register ha]

/-- RMW of a register outside a transaction. -/
theorem rmwBody_register {d : Die} {old new : Word} {c c' : Chip} {st : Byte} (htx : f.tx = false)
    (ha : f.tgt.toNat < 0x10000000) (hal : f.tgt.toNat % 4 = 0)
    (hr : b.readReg d (Src.ofQueue q) f.tgt.toNat = some (old, c))
    (hnew : rmwVal (field f.ext 0 2) old (f.op.setWidth 32) (f.op.extractLsb' 32 32) = new)
    (hw : c.writeReg d (Src.ofQueue q) f.tgt.toNat new = (st, c')) :
    rmwBody q f d b = .done st (if failed st then 0 else new ++ old) c' := by
  have hlow : f.op.extractLsb' 0 32 = f.op.setWidth 32 := by
    apply BitVec.eq_of_toNat_eq
    simp [BitVec.extractLsb']
  simp only [rmwBody, htx, Bool.false_eq_true, false_and, if_false, hal, ne_eq, not_true_eq_false, ha, if_true, hr,
    Chip.through_live c q _ _ _ htx, BitVec.ofNat_toNat, BitVec.setWidth_eq, Bool.or_false, hlow, hnew, hw]

/-- LD.SNAP of registers of one block outside a transaction, without a destination. -/
theorem ldSnapBody_register {d : Die} {v : Nat} {c : Chip} (htx : f.tx = false) (hdest : field f.op 0 32 = 0)
    (hal : f.tgt.toNat % 16 = 0) (hblock : f.tgt.toNat % 0x10000 + 16 * (field f.ext 0 4 + 1) ≤ 0x10000)
    (ha : f.tgt.toNat < 0x150000)
    (hr : b.readRegs d (Src.ofQueue q) f.tgt.toNat (4 * (field f.ext 0 4 + 1)) = some (v, c)) :
    ldSnapBody q f d b = .done St.ok (BitVec.ofNat 64 v) c := by
  have hrec : ¬ (0x50000000 ≤ f.tgt.toNat ∧ f.tgt.toNat + 16 * (field f.ext 0 4 + 1) ≤ 0x50008000) := by omega
  have hout : ¬ (0x10000 < f.tgt.toNat % 0x10000 + 16 * (field f.ext 0 4 + 1) ∨ 0x150000 ≤ f.tgt.toNat) := by omega
  have hload : loadRange f.tgt.toNat = none := loadRange_register (by omega)
  unfold ldSnapBody
  simp only [hal, hdest, ne_eq, not_true_eq_false, if_false, if_neg hrec, if_neg hout, hload, reduceCtorEq, hr,
    Chip.through_live c q _ _ _ htx]

end

/-- Settles O9: each access is the reads and writes of its registers, which the recorder learns nothing of. -/
theorem registerAccessesReadAndWriteWords : Obligations.RegisterAccessesReadAndWriteWords := by
  unfold Obligations.RegisterAccessesReadAndWriteWords
  intro q f s b a
  refine ⟨?ld, ?st, ?rmw, ?ldSnap⟩
  case ld =>
    intro h htx hw hdest ha hal
    have hn : 4 * 2 ^ field f.ext 0 2 / 4 = 2 ^ field f.ext 0 2 := Nat.mul_div_cancel_left _ (by decide)
    refine ⟨fun v c hr => ?_, fun hr => ?_⟩
    · have hread := readRegs_readFrom hr
      exact ⟨hread.keeps, hread.now,
        insn_done h (ldBody_live htx hw hdest hal (load_register ha (by rw [hn]; exact hr))) hread.noRecord⟩
    · exact insn_done h (ldBody_live htx hw hdest hal (load_unlisted ha (by rw [hn]; exact hr))) ⟨rfl, rfl⟩
  case st =>
    intro h htx ha
    refine ⟨fun hone hal st c hw hrec => ?_, fun htwo hal lo hi c c' h₁ h₂ hlo hhi halone hrec => ?_,
      fun htwo hal st c hfail hrec => ?_⟩
    · have hbody := stBody_register (q := q) (b := b) (d := s.die) htx ha (by rw [hone]; exact hal)
      rw [hone] at hbody
      simp only [Bool.false_eq_true, if_false, Nat.reduceDiv, writeRegs_one] at hbody
      exact insn_done h (hbody.trans (by rw [hw])) hrec
    · have hbody := stBody_register (q := q) (b := b) (d := s.die) htx ha (by rw [htwo]; exact hal)
      rw [htwo] at hbody
      simp only [if_true, Nat.reduceDiv, writeRegs_two (a := f.tgt.toNat) h₁ h₂ hlo hhi halone] at hbody
      exact insn_done h hbody hrec
    · have hbody := stBody_register (q := q) (b := b) (d := s.die) htx ha (by rw [htwo]; exact hal)
      rw [htwo] at hbody
      simp only [if_true, Nat.reduceDiv, writeRegs_two_fails (a := f.tgt.toNat) hfail] at hbody
      exact insn_done h hbody hrec
  case rmw =>
    intro h htx ha hal old c st c' hr v mask new hw hrec
    exact insn_done h (rmwBody_register htx ha hal hr rfl hw) hrec
  case ldSnap =>
    intro h htx hdest hal hblock ha v c hr
    exact insn_done h (ldSnapBody_register htx hdest hal hblock ha hr) (readRegs_readFrom hr).noRecord

end Sys2Proof.Machine
end

section
namespace Sys2Proof.Machine

/-! ### Bits of words and masks -/

theorem getLsbD_bitW {n : Nat} (b : Bool) (j : Nat) (hn : n < 32) : (bitW n b).getLsbD j = (b && j == n) := by
  cases b
  · simp [bitW]
  · have hp : (2 : Nat) ^ n < 2 ^ 32 := Nat.pow_lt_pow_right (by decide) hn
    simp only [bitW, if_true, Bool.true_and, BitVec.getLsbD_ofNat, Nat.testBit_two_pow]
    rw [Bool.eq_iff_iff]
    simp only [Bool.and_eq_true, decide_eq_true_eq, beq_iff_eq]
    omega

/-- The bits collected over a range of numbers. -/
theorem getLsbD_collect (p : Nat → Bool) {k : Nat} (hk : k ≤ 32) (j : Nat) :
    ((List.range k).foldl (fun a i => a ||| bitW i (p i)) 0).getLsbD j = (decide (j < k) && p j) := by
  induction k with
  | zero => simp
  | succ k ih =>
    rw [List.range_succ, List.foldl_append, List.foldl_cons, List.foldl_nil, BitVec.getLsbD_or, ih (by omega),
      getLsbD_bitW _ _ (by omega)]
    by_cases h : j = k
    · subst h; simp
    · have : (j < k + 1) = (j < k) := by simp only [eq_iff_iff]; omega
      simp [h, this]

/-- A mask of which bit `n` alone is set names frond `n`. -/
theorem maskList_single {m : Word} {n : Nat} (hn : n < 32) (h : ∀ j, j < 32 → m.getLsbD j = (j == n)) :
    maskList m = [n] := by
  have hf : maskList m = (List.range 32).filter (· == n) :=
    List.filter_congr fun j hj => h j (List.mem_range.1 hj)
  rw [hf, List.filter_beq]
  simp [List.count_eq_one_of_mem List.nodup_range (List.mem_range.2 hn)]

theorem maskList_bit {n : Nat} (hn : n < 32) : maskList (bitW n true) = [n] :=
  maskList_single hn fun j _ => by rw [getLsbD_bitW _ _ hn, Bool.true_and]

/-! ### Records and conditions -/

/-- A record of a core unit that finds the writer with room takes the next entry. -/
theorem Lic.give_room {l : Lic} {r : LicRec} (h : l.room = true) (he : r.entry = .general) :
    l.give r = { l with buf := l.buf ++ [r] } := by
  obtain ⟨entry, cause, cls, idx, lt, info, ctx⟩ := r
  obtain rfl : entry = .general := he
  simp [Lic.give, h]

/-- A condition that rises touches the fault block alone. -/
theorem Chip.condEdge_keeps (old new : Chip) : new.keeps [.flt] (old.condEdge new) := by
  intro p hp
  unfold Chip.condEdge
  dsimp only
  split <;> cases p <;> first | rfl | exact absurd hp (by decide)

/-- Scrubbing in a chip is paused or not: FLT.COND bit 1. -/
theorem Chip.cond_paused (c : Chip) : c.cond.getLsbD 1 = c.scr.paused := by
  unfold Chip.cond
  simp only [BitVec.getLsbD_or, getLsbD_bitW _ _ (show 0 < 32 by decide), getLsbD_bitW _ _ (show 1 < 32 by decide),
    getLsbD_bitW _ _ (show 2 < 32 by decide), getLsbD_bitW _ _ (show 3 < 32 by decide),
    getLsbD_bitW _ _ (show 4 < 32 by decide)]
  simp

/-- Conditions that all held before do not rise. -/
theorem Chip.condEdge_fallen {old new : Chip} (h : new.cond &&& ~~~old.cond = 0) : old.condEdge new = new := by
  simp [Chip.condEdge, h]

/-- A condition that rises sets FLT.EVT.cond and its history bit (R426). -/
theorem Chip.condEdge_risen {old new : Chip} {k : Nat} (hn : new.cond.getLsbD k = true) (ho : old.cond.getLsbD k = false)
    (hk : k < 32) : (old.condEdge new).flt.evt.getLsbD 0 = true ∧ (old.condEdge new).flt.condhist.getLsbD k = true := by
  have hup : (new.cond &&& ~~~old.cond).getLsbD k = true := by
    rw [BitVec.getLsbD_and, BitVec.getLsbD_not, hn, ho]
    simp [hk]
  have hne : new.cond &&& ~~~old.cond ≠ 0 := fun h => by rw [h] at hup; simp at hup
  have hc : old.condEdge new = { new.setFltEvt 0 with flt := { (new.setFltEvt 0).flt with
      condhist := (new.setFltEvt 0).flt.condhist ||| new.cond &&& ~~~old.cond } } := by
    simp only [Chip.condEdge, if_neg hne]
  rw [hc]
  refine ⟨?_, ?_⟩
  · rw [show Flt.evt _ = new.flt.evt ||| bitW 0 true from rfl, BitVec.getLsbD_or, getLsbD_bitW _ _ (by decide)]
    simp
  · rw [BitVec.getLsbD_or, hup, Bool.or_true]

/-! ### The pause (R426) -/

theorem Chip.setPause_keeps (c : Chip) (on : Bool) : c.keeps [.scr, .flt] (c.setPause on) := by
  unfold Chip.setPause
  refine Chip.keeps.trans ?_ ((Chip.condEdge_keeps _ _).mono (by decide))
  intro p hp
  cases p <;> first | rfl | exact absurd hp (by decide)

theorem Chip.setPause_scr (c : Chip) (on : Bool) : (c.setPause on).scr = { c.scr with paused := on } :=
  Chip.condEdge_keeps c { c with scr := { c.scr with paused := on } } .scr (by decide)

/-- A pause that begins is a condition that rises. -/
theorem Chip.setPause_risen {c : Chip} (h : c.scr.paused = false) :
    (c.setPause true).flt.evt.getLsbD 0 = true ∧ (c.setPause true).flt.condhist.getLsbD 1 = true :=
  Chip.condEdge_risen (Chip.cond_paused _) ((Chip.cond_paused c).trans h) (by decide)

/-- The end of a pause raises nothing. -/
theorem Chip.setPause_resumed (c : Chip) : c.setPause false = { c with scr := { c.scr with paused := false } } := by
  refine Chip.condEdge_fallen ?_
  have hpart (v a b d e p : Word) : (v ||| 0 ||| a ||| b ||| d) &&& ~~~(v ||| p ||| a ||| b ||| d) = 0 := by
    ext i hi
    simp
    grind
  exact hpart _ _ _ _ 0 _

/-! ### A mismatch (R338) -/

/-- The handler's words change Q7 and the fault block alone. -/
theorem Chip.enqueue7_keeps (c : Chip) (w : QWord) : c.keeps [.queues, .flt] (c.enqueue7 w) := by
  intro p hp
  unfold Chip.enqueue7
  split
  · cases p <;> rfl
  · dsimp only
    split <;> cases p <;> first | rfl | exact absurd hp (by decide)

theorem Chip.handlerPut_keeps (c : Chip) (r : HReq) : c.keeps [.queues, .flt] (c.handlerPut r) := by
  have hflt (x : Flt) : c.keeps [.queues, .flt] { c with flt := x } := fun p hp => by
    cases p <;> first | rfl | exact absurd hp (by decide)
  unfold Chip.handlerPut
  split
  · exact (hflt _).trans (Chip.enqueue7_keeps _ _)
  · split
    · exact Chip.keeps.refl _ _
    · exact hflt _

/-- A request asked of the handler and passed on changes queues and the fault block alone. -/
theorem Chip.handlerAsk_keeps (c : Chip) (w : QWord) : c.keeps [.queues, .flt] (c.handlerAsk w).handlerPass := by
  refine Chip.keeps.trans ?_ (keeps_foldl Chip.handlerPut_keeps _ _)
  intro p hp
  unfold Chip.handlerAsk
  split <;> cases p <;> first | rfl | exact absurd hp (by decide)

/-- What a mismatch leaves of frond `n` and of the counts and events of scrubbing (R338). -/
def Chip.markMismatch (c : Chip) (n : Nat) : Chip :=
  { c.modFrond n fun f => { f with
      check := 2
      mpol := f.scrPol
      wasRun := f.st == .run
      mism := if f.mism = 255 then 255 else f.mism + 1
      window := false } with
    scr := { c.scr with
      evt := c.scr.evt ||| bitW 0 true
      mism := satAdd c.scr.mism 1
      auto := if (vget c.fronds n).scrPol.getLsbD 0 then c.scr.auto ||| bitW n true else c.scr.auto } }

/-- The record of a mismatch. -/
def mismatchRecord (c : Chip) (n : Nat) (sig : BitVec 64) : LicRec :=
  ⟨.general, 0x2A01, BitVec.ofNat 8 1, BitVec.ofNat 8 n, c.lt.word, 0, ctxAt 32 (vget c.fronds n).golden.toNat
    ||| ctxAt 40 sig.toNat ||| ctxAt 48 (vget c.fronds n).scrPol.toNat⟩

/-- Beyond what it leaves of its frond and of scrubbing, a mismatch changes queues and the fault block, and gives its
record. -/
theorem Chip.mismatch_keeps (c : Chip) (n : Nat) (sig : BitVec 64) :
    { c.markMismatch n with lic := c.lic.give (mismatchRecord c n sig) }.keeps [.queues, .flt] (c.mismatch n sig) := by
  have hflt (p : Prop) [Decidable p] (x : Flt) :
      (c.markMismatch n).keeps [.queues, .flt] (if p then { c.markMismatch n with flt := x } else c.markMismatch n) := by
    intro part hp
    split <;> cases part <;> first | rfl | exact absurd hp (by decide)
  obtain ⟨d, hd, he⟩ : ∃ d : Chip, (c.markMismatch n).keeps [.queues, .flt] d ∧ c.mismatch n sig
      = c.condEdge (d.record 0x2A01 1 n (ctxAt 32 (vget c.fronds n).golden.toNat ||| ctxAt 40 sig.toNat
        ||| ctxAt 48 (vget c.fronds n).scrPol.toNat)) :=
    ⟨_, (hflt ((vget c.fronds n).window = true) _).trans (Chip.handlerAsk_keeps _ _), rfl⟩
  rw [he]
  refine Chip.keeps.trans ?_ ((Chip.condEdge_keeps _ _).mono (by decide))
  have hlic : d.lic = c.lic := hd .lic (by decide)
  have hlt : d.lt = c.lt := hd .lt (by decide)
  have hrec : (d.record 0x2A01 1 n (ctxAt 32 (vget c.fronds n).golden.toNat ||| ctxAt 40 sig.toNat
      ||| ctxAt 48 (vget c.fronds n).scrPol.toNat)).lic = c.lic.give (mismatchRecord c n sig) := by
    rw [Chip.record_lic, hlic, hlt]
    rfl
  intro p hp
  by_cases h : p = .lic
  · subst h; exact hrec
  · have := hd p hp
    cases p <;> first | exact absurd rfl h | exact this

/-! ### One frond read (R334, R335) -/

/-- A readable frond whose plane has its golden signature is checked. -/
theorem Chip.scrubFrond_good {c : Chip} {n : Nat} (hs : (vget c.fronds n).gsrc ≠ 3)
    (hc : (vget c.fronds n).check.getLsbD 1 = false) (hg : c.signature (c.activeBase n) = (vget c.fronds n).golden) :
    c.scrubFrond n = (false, c.modFrond n fun f => { f with check := 1 }) := by
  simp only [Chip.scrubFrond, if_neg hs, hc, Bool.false_eq_true, if_false, if_pos hg]

/-- Another is in mismatch. -/
theorem Chip.scrubFrond_bad {c : Chip} {n : Nat} (hs : (vget c.fronds n).gsrc ≠ 3)
    (hc : (vget c.fronds n).check.getLsbD 1 = false) (hg : c.signature (c.activeBase n) ≠ (vget c.fronds n).golden) :
    c.scrubFrond n = (true, c.mismatch n (c.signature (c.activeBase n))) := by
  simp only [Chip.scrubFrond, if_neg hs, hc, Bool.false_eq_true, if_false, if_neg hg]

/-- A frond whose golden signature is still to be learned takes that of its plane; one in mismatch or under repair is not
judged again. -/
theorem Chip.scrubFrond_spared {c : Chip} {n : Nat}
    (h : (vget c.fronds n).gsrc = 3 ∨ (vget c.fronds n).check.getLsbD 1 = true) :
    c.keeps [.fronds] (c.scrubFrond n).2 ∧ vget (c.scrubFrond n).2.fronds n = (if (vget c.fronds n).gsrc = 3 then
      { vget c.fronds n with golden := c.signature (c.activeBase n), gsrc := 2, check := 1 } else vget c.fronds n) := by
  by_cases hs : (vget c.fronds n).gsrc = 3
  · simp only [Chip.scrubFrond, if_pos hs]
    exact ⟨c.modFrond_keeps n _, vget_vmod_same ..⟩
  · simp only [Chip.scrubFrond, if_neg hs, h.resolve_left hs, if_true]
    exact ⟨Chip.keeps.refl _ c, trivial⟩

/-- A pass over one readable frond. -/
theorem Chip.scrubPass_single {c : Chip} {n : Nat} (hn : n < 32) (hr : c.scrubReads n = true) :
    c.scrubPass (BitVec.ofNat 32 (2 ^ n)) = (if (c.scrubFrond n).1 then 1 else 0, (c.scrubFrond n).2) := by
  have hm : maskList (BitVec.ofNat 32 (2 ^ n)) = [n] := maskList_bit hn
  simp only [Chip.scrubPass, hm, List.foldl_cons, List.foldl_nil, hr, if_true, Nat.zero_add]

theorem ofNat_two_pow_ne {n : Nat} (hn : n < 32) : (BitVec.ofNat 32 (2 ^ n) : Word) ≠ 0 := by
  intro h
  have hb := getLsbD_bitW true n hn
  rw [show bitW n true = BitVec.ofNat 32 (2 ^ n) from rfl, h] at hb
  simp at hb

/-! ### SCRUB.CTL (Table ISA-13) -/

/-- An instruction whose body ends with a status and waits for no entry of the writer, of an opcode that changes no unit of
Table PRT-7: its effect, its records told of it, then its completion. -/
theorem insn_done_described {o : OpInfo} {body : Body} {q : Queue} {f : Insn} {s : State} {b e : Chip} {st : Byte} {res : DWord}
    (h : s.chip.issuesAs o q f b) (hu : changesUnits o.code = false) (hb : body q f s.die b = .done st res e)
    (hw : e.lic.wait = b.lic.wait) :
    ∃ t, insn o body q f s = .next t ∧ Completes q f st res b.lt s (e.describe b (insnInfo q o.code f.tag st)) t := by
  refine ⟨_, insn_issues h, ?_⟩
  unfold runBody
  rw [hb, takeWriter_of_wait hw]
  simp only [Done.noting, hu, Bool.not_false, Bool.or_true, if_true, Done.describe, Chip.finish]
  exact completes_retire

/-- SCRUB.CTL pauses and resumes, or passes over the fronds of its mask. -/
theorem scrubControl {q : Queue} {f : Insn} {s : State} {b : Chip} (h : s.chip.issuesAs Op.scrubCtl q f b) :
    (field f.ext 0 2 = 0 → ∃ t, insn Op.scrubCtl scrubCtlBody q f s = .next t ∧
      Completes q f St.ok 0 b.lt s (b.setPause true) t) ∧
    (field f.ext 0 2 = 1 → ∃ t, insn Op.scrubCtl scrubCtlBody q f s = .next t ∧
      Completes q f St.ok 0 b.lt s (b.setPause false) t) ∧
    (field f.ext 0 2 = 3 → ∃ t, insn Op.scrubCtl scrubCtlBody q f s = .next t ∧ Completes q f St.range 0 b.lt s b t) := by
  have hpause (on : Bool) : b.noRecord (b.setPause on) := by
    have hl : (b.setPause on).lic = b.lic := b.setPause_keeps on .lic (by decide)
    exact ⟨congrArg Lic.buf hl, congrArg Lic.wait hl⟩
  refine ⟨fun hf => insn_done h ?_ (hpause true), fun hf => insn_done h ?_ (hpause false),
    fun hf => insn_done h ?_ ⟨rfl, rfl⟩⟩
  all_goals simp only [scrubCtlBody, hf, Done.fail]

theorem scrubCtlBody_pass {q : Queue} {f : Insn} {d : Die} {b : Chip} (hf : field f.ext 0 2 = 2) :
    scrubCtlBody q f d b =
      .done St.ok (BitVec.ofNat 64 (b.scrubPass (if (f.op.setWidth 32 : Word) = 0 then 0xFFFFFFFF else f.op.setWidth 32)).1)
        (b.scrubPass (if (f.op.setWidth 32 : Word) = 0 then 0xFFFFFFFF else f.op.setWidth 32)).2 := by
  simp only [scrubCtlBody, hf]

theorem scrubCtlBody_single {q : Queue} {f : Insn} {d : Die} {b : Chip} {n : Nat} (hf : field f.ext 0 2 = 2)
    (hn : n < 32) (hm : (f.op.setWidth 32 : Word) = BitVec.ofNat 32 (2 ^ n)) (hr : b.scrubReads n = true) :
    scrubCtlBody q f d b = .done St.ok (if (b.scrubFrond n).1 then 1 else 0) (b.scrubFrond n).2 := by
  rw [scrubCtlBody_pass hf, hm, if_neg (ofNat_two_pow_ne hn), Chip.scrubPass_single hn hr]
  cases (b.scrubFrond n).1 <;> rfl

end Sys2Proof.Machine
end

section
namespace Sys2Proof.Machine

/-! ### Staged streams and stage sets given up (R303, R325) -/

/-- Shadow tables freed are the cams' alone. -/
theorem Chip.freeTables_keeps (c : Chip) (cams : Word) : c.keeps [.cams] (c.freeTables cams) :=
  keeps_foldl (g := Chip.freeShadow) (fun c n => c.modCam_keeps n _) _ c

theorem Chip.dropStaged_keeps (c : Chip) : c.keeps [.cams, .prs] c.dropStaged := by
  unfold Chip.dropStaged
  split
  · exact Chip.keeps.refl _ c
  · rename_i x _
    refine ((Chip.freeTables_keeps c x.cams).mono (by decide)).trans ?_
    intro p hp
    cases p <;> first | rfl | exact absurd hp (by decide)

theorem Chip.dropStaged_staged (c : Chip) : c.dropStaged.prs.staged = none := by
  unfold Chip.dropStaged
  split
  · assumption
  · rfl

theorem Chip.touchStage_keeps (c : Chip) (n : Nat) : c.keeps [.cams, .scr] (c.touchStage n) := by
  unfold Chip.touchStage
  split
  · split
    · exact Chip.cancelStage_keeps c
    · exact Chip.keeps.refl _ c
  · exact Chip.keeps.refl _ c

/-- The stage set cancelled leaves the repairs asked for. -/
theorem Chip.cancelStage_want (c : Chip) : c.cancelStage.scr.want = c.scr.want := by
  unfold Chip.cancelStage
  split
  · rfl
  · rename_i cams _
    have h : c.keeps [.cams] ((maskList cams).foldl Chip.freeShadow c) :=
      keeps_foldl (g := Chip.freeShadow) (fun c n => c.modCam_keeps n _) _ c
    have hs : ((maskList cams).foldl Chip.freeShadow c).scr = c.scr := h .scr (by decide)
    have hw : ((maskList cams).foldl Chip.freeShadow c).scr.want = c.scr.want := congrArg Scr.want hs
    exact hw

theorem Chip.touchStage_want (c : Chip) (n : Nat) : (c.touchStage n).scr.want = c.scr.want := by
  unfold Chip.touchStage
  split
  · split
    · exact Chip.cancelStage_want c
    · rfl
  · rfl

/-! ### Fronds placed in a state (R237, R330) -/

/-- Of the scrubber's and the IRP's state only the pause of the IRP after its master differs (R330). -/
def Chip.hushes (a b : Chip) : Prop := b.scr = { a.scr with hush := b.scr.hush }

theorem Chip.hushes.trans {a b c : Chip} (h : a.hushes b) (h' : b.hushes c) : a.hushes c := by
  unfold Chip.hushes at h h' ⊢
  rw [h', h]

theorem Chip.hushes_of_scr {a b : Chip} (h : b.scr = a.scr) : a.hushes b := by
  unfold Chip.hushes
  rw [h]

theorem Chip.hushIrp_hushes (c : Chip) (mask : Word) : c.hushes (c.hushIrp mask) := by
  unfold Chip.hushes Chip.hushIrp
  split <;> rfl

theorem Chip.seatInit_keeps (c : Chip) (ns : List Nat) : c.keeps [.fronds] (c.seatInit ns) :=
  keeps_foldl (fun c n => c.modFrond_keeps n _) ns c

/-- Fronds placed in a state, before the IRP takes note. -/
theorem Chip.placeFronds_hushes (c : Chip) (mask : Word) (st : FrondState) : c.hushes (c.placeFronds mask st) := by
  have hfold (l : List Nat) : c.keeps [.fronds]
      (l.foldl (fun c n => c.modFrond n fun f => { f with st := st, gen := f.gen + 1 }) c) :=
    keeps_foldl (fun c n => c.modFrond_keeps n _) l c
  unfold Chip.placeFronds
  dsimp only
  generalize hd : (if (st == .run) = true then _ else _ : Chip) = d
  have hscr : d.scr = c.scr := by
    subst hd
    split
    · exact ((hfold _).trans (Chip.seatInit_keeps _ _)) .scr (by decide)
    · exact hfold _ .scr (by decide)
  exact (Chip.hushes_of_scr hscr).trans (Chip.hushIrp_hushes d (c.changing mask st))

theorem Chip.setFronds_hushes (c : Chip) (mask : Word) (st : FrondState) : c.hushes (c.setFronds mask st) := by
  have hs : (c.setFronds mask st).scr = (c.placeFronds mask st).scr := Chip.settle_keeps c _ .scr (by decide)
  exact (Chip.placeFronds_hushes c mask st).trans (Chip.hushes_of_scr hs)

/-- A frond changes its state when the mask names it and it may enter the state. -/
theorem Chip.getLsbD_changing (c : Chip) (mask : Word) (st : FrondState) {j : Nat} (hj : j < 32) :
    (c.changing mask st).getLsbD j = (mask.getLsbD j && (vget c.fronds j).st != st
      && (st != .run || ((vget c.fronds j).activeOk && (vget c.fronds j).check != 3))) := by
  unfold Chip.changing
  rw [getLsbD_collect (fun n => mask.getLsbD n && (vget c.fronds n).st != st
      && (st != .run || ((vget c.fronds n).activeOk && (vget c.fronds n).check != 3))) le_rfl]
  simp [hj]

/-- A frond that may enter RUN enters it alone: its generation advances once. -/
theorem Chip.setFronds_run {c : Chip} {n : Nat} (hn : n < 32) (hst : (vget c.fronds n).st = .safe)
    (hok : (vget c.fronds n).activeOk = true) (hc : (vget c.fronds n).check ≠ 3) :
    (vget (c.setFronds (bitW n true) .run).fronds n).st = .run ∧
      (vget (c.setFronds (bitW n true) .run).fronds n).gen = (vget c.fronds n).gen + 1 ∧
      (vget (c.setFronds (bitW n true) .run).fronds n).plane = (vget c.fronds n).plane := by
  have hlist : maskList (c.changing (bitW n true) .run) = [n] := by
    refine maskList_single hn fun j hj => ?_
    rw [Chip.getLsbD_changing c _ _ hj, getLsbD_bitW _ _ hn, Bool.true_and]
    by_cases h : j = n
    · subst h
      rw [hst, hok, bne_iff_ne.2 hc, beq_self_eq_true]
      rfl
    · rw [beq_eq_false_iff_ne.2 h]
      rfl
  obtain ⟨d, hd⟩ : ∃ d, d = c.modFrond n fun f => { f with st := .run, gen := f.gen + 1 } := ⟨_, rfl⟩
  have hplaced : (c.placeFronds (bitW n true) .run).fronds = (d.modFrond n fun f => { f with ff := d.initBits n }).fronds := by
    unfold Chip.placeFronds
    rw [hlist]
    subst hd
    exact Chip.hushIrp_keeps _ _ .fronds (by decide)
  have hset : (c.setFronds (bitW n true) .run).fronds = (c.placeFronds (bitW n true) .run).fronds :=
    Chip.settle_keeps c _ .fronds (by decide)
  rw [hset, hplaced, hd]
  simp

/-! ### Repairs (R339, R340) -/

/-- A repair begins: its frond, the scrubber's note of it; a staged stream and a stage set with the frond end. -/
theorem Chip.repairBegin_spec (c : Chip) (n : BitVec 5) :
    c.keeps [.fronds, .scr, .prs, .cams] (c.repairBegin n) ∧ (c.repairBegin n).scr.running = some n ∧
      (c.repairBegin n).scr.want = c.scr.want ∧ (c.repairBegin n).prs.staged = none ∧
      (c.repairBegin n).fronds = vmod c.fronds n.toNat
        fun f => { f with check := 3, shadowBusy := true, shadowOk := false, shadowSig := 0 } := by
  obtain ⟨d, hd⟩ : ∃ d, d = (c.touchStage n.toNat).dropStaged := ⟨_, rfl⟩
  have htouch := c.touchStage_keeps n.toNat
  have hdrop := (c.touchStage n.toNat).dropStaged_keeps
  rw [← hd] at hdrop
  have hk : c.keeps [.scr, .prs, .cams] d := (htouch.mono (by decide)).trans (hdrop.mono (by decide))
  have hb : c.repairBegin n = { d.modFrond n.toNat fun f =>
      { f with check := 3, shadowBusy := true, shadowOk := false, shadowSig := 0 } with
      scr := { d.scr with running := some n, auto := d.scr.auto &&& ~~~(bitW n.toNat true) } } := by
    subst hd; rfl
  have hscr : d.scr = (c.touchStage n.toNat).scr := hdrop .scr (by decide)
  have hfronds : d.fronds = c.fronds := hk .fronds (by decide)
  rw [hb]
  refine ⟨(hk.mono (by decide)).trans fun p hp => ?_, rfl, ?_, ?_, ?_⟩
  · cases p <;> first | rfl | exact absurd hp (by decide)
  · show d.scr.want = c.scr.want
    rw [hscr, c.touchStage_want]
  · show d.prs.staged = none
    rw [hd, Chip.dropStaged_staged]
  · rw [← hfronds]
    rfl

/-- The record of a repair that fails. -/
def repairRecord (c : Chip) (n step : Nat) (v : Byte) : LicRec :=
  ⟨.general, 0x2A02, BitVec.ofNat 8 1, BitVec.ofNat 8 n, c.lt.word, 0, ctxAt 32 step ||| ctxAt 33 v.toNat⟩

/-- A repair that fails: its frond in mismatch with the shadow incomplete, counted and recorded. -/
theorem Chip.repairFails_spec (c : Chip) (n step : Nat) (st : Option Byte) :
    ∃ v, (c.repairFails n step st).mem = c.mem ∧
      (c.repairFails n step st).fronds = vmod c.fronds n (fun f =>
        { f with check := 2, waitBnd := false, shadowBusy := false, shadowOk := false, shadowSig := 0 }) ∧
      (c.repairFails n step st).scr = { c.scr with
        evt := c.scr.evt ||| bitW 2 true
        rfails := satAdd c.scr.rfails 1
        running := none
        want := c.scr.want &&& ~~~(bitW n true) } ∧
      (c.repairFails n step st).lic = c.lic.give (repairRecord c n step v) := by
  cases st with
  | none => exact ⟨c.free.1.setWidth 8, rfl, rfl, rfl, rfl⟩
  | some st => exact ⟨st, rfl, rfl, rfl, rfl⟩

/-- With no reading to end, none ends. -/
theorem Chip.repairRead_done {c : Chip} {die : Die} {n : BitVec 5} (hr : c.scr.running = some n)
    (hb : (vget c.fronds n.toNat).shadowBusy = false) : c.repairRead die = c := by
  simp only [Chip.repairRead, hr, hb, Bool.not_false, if_true]

/-- A reading that fails fails its repair; one with the image puts it in the shadow. -/
theorem Chip.repairRead_fails {c : Chip} {die : Die} {n : BitVec 5} {step k : Nat} {st : Option Byte}
    (hr : c.scr.running = some n) (hb : (vget c.fronds n.toNat).shadowBusy = true)
    (hg : c.goldenSegment die n.toNat = .fails step st k) :
    c.repairRead die = (c.flashCorrected k).repairFails n.toNat step st := by
  simp only [Chip.repairRead, hr, hb, Bool.not_true, Bool.false_eq_true, if_false, hg]

theorem Chip.repairRead_image {c : Chip} {die : Die} {n : BitVec 5} {bs : List Byte} {k : Nat}
    (hr : c.scr.running = some n) (hb : (vget c.fronds n.toNat).shadowBusy = true)
    (hg : c.goldenSegment die n.toNat = .image bs k) (hc : crc64 bs = (vget c.fronds n.toNat).golden) :
    c.repairRead die = { c.flashCorrected k with mem := memPutBytes 0 c.mem (c.shadowBase n.toNat) bs }.modFrond n.toNat
      fun f => { f with
        waitBnd := true, shadowBusy := false, shadowOk := true, shadowSig := f.golden, ssrc := f.gsrc, svar := f.gvar } := by
  simp only [Chip.repairRead, hr, hb, Bool.not_true, Bool.false_eq_true, if_false, hg, Chip.restage]
  exact if_pos hc

/-- A frond whose planes a repair exchanges. -/
def Frond.swapped (x : Frond) : Frond :=
  { x with
    plane := !x.plane
    planeOk := true
    shadowOk := false
    shadowSig := 0
    check := 1
    waitBnd := false
    window := true
    gen := x.gen + 1 }

/-- The planes exchange; a frond whose policy forces no reset keeps its flip-flops. -/
theorem Chip.repairPlanes_unforced {c : Chip} {n : Nat} (hp : (vget c.fronds n).pol.getLsbD 1 = false) :
    c.repairPlanes n = c.modFrond n Frond.swapped := by
  have hq : (vget (c.modFrond n Frond.swapped).fronds n).pol.getLsbD 1 = false := by
    rw [Chip.modFrond_fronds, vget_vmod_same]
    exact hp
  have hr : c.repairPlanes n = if (vget (c.modFrond n Frond.swapped).fronds n).pol.getLsbD 1 = true then
      (c.modFrond n Frond.swapped).seatInit [n] else c.modFrond n Frond.swapped := rfl
  rw [hr, hq]
  rfl

/-- The frond that a policy returns to RUN at the swap of its repair. -/
def Chip.returned (c : Chip) (n : Nat) : Chip :=
  let x := vget c.fronds n
  let b := (c.dropStaged.repairPlanes n).hushIrp (bitW n true)
  if x.mpol.getLsbD 1 && x.wasRun then b.setFronds (bitW n true) .run else b

/-- The swap of a repair is the exchange and the return, then the counts of scrubbing. -/
theorem Chip.repairSwap_eq (c : Chip) (n : Nat) : c.repairSwap n =
    { (c.returned n).setScrEvt 1 with scr := { ((c.returned n).setScrEvt 1).scr with
        repairs := satAdd (c.returned n).scr.repairs 1
        running := none
        want := (c.returned n).scr.want &&& ~~~(bitW n true) } } := rfl

/-- The exchange and the return change fronds, pins, what follows from them, and what a swap of planes gives up. -/
theorem Chip.returned_spec {c : Chip} {n : Nat} (hn : n < 32) (hp : (vget c.fronds n).pol.getLsbD 1 = false) :
    let x := vget c.fronds n
    let y := vget (c.returned n).fronds n
    c.hushes (c.returned n) ∧ (c.returned n).mem = c.mem ∧
      ((x.mpol.getLsbD 1 && x.wasRun) = false → y = x.swapped) ∧
      ((x.mpol.getLsbD 1 && x.wasRun) = true → x.st = .safe → x.activeOk = true →
        y.st = .run ∧ y.gen = x.gen + 2 ∧ y.plane = !x.plane) := by
  have hdrop := c.dropStaged_keeps
  have hfronds : c.dropStaged.fronds = c.fronds := hdrop .fronds (by decide)
  have hplanes := Chip.repairPlanes_unforced (c := c.dropStaged) (n := n) (by rw [hfronds]; exact hp)
  obtain ⟨b, hb⟩ : ∃ b, b = (c.dropStaged.repairPlanes n).hushIrp (bitW n true) := ⟨_, rfl⟩
  have hhush : c.hushes b := by
    rw [hb, hplanes]
    exact (Chip.hushes_of_scr (hdrop .scr (by decide))).trans (Chip.hushIrp_hushes (c.dropStaged.modFrond n _) _)
  have hmem : b.mem = c.mem := by
    rw [hb, hplanes]
    exact (Chip.hushIrp_keeps _ _ .mem (by decide)).trans (hdrop .mem (by decide))
  have hfrond : vget b.fronds n = (vget c.fronds n).swapped := by
    have h : b.fronds = vmod c.dropStaged.fronds n Frond.swapped := by
      rw [hb, hplanes]
      exact Chip.hushIrp_keeps _ _ .fronds (by decide)
    rw [h, vget_vmod_same, hfronds]
  have hret : c.returned n = if ((vget c.fronds n).mpol.getLsbD 1 && (vget c.fronds n).wasRun) = true then
      b.setFronds (bitW n true) .run else b := by rw [hb]; rfl
  rw [hret]
  cases hruns : (vget c.fronds n).mpol.getLsbD 1 && (vget c.fronds n).wasRun with
  | false => exact ⟨hhush, hmem, fun _ => hfrond, fun h => absurd (hruns.symm.trans h) (by decide)⟩
  | true =>
    refine ⟨hhush.trans (Chip.setFronds_hushes b _ _), (Chip.setFronds_keeps b _ _ .mem (by decide)).trans hmem,
      fun h => absurd (hruns.symm.trans h) (by decide), fun _ hst hok => ?_⟩
    obtain ⟨hrun, hgen, hplane⟩ := Chip.setFronds_run (c := b) hn (by rw [hfrond]; exact hst) (by rw [hfrond]; exact hok)
      (by rw [hfrond]; exact (by decide : (1 : BitVec 2) ≠ 3))
    refine ⟨hrun, hgen.trans ?_, hplane.trans ?_⟩
    · rw [hfrond]
      exact BitVec.add_assoc ..
    · rw [hfrond]
      rfl

/-! ### The rows of the scrubber -/

/-- A step that changes the chip alone, within the parts of a list. -/
theorem State.keeps_chip {ps : List Part} {s : State} {c e : Chip} (h : c.keeps ps e) :
    State.keeps ps { s with chip := c } { s with chip := e } := ⟨rfl, rfl, h⟩

/-- The pass of the scrubber `c`, which stood at another frond in `old`, after frond `m`. -/
def Chip.passOn (old c : Chip) (m : Nat) : Chip :=
  { c with scr := { c.scr with
      cur := BitVec.ofNat 5 (m + 1)
      passes := if m < old.scr.cur.toNat ∨ m = 31 then c.scr.passes + 1 else c.scr.passes } }

theorem Chip.passOn_keeps (old c : Chip) (m : Nat) : c.keeps [.scr] (old.passOn c m) := by
  intro p hp
  cases p <;> first | rfl | exact absurd hp (by decide)

theorem Chip.scrubNext_lt {c : Chip} {m : Nat} (h : c.scrubNext = some m) : m < 32 := by
  have hm := List.mem_of_find?_eq_some h
  obtain ⟨i, -, rfl⟩ := List.mem_map.1 hm
  exact Nat.mod_lt _ (by decide)

/-- A repair that does not run. -/
theorem exec_repairSwap_idle {s : State} {n : BitVec 5} (h : s.chip.endSwitch.scr.running ≠ some n) :
    exec (.repairSwap n) s = .next { s with chip := s.chip.endSwitch } := by
  show execRepairSwap n s = _
  have hb : (s.chip.endSwitch.scr.running == some n) = false := beq_eq_false_iff_ne.2 h
  simp only [execRepairSwap, onChip, inFlight, hb, Bool.and_false, Bool.false_eq_true, if_false]

theorem exec_doubleUpsetWindowEnd_idle {s : State} {n : BitVec 5}
    (h : (vget s.chip.endSwitch.fronds n.toNat).window = false) :
    exec (.doubleUpsetWindowEnd n) s = .next { s with chip := s.chip.endSwitch } := by
  show execDoubleUpsetWindowEnd n s = _
  simp only [execDoubleUpsetWindowEnd, onChip, inFlight, h, Bool.and_false, Bool.false_eq_true, if_false]

section
variable {s : State} {n : BitVec 5} (hon : s.chip.endSwitch.coreOn = true)
include hon

theorem exec_scrubFrondCheck {m : Nat} (hp : s.chip.endSwitch.scr.paused = false) (hm : s.chip.endSwitch.scrubNext = some m) :
    exec .scrubFrondCheck s
      = .next { s with chip := s.chip.endSwitch.passOn (s.chip.endSwitch.scrubFrond m).2 m } := by
  show execScrubFrondCheck s = _
  simp only [execScrubFrondCheck, onChip, inFlight, hon, hp, hm, Bool.not_false, Bool.and_true, Chip.passOn, Bool.or_eq_true,
    decide_eq_true_eq, beq_iff_eq]

theorem exec_scrubFrondCheck_idle (h : s.chip.endSwitch.scr.paused = true ∨ s.chip.endSwitch.scrubNext = none) :
    exec .scrubFrondCheck s = .next { s with chip := s.chip.endSwitch } := by
  show execScrubFrondCheck s = _
  rcases h with h | h
  · simp only [execScrubFrondCheck, onChip, inFlight, hon, h, Bool.not_true, Bool.and_false]
  · simp only [execScrubFrondCheck, onChip, inFlight, hon, h]
    cases s.chip.endSwitch.scr.paused <;> rfl

theorem exec_repairBegin (hask : (s.chip.endSwitch.scr.want ||| s.chip.endSwitch.scr.auto).getLsbD n.toNat = true)
    (hc : (vget s.chip.endSwitch.fronds n.toNat).check = 2) (hr : s.chip.endSwitch.scr.running = none)
    (hs : s.chip.endSwitch.staging = false) :
    exec (.repairBegin n) s = .next { s with chip := s.chip.endSwitch.repairBegin n } := by
  show execRepairBegin n s = _
  simp only [execRepairBegin, onChip, inFlight, hon, hask, hc, hr, hs, Bool.not_true, bne_self_eq_false, Option.isSome_none,
    Bool.or_false, Bool.false_eq_true, if_false]

theorem exec_repairBegin_idle (h : (s.chip.endSwitch.scr.want ||| s.chip.endSwitch.scr.auto).getLsbD n.toNat = false ∨
      (vget s.chip.endSwitch.fronds n.toNat).check ≠ 2 ∨ s.chip.endSwitch.scr.running ≠ none ∨
      s.chip.endSwitch.staging = true) :
    exec (.repairBegin n) s = .next { s with chip := s.chip.endSwitch } := by
  show execRepairBegin n s = _
  dsimp only [execRepairBegin, onChip, inFlight]
  rw [if_pos]
  simp only [Bool.or_eq_true, bne_iff_ne, Option.isSome_iff_ne_none, Bool.not_eq_true', hon]
  tauto

/-- A repair that runs: once its reading has ended, the swap in the boundary cc, or the wait for it. -/
theorem exec_repairSwap (h : s.chip.endSwitch.scr.running = some n) :
    exec (.repairSwap n) s = .next { s with chip :=
      let c := s.chip.endSwitch.repairRead s.die
      if (vget c.fronds n.toNat).waitBnd = true ∧ (c.moving = false ∨ c.pulses.getLsbD 44 = true) then c.repairSwap n.toNat
      else c } := by
  show execRepairSwap n s = _
  simp only [execRepairSwap, onChip, inFlight, hon, h, beq_self_eq_true, Bool.and_true, if_true, Bool.and_eq_true,
    Bool.or_eq_true, Bool.not_eq_true']

theorem exec_doubleUpsetWindowEnd (h : (vget s.chip.endSwitch.fronds n.toNat).window = true) :
    exec (.doubleUpsetWindowEnd n) s = .next { s with chip :=
      { s.chip.endSwitch.modFrond n.toNat fun f => { f with window := false } with
        flt := { s.chip.endSwitch.flt with dbl := s.chip.endSwitch.flt.dbl &&& ~~~(bitW n.toNat true) } } } := by
  show execDoubleUpsetWindowEnd n s = _
  simp only [execDoubleUpsetWindowEnd, onChip, inFlight, hon, h, Bool.and_true, if_true, Chip.modFrond_flt]

end

/-! ### What the rows leave -/

/-- The frond that the scrubber finds good. -/
theorem scrubCheck_good {s : State} {m : Nat} (hon : s.chip.endSwitch.coreOn = true)
    (hp : s.chip.endSwitch.scr.paused = false) (hm : s.chip.endSwitch.scrubNext = some m)
    (hc : (vget s.chip.endSwitch.fronds m).check.getLsbD 1 = false) (hs : (vget s.chip.endSwitch.fronds m).gsrc ≠ 3)
    (hg : s.chip.endSwitch.signature (s.chip.endSwitch.activeBase m) = (vget s.chip.endSwitch.fronds m).golden) :
    let c := s.chip.endSwitch
    ∃ t, exec .scrubFrondCheck s = .next t ∧ State.keeps [.fronds, .scr] { s with chip := c } t ∧
      (vget t.chip.fronds m).check = 1 ∧ (∀ j, j < 32 → j ≠ m → vget t.chip.fronds j = vget c.fronds j) ∧
      t.chip.scr.cur = BitVec.ofNat 5 (m + 1) ∧
      t.chip.scr.passes = (if m < c.scr.cur.toNat ∨ m = 31 then c.scr.passes + 1 else c.scr.passes) := by
  have hlt := Chip.scrubNext_lt hm
  have he := exec_scrubFrondCheck hon hp hm
  rw [Chip.scrubFrond_good hs hc hg] at he
  refine ⟨_, he, State.keeps_chip ?_, congrArg Frond.check (vget_vmod_same s.chip.endSwitch.fronds m _),
    fun j hj hne => vget_vmod_other _ _ ?_, rfl, rfl⟩
  · exact ((Chip.modFrond_keeps _ m _).mono (by decide)).trans ((Chip.passOn_keeps _ _ m).mono (by decide))
  · rw [Nat.mod_eq_of_lt hlt, Nat.mod_eq_of_lt hj]
    exact fun h => hne h.symm

/-- The frond that the scrubber finds in mismatch. -/
theorem mismatch_leaves {c e : Chip} {m : Nat} {sig : BitVec 64} (hm : m < 32) (hroom : c.lic.room = true)
    (he : (c.mismatch m sig).keeps [.scr] e) (hs : e.scr.mism = (c.mismatch m sig).scr.mism ∧
      e.scr.evt = (c.mismatch m sig).scr.evt ∧ e.scr.auto = (c.mismatch m sig).scr.auto) :
    e.mem = c.mem ∧ (vget e.fronds m).check = 2 ∧ (vget e.fronds m).st = (vget c.fronds m).st ∧
      e.scr.mism = satAdd c.scr.mism 1 ∧ e.scr.evt.getLsbD 0 = true ∧
      e.scr.auto.getLsbD m = (c.scr.auto.getLsbD m || (vget c.fronds m).scrPol.getLsbD 0) ∧
      c.oneRecord e (mismatchRecord c m sig) := by
  have hk := Chip.mismatch_keeps c m sig
  have hscr : (c.mismatch m sig).scr = (c.markMismatch m).scr := hk .scr (by decide)
  have hlic : (c.mismatch m sig).lic = c.lic.give (mismatchRecord c m sig) := hk .lic (by decide)
  have hfronds : e.fronds = (c.markMismatch m).fronds := (he .fronds (by decide)).trans (hk .fronds (by decide))
  obtain ⟨hmism, hevt, hauto⟩ := hs
  rw [hscr] at hmism hevt hauto
  have hfrond := congrArg (vget · m) hfronds
  simp only [Chip.markMismatch, Chip.modFrond_fronds, vget_vmod_same] at hfrond
  refine ⟨(he .mem (by decide)).trans (hk .mem (by decide)), by rw [hfrond], by rw [hfrond], hmism, ?_, ?_, ?_⟩
  · rw [hevt]
    show (c.scr.evt ||| bitW 0 true).getLsbD 0 = true
    rw [BitVec.getLsbD_or, getLsbD_bitW _ _ (by decide)]
    simp
  · rw [hauto]
    show (if (vget c.fronds m).scrPol.getLsbD 0 then c.scr.auto ||| bitW m true else c.scr.auto).getLsbD m = _
    split
    · rename_i h
      rw [BitVec.getLsbD_or, getLsbD_bitW _ _ hm, h]
      simp
    · rename_i h
      rw [eq_false_of_ne_true h, Bool.or_false]
  · exact (he .lic (by decide)).trans (hlic.trans (Lic.give_room hroom rfl))

/-- A pass of SCRUB.CTL over one frond that is good, or in mismatch. -/
theorem scrubPass_one {q : Queue} {f : Insn} {s : State} {b : Chip} {n : Nat} (h : s.chip.issuesAs Op.scrubCtl q f b)
    (hf : field f.ext 0 2 = 2) (hn : n < 32) (hm : (f.op.setWidth 32 : Word) = BitVec.ofNat 32 (2 ^ n))
    (hok : (vget b.fronds n).activeOk = true) (hl : b.prs.ldr ≠ .loader) (hs : (vget b.fronds n).gsrc ≠ 3)
    (hc : (vget b.fronds n).check.getLsbD 1 = false) :
    let x := vget b.fronds n
    (b.signature (b.activeBase n) = x.golden →
      ∃ t e, exec (.scrubCtlPass q f) s = .next t ∧ Completes q f St.ok 0 b.lt s e t ∧ b.keeps [.fronds] e ∧
        vget e.fronds n = { x with check := 1 } ∧ ∀ k, k < 32 → k ≠ n → vget e.fronds k = vget b.fronds k) ∧
    (b.signature (b.activeBase n) ≠ x.golden → b.lic.room = true →
      ∃ t e r, exec (.scrubCtlPass q f) s = .next t ∧ Completes q f St.ok 1 b.lt s e t ∧
        (vget e.fronds n).check = 2 ∧ (vget e.fronds n).st = x.st ∧ e.scr.evt.getLsbD 0 = true ∧
        e.scr.mism = satAdd b.scr.mism 1 ∧ e.scr.auto.getLsbD n = (b.scr.auto.getLsbD n || x.scrPol.getLsbD 0) ∧
        b.oneRecord e r ∧ r.cause = 0x2A01 ∧ e.mem = b.mem) := by
  have hreads : b.scrubReads n = true := by simp [Chip.scrubReads, hok, hl]
  have hbody := scrubCtlBody_single (q := q) (d := s.die) hf hn hm hreads
  refine ⟨fun hg => ?_, fun hg hroom => ?_⟩
  · rw [Chip.scrubFrond_good hs hc hg] at hbody
    obtain ⟨t, ht, hdone⟩ := insn_done h hbody ⟨rfl, rfl⟩
    refine ⟨t, _, ht, hdone, b.modFrond_keeps n _, vget_vmod_same .., fun k hk hne => vget_vmod_other _ _ ?_⟩
    rw [Nat.mod_eq_of_lt hn, Nat.mod_eq_of_lt hk]
    exact fun h => hne h.symm
  · rw [Chip.scrubFrond_bad hs hc hg] at hbody
    obtain ⟨hmem, hcheck, hst, hmism, hevt, hauto, hrec⟩ :=
      mismatch_leaves hn hroom (Chip.keeps.refl [.scr] (b.mismatch n (b.signature (b.activeBase n)))) ⟨rfl, rfl, rfl⟩
    obtain ⟨t, ht, hdone⟩ := insn_done_record h hbody hrec rfl
    exact ⟨t, _, _, ht, hdone, hcheck, hst, hevt, hmism, hauto, rfl, rfl, hmem⟩

/-- SCRUB.CTL over every state in which it issues. -/
theorem scrubControl_clauses {q : Queue} {f : Insn} {s : State} {b : Chip} (h : s.chip.issuesAs Op.scrubCtl q f b) :
    (field f.ext 0 2 = 0 → ∃ t e, exec (.scrubCtlPause q f) s = .next t ∧ Completes q f St.ok 0 b.lt s e t ∧
      b.keeps [.scr, .flt] e ∧ e.scr = { b.scr with paused := true } ∧
      (b.scr.paused = false → e.flt.evt.getLsbD 0 = true ∧ e.flt.condhist.getLsbD 1 = true)) ∧
    (field f.ext 0 2 = 1 → ∃ t e, exec (.scrubCtlResume q f) s = .next t ∧ Completes q f St.ok 0 b.lt s e t ∧
      b.keeps [.scr] e ∧ e.scr = { b.scr with paused := false }) := by
  obtain ⟨hpause, hresume, -⟩ := scrubControl h
  refine ⟨fun hf => ?_, fun hf => ?_⟩
  · obtain ⟨t, ht, hdone⟩ := hpause hf
    exact ⟨t, _, ht, hdone, b.setPause_keeps true, b.setPause_scr true, Chip.setPause_risen⟩
  · obtain ⟨t, ht, hdone⟩ := hresume hf
    refine ⟨t, _, ht, hdone, ?_, b.setPause_scr false⟩
    rw [Chip.setPause_resumed]
    intro p hp
    cases p <;> first | rfl | exact absurd hp (by decide)

/-! ### The clauses about the rows -/

section
variable {s : State} {n : BitVec 5} (hon : s.chip.endSwitch.coreOn = true)

/-- The bit of a repair that has ended is clear. -/
theorem getLsbD_cleared (w : Word) (n : BitVec 5) : (w &&& ~~~(bitW n.toNat true)).getLsbD n.toNat = false := by
  rw [BitVec.getLsbD_and, BitVec.getLsbD_not, getLsbD_bitW _ _ n.isLt]
  simp

include hon

theorem scrubCheck_bad {m : Nat} (hp : s.chip.endSwitch.scr.paused = false) (hm : s.chip.endSwitch.scrubNext = some m)
    (hc : (vget s.chip.endSwitch.fronds m).check.getLsbD 1 = false) (hs : (vget s.chip.endSwitch.fronds m).gsrc ≠ 3)
    (hg : s.chip.endSwitch.signature (s.chip.endSwitch.activeBase m) ≠ (vget s.chip.endSwitch.fronds m).golden)
    (hroom : s.chip.endSwitch.lic.room = true) :
    let c := s.chip.endSwitch
    ∃ t r, exec .scrubFrondCheck s = .next t ∧ t.pending = s.pending ∧ t.die = s.die ∧ t.chip.mem = c.mem ∧
      (vget t.chip.fronds m).check = 2 ∧ t.chip.scr.mism = satAdd c.scr.mism 1 ∧ t.chip.scr.evt.getLsbD 0 = true ∧
      t.chip.scr.auto.getLsbD m = (c.scr.auto.getLsbD m || (vget c.fronds m).scrPol.getLsbD 0) ∧
      c.oneRecord t.chip r ∧ r.cause = 0x2A01 := by
  have he := exec_scrubFrondCheck hon hp hm
  rw [Chip.scrubFrond_bad hs hc hg] at he
  obtain ⟨hmem, hcheck, -, hmism, hevt, hauto, hrec⟩ :=
    mismatch_leaves (Chip.scrubNext_lt hm) hroom (Chip.passOn_keeps s.chip.endSwitch _ m) ⟨rfl, rfl, rfl⟩
  exact ⟨_, _, he, rfl, rfl, hmem, hcheck, hmism, hevt, hauto, hrec, rfl⟩

theorem scrubCheck_spared {m : Nat} (hp : s.chip.endSwitch.scr.paused = false) (hm : s.chip.endSwitch.scrubNext = some m)
    (h : (vget s.chip.endSwitch.fronds m).gsrc = 3 ∨ (vget s.chip.endSwitch.fronds m).check.getLsbD 1 = true) :
    let c := s.chip.endSwitch
    ∃ t, exec .scrubFrondCheck s = .next t ∧ State.keeps [.fronds, .scr] { s with chip := c } t ∧
      vget t.chip.fronds m = (if (vget c.fronds m).gsrc = 3 then
        { vget c.fronds m with golden := c.signature (c.activeBase m), gsrc := 2, check := 1 } else vget c.fronds m) := by
  obtain ⟨hk, hfrond⟩ := Chip.scrubFrond_spared h
  exact ⟨_, exec_scrubFrondCheck hon hp hm,
    State.keeps_chip ((hk.mono (by decide)).trans ((Chip.passOn_keeps _ _ m).mono (by decide))), hfrond⟩

theorem repairBegin_begins (hask : (s.chip.endSwitch.scr.want ||| s.chip.endSwitch.scr.auto).getLsbD n.toNat = true)
    (hc : (vget s.chip.endSwitch.fronds n.toNat).check = 2) (hr : s.chip.endSwitch.scr.running = none)
    (hs : s.chip.endSwitch.staging = false) :
    let c := s.chip.endSwitch
    ∃ t, exec (.repairBegin n) s = .next t ∧ State.keeps [.fronds, .scr, .prs, .cams] { s with chip := c } t ∧
      t.chip.scr.running = some n ∧ t.chip.scr.want = c.scr.want ∧ t.chip.prs.staged = none ∧
      vget t.chip.fronds n.toNat
        = { vget c.fronds n.toNat with check := 3, shadowBusy := true, shadowOk := false, shadowSig := 0 } ∧
      ∀ j, j < 32 → j ≠ n.toNat → vget t.chip.fronds j = vget c.fronds j := by
  obtain ⟨hk, hrun, hwant, hstaged, hfronds⟩ := s.chip.endSwitch.repairBegin_spec n
  refine ⟨_, exec_repairBegin hon hask hc hr hs, State.keeps_chip hk, hrun, hwant, hstaged, ?_, fun j hj hne => ?_⟩
  · exact (congrArg (vget · n.toNat) hfronds).trans (vget_vmod_same ..)
  · refine (congrArg (vget · j) hfronds).trans (vget_vmod_other _ _ ?_)
    rw [Nat.mod_eq_of_lt n.isLt, Nat.mod_eq_of_lt hj]
    exact fun h => hne h.symm

/-- A reading that fails ends its repair. -/
theorem repairSwap_fails (hr : s.chip.endSwitch.scr.running = some n)
    (hb : (vget s.chip.endSwitch.fronds n.toNat).shadowBusy = true) {step k : Nat} {st : Option Byte}
    (hg : s.chip.endSwitch.goldenSegment s.die n.toNat = .fails step st k) (hroom : s.chip.endSwitch.lic.room = true) :
    let c := s.chip.endSwitch
    ∃ t r, exec (.repairSwap n) s = .next t ∧ t.pending = s.pending ∧ t.die = s.die ∧ t.chip.mem = c.mem ∧
      (vget t.chip.fronds n.toNat).check = 2 ∧ (vget t.chip.fronds n.toNat).shadowOk = false ∧
      t.chip.scr.running = none ∧ t.chip.scr.want.getLsbD n.toNat = false ∧
      t.chip.scr.rfails = satAdd c.scr.rfails 1 ∧ t.chip.scr.evt.getLsbD 2 = true ∧ c.oneRecord t.chip r ∧
      r.cause = 0x2A02 := by
  obtain ⟨v, hmem, hfronds, hscr, hlic⟩ := (s.chip.endSwitch.flashCorrected k).repairFails_spec n.toNat step st
  have he := exec_repairSwap hon hr
  rw [Chip.repairRead_fails hr hb hg] at he
  obtain ⟨d, hd⟩ : ∃ d, d = (s.chip.endSwitch.flashCorrected k).repairFails n.toNat step st := ⟨_, rfl⟩
  rw [← hd] at he hmem hfronds hscr hlic
  have hfrond := (congrArg (vget · n.toNat) hfronds).trans (vget_vmod_same ..)
  have hwait : (vget d.fronds n.toNat).waitBnd = false := by rw [hfrond]
  simp only [hwait, Bool.false_eq_true, false_and, if_false] at he
  refine ⟨_, _, he, rfl, rfl, hmem, by rw [hfrond], by rw [hfrond], by rw [hscr], ?_, by rw [hscr]; rfl, ?_,
    hlic.trans (Lic.give_room hroom rfl), rfl⟩
  · rw [hscr]
    exact getLsbD_cleared _ n
  · rw [hscr, BitVec.getLsbD_or, getLsbD_bitW _ _ (by decide)]
    simp

/-- A reading that ends with the image puts it in the shadow; outside a boundary cc the swap waits. -/
theorem repairSwap_image (hr : s.chip.endSwitch.scr.running = some n)
    (hb : (vget s.chip.endSwitch.fronds n.toNat).shadowBusy = true) {bs : List Byte} {k : Nat}
    (hg : s.chip.endSwitch.goldenSegment s.die n.toNat = .image bs k)
    (hc : crc64 bs = (vget s.chip.endSwitch.fronds n.toNat).golden)
    (hbnd : ¬ (s.chip.endSwitch.moving = false ∨ s.chip.endSwitch.pulses.getLsbD 44 = true)) :
    let c := s.chip.endSwitch
    let x := vget c.fronds n.toNat
    ∃ t, exec (.repairSwap n) s = .next t ∧ State.keeps [.fronds, .mem, .prs] { s with chip := c } t ∧
      t.chip.mem = memPutBytes 0 c.mem (c.shadowBase n.toNat) bs ∧ t.chip.scr.running = some n ∧
      vget t.chip.fronds n.toNat = { x with
        waitBnd := true, shadowBusy := false, shadowOk := true, shadowSig := x.golden, ssrc := x.gsrc, svar := x.gvar } := by
  have he := exec_repairSwap hon hr
  rw [Chip.repairRead_image hr hb hg hc] at he
  dsimp only at he
  rw [if_neg fun h => hbnd h.2] at he
  refine ⟨_, he, State.keeps_chip fun p hp => ?_, rfl, hr, vget_vmod_same ..⟩
  cases p <;> first | rfl | exact absurd hp (by decide)

/-- Once the boundary has come, a repair whose reading has ended swaps. -/
theorem repairSwap_swaps (hr : s.chip.endSwitch.scr.running = some n)
    (hb : (vget s.chip.endSwitch.fronds n.toNat).shadowBusy = false)
    (hw : (vget s.chip.endSwitch.fronds n.toNat).waitBnd = true)
    (hbnd : s.chip.endSwitch.moving = false ∨ s.chip.endSwitch.pulses.getLsbD 44 = true) :
    exec (.repairSwap n) s = .next { s with chip := s.chip.endSwitch.repairSwap n.toNat } := by
  have he := exec_repairSwap hon hr
  rw [Chip.repairRead_done hr hb] at he
  exact he.trans (congrArg (fun c => Host.Outcome.next { s with chip := c }) (if_pos ⟨hw, hbnd⟩))

theorem repairSwap_waits (hr : s.chip.endSwitch.scr.running = some n)
    (hb : (vget s.chip.endSwitch.fronds n.toNat).shadowBusy = false)
    (h : (vget s.chip.endSwitch.fronds n.toNat).waitBnd = false ∨
      ¬ (s.chip.endSwitch.moving = false ∨ s.chip.endSwitch.pulses.getLsbD 44 = true)) :
    exec (.repairSwap n) s = .next { s with chip := s.chip.endSwitch } := by
  have he := exec_repairSwap hon hr
  rw [Chip.repairRead_done hr hb] at he
  refine he.trans (congrArg (fun c => Host.Outcome.next { s with chip := c }) (if_neg fun hs => ?_))
  rcases h with h | h
  · exact absurd (h.symm.trans hs.1) (by decide)
  · exact h hs.2

/-- What the swap of a repair leaves. -/
theorem repairSwap_leaves (hr : s.chip.endSwitch.scr.running = some n)
    (hb : (vget s.chip.endSwitch.fronds n.toNat).shadowBusy = false)
    (hw : (vget s.chip.endSwitch.fronds n.toNat).waitBnd = true)
    (hbnd : s.chip.endSwitch.moving = false ∨ s.chip.endSwitch.pulses.getLsbD 44 = true)
    (hpol : (vget s.chip.endSwitch.fronds n.toNat).pol.getLsbD 1 = false) :
    let c := s.chip.endSwitch
    let x := vget c.fronds n.toNat
    let runs := x.mpol.getLsbD 1 && x.wasRun
    ∃ t, exec (.repairSwap n) s = .next t ∧ t.pending = s.pending ∧ t.die = s.die ∧
      (runs = false → vget t.chip.fronds n.toNat = x.swapped) ∧
      (runs = true → x.st = .safe → x.activeOk = true →
        (vget t.chip.fronds n.toNat).st = .run ∧ (vget t.chip.fronds n.toNat).gen = x.gen + 2 ∧
        (vget t.chip.fronds n.toNat).plane = !x.plane) ∧
      t.chip.scr.running = none ∧ t.chip.scr.want.getLsbD n.toNat = false ∧
      t.chip.scr.repairs = satAdd c.scr.repairs 1 ∧ t.chip.scr.evt.getLsbD 1 = true ∧ t.chip.mem = c.mem := by
  obtain ⟨hhush, hmem, hstays, hruns⟩ := Chip.returned_spec n.isLt hpol
  unfold Chip.hushes at hhush
  have he := repairSwap_swaps hon hr hb hw hbnd
  rw [Chip.repairSwap_eq] at he
  refine ⟨_, he, rfl, rfl, hstays, hruns, rfl, getLsbD_cleared _ n, ?_, ?_, hmem⟩
  · rw [hhush]
  · show ((s.chip.endSwitch.returned n.toNat).scr.evt ||| bitW 1 true).getLsbD 1 = true
    rw [BitVec.getLsbD_or, getLsbD_bitW _ _ (by decide)]
    simp

/-- The window of a double upset ends (R426). -/
theorem doubleUpsetWindowEnd_ends (h : (vget s.chip.endSwitch.fronds n.toNat).window = true) :
    let c := s.chip.endSwitch
    ∃ t, exec (.doubleUpsetWindowEnd n) s = .next t ∧ State.keeps [.fronds, .flt] { s with chip := c } t ∧
      vget t.chip.fronds n.toNat = { vget c.fronds n.toNat with window := false } ∧
      t.chip.flt.dbl.getLsbD n.toNat = false := by
  refine ⟨_, exec_doubleUpsetWindowEnd hon h, State.keeps_chip fun p hp => ?_, vget_vmod_same .., getLsbD_cleared _ n⟩
  cases p <;> first | rfl | exact absurd hp (by decide)

end

/-- Settles O32: each function of SCRUB.CTL by what its body ends with, each row of the scrubber by the branch it takes. -/
theorem scrubbingAndRepair : Obligations.ScrubbingAndRepair := by
  unfold Obligations.ScrubbingAndRepair
  refine ⟨?control, ?rows⟩
  case control =>
    intro q f s b h
    obtain ⟨hpause, hresume⟩ := scrubControl_clauses h
    refine ⟨hpause, hresume, fun hf j e hpass hwait => ?_, fun hf j hj hm hok hl hs hc =>
      scrubPass_one h hf hj hm hok hl hs hc, (scrubControl h).2.2⟩
    have hbody := scrubCtlBody_pass (q := q) (d := s.die) (b := b) hf
    rw [hpass] at hbody
    exact insn_done_described h rfl hbody hwait
  case rows =>
    intro s n u c k x asked bnd hon
    exact ⟨fun m hp hm hc hs => ⟨scrubCheck_good hon hp hm hc hs, scrubCheck_bad hon hp hm hc hs⟩,
      fun m => scrubCheck_spared hon, exec_scrubFrondCheck_idle hon, exec_repairBegin_idle hon, repairBegin_begins hon,
      fun hr hb => ⟨fun _ _ _ => repairSwap_fails hon hr hb, fun _ _ => repairSwap_image hon hr hb⟩,
      repairSwap_leaves hon, repairSwap_waits hon, exec_repairSwap_idle, doubleUpsetWindowEnd_ends hon,
      exec_doubleUpsetWindowEnd_idle⟩

end Sys2Proof.Machine
end

section
namespace Sys2Proof.Machine

/-! ### A word enters a full Q7 (R35, R148) -/

/-- The fields of a NOP with the completion tag `n`. -/
def taggedNop (n : Byte) : Insn :=
  { tx := false, fence := false, cmpl := false, chain := false, rsv := 0, tag := n, ext := 0, tgt := 0, op := 0 }

/-- A device at work whose Q7 is full of NOPs that all stand in reserved slots, so that none of its general slots counts as in
use. -/
def reservedFull : Chip :=
  expectant.modQ 7 fun x =>
    { x with words := List.replicate 16 (encodeWord 0 (taggedNop 1)), kinds := List.replicate 16 true }

/-- The full Q7 offers a general slot: `slotFor7` counts the general slots in use alone. -/
theorem slotFor7_reservedFull (w : QWord) : (reservedFull.queue 7).occupied = depth 7 ∧ reservedFull.slotFor7 w = some false := by
  have h : reservedFull.general7 < 12 := by decide
  exact ⟨by decide, if_pos h⟩

/-- The state after another NOP for Q7. -/
def overfull : State := ⟨[], Die.reset, runInsn Op.nop 7 (taggedNop 0) Die.reset nopBody reservedFull.endSwitch⟩

theorem step_reservedFull : step ⟨[.nop 7 (taggedNop 0)], Die.reset, reservedFull⟩ = .next overfull := rfl

theorem overfull_occupied : (overfull.chip.queue 7).occupied = 17 := by decide

/-- Refutes O60: that a queue holds no more than its slots is no invariant by itself. Q7 keeps within its 16 slots only while at
most 4 of its words stand in reserved ones (R148), and the statement does not assume that: where all 16 words do, a NOP finds
no general slot in use, takes one and is the 17th word. -/
theorem not_everyStepKeepsTheShape : ¬ Obligations.EveryStepKeepsTheShape := by
  unfold Obligations.EveryStepKeepsTheShape
  rintro ⟨hstep, -⟩
  obtain ⟨-, -, -, hslots, -⟩ := hstep _ _ step_reservedFull
  have hfull : (reservedFull.queue 7).occupied ≤ depth 7 := (slotFor7_reservedFull 0).1.le
  have h : 17 ≤ depth 7 := overfull_occupied ▸ hslots 7 hfull
  exact absurd h (by decide)

end Sys2Proof.Machine
end

section
namespace Sys2Proof.Machine

/-! ### Refused accesses (R22 to R26, R146, R182, R190) -/

section
variable {q : Queue} {f : Insn} {d : Die} {b : Chip}

theorem loadRange_system {a : Nat} (hlo : 0x38000000 ≤ a) (hhi : a < 0x38004000) : loadRange a = some St.priv := by
  simp [loadRange, hlo, hhi, show ¬ a < 0x10000000 by omega]

theorem storeRange_system {a : Nat} (hlo : 0x38000000 ≤ a) (hhi : a < 0x38004000) : storeRange a = some St.priv := by
  simp [storeRange, hlo, hhi, show ¬ a < 0x10000000 by omega]

theorem regionOf_system {a : Nat} (hlo : 0x38000000 ≤ a) (hhi : a < 0x38004000) : regionOf a = some 5 := by
  unfold regionOf
  rw [if_neg (by omega), if_neg (by omega), if_neg (by omega), if_neg (by omega), if_neg (by omega), if_pos (by omega)]

theorem loadRange_unmapped {a : Nat} (ha : 0x10000000 ≤ a) (h : regionOf a = none) : loadRange a = some St.range := by
  have hsys : ¬ (0x38000000 ≤ a ∧ a < 0x38004000) := fun hs => by rw [regionOf_system hs.1 hs.2] at h; cases h
  simp [loadRange, h, hsys, Nat.not_lt.2 ha]

/-- Outside the user area no load is answered by staged bytes alone. -/
theorem Chip.covered_elsewhere (c : Chip) (q : Queue) (f : Insn) {a : Nat} (n : Nat) (h : regionOf a ≠ some 4) :
    c.covered q f a n = false := by
  unfold Chip.covered
  split
  · simp [h]
  · rfl

theorem ldBody_wide (hw : field f.ext 0 2 = 3) : ldBody q f d b = .done St.range 0 b := by
  simp [ldBody, hw, Done.fail]

theorem ldBody_misaligned (hw : field f.ext 0 2 < 3) (hal : f.tgt.toNat % (4 * 2 ^ field f.ext 0 2) ≠ 0) :
    ldBody q f d b = .done St.align 0 b := by
  simp only [ldBody, if_neg (Nat.ne_of_lt hw), if_pos hal, Done.fail]

/-- An LD of one or two register words whose address check fails ends with its status. -/
theorem ldBody_refused {st : Byte} (hw : field f.ext 0 2 < 2) (hal : f.tgt.toNat % (4 * 2 ^ field f.ext 0 2) = 0)
    (hreg : regionOf f.tgt.toNat ≠ some 4) (hr : loadRange f.tgt.toNat = some st) (hst : failed st = true) :
    ldBody q f d b = .done st 0 b := by
  have hnone : ¬ (field f.ext 0 2 = 2 ∧ field f.op 0 32 ≠ 0) := fun h => by omega
  simp only [ldBody, if_neg (show ¬ field f.ext 0 2 = 3 by omega), hal, ne_eq, not_true_eq_false, if_false, if_neg hnone,
    Chip.covered_elsewhere b q f _ hreg, Bool.false_eq_true, Chip.load, hr, hst, if_true, Done.fail]

theorem stBody_staged_memory (htx : f.tx = true) (ha : 0x10000000 ≤ f.tgt.toNat) : stBody q f d b = .done St.illegal 0 b := by
  simp [stBody, htx, ha, Done.fail]

theorem stBody_misaligned (htx : f.tx = false) (hal : f.tgt.toNat % (if f.ext.getLsbD 0 then 8 else 4) ≠ 0) :
    stBody q f d b = .done St.align 0 b := by
  simp only [stBody, htx, Bool.false_eq_true, false_and, if_false, if_pos hal, Done.fail]

theorem stBody_refused {st : Byte} (htx : f.tx = false) (hal : f.tgt.toNat % (if f.ext.getLsbD 0 then 8 else 4) = 0)
    (hr : storeRange f.tgt.toNat = some st) : stBody q f d b = .done st 0 b := by
  simp only [stBody, htx, Bool.false_eq_true, false_and, if_false, hal, ne_eq, not_true_eq_false, Chip.store, hr]

theorem rmwBody_staged_memory (htx : f.tx = true) (ha : 0x10000000 ≤ f.tgt.toNat) :
    rmwBody q f d b = .done St.illegal 0 b := by
  simp [rmwBody, htx, ha, Done.fail]

theorem rmwBody_misaligned (htx : f.tx = false) (hal : f.tgt.toNat % 4 ≠ 0) : rmwBody q f d b = .done St.align 0 b := by
  simp only [rmwBody, htx, Bool.false_eq_true, false_and, if_false, if_pos hal, Done.fail]

theorem ldSnapBody_misaligned (hal : f.tgt.toNat % 16 ≠ 0) : ldSnapBody q f d b = .done St.align 0 b := by
  simp only [ldSnapBody, if_pos hal, Done.fail]

end

/-- An instruction whose body ends with a status and the chip as it found it. -/
theorem insn_refused {o : OpInfo} {body : Body} {q : Queue} {f : Insn} {s : State} {b : Chip} {st : Byte}
    (h : s.chip.issuesAs o q f b) (hb : body q f s.die b = .done st 0 b) :
    ∃ t, insn o body q f s = .next t ∧ Completes q f st 0 b.lt s b t := insn_done h hb ⟨rfl, rfl⟩

/-- Settles O11: each body ends at its first check that fails, with the chip as it found it. -/
theorem refusedAccessesChangeNothing : Obligations.RefusedAccessesChangeNothing := by
  unfold Obligations.RefusedAccessesChangeNothing
  intro q f s b a ends
  refine ⟨fun h => ⟨?wide, ?ldAlign, ?ldSystem, ?ldUnmapped⟩, fun h => ⟨?stStaged, ?stAlign, ?stSystem⟩,
    fun h => ⟨?rmwStaged, ?rmwAlign⟩, fun h hal => insn_refused h (ldSnapBody_misaligned hal)⟩
  case wide => exact fun hw => insn_refused h (ldBody_wide hw)
  case ldAlign => exact fun hw hal => insn_refused h (ldBody_misaligned hw hal)
  case ldSystem =>
    intro hw hal hlo hhi
    exact insn_refused h (ldBody_refused hw hal (by rw [regionOf_system hlo hhi]; decide) (loadRange_system hlo hhi) rfl)
  case ldUnmapped =>
    intro hw hal ha hnone
    exact insn_refused h (ldBody_refused hw hal (by rw [hnone]; decide) (loadRange_unmapped ha hnone) rfl)
  case stStaged => exact fun htx ha => insn_refused h (stBody_staged_memory htx ha)
  case stAlign => exact fun htx hal => insn_refused h (stBody_misaligned htx hal)
  case stSystem => exact fun htx hal hlo hhi => insn_refused h (stBody_refused htx hal (storeRange_system hlo hhi))
  case rmwStaged => exact fun htx ha => insn_refused h (rmwBody_staged_memory htx ha)
  case rmwAlign => exact fun htx hal => insn_refused h (rmwBody_misaligned htx hal)

end Sys2Proof.Machine
end

section
namespace Sys2Proof.Machine

/-! ### Ends of waits (R34, R154, R162 to R165, R175) -/

section
variable {c : Chip} {q : Queue} {w : Wait}

/-- No store waits to begin, of a routine or of an activation (R174, R308). -/
def Chip.noStoreDue (c : Chip) : Prop := c.prs.rtStore = false ∧ ∀ k, (c.queue k).posted = false

theorem Chip.noStoreDue.startPosted (h : c.noStoreDue) : c.startPosted = c := Chip.startPosted_none h.2 h.1

theorem Chip.noStoreDue.keeps {e : Chip} {ps : List Part} (h : c.noStoreDue) (hk : c.keeps ps e) (hp : Part.prs ∉ ps)
    (hq : Part.queues ∉ ps) : e.noStoreDue :=
  ⟨(congrArg Prs.rtStore (hk .prs hp)).trans h.1,
    fun k => (congrArg QState.posted (Chip.queue_congr (hk .queues hq) k)).trans (h.2 k)⟩

theorem Chip.noStoreDue.modQ {f : QState → QState} (h : c.noStoreDue) (hf : ∀ x, (f x).posted = x.posted) :
    (c.modQ q.val f).noStoreDue := by
  refine ⟨h.1, fun k => ?_⟩
  by_cases hk : k = q
  · subst hk; rw [Chip.queue_modQ_same, hf, h.2]
  · rw [Chip.queue_modQ_other _ _ hk, h.2]

theorem Chip.noStoreDue.retire (h : c.noStoreDue) (f : Insn) (st : Byte) (res : DWord) : (c.retire q f st res).noStoreDue := by
  obtain ⟨hk, hown, hothers, -⟩ := Chip.retire_spec c q f st res
  refine ⟨(congrArg Prs.rtStore (hk .prs (by decide))).trans h.1, fun k => ?_⟩
  by_cases hkq : k = q
  · subst hkq; rw [hown]; exact h.2 k
  · rw [hothers k hkq, h.2]

/-! #### Parts of the end of a wait -/

theorem Chip.retireWait_eq (h : (c.queue q).wait = some w) (st : Byte) (res : DWord) :
    c.retireWait q st res = (c.endWait q).retire q w.f st res := by
  simp only [Chip.retireWait, h]

theorem Chip.endWait_queue (c : Chip) (q : Queue) : (c.endWait q).queue q = { c.queue q with wait := none } :=
  Chip.queue_modQ_same _ _ _

theorem Chip.dropPort_keeps (c : Chip) (q : Queue) : c.keeps [.nvQ] (c.dropPort q) := by
  intro p hp
  unfold Chip.dropPort
  split <;> cases p <;> first | rfl | exact absurd hp (by decide)

theorem Chip.dropPort_nvQ (h : (c.queue q).posted = false) :
    (c.dropPort q).eng.nvQ = if c.eng.nvQ = some q then none else c.eng.nvQ := by
  unfold Chip.dropPort
  by_cases hn : c.eng.nvQ = some q <;> simp [h, hn]

theorem Chip.releaseGo_other (h : w.kind ≠ .credits) : c.releaseGo w = c := by
  simp [Chip.releaseGo, h]

/-- The end of a wait takes nothing with it but what the opcode names: KEY.PROG, DMA.GO and the two that wait for a position
with their transaction. -/
theorem Chip.abortWaiter_none (hkey : w.code ≠ 0xA1) (hgo : w.kind ≠ .credits)
    (h : (c.queue q).txn = none ∨ (w.code ≠ 0x83 ∧ w.code ≠ 0x25)) : c.abortWaiter q w = c := by
  unfold Chip.abortWaiter
  simp only [beq_eq_false_iff_ne.2 hkey, Bool.false_and, Bool.false_eq_true, if_false, Chip.releaseGo_other hgo]
  rcases h with h | ⟨hcommit, hswap⟩
  · simp only [h]
  · simp only [beq_eq_false_iff_ne.2 hcommit, beq_eq_false_iff_ne.2 hswap, Bool.false_and, Bool.or_false, Bool.false_eq_true,
      if_false]
    split <;> rfl

/-- That of a TXN.COMMIT.AT past its fence aborts its transaction. -/
theorem Chip.abortWaiter_commitAt {k : Fin 4} (hgo : w.kind ≠ .credits) (hcode : w.code = 0x83) (hfence : w.kind ≠ .fence)
    (htxn : (c.queue q).txn = some k) : c.abortWaiter q w = c.abortCtx k := by
  unfold Chip.abortWaiter
  simp [hcode, hfence, Chip.releaseGo_other hgo, htxn]

/-- How the head of a queue is ended from outside, where `d` is the chip without its port and what its wait takes with it. -/
theorem Chip.killWait_eq {d : Chip} (hw : (c.queue q).wait = some w) (hd : (c.dropPort q).abortWaiter q w = d)
    (hdw : (d.queue q).wait = some w) (st : Byte) :
    let e := (d.endWait q).retire q w.f st 0
    c.killWait q st = (if (c.queue q).txn.isSome && (d.queue q).txn.isNone && w.code == 0x83 && !(d.queue q).calls.isEmpty
      then e.unwind q St.aborted else e).startPosted := by
  intro e
  have hq : e.queue q = { d.queue q with wait := none }.completed w.f st := by
    rw [← Chip.endWait_queue]; exact (Chip.retire_spec (d.endWait q) q w.f st 0).2.1
  have htxn : (e.queue q).txn = (d.queue q).txn := by rw [hq]; rfl
  have hcalls : (e.queue q).calls.isEmpty = (d.queue q).calls.isEmpty := by
    rw [hq]; unfold QState.completed; cases (d.queue q).calls <;> rfl
  rw [← htxn, ← hcalls]
  simp only [Chip.killWait, hw, hd, Chip.retireWait_eq hdw]
  rfl

/-- A wait that ends alone: the port is given back and the head retires. -/
theorem Chip.killWait_alone (hw : (c.queue q).wait = some w) (st : Byte) (hdue : c.noStoreDue) (hkey : w.code ≠ 0xA1)
    (hgo : w.kind ≠ .credits) (htxn : (c.queue q).txn = none ∨ (w.code ≠ 0x83 ∧ w.code ≠ 0x25)) :
    c.killWait q st = ((c.dropPort q).endWait q).retire q w.f st 0 := by
  have hport : (c.dropPort q).queue q = c.queue q := Chip.queue_congr (c.dropPort_keeps q .queues (by decide)) q
  have hdone := ((hdue.keeps (c.dropPort_keeps q) (by decide) (by decide)).modQ (q := q)
    (f := fun x => { x with wait := none }) (fun _ => rfl)).retire (q := q) w.f st 0
  have hroutine : ((c.queue q).txn.isSome && ((c.dropPort q).queue q).txn.isNone && w.code == 0x83
      && !((c.dropPort q).queue q).calls.isEmpty) = false := by
    rw [hport]; cases (c.queue q).txn <;> simp
  rw [Chip.killWait_eq hw (Chip.abortWaiter_none hkey hgo (hport.symm ▸ htxn)) (hport.symm ▸ hw), hroutine]
  exact hdone.startPosted

end

/-! #### A transaction that aborts (R165, R167) -/

section
variable {c : Chip} {q : Queue} {k : Fin 4}

theorem Chip.unclaim_free (c : Chip) (k : Fin 4) {n : Nat} (hn : n < 32) :
    (vget (c.unclaim k).fronds n).claim ≠ some k ∧ (vget (c.unclaim k).cams n).claim ≠ some k := by
  unfold Chip.unclaim
  constructor <;> dsimp only <;> rw [vget_vmapi _ _ hn] <;> split <;> simp_all

/-- What closing a context leaves: the context free, its owner without it, no unit claimed by it. -/
theorem Chip.closeCtx_spec (c : Chip) (k : Fin 4) :
    c.keeps [.ctxs, .queues, .fronds, .cams] (c.closeCtx k) ∧ vget (c.closeCtx k).eng.ctxs k.val = Ctx.reset ∧
      (c.closeCtx k).queue (vget c.eng.ctxs k.val).owner = { c.queue (vget c.eng.ctxs k.val).owner with
        txn := if (c.queue (vget c.eng.ctxs k.val).owner).txn = some k then none
          else (c.queue (vget c.eng.ctxs k.val).owner).txn } ∧
      (∀ j, j ≠ (vget c.eng.ctxs k.val).owner → (c.closeCtx k).queue j = c.queue j) ∧
      ∀ n, n < 32 → (vget (c.closeCtx k).fronds n).claim ≠ some k ∧ (vget (c.closeCtx k).cams n).claim ≠ some k := by
  refine ⟨fun p hp => ?_, vget_vmod_same .., ?_, fun j hj => ?_, fun n hn => c.unclaim_free k hn⟩
  · cases p <;> first | rfl | exact absurd hp (by decide)
  · exact Chip.queue_modQ_same _ _ _
  · exact Chip.queue_modQ_other _ _ hj

/-- Before a transaction that aborts closes, its edited shadows and staged tables are given up. -/
theorem Chip.abortCtx_closes (c : Chip) (k : Fin 4) :
    ∃ d, c.keeps [.fronds, .cams] d ∧ c.abortCtx k = d.closeCtx k := by
  refine ⟨_, ?_, rfl⟩
  refine Chip.keeps.trans (b := List.foldl (fun c s => if s.kind = 0 then
    c.modFrond s.frond fun f => { f with shadowOk := false, shadowSig := 0 } else c) c (vget c.eng.ctxs k.val).fronds) ?_ ?_
  · refine keeps_foldl (fun c s => ?_) _ c
    split
    · exact (c.modFrond_keeps _ _).mono (by decide)
    · exact Chip.keeps.refl _ _
  · refine keeps_foldl (fun c s => ?_) _ _
    split
    · exact (c.modCam_keeps _ _).mono (by decide)
    · exact Chip.keeps.refl _ _

/-- What the abort of a transaction that its owner holds leaves. -/
theorem Chip.abortCtx_spec (hown : (vget c.eng.ctxs k.val).owner = q) (htxn : (c.queue q).txn = some k) :
    c.keeps [.ctxs, .queues, .fronds, .cams] (c.abortCtx k) ∧ vget (c.abortCtx k).eng.ctxs k.val = Ctx.reset ∧
      (c.abortCtx k).queue q = { c.queue q with txn := none } ∧ (∀ j, j ≠ q → (c.abortCtx k).queue j = c.queue j) ∧
      ∀ n, n < 32 → (vget (c.abortCtx k).fronds n).claim ≠ some k ∧ (vget (c.abortCtx k).cams n).claim ≠ some k := by
  obtain ⟨d, hd, he⟩ := c.abortCtx_closes k
  obtain ⟨hk, hctx, hq, hothers, hfree⟩ := d.closeCtx_spec k
  have hqueue : ∀ j, d.queue j = c.queue j := Chip.queue_congr (hd .queues (by decide))
  rw [show d.eng.ctxs = c.eng.ctxs from hd .ctxs (by decide), hown] at hq hothers
  rw [he]
  refine ⟨(hd.mono (by decide)).trans hk, hctx, ?_, fun j hj => (hothers j hj).trans (hqueue j), hfree⟩
  rw [hq, hqueue, htxn, if_pos rfl]

/-- A routine that unwinds leaves its queue no CALL, and transactions as they are. -/
theorem Chip.unwind_spec (c : Chip) (q : Queue) (st : Byte) (hdue : c.noStoreDue) :
    (c.unwind q st).noStoreDue ∧ ((c.unwind q st).queue q).calls = [] ∧ ((c.unwind q st).queue q).txn = (c.queue q).txn ∧
      (c.unwind q st).eng.ctxs = c.eng.ctxs := by
  obtain ⟨d, hd⟩ : ∃ d, d = c.modQ q.val fun x => { x with calls := [], chain := false } := ⟨_, rfl⟩
  have hq : d.queue q = { c.queue q with calls := [], chain := false } := by rw [hd]; exact Chip.queue_modQ_same _ _ _
  have hfold (l : List (Bool × Insn)) :
      let e := l.foldl (fun c e => c.retire q e.2 (if e.1 then st else St.aborted) 0) d
      e.noStoreDue ∧ (e.queue q).calls = [] ∧ (e.queue q).txn = (c.queue q).txn ∧ e.eng.ctxs = c.eng.ctxs := by
    refine List.foldlRecOn l _ (motive := fun e : Chip => e.noStoreDue ∧ (e.queue q).calls = [] ∧
      (e.queue q).txn = (c.queue q).txn ∧ e.eng.ctxs = c.eng.ctxs) ⟨?_, by rw [hq], by rw [hq], by rw [hd]; rfl⟩ ?_
    · exact hd ▸ hdue.modQ fun _ => rfl
    · intro e ⟨hdue, hcalls, htxn, hctxs⟩ x _
      obtain ⟨hk, hown, -⟩ := Chip.retire_spec e q x.2 (if x.1 then st else St.aborted) 0
      refine ⟨hdue.retire _ _ _, ?_, ?_, (hk .ctxs (by decide)).trans hctxs⟩
      · rw [hown]; simp [QState.completed, hcalls]
      · rw [hown]; exact htxn
  unfold Chip.unwind
  dsimp only
  rw [← hd, (hfold _).1.startPosted]
  exact hfold _

end

/-! #### WAIT_TIMEOUT and RESOURCE_GRANTED -/

section
variable {q : Queue} {s : State} {w : Wait}

theorem waitRow_runs {g : Die → Wait → Chip → Chip} (hon : s.chip.endSwitch.coreOn = true)
    (hw : (s.chip.endSwitch.queue q).wait = some w) :
    waitRow q s g = .next { s with chip := g s.die w s.chip.endSwitch } := by
  simp only [waitRow, onChip, inFlight, hon, hw]

variable (hon : s.chip.endSwitch.coreOn = true) (hw : (s.chip.endSwitch.queue q).wait = some w)
include hon hw

theorem exec_waitTimeout_executing (hx : w.kind.executing = true) :
    exec (.waitTimeout q) s = .next { s with chip := s.chip.endSwitch } := by
  change execWaitTimeout q s = _
  simp only [execWaitTimeout, waitRow_runs hon hw, hx, if_true]

theorem exec_waitTimeout_met {m : Chip} (hx : w.kind.executing = false) (hmet : s.chip.endSwitch.waitMet s.die q w = some m) :
    exec (.waitTimeout q) s = .next { s with chip := m } := by
  change execWaitTimeout q s = _
  simp only [execWaitTimeout, waitRow_runs hon hw, hx, hmet, Bool.false_eq_true, if_false, Option.getD_some]

theorem exec_waitTimeout_unmet (hx : w.kind.executing = false) (hmet : s.chip.endSwitch.waitMet s.die q w = none) :
    exec (.waitTimeout q) s = .next { s with chip := s.chip.endSwitch.killWait q St.timeout } := by
  change execWaitTimeout q s = _
  simp only [execWaitTimeout, waitRow_runs hon hw, hx, hmet, Bool.false_eq_true, if_false, Option.getD_none]

theorem exec_resourceGranted_met {m : Chip} (hg : w.kind.granted = true)
    (hmet : s.chip.endSwitch.waitMet s.die q w = some m) : exec (.resourceGranted q) s = .next { s with chip := m } := by
  change execResourceGranted q s = _
  simp only [execResourceGranted, waitRow_runs hon hw, hg, hmet, if_true, Option.getD_some]

theorem exec_resourceGranted_unmet (hmet : s.chip.endSwitch.waitMet s.die q w = none) :
    exec (.resourceGranted q) s = .next { s with chip := s.chip.endSwitch } := by
  change execResourceGranted q s = _
  simp only [execResourceGranted, waitRow_runs hon hw, hmet, Option.getD_none, ite_self]

/-- A wait of its limit that ends alone, in a transaction or outside one, completes TIMEOUT. -/
theorem waitTimeout_alone (hx : w.kind.executing = false) (hmet : s.chip.endSwitch.waitMet s.die q w = none)
    (hdue : s.chip.endSwitch.noStoreDue) (hkey : w.code ≠ 0xA1) (hgo : w.kind ≠ .credits)
    (htxn : (s.chip.endSwitch.queue q).txn = none ∨ (w.code ≠ 0x83 ∧ w.code ≠ 0x25)) :
    let c := s.chip.endSwitch
    ∃ t e, exec (.waitTimeout q) s = .next t ∧ Completes q w.f St.timeout 0 e.lt s e t ∧ c.keeps [.queues, .nvQ] e ∧
      e.queue q = { c.queue q with wait := none } ∧ e.eng.nvQ = if c.eng.nvQ = some q then none else c.eng.nvQ := by
  have hex := exec_waitTimeout_unmet hon hw hx hmet
  rw [Chip.killWait_alone hw _ hdue hkey hgo htxn] at hex
  refine ⟨_, _, hex, completes_retire_now, ?_, ?_, Chip.dropPort_nvQ (hdue.2 q)⟩
  · exact ((Chip.dropPort_keeps _ q).mono (by decide)).trans ((Chip.modQ_keeps _ _ _).mono (by decide))
  · rw [Chip.endWait_queue, Chip.queue_congr (Chip.dropPort_keeps _ q .queues (by decide))]

/-- The limit of a TXN.COMMIT.AT past its fence: the chip in which its transaction has aborted and its wait has ended, then the
completion, and in a routine the unwinding. -/
theorem waitTimeout_commitAt {k : Fin 4} (hx : w.kind.executing = false)
    (hmet : s.chip.endSwitch.waitMet s.die q w = none) (hdue : s.chip.endSwitch.noStoreDue) (hgo : w.kind ≠ .credits)
    (htxn : (s.chip.endSwitch.queue q).txn = some k) (hcode : w.code = 0x83) (hfence : w.kind ≠ .fence)
    (hown : (vget s.chip.endSwitch.eng.ctxs k.val).owner = q) :
    let c := s.chip.endSwitch
    ∃ e, c.keeps [.queues, .nvQ, .ctxs, .fronds, .cams] e ∧ e.noStoreDue ∧
      e.queue q = { c.queue q with wait := none, txn := none } ∧ vget e.eng.ctxs k.val = Ctx.reset ∧
      (∀ n, n < 32 → (vget e.fronds n).claim ≠ some k ∧ (vget e.cams n).claim ≠ some k) ∧
      exec (.waitTimeout q) s = .next { s with chip := if (c.queue q).calls = [] then e.retire q w.f St.timeout 0
        else ((e.retire q w.f St.timeout 0).unwind q St.aborted).startPosted } := by
  intro c
  obtain ⟨p, hp⟩ : ∃ p, p = c.dropPort q := ⟨_, rfl⟩
  have hport : c.keeps [.nvQ] p := hp ▸ c.dropPort_keeps q
  have hpq : ∀ j, p.queue j = c.queue j := Chip.queue_congr (hport .queues (by decide))
  have hpown : (vget p.eng.ctxs k.val).owner = q := by rw [show p.eng.ctxs = c.eng.ctxs from hport .ctxs (by decide), hown]
  obtain ⟨hk, hctx, hqueue, hothers, hfree⟩ := Chip.abortCtx_spec hpown ((hpq q).symm ▸ htxn)
  have haborted : (p.abortCtx k).noStoreDue := by
    refine ⟨(congrArg Prs.rtStore ((hk .prs (by decide)).trans (hport .prs (by decide)))).trans hdue.1, fun j => ?_⟩
    by_cases hj : j = q
    · subst hj; rw [hqueue, hpq]; exact hdue.2 j
    · rw [hothers j hj, hpq, hdue.2]
  have hwait : ((p.abortCtx k).queue q).wait = some w := by rw [hqueue, hpq]; exact hw
  have hend : ((p.abortCtx k).endWait q).noStoreDue := haborted.modQ fun _ => rfl
  have hendq : ((p.abortCtx k).endWait q).queue q = { c.queue q with wait := none, txn := none } := by
    rw [Chip.endWait_queue, hqueue, hpq]
  refine ⟨(p.abortCtx k).endWait q, ?_, hend, hendq, hctx, hfree, ?_⟩
  · exact (hport.mono (by decide)).trans ((hk.mono (by decide)).trans ((Chip.modQ_keeps _ _ _).mono (by decide)))
  · have hgone : ((p.abortCtx k).queue q).txn = none := by rw [hqueue]
    have hcalls : ((p.abortCtx k).queue q).calls = (c.queue q).calls := by rw [hqueue, hpq]
    have hkill := Chip.killWait_eq hw (hp ▸ Chip.abortWaiter_commitAt hgo hcode hfence ((hpq q).symm ▸ htxn)) hwait St.timeout
    rw [exec_waitTimeout_unmet hon hw hx hmet, hkill, hgone, hcalls, htxn, hcode]
    by_cases hempty : (c.queue q).calls = []
    · simpa [hempty] using (hend.retire w.f St.timeout 0).startPosted
    · simp [hempty]

end

/-! #### A free context, a fence -/

section
variable {c : Chip} {d : Die} {q : Queue} {w : Wait}

/-- What a body that is done leaves when its chip keeps line time: its completion. -/
theorem finish_done_now {code : Byte} {f : Insn} {st : Byte} {res : DWord} :
    Chip.finish q code f c.lt (.done st res c) = c.retire q f st res := by
  have hl : (c.retire q f st res).lt = c.lt := (Chip.retire_spec c q f st res).1 .lt (by decide)
  show { c.retire q f st res with lt := c.lt } = _
  rw [← hl]

/-- What opening a context leaves. -/
theorem Chip.openCtx_spec (c : Chip) (q : Queue) (k : Fin 4) :
    c.keeps [.ctxs, .queues, .serial] (c.openCtx q k) ∧ (c.openCtx q k).queue q = { c.queue q with txn := some k } ∧
      (vget (c.openCtx q k).eng.ctxs k.val).isOpen = true ∧ (vget (c.openCtx q k).eng.ctxs k.val).owner = q := by
  have hctx : vget (c.openCtx q k).eng.ctxs k.val = { Ctx.reset with isOpen := true, owner := q, serial := c.eng.serial } :=
    vget_vmod_same ..
  refine ⟨fun p hp => ?_, ?_, by rw [hctx], by rw [hctx]⟩
  · cases p <;> first | rfl | exact absurd hp (by decide)
  · exact Chip.queue_modQ_same _ _ _

/-- A TXN.BEGIN that waits completes with the lowest free context. -/
theorem waitMet_txnBegin {k : Fin 4} (hkind : w.kind = .context) (hcode : w.code = 0x80)
    (htxn : c.txnOf q = none) (hdue : (c.queue q).posted = false) (hfree : c.freeCtx = some k) :
    c.waitMet d q w =
      some (((c.openCtx q k).endWait q).retire q w.f St.ok (BitVec.ofNat 64 k.val)) := by
  have hbody : txnBeginBody q w.f d c = .done St.ok (BitVec.ofNat 64 k.val) (c.openCtx q k) := by
    simp [txnBeginBody, htxn, hdue, hfree]
  have hrec : c.noRecord (c.openCtx q k) := ⟨rfl, rfl⟩
  have htry : c.tryAgain d q w = some (c.goOn q w (.done St.ok (BitVec.ofNat 64 k.val) (c.openCtx q k))) := by
    simp [Chip.tryAgain, bodyOf, hcode, hbody, takeWriter_of_wait hrec.2, Done.noting, changesUnits]
  simp only [Chip.waitMet, hkind, htry, Chip.goOn, Done.describe, Chip.describe_none hrec]
  exact congrArg some (finish_done_now (c := (c.openCtx q k).endWait q))

theorem waitMet_txnBegin_none (hkind : w.kind = .context) (hcode : w.code = 0x80) (hres : w.res = 0)
    (htxn : c.txnOf q = none) (hdue : (c.queue q).posted = false) (hfree : c.freeCtx = none) : c.waitMet d q w = none := by
  have hbody : txnBeginBody q w.f d c = .wait .context 0 0 c := by
    simp [txnBeginBody, htxn, hdue, hfree]
  have htry : c.tryAgain d q w = none := by
    simp [Chip.tryAgain, bodyOf, hcode, hbody, takeWriter_of_wait', hkind, hres, Done.noting, changesUnits]
  simp only [Chip.waitMet, hkind, htry]

theorem waitMet_fence_held (hkind : w.kind = .fence) (h : c.executing q = true ∨ (c.queue q).halted = true) :
    c.waitMet d q w = none := by
  have hheld : (c.executing q || (c.queue q).halted) = true := by simpa using h
  simp only [Chip.waitMet, hkind, hheld, if_true]

/-- A NOP behind a fence retires OK once nothing earlier executes. -/
theorem waitMet_fence_nop (hkind : w.kind = .fence) (hcode : w.code = 0x00) (hnamed : Op.nop.named w.f = true)
    (hq : q.val ≠ 5) (htx : w.f.tx = false) (hchain : (c.queue q).chain = false) (hexec : c.executing q = false)
    (hhalt : (c.queue q).halted = false) :
    ∃ e, c.keeps [.queues] e ∧ (e.queue q).wait = none ∧ c.waitMet d q w = some (e.retire q w.f St.ok 0) := by
  have hpermits : Op.nop.permits q = true := (by decide : ∀ q : Queue, q.val ≠ 5 → Op.nop.permits q = true) q hq
  obtain ⟨g, hg⟩ : ∃ g, g = (c.endWait q).modQ q.val fun x => { x with fenceOk := true } := ⟨_, rfl⟩
  have hgq : g.queue q = { c.queue q with wait := none, fenceOk := true } := by
    rw [hg, Chip.queue_modQ_same, Chip.endWait_queue]
  have hpre : (g.begun q).precheck Op.nop q w.f = none := by
    simp only [Chip.precheck, hnamed, hpermits, htx, show (Op.nop.code == 0x11) = false from rfl, Bool.not_true, Bool.and_false,
      Bool.false_and, Bool.or_self, Bool.false_eq_true, if_false]
  have hissue : g.issue Op.nop q w.f d nopBody = (g.begun q).retire q w.f St.ok 0 := by
    have hfenced : g.fenced q Op.nop.code w.f = false := by simp [Chip.fenced, hgq]
    have hrun : runBody nopBody q w.f d Op.nop.code (g.begun q) = .done St.ok 0 (g.begun q) := by
      simp [runBody, nopBody, takeWriter_of_wait, Done.noting, changesUnits, Op.nop, Done.describe, Chip.describe_none ⟨rfl, rfl⟩]
    unfold Chip.begun at hpre hrun ⊢
    simp only [Chip.issue, hgq, hchain, Bool.false_eq_true, if_false, hfenced, hpre, hrun]
    exact finish_done_now
  refine ⟨g.begun q, ?_, ?_, ?_⟩
  · exact hg ▸ ((Chip.modQ_keeps _ _ _).trans (Chip.modQ_keeps _ _ _)).trans (Chip.begun_keeps _ q)
  · rw [Chip.begun, Chip.queue_modQ_same, hgq]
  · have hends : c.fenceEnds d q w = g.issue Op.nop q w.f d nopBody := by
      rw [hg]; simp only [Chip.fenceEnds, hcode]; rfl
    simp only [Chip.waitMet, hkind, hexec, hhalt, Bool.or_self, Bool.false_eq_true, if_false, hends, hissue]

end

/-- Settles O34: a limit is met by the condition, ends the wait alone, or with the transaction of a TXN.COMMIT.AT; a grant
is the body of the TXN.BEGIN, or the issue of the NOP behind its fence. -/
theorem waitsEndOrGoOn : Obligations.WaitsEndOrGoOn := by
  unfold Obligations.WaitsEndOrGoOn
  intro q s w u c hon hw
  refine ⟨?outside, ?inside, fun hx m hmet => exec_waitTimeout_met hon hw hx hmet, exec_waitTimeout_executing hon hw,
    ?context, ?fence⟩
  case outside =>
    intro hx hmet hkey hgo htxn hrt hposted
    obtain ⟨t, e, hex, hcompl, hk, hq, hport⟩ := waitTimeout_alone hon hw hx hmet ⟨hrt, hposted⟩ hkey hgo (.inl htxn)
    exact ⟨t, e, hex, hcompl, hk, by rw [hq], hport⟩
  case inside =>
    intro k hx hmet hkey hgo htxn hrt hposted
    refine ⟨fun hcommit hswap => ?stays, fun hcode hfence hown hcalls => ?aborts,
      fun hcode hfence hown hcalls => ?unwinds⟩
    case stays =>
      obtain ⟨t, e, hex, hcompl, hk, hq, -⟩ :=
        waitTimeout_alone hon hw hx hmet ⟨hrt, hposted⟩ hkey hgo (.inr ⟨hcommit, hswap⟩)
      exact ⟨t, e, hex, hcompl, hk, by rw [hq], (congrArg QState.txn hq).trans htxn⟩
    all_goals
      obtain ⟨e, hk, hdue, hq, hctx, hfree, hex⟩ :=
        waitTimeout_commitAt hon hw hx hmet ⟨hrt, hposted⟩ hgo htxn hcode hfence hown
    case aborts =>
      rw [if_pos hcalls] at hex
      exact ⟨_, e, hex, completes_retire_now, hk, by rw [hq], congrArg QState.txn hq, hctx, hfree⟩
    case unwinds =>
      rw [if_neg hcalls] at hex
      obtain ⟨hr, hown', -⟩ := Chip.retire_spec e q w.f St.timeout 0
      obtain ⟨hdue', hnone, htxn', hctxs⟩ := Chip.unwind_spec (e.retire q w.f St.timeout 0) q St.aborted (hdue.retire _ _ _)
      rw [hdue'.startPosted] at hex
      refine ⟨_, hex, ?_, hnone, ?_⟩
      · refine htxn'.trans ?_
        rw [hown', hq]; rfl
      · rw [hctxs, show (e.retire q w.f St.timeout 0).eng.ctxs = e.eng.ctxs from hr .ctxs (by decide), hctx]
  case context =>
    intro hkind hcode hres htxn hdue
    refine ⟨fun k hfree => ?_, fun hfree => exec_resourceGranted_unmet hon hw
      (waitMet_txnBegin_none hkind hcode hres htxn hdue hfree)⟩
    obtain ⟨hk, hq, hopen, hown⟩ := c.openCtx_spec q k
    have hqueue := (c.openCtx q k).endWait_queue q
    rw [hq] at hqueue
    have hmet := waitMet_txnBegin (d := s.die) hkind hcode htxn hdue hfree
    obtain ⟨e, he⟩ : ∃ e, e = (c.openCtx q k).endWait q := ⟨_, rfl⟩
    have hke : (c.openCtx q k).keeps [.queues] e := he ▸ Chip.modQ_keeps _ _ _
    have hctxs : e.eng.ctxs = (c.openCtx q k).eng.ctxs := hke .ctxs (by decide)
    have hlt : e.lt = c.lt := (hke .lt (by decide)).trans (hk .lt (by decide))
    rw [← he] at hqueue hmet
    refine ⟨_, e, exec_resourceGranted_met hon hw (by rw [hkind]; rfl) hmet, hlt ▸ completes_retire_now,
      hk.trans (hke.mono (by decide)), congrArg QState.txn hqueue, hctxs ▸ hopen, hctxs ▸ hown, congrArg QState.wait hqueue⟩
  case fence =>
    intro hkind hcode hnamed hq htx hchain
    refine ⟨fun hexec hhalt => ?_, fun hheld => exec_resourceGranted_unmet hon hw (waitMet_fence_held hkind hheld)⟩
    obtain ⟨e, hk, hwait, hmet⟩ := waitMet_fence_nop (d := s.die) hkind hcode hnamed hq htx hchain hexec hhalt
    exact ⟨_, e, exec_resourceGranted_met hon hw (by rw [hkind]; rfl) hmet, completes_retire_now, hk, hwait⟩

end Sys2Proof.Machine
end

section
namespace Sys2Proof.Machine

/-! ### DMA bursts, acknowledges and retries (R394, R399 to R410) -/

/-! #### Words -/

theorem bytesNat_cut (n v : Nat) : bytesNat ((List.range n).map fun i => BitVec.ofNat 8 (v >>> (8 * i))) = v % 256 ^ n := by
  induction n generalizing v with
  | zero => simp [bytesNat, Nat.mod_one]
  | succ n ih =>
    have hshift (i : Nat) : v >>> (8 * (i + 1)) = (v / 256) >>> (8 * i) := by
      rw [Nat.mul_succ, Nat.add_comm, Nat.shiftRight_add, Nat.shiftRight_eq_div_pow v 8]
    rw [List.range_succ_eq_map, List.map_cons, List.map_map, bytesNat]
    simp only [Function.comp_def, Nat.succ_eq_add_one, hshift, ih (v / 256)]
    rw [Nat.pow_succ', Nat.mod_mul]
    simp

/-- Without a rearrangement the bytes of a word stay (Table DMA-5). -/
theorem swapWord_zero (w : QWord) : swapWord 0 w = w := by
  have hbyte (i : Nat) : w.extractLsb' (8 * (i ^^^ 0)) 8 = BitVec.ofNat 8 (w.toNat >>> (8 * i)) := by
    rw [Nat.xor_zero]; rfl
  unfold swapWord
  simp only [hbyte, bytesNat_cut]
  apply BitVec.eq_of_toNat_eq
  simpa using w.isLt

theorem memNat_lt (d : Byte) (m : Mem) (a n : Nat) : memNat d m a n < 256 ^ n := by
  induction n generalizing a with
  | zero => simp [memNat]
  | succ n ih =>
    have hbyte := (memRead d m a).isLt
    have hrest := ih (a + 1)
    rw [memNat, Nat.pow_succ']
    omega

theorem regionOf_profile {a : Nat} (hlo : 0x10000000 ≤ a) (hhi : a < 0x10100000) : regionOf a = some 1 := by
  unfold regionOf
  rw [if_neg (by omega), if_pos ⟨hlo, hhi⟩]

/-- A load of a good aligned word of the Profile RAM is that word. -/
theorem load_profile {c : Chip} {d : Die} {x : Src} {a : Nat} (hlo : 0x10000000 ≤ a) (hhi : a < 0x10100000)
    (hal : a % 16 = 0) (hecc : c.eccAt a = 0) : c.load d x a 16 = (St.ok, (c.getWord a).toNat, c) := by
  have hreg := regionOf_profile hlo hhi
  have hrange : loadRange a = none := by
    simp only [loadRange, hreg]
    rw [if_neg (by omega), if_neg (by omega), if_neg (by omega)]
    rfl
  have hword : (c.getWord a).toNat = memNat 0 c.mem a 16 := by
    unfold Chip.getWord
    rw [show a / 16 * 16 = a by omega]
    exact Nat.mod_eq_of_lt (memNat_lt 0 c.mem a 16)
  have hread : c.readEcc a 0 = (St.ok, c) := by simp only [Chip.readEcc, hecc]
  simp [Chip.load, hrange, hreg, Nat.not_lt.2 hlo, hread, hword, failed, St.ok]

/-- A whole word stored in the Profile RAM. -/
theorem storeWord_profile {c : Chip} {d : Die} {x : Src} {a : Nat} {w : QWord} (hlo : 0x10000000 ≤ a)
    (hhi : a < 0x10100000) : c.storeWord d x a w = (St.ok, c.putWord a w) := by
  have hreg := regionOf_profile hlo hhi
  have hrange : storeRange a = none := by
    simp only [storeRange, hreg]
    rw [if_neg (by omega), if_neg (by omega)]
  simp [Chip.storeWord, hrange, hreg, Nat.not_lt.2 hlo]

/-! #### Frames -/

section
variable {c : Chip} {ch : Nat}

theorem Chip.modDma_keeps (c : Chip) (ch : Nat) (f : Dma → Dma) : c.keeps [.dma] (c.modDma ch f) := by
  intro p hp
  cases p <;> first | rfl | exact absurd hp (by decide)

theorem Chip.setFlag_keeps (c : Chip) (k : Nat) : c.keeps [.flags] (c.setFlag k) := by
  intro p hp
  cases p <;> first | rfl | exact absurd hp (by decide)

theorem Chip.fireSource_keeps (c : Chip) (cls idx : Nat) : c.keeps [.flags] (c.fireSource cls idx) := by
  refine keeps_foldl (fun c k => ?_) _ c
  split
  · exact c.setFlag_keeps _
  · exact Chip.keeps.refl _ _

/-- A channel event sets its bit in DMA.EVT and flags bound to it. -/
theorem Chip.dmaEvent_spec (c : Chip) (ch bit cls : Nat) :
    c.keeps [.dma, .flags] (c.dmaEvent ch bit cls) ∧
      vget (c.dmaEvent ch bit cls).dma ch = { vget c.dma ch with evt := (vget c.dma ch).evt ||| bitW bit true } := by
  have hfire := (c.setDmaEvt ch bit).fireSource_keeps cls ch
  refine ⟨Chip.keeps.trans (fun p hp => ?_) (hfire.mono (by decide)), ?_⟩
  · cases p <;> first | rfl | exact absurd hp (by decide)
  · rw [show (c.dmaEvent ch bit cls).dma = (c.setDmaEvt ch bit).dma from hfire .dma (by decide)]
    exact vget_vmod_same ..

/-- No DMA.STOP waits for a drain. -/
def Chip.noDrain (c : Chip) : Prop := ∀ k w, (c.queue k).wait = some w → w.kind ≠ .drain

theorem Chip.noDrain.keeps {e : Chip} {ps : List Part} (h : c.noDrain) (hk : c.keeps ps e) (hq : Part.queues ∉ ps) :
    e.noDrain := by
  intro k w hw
  rw [Chip.queue_congr (hk .queues hq)] at hw
  exact h k w hw

theorem Chip.noDrain.retireDrains (h : c.noDrain) (ch : Nat) (st : Byte) (res : DWord) : c.retireDrains ch st res = c := by
  refine List.foldl_fixed' (fun q => ?_) _
  have hq : vget c.eng.queues q = c.queue (Fin.ofNat 8 q) := vget_eq_of_mod _ (by simp)
  rw [hq]
  cases hw : (c.queue (Fin.ofNat 8 q)).wait with
  | none => rfl
  | some w => simp [h _ w hw]

/-! #### Ends of a transfer -/

/-- What a channel holds of a transfer's progress after the acknowledge of every word handed over. -/
def Dma.acks (d : Dma) : Dma :=
  { d with acked := d.wr, bytes := satAdd d.bytes (16 * (d.wr - d.acked)), pos := d.posAt d.wr }

/-- The acknowledge of every word handed over sets events at most, beside what it counts. -/
theorem Chip.ackWords_spec (c : Chip) (ch : Nat) :
    c.keeps [.dma, .flags] (c.ackWords ch) ∧
      ∃ x, vget (c.ackWords ch).dma ch = { (vget c.dma ch).acks with evt := (vget c.dma ch).evt ||| x } := by
  have event (b : Bool) (bit : Nat) (e : Chip) : e.keeps [.dma, .flags] (if b then e.dmaEvent ch bit 4 else e) ∧
      ∃ x, vget (if b then e.dmaEvent ch bit 4 else e).dma ch = { vget e.dma ch with evt := (vget e.dma ch).evt ||| x } := by
    cases b
    · exact ⟨Chip.keeps.refl _ _, 0, by simp⟩
    · exact ⟨(e.dmaEvent_spec ch bit 4).1, _, (e.dmaEvent_spec ch bit 4).2⟩
  unfold Chip.ackWords
  dsimp only
  generalize ((vget c.dma ch).st == .running && (vget c.dma ch).passes (vget c.dma ch).acked (vget c.dma ch).wr _) = full
  generalize ((vget c.dma ch).st == .running && (vget c.dma ch).passes (vget c.dma ch).acked (vget c.dma ch).wr _) = half
  obtain ⟨hk, x, hx⟩ := event half 2 c
  obtain ⟨hk', y, hy⟩ := event full 3 (if half then c.dmaEvent ch 2 4 else c)
  have hack (f : Dma → Dma) (e : Chip) : e.keeps [.dma, .flags] (e.modDma ch f) := (e.modDma_keeps ch f).mono (by decide)
  refine ⟨(hk.trans hk').trans (hack _ _), x ||| y, (vget_vmod_same ..).trans ?_⟩
  rw [hy, hx, BitVec.or_assoc]
  rfl

/-- Without a reference buffer an acknowledge only counts. -/
theorem Chip.ackWords_linear (h : (vget c.dma ch).ref = none) : c.ackWords ch = c.modDma ch Dma.acks := by
  simp only [Chip.ackWords, Dma.passes, h, Bool.and_false, Bool.false_eq_true, if_false]
  rfl

theorem Chip.returnCredits_spec (c : Chip) (ch : Nat) :
    c.keeps [.dma, .credits] (c.returnCredits ch) ∧ (c.returnCredits ch).credits = c.credits + (vget c.dma ch).credits ∧
      vget (c.returnCredits ch).dma ch = { vget c.dma ch with credits := 0 } := by
  refine ⟨fun p hp => ?_, rfl, vget_vmod_same ..⟩
  cases p <;> first | rfl | exact absurd hp (by decide)

/-- A channel at the end of a transfer or a drain. -/
theorem Chip.dmaIdle_spec (c : Chip) (ch : Nat) :
    c.keeps [.dma, .credits] (c.dmaIdle ch) ∧ (c.dmaIdle ch).credits = c.credits + (vget c.dma ch).credits ∧
      vget (c.dmaIdle ch).dma ch = { vget c.dma ch with
        credits := 0, st := .idle, gen := (vget c.dma ch).gen + 1
        last := if (vget c.dma ch).corr then St.corrected else St.ok } := by
  obtain ⟨hk, hcredits, hd⟩ := c.returnCredits_spec ch
  refine ⟨hk.trans ((Chip.modDma_keeps _ _ _).mono (by decide)), hcredits, (vget_vmod_same ..).trans ?_⟩
  rw [hd]

/-- A channel that halts on a failed access. -/
def Dma.halt (st : Byte) (a : Nat) (d : Dma) : Dma :=
  { d with
    st := .halted, gen := d.gen + 1, last := st, erraddr := BitVec.ofNat 32 a, buf := [], chk := [], fail := none, tries := 0 }

/-- What a channel that halts without a word left to write keeps and shows. -/
theorem Chip.dmaHalt_spec {die : Die} {st : Byte} {a : Nat} {write : Bool} (hd : c.noDrain)
    (hw : write = true ∨ (vget c.dma ch).buf = []) :
    c.keeps [.dma, .credits, .flags] (c.dmaHalt die ch st a write) ∧
      ∃ x, vget (c.dmaHalt die ch st a write).dma ch = { (vget c.dma ch).acks.halt st a with
        evt := (vget c.dma ch).evt ||| x ||| bitW 1 true, credits := 0 } := by
  have hput : (if write then c else (c.dmaPut die ch (vget c.dma ch).buf.length).2) = c := by
    rcases hw with hw | hw <;> simp [hw, Chip.dmaPut]
  obtain ⟨m, hm⟩ : ∃ m, m = ((c.ackWords ch).returnCredits ch).modDma ch (·.halt st a) := ⟨_, rfl⟩
  have hhalt : c.dmaHalt die ch st a write = (m.dmaEvent ch 1 3).retireDrains ch st 0 := by
    unfold Chip.dmaHalt; rw [hput, hm]; rfl
  obtain ⟨hack, x, hx⟩ := c.ackWords_spec ch
  obtain ⟨hret, -, hr⟩ := (c.ackWords ch).returnCredits_spec ch
  obtain ⟨hev, he⟩ := m.dmaEvent_spec ch 1 3
  have hmk : c.keeps [.dma, .credits, .flags] m :=
    hm ▸ (hack.mono (by decide)).trans ((hret.mono (by decide)).trans ((Chip.modDma_keeps _ _ _).mono (by decide)))
  have hek : c.keeps [.dma, .credits, .flags] (m.dmaEvent ch 1 3) := hmk.trans (hev.mono (by decide))
  rw [hhalt, (hd.keeps hek (by decide)).retireDrains]
  refine ⟨hek, x, he.trans ?_⟩
  rw [hm, Chip.modDma, vget_vmod_same, hr, hx]
  rfl

/-! #### Bursts -/

/-- The source of a channel's next `n` words is good memory of the Profile RAM, read without a rearrangement. -/
structure Chip.goodSource (c : Chip) (d : Dma) (n : Nat) : Prop where
  linear  : d.smode = 0
  plain   : field d.lcfg 14 3 = 0
  first   : 0x10000000 ≤ d.srcAddr d.rd
  last    : d.srcAddr d.rd + 16 * n ≤ 0x10100000
  aligned : d.srcAddr d.rd % 16 = 0
  checks  : ∀ i, i < n → c.eccAt (d.srcAddr d.rd + 16 * i) = 0

/-- The channel after one more word read. -/
def Dma.read (d : Dma) (w : QWord) : Dma :=
  { d with buf := d.buf ++ [w], chk := d.chk ++ [0], rd := d.rd + 1, rdbytes := satAdd d.rdbytes 16, capPos := d.capPos + 1 }

theorem Dma.srcAddr_linear {d : Dma} (h : d.smode = 0) (k : Nat) : d.srcAddr k = d.lsrc.toNat + 16 * k := by
  simp [Dma.srcAddr, sideAddr, h]

theorem Chip.dmaGet_word {die : Die} {n : Nat} (h : c.goodSource (vget c.dma ch) (n + 1)) :
    c.dmaGet die ch (n + 1)
      = (c.modDma ch (·.read (c.getWord ((vget c.dma ch).srcAddr (vget c.dma ch).rd)))).dmaGet die ch n := by
  have hload := load_profile (d := die) (x := Src.dma (vget c.dma ch).queue) h.first (by have := h.last; omega) h.aligned
    (h.checks 0 (by omega))
  have hok : failed St.ok = false := rfl
  rw [Chip.dmaGet]
  simp only [hload, hok, Bool.false_eq_true, if_false, h.plain, BitVec.ofNat_toNat, BitVec.setWidth_eq, swapWord_zero]
  congr 2
  funext x
  simp [Dma.read, show (St.ok == St.corrected) = false from rfl]

/-- Words of a good source enter the buffer in their order (R399, R400). -/
theorem Chip.dmaGet_good {die : Die} {n : Nat} (h : c.goodSource (vget c.dma ch) n) :
    ∃ e, c.dmaGet die ch n = (none, e) ∧ c.keeps [.dma] e ∧
      (∀ k, k % 12 ≠ ch % 12 → vget e.dma k = vget c.dma k) ∧
      ∃ chk rdbytes capPos, vget e.dma ch = { vget c.dma ch with
        buf := (vget c.dma ch).buf ++
          (List.range n).map fun i => c.getWord ((vget c.dma ch).srcAddr (vget c.dma ch).rd + 16 * i)
        rd := (vget c.dma ch).rd + n, chk := chk, rdbytes := rdbytes, capPos := capPos } := by
  induction n generalizing c with
  | zero => exact ⟨c, rfl, Chip.keeps.refl _ _, fun _ _ => rfl, (vget c.dma ch).chk, (vget c.dma ch).rdbytes,
    (vget c.dma ch).capPos, by simp⟩
  | succ n ih =>
    obtain ⟨d, hd⟩ : ∃ d, d = vget c.dma ch := ⟨_, rfl⟩
    rw [← hd] at h
    obtain ⟨b, hb⟩ : ∃ b, b = c.modDma ch (·.read (c.getWord (d.srcAddr d.rd))) := ⟨_, rfl⟩
    have hbd : vget b.dma ch = d.read (c.getWord (d.srcAddr d.rd)) := by rw [hb, hd]; exact vget_vmod_same ..
    have hbk : c.keeps [.dma] b := hb ▸ c.modDma_keeps _ _
    have hmem : b.mem = c.mem := hbk .mem (by decide)
    have hecc : b.ecc = c.ecc := hbk .ecc (by decide)
    have haddr : (vget b.dma ch).srcAddr (vget b.dma ch).rd = d.srcAddr d.rd + 16 := by
      rw [hbd, Dma.srcAddr_linear h.linear, Dma.srcAddr_linear (d := d.read _) h.linear]
      simp only [Dma.read]; omega
    have hgood : b.goodSource (vget b.dma ch) n := by
      obtain ⟨hlin, hplain, hfirst, hlast, hal, hchk⟩ := h
      refine ⟨by rw [hbd]; exact hlin, by rw [hbd]; exact hplain, by omega, by omega, by omega, fun i hi => ?_⟩
      have := hchk (i + 1) (by omega)
      unfold Chip.eccAt at this ⊢
      rw [hecc, haddr, show d.srcAddr d.rd + 16 + 16 * i = d.srcAddr d.rd + 16 * (i + 1) by omega, this]
    obtain ⟨e, hget, hk, hothers, chk, rdbytes, capPos, he⟩ := ih hgood
    refine ⟨e, ?_, hbk.trans hk, fun k hne => ?_, chk, rdbytes, capPos, ?_⟩
    · rw [Chip.dmaGet_word (hd ▸ h), ← hd, ← hb, hget]
    · rw [hothers k hne, hb]; exact vget_vmod_other _ _ fun h => hne h.symm
    · have hword (a : Nat) : b.getWord a = c.getWord a := by unfold Chip.getWord; rw [hmem]
      have hbuf : d.buf ++ [c.getWord (d.srcAddr d.rd)]
          ++ ((List.range n).map fun i => c.getWord (d.srcAddr d.rd + 16 + 16 * i))
            = d.buf ++ (List.range (n + 1)).map fun i => c.getWord (d.srcAddr d.rd + 16 * i) := by
        have hstep (i : Nat) : d.srcAddr d.rd + 16 + 16 * i = d.srcAddr d.rd + 16 * (i + 1) := by omega
        simp [List.range_succ_eq_map, Function.comp_def, hstep]
      rw [he, haddr, hbd, ← hd]
      simp only [Dma.read, hword, hbuf, Nat.add_right_comm _ 1 n]
      rfl

theorem turnOf_may {k n : Nat} {may : Nat → Bool} (h : turnOf k may = some n) : may n = true := List.find?_some h

/-- A read burst whose source is good memory (R399, R400). -/
theorem Chip.dmaRead_good {die : Die} (hr : c.dmaReady ch = true) (h : c.goodSource (vget c.dma ch) (c.nextBurst ch)) :
    let d := vget c.dma ch
    let n := c.nextBurst ch
    let e := c.dmaRead die ch
    c.keeps [.dma, .credits, .rdTurn] e ∧ e.credits = c.credits - n ∧ e.rdTurn = (ch + 1) % 12 ∧
      (∀ k, k % 12 ≠ ch % 12 → vget e.dma k = vget c.dma k) ∧
      (vget e.dma ch).rd = d.rd + n ∧ (vget e.dma ch).credits = d.credits + n ∧
      (vget e.dma ch).buf = d.buf ++ (List.range n).map fun i => c.getWord (d.srcAddr d.rd + 16 * i) := by
  intro d n e
  obtain ⟨b, hb⟩ : ∃ b, b = { c with credits := c.credits - n, rdTurn := (ch + 1) % 12 }.modDma ch fun d =>
    { d with credits := d.credits + n } := ⟨_, rfl⟩
  have hbk : c.keeps [.dma, .credits, .rdTurn] b := by
    intro p hp
    rw [hb]
    cases p <;> first | rfl | exact absurd hp (by decide)
  have hbd : vget b.dma ch = { d with credits := d.credits + n } := by rw [hb]; exact vget_vmod_same ..
  have hword (a : Nat) : b.getWord a = c.getWord a := by
    unfold Chip.getWord; rw [show b.mem = c.mem from hbk .mem (by decide)]
  have hgood : b.goodSource (vget b.dma ch) n := by
    rw [hbd]
    refine ⟨h.linear, h.plain, h.first, h.last, h.aligned, fun i hi => ?_⟩
    unfold Chip.eccAt
    rw [show b.ecc = c.ecc from hbk .ecc (by decide)]
    exact h.checks i hi
  obtain ⟨g, hget, hk, hothers, chk, rdbytes, capPos, hg⟩ := Chip.dmaGet_good (die := die) hgood
  have he : e = g.modDma ch fun d => { d with tries := 0 } := by
    show c.dmaRead die ch = _
    unfold Chip.dmaRead
    simp only [hr, Bool.not_true, Bool.false_eq_true, if_false]
    rw [← hb, hget]
    rfl
  have hed : vget e.dma ch = { vget g.dma ch with tries := 0 } := by rw [he]; exact vget_vmod_same ..
  have hkeep : b.keeps [.dma] e := he ▸ hk.trans (Chip.modDma_keeps _ _ _)
  simp only [hword, hbd] at hg
  refine ⟨hbk.trans (hkeep.mono (by decide)), (hkeep .credits (by decide)).trans (by rw [hb]; rfl),
    (hkeep .rdTurn (by decide)).trans (by rw [hb]; rfl), fun k hne => ?_, ?_, ?_, ?_⟩
  · rw [he, Chip.modDma, vget_vmod_other _ _ fun h => hne h.symm, hothers k hne, hb]
    exact vget_vmod_other _ _ fun h => hne h.symm
  · rw [hed, hg]
  · rw [hed, hg]
  · rw [hed, hg]; rfl

/-- A word of the buffer that its code has as good is written (R401, R403). -/
theorem Chip.dmaPut_word {die : Die} {w : QWord} {r : List QWord} (hbuf : (vget c.dma ch).buf = w :: r)
    (hchk : (vget c.dma ch).chk.headD 0 = 0) (hal : (vget c.dma ch).dstAddr (vget c.dma ch).wr % 16 = 0)
    (hlo : 0x10000000 ≤ (vget c.dma ch).dstAddr (vget c.dma ch).wr)
    (hhi : (vget c.dma ch).dstAddr (vget c.dma ch).wr < 0x10100000) :
    let d := vget c.dma ch
    let a := d.dstAddr d.wr
    ∃ e, c.dmaPut die ch 1 = (none, e) ∧ c.keeps [.dma, .credits, .mem, .ecc] e ∧ e.getWord a = w ∧ e.eccAt a = 0 ∧
      sameOutside 0 c.mem e.mem a 16 ∧
      vget e.dma ch = { d with buf := r, chk := d.chk.tail, wr := d.wr + 1, credits := d.credits - 1 } ∧
      e.credits = c.credits + (if d.credits = 0 then 0 else 1) := by
  intro d a
  obtain ⟨p, hp⟩ : ∃ p, p = c.putWord a w := ⟨_, rfl⟩
  have hpk : c.keeps [.mem, .ecc] p := by
    intro x hx
    by_cases hv : x = .nvs
    · subst hv hp
      exact c.putWord_nvs a w (by rw [regionOf_profile hlo hhi]; decide)
    · exact hp ▸ c.putWord_keeps a w x (by revert hx hv; cases x <;> decide)
  have hpd : vget p.dma ch = d := by rw [show p.dma = c.dma from hpk .dma (by decide)]
  have hbase : a / 16 * 16 = a := Nat.div_mul_cancel (Nat.dvd_of_mod_eq_zero hal)
  obtain ⟨e, he⟩ : ∃ e, e = { p with
    dma := vmod p.dma ch fun x => { x with buf := r, chk := x.chk.tail, wr := x.wr + 1, credits := x.credits - 1 }
    credits := p.credits + (if d.credits = 0 then 0 else 1) } := ⟨_, rfl⟩
  refine ⟨e, ?_, (hpk.mono (by decide)).trans ?_, ?_, ?_, ?_, ?_, ?_⟩
  · have hstore := storeWord_profile (c := c) (d := die) (x := Src.dma d.queue) (w := w) hlo hhi
    have hgood : ¬ (2 : BitVec 2) ≤ 0 := by decide
    simp only [Chip.dmaPut, hbuf, hchk, if_neg hgood, show ((0 : BitVec 2) == 1) = false from rfl, Bool.or_false]
    rw [hstore, he, hp]
    rfl
  · intro x hx
    rw [he]
    cases x <;> first | rfl | exact absurd hx (by decide)
  · have : e.getWord a = p.getWord a := by rw [he]; rfl
    rw [this, hp, Chip.getWord_putWord]
  · have : e.ecc = p.ecc := by rw [he]
    unfold Chip.eccAt
    rw [this, hp, Chip.putWord_ecc, memRead_write_same]
    rfl
  · have : e.mem = p.mem := by rw [he]
    intro x hx
    rw [this, hp, Chip.putWord_mem, hbase]
    exact memRead_put_other _ _ _ _ hx
  · rw [he, ← hpd]; exact vget_vmod_same ..
  · rw [he, show p.credits = c.credits from hpk .credits (by decide)]

/-- One that its code cannot correct is not (R30, R408). -/
theorem Chip.dmaPut_uncorrectable {die : Die} {w : QWord} {r : List QWord} {n : Nat} (hbuf : (vget c.dma ch).buf = w :: r)
    (hchk : 2 ≤ ((vget c.dma ch).chk.headD 0).toNat) :
    c.dmaPut die ch (n + 1) = (some (St.eccUncorr, (vget c.dma ch).dstAddr (vget c.dma ch).wr), c) := by
  have hbad : (2 : BitVec 2) ≤ (vget c.dma ch).chk.headD 0 := BitVec.le_def.2 hchk
  simp only [Chip.dmaPut, hbuf, if_pos hbad]
  rfl

/-- A write burst of one good word (R401, R403). -/
theorem Chip.dmaWrite_word {die : Die} {w : QWord} {r : List QWord} (hh : c.dmaHolds ch = true)
    (hbuf : (vget c.dma ch).buf = w :: r) (hchk : (vget c.dma ch).chk.headD 0 = 0) (hlen : (vget c.dma ch).writeLen = 1)
    (hal : (vget c.dma ch).dstAddr (vget c.dma ch).wr % 16 = 0)
    (hlo : 0x10000000 ≤ (vget c.dma ch).dstAddr (vget c.dma ch).wr)
    (hhi : (vget c.dma ch).dstAddr (vget c.dma ch).wr < 0x10100000) :
    let d := vget c.dma ch
    let a := d.dstAddr d.wr
    let e := c.dmaWrite die ch
    c.keeps [.dma, .credits, .wrTurn, .mem, .ecc] e ∧ e.wrTurn = (ch + 1) % 12 ∧ e.getWord a = w ∧ e.eccAt a = 0 ∧
      sameOutside 0 c.mem e.mem a 16 ∧
      vget e.dma ch = { d with buf := r, chk := d.chk.tail, wr := d.wr + 1, credits := d.credits - 1, tries := 0 } ∧
      e.credits = c.credits + (if d.credits = 0 then 0 else 1) := by
  intro d a e
  obtain ⟨g, hput, hk, hword, hecc, hout, hd, hcredits⟩ :=
    Chip.dmaPut_word (c := { c with wrTurn := (ch + 1) % 12 }) (die := die) hbuf hchk hal hlo hhi
  have he : e = g.modDma ch fun d => { d with tries := 0 } := by
    show c.dmaWrite die ch = _
    simp only [Chip.dmaWrite, hh, hlen, hput]
    rfl
  have hturn : c.keeps [.wrTurn] { c with wrTurn := (ch + 1) % 12 } := fun p hp => by
    cases p <;> first | rfl | exact absurd hp (by decide)
  have hge : g.keeps [.dma] e := he ▸ Chip.modDma_keeps _ _ _
  refine ⟨(hturn.mono (by decide)).trans ((hk.mono (by decide)).trans (hge.mono (by decide))), ?_, ?_, ?_, ?_, ?_, ?_⟩
  · exact (hge .wrTurn (by decide)).trans (hk .wrTurn (by decide))
  · rw [he]; exact hword
  · rw [he]; exact hecc
  · rw [he]; exact hout
  · rw [he, Chip.modDma, vget_vmod_same, hd]
  · rw [he]; exact hcredits

/-- A write burst whose first word cannot be corrected halts its channel (R408). -/
theorem Chip.dmaWrite_uncorrectable {die : Die} {w : QWord} {r : List QWord} (hh : c.dmaHolds ch = true)
    (hbuf : (vget c.dma ch).buf = w :: r) (hchk : 2 ≤ ((vget c.dma ch).chk.headD 0).toNat)
    (hlen : 1 ≤ (vget c.dma ch).writeLen) (hd : c.noDrain) :
    let e := c.dmaWrite die ch
    c.keeps [.dma, .credits, .wrTurn, .flags] e ∧ (vget e.dma ch).st = .halted ∧ (vget e.dma ch).last = St.eccUncorr ∧
      (vget e.dma ch).buf = [] := by
  intro e
  obtain ⟨n, hn⟩ := Nat.exists_eq_add_of_le' hlen
  obtain ⟨b, hb⟩ : ∃ b : Chip, b = { c with wrTurn := (ch + 1) % 12 } := ⟨_, rfl⟩
  have hturn : c.keeps [.wrTurn] b := fun p hp => by
    rw [hb]
    cases p <;> first | rfl | exact absurd hp (by decide)
  have hbd : b.dma = c.dma := hturn .dma (by decide)
  have he : e = b.dmaHalt die ch St.eccUncorr ((vget c.dma ch).dstAddr (vget c.dma ch).wr) true := by
    have hput := Chip.dmaPut_uncorrectable (c := b) (die := die) (n := n) (hbd.symm ▸ hbuf) (hbd.symm ▸ hchk)
    show c.dmaWrite die ch = _
    simp only [Chip.dmaWrite, hh, hn, ← hb, hput, Chip.dmaTried, hbd]
    rfl
  obtain ⟨hk, x, hx⟩ := Chip.dmaHalt_spec (c := b) (ch := ch) (die := die) (st := St.eccUncorr)
    (a := (vget c.dma ch).dstAddr (vget c.dma ch).wr) (hd.keeps hturn (by decide)) (.inl rfl)
  rw [← he] at hk hx
  exact ⟨(hturn.mono (by decide)).trans (hk.mono (by decide)), by rw [hx]; rfl, by rw [hx]; rfl, by rw [hx]; rfl⟩

/-! #### Acknowledges -/

/-- The acknowledge of an active channel without a reference buffer, where `b` is the chip in which it has counted. -/
theorem Chip.dmaAck_linear (ha : (vget c.dma ch).active = true) (hr : (vget c.dma ch).ref = none) :
    let d := vget c.dma ch
    let b := c.modDma ch Dma.acks
    c.dmaAck ch = if (d.st == .draining) = true then
        if d.acks.drained = true then (b.dmaIdle ch).retireDrains ch St.ok (d.acks.bytes.setWidth 64) else b
      else if d.llen ≠ 0 ∧ 16 * d.wr = d.llen.toNat then (b.dmaIdle ch).dmaEvent ch 0 3 else b := by
  intro d b
  have hb : vget (c.modDma ch Dma.acks).dma ch = d.acks := vget_vmod_same ..
  unfold Chip.dmaAck
  simp only [ha, Bool.not_true, Bool.false_eq_true, if_false, Chip.ackWords_linear hr, hb]
  rfl

/-- The acknowledge of the last word of a running channel (R394). -/
theorem Chip.dmaAck_last (hs : (vget c.dma ch).st = .running) (hr : (vget c.dma ch).ref = none)
    (hlen : (vget c.dma ch).llen ≠ 0) (hlast : 16 * (vget c.dma ch).wr = (vget c.dma ch).llen.toNat) :
    let d := vget c.dma ch
    let e := c.dmaAck ch
    c.keeps [.dma, .credits, .flags] e ∧ e.credits = c.credits + d.credits ∧
      vget e.dma ch = { d.acks with
        credits := 0, st := .idle, gen := d.gen + 1, last := if d.corr then St.corrected else St.ok
        evt := d.evt ||| bitW 0 true } := by
  intro d e
  obtain ⟨b, hb⟩ : ∃ b, b = c.modDma ch Dma.acks := ⟨_, rfl⟩
  have hbd : vget b.dma ch = d.acks := by rw [hb]; exact vget_vmod_same ..
  have hbk : c.keeps [.dma] b := hb ▸ c.modDma_keeps _ _
  obtain ⟨hidle, hcredits, hd⟩ := b.dmaIdle_spec ch
  obtain ⟨hev, hx⟩ := (b.dmaIdle ch).dmaEvent_spec ch 0 3
  have he : e = (b.dmaIdle ch).dmaEvent ch 0 3 := by
    have hruns : ¬ ((vget c.dma ch).st == .draining) = true := by rw [hs]; decide
    rw [hb]
    exact (Chip.dmaAck_linear (by rw [Dma.active, hs]; rfl) hr).trans ((if_neg hruns).trans (if_pos ⟨hlen, hlast⟩))
  rw [he]
  refine ⟨(hbk.mono (by decide)).trans ((hidle.mono (by decide)).trans (hev.mono (by decide))), ?_, ?_⟩
  · rw [show ((b.dmaIdle ch).dmaEvent ch 0 3).credits = (b.dmaIdle ch).credits from hev .credits (by decide), hcredits, hbd,
      show b.credits = c.credits from hbk .credits (by decide)]
    rfl
  · rw [hx, hd, hbd]
    rfl

/-- That of the last word of a drain (R404, R410). -/
theorem Chip.dmaAck_drained (hs : (vget c.dma ch).st = .draining) (hr : (vget c.dma ch).ref = none)
    (hbuf : (vget c.dma ch).buf = []) (hfail : (vget c.dma ch).fail = none) (hd : c.noDrain) :
    let d := vget c.dma ch
    let e := c.dmaAck ch
    c.keeps [.dma, .credits] e ∧ vget e.dma ch = { d.acks with
      credits := 0, st := .idle, gen := d.gen + 1, last := if d.corr then St.corrected else St.ok } := by
  intro d e
  obtain ⟨b, hb⟩ : ∃ b, b = c.modDma ch Dma.acks := ⟨_, rfl⟩
  have hbd : vget b.dma ch = d.acks := by rw [hb]; exact vget_vmod_same ..
  have hbk : c.keeps [.dma] b := hb ▸ c.modDma_keeps _ _
  obtain ⟨hidle, -, hi⟩ := b.dmaIdle_spec ch
  have hk : c.keeps [.dma, .credits] (b.dmaIdle ch) := (hbk.mono (by decide)).trans hidle
  have he : e = b.dmaIdle ch := by
    have hempty : d.acks.drained = true := by simp [Dma.drained, Dma.acks, d, hbuf, hfail]
    have hdrains : ((vget c.dma ch).st == .draining) = true := by rw [hs]; rfl
    refine (Chip.dmaAck_linear (by rw [Dma.active, hs]; rfl) hr).trans ((if_pos hdrains).trans ((if_pos hempty).trans ?_))
    rw [← hb]
    exact (hd.keeps hk (by decide)).retireDrains ch _ _
  rw [he]
  exact ⟨hk, by rw [hi, hbd]; rfl⟩

/-- One in the middle of a transfer. -/
theorem Chip.dmaAck_middle (hs : (vget c.dma ch).st = .running) (hr : (vget c.dma ch).ref = none)
    (hlast : 16 * (vget c.dma ch).wr ≠ (vget c.dma ch).llen.toNat) : c.dmaAck ch = c.modDma ch Dma.acks := by
  have hruns : ¬ ((vget c.dma ch).st == .draining) = true := by rw [hs]; decide
  exact (Chip.dmaAck_linear (by rw [Dma.active, hs]; rfl) hr).trans ((if_neg hruns).trans (if_neg fun h => hlast h.2))

theorem Dma.acks_linear {d : Dma} (h : d.ref = none) : d.acks = { d with
    acked := d.wr, bytes := satAdd d.bytes (16 * (d.wr - d.acked)), pos := BitVec.ofNat 32 (16 * d.wr) } := by
  simp only [Dma.acks, Dma.posAt, h]

/-! #### Retries -/

/-- The channel as a retry of its failed transaction begins (R407). -/
def Dma.retrying (d : Dma) : Dma :=
  { d with evt := d.evt ||| bitW 4 true, retries := satAdd d.retries 1, tries := d.tries + 1, fail := none }

/-- A retry, where `b` is the chip in which it has been counted. -/
theorem Chip.dmaRetried_eq {die : Die} {ok : Bool} {st : Byte} {a : Word} (ha : (vget c.dma ch).active = true)
    (hf : (vget c.dma ch).fail = some (st, a)) :
    let d := vget c.dma ch
    ∃ b, c.keeps [.dma] b ∧ vget b.dma ch = d.retrying ∧
      c.dmaRetried die ch ok = if ok then Chip.dmaTried die ch d.failW
          (if d.failW then b.dmaPut die ch d.writeLen else b.dmaGet die ch (d.credits - d.buf.length))
        else b.dmaFail die ch st a.toNat d.failW := by
  intro d
  refine ⟨(c.setDmaEvt ch 4).modDma ch fun x =>
    { x with retries := satAdd x.retries 1, tries := x.tries + 1, fail := none }, ?_, ?_, ?_⟩
  · intro p hp
    cases p <;> first | rfl | exact absurd hp (by decide)
  · rw [Chip.modDma, vget_vmod_same, Chip.setDmaEvt, vget_vmod_same]
    rfl
  · simp only [Chip.dmaRetried, hf, ha]
    cases ok <;> rfl

/-- A read's retry that goes through reads the words its burst still holds credits for. -/
theorem Chip.dmaRetried_read {die : Die} {st : Byte} {a : Word} (ha : (vget c.dma ch).active = true)
    (hf : (vget c.dma ch).fail = some (st, a)) (hread : (vget c.dma ch).failW = false)
    (h : c.goodSource (vget c.dma ch) ((vget c.dma ch).credits - (vget c.dma ch).buf.length)) :
    let d := vget c.dma ch
    let n := d.credits - d.buf.length
    let e := c.dmaRetried die ch true
    c.keeps [.dma] e ∧ ∃ chk rdbytes capPos, vget e.dma ch = { d.retrying with
      tries := 0, rd := d.rd + n, chk := chk, rdbytes := rdbytes, capPos := capPos
      buf := d.buf ++ (List.range n).map fun i => c.getWord (d.srcAddr d.rd + 16 * i) } := by
  intro d n e
  obtain ⟨b, hbk, hbd, hretried⟩ := Chip.dmaRetried_eq (die := die) (ok := true) ha hf
  have hword (a : Nat) : b.getWord a = c.getWord a := by
    unfold Chip.getWord; rw [show b.mem = c.mem from hbk .mem (by decide)]
  have hgood : b.goodSource (vget b.dma ch) n := by
    rw [hbd]
    refine ⟨h.linear, h.plain, h.first, h.last, h.aligned, fun i hi => ?_⟩
    unfold Chip.eccAt
    rw [show b.ecc = c.ecc from hbk .ecc (by decide)]
    exact h.checks i hi
  obtain ⟨g, hget, hk, -, chk, rdbytes, capPos, hg⟩ := Chip.dmaGet_good (die := die) hgood
  have he : e = g.modDma ch fun d => { d with tries := 0 } := by
    refine hretried.trans ?_
    simp only [hread, Bool.false_eq_true, if_false, if_true]
    exact congrArg (Chip.dmaTried die ch false) hget
  simp only [hword, hbd] at hg
  refine ⟨he ▸ hbk.trans (hk.trans (Chip.modDma_keeps _ _ _)), chk, rdbytes, capPos, ?_⟩
  rw [he, Chip.modDma, vget_vmod_same, hg]
  rfl

/-- A write's retry of one good word that goes through writes it. -/
theorem Chip.dmaRetried_write {die : Die} {st : Byte} {x : Word} {w : QWord} {r : List QWord}
    (ha : (vget c.dma ch).active = true) (hf : (vget c.dma ch).fail = some (st, x)) (hwrite : (vget c.dma ch).failW = true)
    (hbuf : (vget c.dma ch).buf = w :: r) (hchk : (vget c.dma ch).chk.headD 0 = 0) (hlen : (vget c.dma ch).writeLen = 1)
    (hal : (vget c.dma ch).dstAddr (vget c.dma ch).wr % 16 = 0)
    (hlo : 0x10000000 ≤ (vget c.dma ch).dstAddr (vget c.dma ch).wr)
    (hhi : (vget c.dma ch).dstAddr (vget c.dma ch).wr < 0x10100000) :
    let d := vget c.dma ch
    let a := d.dstAddr d.wr
    let e := c.dmaRetried die ch true
    c.keeps [.dma, .credits, .mem, .ecc] e ∧ e.getWord a = w ∧ sameOutside 0 c.mem e.mem a 16 ∧
      vget e.dma ch = { d.retrying with
        tries := 0, buf := r, chk := d.chk.tail, wr := d.wr + 1, credits := d.credits - 1 } := by
  intro d a e
  obtain ⟨b, hbk, hbd, hretried⟩ := Chip.dmaRetried_eq (die := die) (ok := true) ha hf
  obtain ⟨g, hput, hk, hword, -, hout, hd, -⟩ := Chip.dmaPut_word (c := b) (ch := ch) (die := die) (w := w) (r := r)
    (by rw [hbd]; exact hbuf) (by rw [hbd]; exact hchk) (by rw [hbd]; exact hal) (by rw [hbd]; exact hlo) (by rw [hbd]; exact hhi)
  rw [hbd] at hword hout hd
  have he : e = g.modDma ch fun d => { d with tries := 0 } := by
    refine hretried.trans ?_
    simp only [hwrite, hlen, if_true]
    exact congrArg (Chip.dmaTried die ch true) hput
  rw [he]
  refine ⟨(hbk.mono (by decide)).trans (hk.trans ((Chip.modDma_keeps _ _ _).mono (by decide))), hword, ?_, ?_⟩
  · rw [show b.mem = c.mem from hbk .mem (by decide)] at hout
    exact hout
  · rw [Chip.modDma, vget_vmod_same, hd]
    rfl

/-- A bus error is tried again within the limit of its channel (R407). -/
theorem Chip.dmaRetried_fails {die : Die} {a : Word} (ha : (vget c.dma ch).active = true)
    (hf : (vget c.dma ch).fail = some (St.busErr, a)) (hn : (vget c.dma ch).tries + 1 < field (vget c.dma ch).lcfg 17 3) :
    let d := vget c.dma ch
    let e := c.dmaRetried die ch false
    c.keeps [.dma] e ∧ vget e.dma ch = { d.retrying with fail := some (St.busErr, a), failW := d.failW } := by
  intro d e
  obtain ⟨b, hbk, hbd, hretried⟩ := Chip.dmaRetried_eq (die := die) (ok := false) ha hf
  have hbus : ¬ (St.busErr = St.locked ∨ St.busErr = St.eccUncorr) := by decide
  have hlimit : ¬ field (vget b.dma ch).lcfg 17 3 ≤ (vget b.dma ch).tries := by rw [hbd]; exact Nat.not_le.2 hn
  have he : e = b.modDma ch fun x => { x with fail := some (St.busErr, a), failW := d.failW } := by
    refine hretried.trans ?_
    rw [if_neg (by decide), Chip.dmaFail, if_neg hbus, if_neg hlimit, BitVec.ofNat_toNat, BitVec.setWidth_eq]
  rw [he]
  refine ⟨hbk.trans (Chip.modDma_keeps _ _ _), ?_⟩
  rw [Chip.modDma, vget_vmod_same, hbd]

/-- After the last retry the channel halts with BUS_ERR (R407). -/
theorem Chip.dmaRetried_halts {die : Die} {a : Word} (ha : (vget c.dma ch).active = true)
    (hf : (vget c.dma ch).fail = some (St.busErr, a)) (hn : field (vget c.dma ch).lcfg 17 3 ≤ (vget c.dma ch).tries + 1)
    (hw : (vget c.dma ch).failW = true ∨ (vget c.dma ch).buf = []) (hd : c.noDrain) :
    let d := vget c.dma ch
    let e := c.dmaRetried die ch false
    c.keeps [.dma, .credits, .flags] e ∧ ∃ x, vget e.dma ch = { d.retrying.acks.halt St.busErr a.toNat with
      evt := d.retrying.evt ||| x ||| bitW 1 true, credits := 0 } := by
  intro d e
  obtain ⟨b, hbk, hbd, hretried⟩ := Chip.dmaRetried_eq (die := die) (ok := false) ha hf
  have hbus : ¬ (St.busErr = St.locked ∨ St.busErr = St.eccUncorr) := by decide
  have hlimit : field (vget b.dma ch).lcfg 17 3 ≤ (vget b.dma ch).tries := by rw [hbd]; exact hn
  have he : e = b.dmaHalt die ch St.busErr a.toNat d.failW := by
    refine hretried.trans ?_
    rw [if_neg (by decide), Chip.dmaFail, if_neg hbus, if_pos hlimit]
  obtain ⟨hk, x, hx⟩ := Chip.dmaHalt_spec (c := b) (ch := ch) (die := die) (st := St.busErr) (a := a.toNat)
    (hd.keeps hbk (by decide)) (write := d.failW) (by rw [hbd]; exact hw)
  rw [he]
  exact ⟨(hbk.mono (by decide)).trans hk, x, by rw [hx, hbd]⟩

theorem Chip.dmaRetried_none {die : Die} {ok : Bool} (hf : (vget c.dma ch).fail = none) : c.dmaRetried die ch ok = c := by
  simp only [Chip.dmaRetried, hf]

end

/-! #### The rows -/

section
variable {ch : BitVec 4} {s : State}

theorem dmaRow_runs {g : Die → Chip → Chip} (hon : s.chip.endSwitch.coreOn = true) (hch : ch.toNat < 12) :
    dmaRow ch s g = .next { s with chip := g s.die s.chip.endSwitch } := by
  simp only [dmaRow, onChip, inFlight, hon, hch, decide_true, Bool.and_self, if_true]

variable (hon : s.chip.endSwitch.coreOn = true) (hch : ch.toNat < 12)
include hon hch

theorem exec_dmaReadBurst_turn (h : turnOf s.chip.endSwitch.rdTurn s.chip.endSwitch.dmaReady = some ch.toNat) :
    exec (.dmaReadBurst ch) s = .next { s with chip := s.chip.endSwitch.dmaRead s.die ch.toNat } := by
  change execDmaReadBurst ch s = _
  simp only [execDmaReadBurst, dmaRow_runs hon hch, if_pos h]

theorem exec_dmaReadBurst_idle (h : turnOf s.chip.endSwitch.rdTurn s.chip.endSwitch.dmaReady ≠ some ch.toNat) :
    exec (.dmaReadBurst ch) s = .next { s with chip := s.chip.endSwitch } := by
  change execDmaReadBurst ch s = _
  simp only [execDmaReadBurst, dmaRow_runs hon hch, if_neg h]

theorem exec_dmaWriteBurst_turn (h : turnOf s.chip.endSwitch.wrTurn s.chip.endSwitch.dmaHolds = some ch.toNat) :
    exec (.dmaWriteBurst ch) s = .next { s with chip := s.chip.endSwitch.dmaWrite s.die ch.toNat } := by
  change execDmaWriteBurst ch s = _
  simp only [execDmaWriteBurst, dmaRow_runs hon hch, if_pos h]

theorem exec_dmaWriteBurst_idle (h : turnOf s.chip.endSwitch.wrTurn s.chip.endSwitch.dmaHolds ≠ some ch.toNat) :
    exec (.dmaWriteBurst ch) s = .next { s with chip := s.chip.endSwitch } := by
  change execDmaWriteBurst ch s = _
  simp only [execDmaWriteBurst, dmaRow_runs hon hch, if_neg h]

theorem exec_dmaWriteAck : exec (.dmaWriteAck ch) s = .next { s with chip := s.chip.endSwitch.dmaAck ch.toNat } :=
  dmaRow_runs (g := fun _ c => c.dmaAck ch.toNat) hon hch

theorem exec_dmaRetry (ok : Bool) :
    exec (.dmaRetry ch ok) s = .next { s with chip := s.chip.endSwitch.dmaRetried s.die ch.toNat ok } :=
  dmaRow_runs (g := fun die c => c.dmaRetried die ch.toNat ok) hon hch

end

/-- An event bit that is set stands. -/
theorem getLsbD_raised (v : Word) {n : Nat} (hn : n < 32) : (v ||| bitW n true).getLsbD n = true := by
  simp [getLsbD_bitW _ _ hn]

/-- Settles O21: a burst is the words that it reads or writes, an acknowledge the counts and then the end it comes to, a retry
the transaction again. -/
theorem dmaEnginesMoveWords : Obligations.DmaEnginesMoveWords := by
  unfold Obligations.DmaEnginesMoveWords
  constructor
  · intro ch s u c hon hch d n
    refine ⟨?read, exec_dmaReadBurst_idle hon hch, ?write, ?uncorrectable, exec_dmaWriteBurst_idle hon hch⟩
    case read =>
      intro hturn hlin hplain hfirst hlast hal hchk
      obtain ⟨hk, hcredits, hrd, hothers, hword⟩ :=
        Chip.dmaRead_good (die := s.die) (turnOf_may hturn) ⟨hlin, hplain, hfirst, hlast, hal, hchk⟩
      refine ⟨_, exec_dmaReadBurst_turn hon hch hturn, State.keeps_chip hk, hcredits, hrd, fun k hlt hne => ?_, hword⟩
      exact hothers k (by rwa [Nat.mod_eq_of_lt hlt, Nat.mod_eq_of_lt hch])
    case write =>
      intro w r hturn hbuf hchk hlen hal hlo hhi
      obtain ⟨hk, hrest⟩ := Chip.dmaWrite_word (die := s.die) (turnOf_may hturn) hbuf hchk hlen hal hlo hhi
      exact ⟨_, exec_dmaWriteBurst_turn hon hch hturn, State.keeps_chip hk, hrest⟩
    case uncorrectable =>
      intro w r hturn hbuf hchk hlen hd
      obtain ⟨hk, hrest⟩ := Chip.dmaWrite_uncorrectable (die := s.die) (turnOf_may hturn) hbuf hchk hlen hd
      exact ⟨_, exec_dmaWriteBurst_turn hon hch hturn, State.keeps_chip hk, hrest⟩
  · intro ch s u c hon hch d y noDrain tried
    have hack := exec_dmaWriteAck hon hch
    have hretry := exec_dmaRetry hon hch
    refine ⟨?last, ?drained, ?middle, fun ha a hf => ⟨?readAgain, ?writeAgain, ?waits, ?halts⟩, fun hf ok => ?quiet⟩
    case last =>
      intro hs hr hlen hlast _
      obtain ⟨hk, hcredits, hd⟩ := Chip.dmaAck_last hs hr hlen hlast
      refine ⟨_, hack, State.keeps_chip hk, ?_⟩
      rw [show y _ = _ from hd]
      exact ⟨rfl, rfl, rfl, getLsbD_raised _ (by decide), rfl, hcredits⟩
    case drained =>
      intro hs hr hbuf hfail hdrain
      obtain ⟨hk, hd⟩ := Chip.dmaAck_drained hs hr hbuf hfail hdrain
      refine ⟨_, hack, State.keeps_chip hk, ?_⟩
      rw [show y _ = _ from hd]
      exact ⟨rfl, rfl, rfl, rfl⟩
    case middle =>
      intro hs hr hlast
      rw [Chip.dmaAck_middle hs hr hlast] at hack
      exact ⟨_, hack, State.keeps_chip (Chip.modDma_keeps _ _ _), (vget_vmod_same ..).trans (Dma.acks_linear hr)⟩
    case readAgain =>
      intro hread hlin hplain n hfirst hlast hal hchk
      obtain ⟨hk, chk, rdbytes, capPos, hd⟩ :=
        Chip.dmaRetried_read (die := s.die) ha hf hread ⟨hlin, hplain, hfirst, hlast, hal, hchk⟩
      refine ⟨_, hretry true, State.keeps_chip hk, ?_⟩
      rw [show y _ = _ from hd]
      exact ⟨⟨rfl, getLsbD_raised _ (by decide)⟩, rfl, rfl, rfl, rfl, rfl, rfl⟩
    case writeAgain =>
      intro w r hwrite hbuf hchk hlen hal hlo hhi
      obtain ⟨hk, hword, hout, hd⟩ := Chip.dmaRetried_write (die := s.die) ha hf hwrite hbuf hchk hlen hal hlo hhi
      refine ⟨_, hretry true, State.keeps_chip hk, ?_⟩
      rw [show y _ = _ from hd]
      exact ⟨⟨rfl, getLsbD_raised _ (by decide)⟩, rfl, rfl, rfl, rfl, rfl, hword, hout⟩
    case waits =>
      intro hn
      obtain ⟨hk, hd⟩ := Chip.dmaRetried_fails (die := s.die) ha hf hn
      refine ⟨_, hretry false, State.keeps_chip hk, ?_⟩
      rw [show y _ = _ from hd]
      exact ⟨⟨rfl, getLsbD_raised _ (by decide)⟩, rfl, rfl, rfl⟩
    case halts =>
      intro hn hw hdrain
      obtain ⟨hk, x, hd⟩ := Chip.dmaRetried_halts (die := s.die) ha hf hn hw hdrain
      refine ⟨_, hretry false, State.keeps_chip hk, ?_⟩
      rw [show y _ = _ from hd]
      have hretries : (d.evt ||| bitW 4 true ||| x ||| bitW 1 true).getLsbD 4 = true := by
        rw [BitVec.getLsbD_or, BitVec.getLsbD_or, getLsbD_raised _ (by decide), Bool.true_or, Bool.true_or]
      exact ⟨⟨rfl, hretries⟩, rfl, rfl, by simp [Dma.halt], getLsbD_raised _ (by decide)⟩
    case quiet =>
      rw [hretry ok, Chip.dmaRetried_none hf]

end Sys2Proof.Machine
end

section
namespace Sys2Proof.Machine

/-! ### PERS.ACTIVATE (R131, R305 to R308) -/

/-! #### The writer taken last (R36, R175) -/

section
variable {o : OpInfo} {body : Body} {q : Queue} {f : Insn} {s : State} {b e : Chip} {st : Byte} {res : DWord}

theorem Chip.describe_keeps (c old : Chip) (info : BitVec 32) : c.keeps [.lic] (c.describe old info) := by
  intro p hp
  cases p <;> first | rfl | exact absurd hp (by decide)

theorem Chip.keeps_lic {ps : List Part} (c : Chip) (lic : Lic) (h : Part.lic ∈ ps) : c.keeps ps { c with lic := lic } := by
  intro p hp
  cases p <;> first | rfl | exact absurd h hp

/-- The records of a body that ends find the writer: none waits for an entry, or none could free one. -/
def Chip.writerFree (b e : Chip) : Prop := e.lic.wait.length ≤ b.lic.wait.length ∨ b.lic.general = 0

theorem takeWriter_free {code : Byte} {t r : BitVec 64} (h : b.writerFree e) :
    (Done.done st res e).takeWriter b q code t r = .done st res e := by
  have hstuck : (decide (b.lic.wait.length < e.lic.wait.length) && decide (0 < b.lic.general)) = false := by
    rcases h with h | h
    · simp [Nat.not_lt.2 h]
    · simp [h]
  simp only [Done.takeWriter, hstuck, Bool.false_and, Bool.false_eq_true, if_false]

/-- An instruction other than those of R133 whose records find the writer ends with its effect and its records told of it. -/
theorem insn_done_free (h : s.chip.issuesAs o q f b) (hu : changesUnits o.code = false)
    (hb : body q f s.die b = .done st res e) (hw : b.writerFree e) :
    ∃ t, insn o body q f s = .next t ∧ Completes q f st res b.lt s (e.describe b (insnInfo q o.code f.tag st)) t := by
  refine ⟨_, insn_issues h, ?_⟩
  unfold runBody
  rw [hb, takeWriter_free hw]
  simp only [Done.noting, hu, Bool.not_false, Bool.or_true, if_true, Done.describe, Chip.finish]
  exact completes_retire

/-- One whose records do not find it waits for the writer, and has changed nothing. -/
theorem insn_done_stuck (h : s.chip.issuesAs o q f b) (hu : changesUnits o.code = false)
    (hcode : o.code ≠ 0x70 ∧ o.code ≠ 0x81 ∧ o.code ≠ 0x83) (hb : body q f s.die b = .done st res e)
    (hwait : b.lic.wait.length < e.lic.wait.length) (hgen : 0 < b.lic.general) :
    ∃ t, insn o body q f s = .next t ∧ Waits q o.code f .licWriter 0 0 s b t := by
  obtain ⟨hgo, hcommit, hcommitAt⟩ := hcode
  have hkeep : b.keepPort q o.code = b := by
    simp only [Chip.keepPort, beq_eq_false_iff_ne.2 hcommit, beq_eq_false_iff_ne.2 hcommitAt, Bool.or_self, Bool.false_and,
      Bool.false_eq_true, if_false]
  have hmark : b.writerMark q o.code f = 0 := by
    simp only [Chip.writerMark, beq_eq_false_iff_ne.2 hcommitAt, Bool.false_and, Bool.false_eq_true, if_false]
  have hfirst : (Done.done st res e).takeWriter b q o.code 0 0 = .wait .licWriter 0 0 b := by
    have hstuck : (decide (b.lic.wait.length < e.lic.wait.length) && decide (0 < b.lic.general)) = true := by
      simp [hwait, hgen]
    simp only [Done.takeWriter, hstuck, bne_iff_ne.2 hgo, hkeep, Bool.true_or, Bool.and_self, if_true]
  refine ⟨_, insn_issues h, ?_⟩
  unfold runBody
  rw [hb, hmark, hfirst]
  simp only [Done.noting, hu, Bool.not_false, Bool.or_true, if_true, Done.describe, Chip.finish]
  exact waits_begin

end

/-! #### The checks of R305 -/

section
variable {c : Chip}

/-- Every unit of a vector meets a test, by number. -/
theorem toList_any_false {α : Type} {n : Nat} [NeZero n] (v : Vector α n) (p : α → Bool) :
    v.toList.any p = false ↔ ∀ i, i < n → p (vget v i) = false := by
  simp only [List.any_eq_false, Vector.mem_toList_iff, Bool.not_eq_true]
  constructor
  · intro h i hi
    exact h _ (Vector.getElem_mem _)
  · intro h x hx
    obtain ⟨i, hi, rfl⟩ := Vector.mem_iff_getElem.1 hx
    have := h i hi
    simpa [vget, Nat.mod_eq_of_lt hi] using this

theorem maskList_all (m : Word) (p : Nat → Bool) :
    (maskList m).all p = true ↔ ∀ n, n < 32 → m.getLsbD n = true → p n = true := by
  simp only [maskList, List.all_eq_true, List.mem_filter, List.mem_range, and_imp]

theorem Chip.anyClaim_false (c : Chip) :
    c.anyClaim = false ↔ ∀ n, n < 32 → (vget c.fronds n).claim = none ∧ (vget c.cams n).claim = none := by
  unfold Chip.anyClaim
  rw [Bool.or_eq_false_iff, toList_any_false, toList_any_false]
  simp only [Option.isSome_eq_false_iff, Option.isNone_iff_eq_none]
  exact ⟨fun h n hn => ⟨h.1 n hn, h.2 n hn⟩, fun h => ⟨fun n hn => (h n hn).1, fun n hn => (h n hn).2⟩⟩

theorem queues_any_false (c : Chip) (p : QState → Bool) :
    c.eng.queues.toList.any p = false ↔ ∀ k, p (c.queue k) = false := by
  rw [toList_any_false]
  exact ⟨fun h k => h k.val k.isLt, fun h i hi => h ⟨i, hi⟩⟩

/-- A queue in which no swap waits for its position or a context. -/
theorem swapWaits_false (x : QState) :
    (match x.wait with | some w => w.code == 0x25 && w.kind != .fence | none => false) = false ↔
      ∀ w, x.wait = some w → w.code = 0x25 → w.kind = .fence := by
  cases x.wait with
  | none => simp
  | some w => simp

/-- No claim, no routine and no swap that waits for its position or a context: R305's BUSY does not hold. -/
theorem Chip.actBusy_false (c : Chip) : c.actBusy = false ↔
    (∀ n, n < 32 → (vget c.fronds n).claim = none ∧ (vget c.cams n).claim = none) ∧
      ∀ k, (c.queue k).calls = [] ∧ ∀ w, (c.queue k).wait = some w → w.code = 0x25 → w.kind = .fence := by
  have hcalls : c.inRoutine = false ↔ ∀ k, (c.queue k).calls = [] := by
    unfold Chip.inRoutine
    rw [queues_any_false]
    simp only [Bool.not_eq_false', List.isEmpty_iff]
  unfold Chip.actBusy
  rw [Bool.or_eq_false_iff, Bool.or_eq_false_iff, Chip.anyClaim_false, hcalls, queues_any_false]
  constructor
  · rintro ⟨⟨hclaim, hcall⟩, hwait⟩
    exact ⟨hclaim, fun k => ⟨hcall k, (swapWaits_false _).1 (hwait k)⟩⟩
  · rintro ⟨hclaim, hq⟩
    exact ⟨⟨hclaim, fun k => (hq k).1⟩, fun k => (swapWaits_false _).2 (hq k).2⟩

/-- The checks of R305 pass one by one. -/
theorem Chip.actCheck_none (c : Chip) (src : Src) (sg : Staged) : c.actCheck src sg = none ↔
    (sg.verified = true ∧ (∀ n, n < 32 → (vget c.fronds n).shadowOk = true) ∧
      ∀ n, n < 32 → sg.cams.getLsbD n = true → (vget c.cams n).shadowOk = true) ∧
    c.actBusy = false ∧ c.sec.locks.getLsbD 0 = false ∧
    (c.sec.locks.getLsbD 1 = true → ∀ e, e ∈ sg.regs → e.1 ≠ 0x00010004) ∧ ∀ e, e ∈ sg.rout → c.bpRange e.1 = false := by
  have hshadows : c.allFronds 0xFFFFFFFF (·.shadowOk) = true ↔ ∀ n, n < 32 → (vget c.fronds n).shadowOk = true := by
    unfold Chip.allFronds
    rw [maskList_all]
    have hbit : ∀ n, n < 32 → (0xFFFFFFFF : Word).getLsbD n = true := by decide
    exact ⟨fun h n hn => h n hn (hbit n hn), fun h n hn _ => h n hn⟩
  have hregs : (sg.regs.any fun e => e.1 == 0x00010004) = false ↔ ∀ e, e ∈ sg.regs → e.1 ≠ 0x00010004 := by
    simp only [List.any_eq_false, beq_iff_eq, ne_eq]
  have hrout : (sg.rout.find? fun e => c.bpRange e.1) = none ↔ ∀ e, e ∈ sg.rout → c.bpRange e.1 = false := by
    simp only [List.find?_eq_none, Bool.not_eq_true]
  rw [← hshadows, ← maskList_all sg.cams, ← hrout, ← hregs]
  unfold Chip.actCheck Chip.fabricLocked
  generalize (sg.regs.any fun e => e.1 == 0x00010004) = regs
  by_cases hill : sg.verified = true ∧ c.allFronds 0xFFFFFFFF (·.shadowOk) = true ∧
      ((maskList sg.cams).all fun n => (vget c.cams n).shadowOk) = true
  · obtain ⟨hv, hf, hk⟩ := hill
    simp only [hv, hf, hk, Bool.not_true, Bool.or_self, Bool.false_eq_true, if_false, true_and, and_self]
    cases c.actBusy with
    | true => simp
    | false =>
      cases c.sec.locks.getLsbD 0 with
      | true => simp
      | false =>
        cases hrow : (c.sec.locks.getLsbD 1 && regs) with
        | true => simp_all
        | false =>
          have himp : c.sec.locks.getLsbD 1 = true → regs = false := fun h => by simpa [h] using hrow
          cases sg.rout.find? (fun e => c.bpRange e.1) with
          | none => exact iff_of_true rfl ⟨rfl, rfl, himp, rfl⟩
          | some e => simp
  · rw [if_pos (by simpa only [Bool.or_eq_true, Bool.not_eq_true', ← Bool.not_eq_true, ← not_and_or, and_assoc] using hill)]
    exact iff_of_false (by simp) fun h => hill h.1

end

/-! #### The stores that begin with an activation (R174, R308) -/

theorem Chip.logCorrect_keeps (c : Chip) (a : Nat) : c.keeps [.nvs] (c.logCorrect a) := by
  intro p hp
  unfold Chip.logCorrect
  split <;> cases p <;> first | rfl | exact absurd hp (by decide)

theorem Chip.poisonWord_keeps (c : Chip) (a how : Nat) : c.keeps [.nvs, .ecc, .lic] (c.poisonWord a how) := by
  intro p hp
  unfold Chip.poisonWord
  dsimp only
  split <;> cases p <;> first | rfl | exact absurd hp (by decide)

theorem Chip.scrubPages_keeps (c : Chip) (pages : List Nat) : c.keeps [.nvs, .ecc, .lic] (c.scrubPages pages) := by
  unfold Chip.scrubPages
  refine keeps_foldl (fun c a => ?_) _ c
  have hecc : c.keeps [.ecc] (c.setEcc a 0) := by
    intro p hp
    cases p <;> first | rfl | exact absurd hp (by decide)
  split
  · exact (hecc.mono (by decide)).trans ((Chip.logCorrect_keeps _ a).mono (by decide))
  · exact c.poisonWord_keeps a 2
  · exact Chip.keeps.refl _ c

theorem Chip.readCtr_keeps (c : Chip) (k : Nat) : c.keeps [.nvs] (c.readCtr k).2 := by
  intro p hp
  unfold Chip.readCtr
  dsimp only
  split <;> cases p <;> first | rfl | exact absurd hp (by decide)

theorem Chip.snapshot_keeps (c : Chip) (kind : BitVec 3) (pages ctrs : List Nat) (q : Option Queue) (k : Option (Fin 4)) :
    c.keeps [.nvs, .ecc, .lic] (c.snapshot kind pages ctrs q k) := by
  have hread : c.keeps [.nvs, .ecc, .lic] ((bitList (listBits 64 ctrs) 64).foldl (fun c n => (c.readCtr n).2)
      (c.scrubPages (bitList (listBits 1088 pages) 1088))) :=
    (Chip.scrubPages_keeps c _).trans (keeps_foldl (fun c n => (c.readCtr_keeps n).mono (by decide)) _ _)
  refine hread.trans ?_
  intro p hp
  cases p <;> first | rfl | exact absurd hp (by decide)

theorem Chip.startStore_keeps (c : Chip) (q : Queue) : c.keeps [.nvs, .ecc, .lic, .queues, .nvQ] (c.startStore q) := by
  unfold Chip.startStore
  dsimp only
  generalize hd : ({ c.modQ q.val _ with eng := _ } : Chip) = d
  have hport : c.keeps [.nvs, .ecc, .lic, .queues, .nvQ] d := by
    subst hd
    intro p hp
    cases p <;> first | rfl | exact absurd hp (by decide)
  split
  · exact hport
  · exact hport.trans ((Chip.snapshot_keeps _ _ _ _ _ _).mono (by decide))

theorem Chip.startStores_keeps (n : Nat) (c : Chip) : c.keeps [.nvs, .ecc, .lic, .queues, .nvQ] (c.startStores n) := by
  induction n generalizing c with
  | zero => exact Chip.keeps.refl _ c
  | succ n ih =>
    unfold Chip.startStores
    split
    · exact (c.startStore_keeps _).trans (ih _)
    · exact Chip.keeps.refl _ c

theorem Chip.claimPort_keeps (c : Chip) : c.keeps [.nvQ] c.claimPort := by
  intro p hp
  unfold Chip.claimPort
  repeat' split
  all_goals cases p <;> first | rfl | exact absurd hp (by decide)

/-- The stores that begin leave the loader, but for the pages that the store of an activation still has to take. -/
theorem Chip.startPosted_prs (c : Chip) : ∃ pages, c.startPosted.prs = { c.prs with rtPages := pages } := by
  have hprs : ((c.startStores 8).claimPort).prs = c.prs :=
    (((c.startStores_keeps 8).mono (by decide)).trans ((Chip.claimPort_keeps _).mono (by decide)) :
      c.keeps [.nvs, .ecc, .lic, .queues, .nvQ] _) .prs (by decide)
  unfold Chip.startPosted Chip.startActStore
  rw [← hprs]
  split
  · refine ⟨[], ?_⟩
    rw [show (Chip.snapshot _ 3 _ _ _ _).prs = _ from Chip.snapshot_keeps _ _ _ _ _ _ .prs (by decide)]
  · exact ⟨_, rfl⟩

/-! #### The last edge (cc m + 3 of Table PRS-8) -/

/-- The staged personality taken: what the loader and the IRP hold once the entries of a stream are applied. -/
def Chip.handOver (c : Chip) (s : Staged) : Chip :=
  { c with
    prs := { c.prs with
      ldr := .user
      actSlot := some s.slot
      actId := s.persId
      actBuild := s.build
      actVars := s.variants
      actSealed := s.sealed
      actVmac := s.vmac
      rtPages := (c.prs.rtPages ++ (s.rout.map fun (e : Nat × Byte) => (e.1 - 0x30000000) / 256)).dedup
      rtStore := c.prs.rtStore || !s.rout.isEmpty
      staged := none }
    scr := { c.scr with irpEn := s.irp.getLsbD 7, irpMast := s.irp.setWidth 5, hush := true } }

theorem Chip.handOver_keeps (c : Chip) (s : Staged) : c.keeps [.prs, .scr] (c.handOver s) := by
  intro p hp
  cases p <;> first | rfl | exact absurd hp (by decide)

/-- The fronds of a stream's mask placed in RUN and the hold of R57 ended or begun. -/
def Chip.runEdge (c : Chip) (s : Staged) : Chip :=
  let run := (c.handOver s).placeFronds s.runMask .run
  c.onceGen (c.settle (if !s.release then run.holdPins else run.releasePins))

/-- The event and the record of an activation. -/
def Chip.tellActivation (c : Chip) (s : Staged) : Chip :=
  (c.setPrsEvt 2).record 0x0002 9 (if s.slot then 1 else 0)
    (ctxAt 32 s.persId.toNat ||| ctxAt 36 s.build.toNat ||| ctxAt 40 (if s.release then 1 else 0))

/-- The chip of an activation before its last edge: the planes swapped, routine words and register entries applied. -/
def Chip.regsApplied (c : Chip) (die : Die) (s : Staged) : Chip :=
  s.regs.foldl (fun (c : Chip) e => c.regInit die e) ((c.onceGen (c.actEdge s)).putRoutine s.rout)

/-- An activation is its register entries, its last edge, its record and the stores it begins. -/
theorem Chip.activate_eq (c : Chip) (die : Die) (s : Staged) :
    c.activate die s = (((c.regsApplied die s).runEdge s).tellActivation s).startPosted := rfl

theorem Chip.runEdge_prs (c : Chip) (s : Staged) : (c.runEdge s).prs = (c.handOver s).prs :=
  Chip.actRun_keeps c (c.handOver s) s.runMask (!s.release) .prs (by decide)

/-- What the loader holds after an activation, whatever the stream's entries did. -/
theorem Chip.activate_prs (c : Chip) (die : Die) (s : Staged) :
    (c.activate die s).prs.ldr = .user ∧ (c.activate die s).prs.actSlot = some s.slot ∧
      (c.activate die s).prs.actId = s.persId ∧ (c.activate die s).prs.actBuild = s.build ∧
      (c.activate die s).prs.staged = none := by
  rw [Chip.activate_eq]
  generalize c.regsApplied die s = d
  obtain ⟨pages, hstart⟩ := Chip.startPosted_prs ((d.runEdge s).tellActivation s)
  have htell : ((d.runEdge s).tellActivation s).prs = { (d.handOver s).prs with evt := (d.runEdge s).prs.evt ||| bitW 2 true } := by
    rw [← d.runEdge_prs s]
    rfl
  rw [hstart, htell]
  exact ⟨rfl, rfl, rfl, rfl, rfl⟩

/-! #### Units after the edges -/

theorem genOnce_succ (g : BitVec 16) : genOnce g (g + 1) = g + 1 := by
  unfold genOnce
  rw [if_neg (by simp)]

theorem genOnce_self (g : BitVec 16) : genOnce g g = g := if_pos rfl

/-- Changing the fronds of a list changes each of its fronds once. -/
theorem vget_foldl_modFrond (f : Frond → Frond) {i : Nat} (hi : i < 32) (l : List Nat) (hl : l.Nodup)
    (hlt : ∀ n, n ∈ l → n < 32) (c : Chip) :
    vget (l.foldl (fun c n => c.modFrond n f) c).fronds i =
      if i ∈ l then f (vget c.fronds i) else vget c.fronds i := by
  induction l generalizing c with
  | nil => simp
  | cons n r ih =>
    obtain ⟨hn, hr⟩ := List.nodup_cons.1 hl
    have hmod : (n % 32 = i % 32) ↔ i = n := by have := hlt n (by simp); omega
    rw [List.foldl_cons, ih hr fun x hx => hlt x (by simp [hx])]
    simp only [Chip.modFrond, vget_vmod, hmod, List.mem_cons]
    by_cases h : i = n
    · simp [h, hn]
    · simp [h]

/-- Seating flip-flops changes flip-flops alone. -/
theorem Chip.vget_seatInit (ns : List Nat) (i : Nat) (c : Chip) :
    ∃ ff, vget (c.seatInit ns).fronds i = { vget c.fronds i with ff := ff } := by
  unfold Chip.seatInit
  induction ns generalizing c with
  | nil => exact ⟨_, rfl⟩
  | cons n r ih =>
    obtain ⟨ff, hff⟩ := ih (c.modFrond n fun f => { f with ff := c.initBits n })
    rw [List.foldl_cons, hff]
    simp only [Chip.modFrond, vget_vmod]
    split
    · exact ⟨_, rfl⟩
    · exact ⟨_, rfl⟩

/-- A frond that its mask places in RUN. -/
theorem Chip.vget_placeFronds_run (c : Chip) (mask : Word) {i : Nat} (hi : i < 32) :
    ∃ ff, vget (c.placeFronds mask .run).fronds i =
      if (c.changing mask .run).getLsbD i then
        { vget c.fronds i with st := .run, gen := (vget c.fronds i).gen + 1, ff := ff }
      else { vget c.fronds i with ff := ff } := by
  have hmem : i ∈ maskList (c.changing mask .run) ↔ (c.changing mask .run).getLsbD i = true := by
    simp [maskList, hi]
  have hlist : (maskList (c.changing mask .run)).Nodup ∧ ∀ n, n ∈ maskList (c.changing mask .run) → n < 32 :=
    ⟨List.nodup_range.filter _, fun n hn => List.mem_range.1 (List.mem_filter.1 hn).1⟩
  unfold Chip.placeFronds
  simp only [beq_self_eq_true, if_true, show ∀ (d : Chip) m, (d.hushIrp m).fronds = d.fronds from
    fun d m => d.hushIrp_keeps m .fronds (by decide)]
  obtain ⟨ff, hff⟩ := Chip.vget_seatInit (maskList (c.changing mask .run)) i
    ((maskList (c.changing mask .run)).foldl (fun c n => c.modFrond n fun f => { f with st := .run, gen := f.gen + 1 }) c)
  refine ⟨ff, ?_⟩
  rw [hff, vget_foldl_modFrond _ hi _ hlist.1 hlist.2]
  simp only [hmem]
  split
  · rfl
  · rfl

@[simp] theorem forcePin_cfg (old new : Chip) (p : Nat) (pin : Pin) : (forcePin old new p pin).1.cfg = pin.cfg := by
  unfold forcePin
  dsimp only
  repeat' split
  all_goals rfl

/-- Settling forces leaves every configuration. -/
theorem Chip.settle_cfg (old new : Chip) {p : Nat} (hp : p < 192) :
    (vget (old.settle new).pins p).cfg = (vget new.pins p).cfg := by
  have hpins : (old.settle new).pins = vmapi (fun p pin => (forcePin old new p pin).1) new.pins := by
    unfold Chip.settle
    dsimp only
    split
    · rfl
    · rfl
  rw [hpins, vget_vmapi _ _ hp, forcePin_cfg]

theorem Chip.holdPins_cfg (c : Chip) {p : Nat} (hp : p < 192) : (vget c.holdPins.pins p).cfg = (vget c.pins p).cfg := by
  unfold Chip.holdPins
  rw [vget_vmapi _ _ hp]

theorem Chip.releasePins_cfg (c : Chip) {p : Nat} (hp : p < 192) :
    (vget c.releasePins.pins p).cfg = (vget c.pins p).cfg := by
  unfold Chip.releasePins
  split
  · rw [vget_vmapi _ _ hp]
  · rfl

/-! #### The swap (cc2 of Table PRS-8) -/

section
variable (c : Chip) (s : Staged) {n : Nat}

theorem Chip.swapEdge_frond (hn : n < 32) :
    vget (c.onceGen (c.actEdge s)).fronds n = (vget c.fronds n).activate := by
  have hstage : c.cancelStage.fronds = c.fronds := c.cancelStage_keeps .fronds (by decide)
  unfold Chip.actEdge Chip.onceGen
  dsimp only
  rw [vget_vmapi _ _ hn, show (Chip.settle _ _).fronds = _ from Chip.settle_keeps _ _ .fronds (by decide)]
  dsimp only
  rw [vget_vmapi _ _ hn, hstage]
  simp only [Frond.activate, genOnce_succ]

theorem Chip.swapEdge_cam (hn : n < 32) :
    (vget (c.onceGen (c.actEdge s)).cams n).armed = false ∧
      (vget (c.onceGen (c.actEdge s)).cams n).tabOk = s.cams.getLsbD n := by
  unfold Chip.actEdge Chip.onceGen
  dsimp only
  rw [vget_vmapi _ _ hn, show (Chip.settle _ _).cams = _ from Chip.settle_keeps _ _ .cams (by decide)]
  dsimp only
  rw [vget_vmapi _ _ hn]
  exact ⟨rfl, rfl⟩

theorem Chip.swapEdge_cfg (hn : n < 192) : (vget (c.onceGen (c.actEdge s)).pins n).cfg = 0x00004000 := by
  unfold Chip.actEdge Chip.onceGen
  dsimp only
  rw [Chip.settle_cfg _ _ hn]
  dsimp only
  rw [vget_vmapi _ _ hn]
  rfl

/-- A frond after the last edge: in RUN when the stream says so and it may. -/
theorem Chip.runEdge_frond (hn : n < 32) (hst : (vget c.fronds n).st = .safe) (hok : (vget c.fronds n).activeOk = true)
    (hcheck : (vget c.fronds n).check ≠ 3) :
    let x := vget c.fronds n
    ∃ ff, vget (c.runEdge s).fronds n = { x with
      st := if s.runMask.getLsbD n then .run else .safe
      gen := x.gen + (if s.runMask.getLsbD n then 1 else 0)
      ff := ff } := by
  have hhand : (c.handOver s).fronds = c.fronds := rfl
  have hbit : ((c.handOver s).changing s.runMask .run).getLsbD n = s.runMask.getLsbD n := by
    rw [Chip.getLsbD_changing _ _ _ hn, hhand, hst, hok, bne_iff_ne.2 hcheck]
    simp
  obtain ⟨ff, hff⟩ := Chip.vget_placeFronds_run (c.handOver s) s.runMask hn
  have hhold : (c.runEdge s).fronds = vmapi (fun n f => { f with gen := genOnce (vget c.fronds n).gen f.gen })
      ((c.handOver s).placeFronds s.runMask .run).fronds := by
    unfold Chip.runEdge Chip.onceGen
    dsimp only
    rw [show (Chip.settle _ _).fronds = _ from Chip.settle_keeps _ _ .fronds (by decide)]
    split
    · rw [Chip.holdPins_keeps _ .fronds (by decide)]
    · rw [Chip.releasePins_keeps _ .fronds (by decide)]
  refine ⟨ff, ?_⟩
  rw [hhold, vget_vmapi _ _ hn, hff, hbit, hhand]
  cases s.runMask.getLsbD n with
  | true => simp only [if_true, genOnce_succ]
  | false => simp [genOnce_self, hst]

theorem Chip.runEdge_cam (hn : n < 32) :
    (vget (c.runEdge s).cams n).armed = (vget c.cams n).armed ∧ (vget (c.runEdge s).cams n).tabOk = (vget c.cams n).tabOk := by
  have hcams : (c.runEdge s).cams = vmapi (fun n k => { k with gen := genOnce (vget c.cams n).gen k.gen }) c.cams := by
    unfold Chip.runEdge Chip.onceGen
    dsimp only
    rw [show (Chip.settle _ _).cams = _ from Chip.settle_keeps _ _ .cams (by decide)]
    split
    · rw [Chip.holdPins_keeps _ .cams (by decide), Chip.placeFronds_keeps _ _ _ .cams (by decide)]; rfl
    · rw [Chip.releasePins_keeps _ .cams (by decide), Chip.placeFronds_keeps _ _ _ .cams (by decide)]; rfl
  rw [hcams, vget_vmapi _ _ hn]
  exact ⟨rfl, rfl⟩

theorem Chip.runEdge_cfg (hn : n < 192) : (vget (c.runEdge s).pins n).cfg = (vget c.pins n).cfg := by
  have hpins : ((c.handOver s).placeFronds s.runMask .run).pins = c.pins :=
    (Chip.placeFronds_keeps _ _ _ .pins (by decide)).trans (c.handOver_keeps s .pins (by decide))
  unfold Chip.runEdge Chip.onceGen
  dsimp only
  rw [Chip.settle_cfg _ _ hn]
  split
  · rw [Chip.holdPins_cfg _ hn, hpins]
  · rw [Chip.releasePins_cfg _ hn, hpins]

theorem Chip.runEdge_irpEn : (c.runEdge s).scr.irpEn = s.irp.getLsbD 7 := by
  have hscr : (c.runEdge s).scr = ((c.handOver s).placeFronds s.runMask .run).scr := by
    unfold Chip.runEdge Chip.onceGen
    dsimp only
    rw [show (Chip.settle _ _).scr = _ from Chip.settle_keeps _ _ .scr (by decide)]
    split
    · exact Chip.holdPins_keeps _ .scr (by decide)
    · exact Chip.releasePins_keeps _ .scr (by decide)
  rw [hscr, show Chip.scr _ = _ from Chip.placeFronds_hushes (c.handOver s) s.runMask .run]
  rfl

theorem Chip.runEdge_keeps : c.keeps [.fronds, .cams, .pins, .banks, .edg, .scr, .prs] (c.runEdge s) :=
  ((c.handOver_keeps s).mono (by decide)).trans ((Chip.actRun_keeps c (c.handOver s) s.runMask (!s.release)).mono (by decide))

theorem Chip.tellActivation_keeps : c.keeps [.prs, .lic] (c.tellActivation s) := by
  intro p hp
  cases p <;> first | rfl | exact absurd hp (by decide)

theorem Chip.swapEdge_keeps : c.keeps [.fronds, .cams, .pins, .banks, .edg, .scr] (c.onceGen (c.actEdge s)) :=
  (Chip.actEdge_keeps c s).trans ((Chip.onceGen_keeps c _).mono (by decide))

end

/-! #### A stream without register entries and routine words, while no store is due -/

/-- The activation of a stream that holds planes and tables alone. -/
structure Chip.plainActivation (c : Chip) (s : Staged) : Prop where
  regs : s.regs = []
  rout : s.rout = []
  rtStore : c.prs.rtStore = false
  posted : ∀ k, (c.queue k).posted = false

section
variable {c : Chip} {s : Staged} (die : Die)

theorem Chip.plainActivation.eq (h : c.plainActivation s) :
    c.activate die s = ((c.onceGen (c.actEdge s)).runEdge s).tellActivation s := by
  have hregs : c.regsApplied die s = c.onceGen (c.actEdge s) := by
    unfold Chip.regsApplied Chip.putRoutine
    rw [h.regs, h.rout]
    rfl
  rw [Chip.activate_eq, hregs]
  have hqueues : (((c.onceGen (c.actEdge s)).runEdge s).tellActivation s).eng.queues = c.eng.queues :=
    ((Chip.tellActivation_keeps _ s .queues (by decide)).trans (Chip.runEdge_keeps _ s .queues (by decide))).trans
      (c.swapEdge_keeps s .queues (by decide))
  refine Chip.startPosted_none (fun k => ?_) ?_
  · rw [Chip.queue_congr hqueues k]
    exact h.posted k
  · show ((c.onceGen (c.actEdge s)).runEdge s).prs.rtStore = false
    rw [Chip.runEdge_prs]
    show ((c.onceGen (c.actEdge s)).prs.rtStore || !s.rout.isEmpty) = false
    rw [show (c.onceGen (c.actEdge s)).prs = c.prs from c.swapEdge_keeps s .prs (by decide), h.rtStore, h.rout]
    rfl

theorem Chip.plainActivation.keeps (h : c.plainActivation s) :
    c.keeps [.fronds, .cams, .pins, .banks, .edg, .scr, .prs, .lic] (c.activate die s) := by
  rw [h.eq]
  exact (((c.swapEdge_keeps s).mono (by decide)).trans ((Chip.runEdge_keeps _ s).mono (by decide))).trans
    ((Chip.tellActivation_keeps _ s).mono (by decide))

theorem Chip.plainActivation.evt (h : c.plainActivation s) : (c.activate die s).prs.evt.getLsbD 2 = true := by
  rw [h.eq]
  show (_ ||| bitW 2 true : Word).getLsbD 2 = true
  rw [BitVec.getLsbD_or, getLsbD_bitW _ _ (by decide)]
  simp

theorem Chip.plainActivation.irpEn (h : c.plainActivation s) : (c.activate die s).scr.irpEn = s.irp.getLsbD 7 := by
  rw [h.eq]
  exact Chip.runEdge_irpEn _ s

theorem Chip.plainActivation.frond (h : c.plainActivation s) {n : Nat} (hn : n < 32) :
    let x := vget c.fronds n
    let y := vget (c.activate die s).fronds n
    y.plane = !x.plane ∧ y.golden = x.shadowSig ∧ y.activeOk = true ∧
      y.gen = x.gen + 1 + (if s.runMask.getLsbD n then 1 else 0) ∧ y.st = (if s.runMask.getLsbD n then .run else .safe) := by
  have hswap := c.swapEdge_frond s hn
  obtain ⟨ff, hff⟩ := Chip.runEdge_frond (c.onceGen (c.actEdge s)) s hn (by rw [hswap]; rfl) (by rw [hswap]; rfl)
    (by rw [hswap]; exact (by decide : (0 : BitVec 2) ≠ 3))
  rw [h.eq, show (Chip.tellActivation _ s).fronds = _ from Chip.tellActivation_keeps _ s .fronds (by decide)]
  dsimp only
  rw [hff, hswap]
  exact ⟨rfl, rfl, rfl, rfl, rfl⟩

theorem Chip.plainActivation.cam (h : c.plainActivation s) {n : Nat} (hn : n < 32) :
    (vget (c.activate die s).cams n).armed = false ∧ (vget (c.activate die s).cams n).tabOk = s.cams.getLsbD n := by
  rw [h.eq, show (Chip.tellActivation _ s).cams = _ from Chip.tellActivation_keeps _ s .cams (by decide),
    (Chip.runEdge_cam _ s hn).1, (Chip.runEdge_cam _ s hn).2]
  exact c.swapEdge_cam s hn

theorem Chip.plainActivation.cfg (h : c.plainActivation s) {p : Nat} (hp : p < 192) :
    (vget (c.activate die s).pins p).cfg = 0x00004000 := by
  rw [h.eq, show (Chip.tellActivation _ s).pins = _ from Chip.tellActivation_keeps _ s .pins (by decide),
    Chip.runEdge_cfg _ s hp]
  exact c.swapEdge_cfg s hp

/-- It gives the recorder one record. -/
theorem Chip.plainActivation.record (h : c.plainActivation s) (hroom : c.lic.room = true) :
    ∃ r, c.oneRecord (c.activate die s) r ∧ r.cause = 0x0002 ∧ r.info = 0 := by
  obtain ⟨r, hentry, hcause, hinfo, hlic⟩ := Chip.activate_lic (die := die) h.regs h.rout h.posted h.rtStore
  exact ⟨r, by rw [Chip.oneRecord, hlic, Lic.give_room hroom hentry], hcause, hinfo⟩

end

/-! #### The instruction, by what its checks answer -/

section
variable {q : Queue} {f : Insn} {s : State} {b : Chip} {sg : Staged}

theorem persActivateBody_unstaged {die : Die} (h : b.prs.staged = none) :
    persActivateBody q f die b = .done St.illegal 0 b := by
  unfold persActivateBody
  rw [h]
  rfl

theorem persActivateBody_refused {die : Die} (h : b.prs.staged = some sg) {st : Byte} {x : Chip}
    (hc : b.actCheck (Src.ofQueue q) sg = some (st, x)) : persActivateBody q f die b = .done st 0 x := by
  unfold persActivateBody
  simp only [h, hc]
  rfl

theorem persActivateBody_passed {die : Die} (h : b.prs.staged = some sg) (hc : b.actCheck (Src.ofQueue q) sg = none) :
    persActivateBody q f die b = .done St.ok (if sg.slot then 1 else 0) (b.activate die sg) := by
  unfold persActivateBody
  simp only [h, hc]

/-- A stream that is not verified is no staged personality (R305). -/
theorem Chip.actCheck_unverified (src : Src) (h : sg.verified = false) : b.actCheck src sg = some (St.illegal, b) := by
  unfold Chip.actCheck
  simp [h]

/-- An activation whose records find the writer. -/
theorem persActivate_completes (h : s.chip.issuesAs Op.persActivate q f b) (hsg : b.prs.staged = some sg)
    (hc : b.actCheck (Src.ofQueue q) sg = none) (hw : b.writerFree (b.activate s.die sg)) :
    ∃ t e, exec (.persActivate q f) s = .next t ∧ Completes q f St.ok (if sg.slot then 1 else 0) b.lt s e t ∧
      (b.activate s.die sg).keeps [.lic] e ∧ e.prs.ldr = .user ∧ e.prs.actSlot = some sg.slot ∧
      e.prs.actId = sg.persId ∧ e.prs.actBuild = sg.build ∧ e.prs.staged = none := by
  obtain ⟨t, ht, hcomp⟩ := insn_done_free h rfl (persActivateBody_passed hsg hc) hw
  exact ⟨t, _, ht, hcomp, Chip.describe_keeps _ _ _, b.activate_prs s.die sg⟩

/-- An activation of planes and tables alone adds one record and changes what it swaps. -/
theorem persActivate_plain (h : s.chip.issuesAs Op.persActivate q f b) (hsg : b.prs.staged = some sg)
    (hc : b.actCheck (Src.ofQueue q) sg = none) (hp : b.plainActivation sg) (hroom : b.lic.room = true) :
    ∃ t r lic, exec (.persActivate q f) s = .next t ∧
      Completes q f St.ok (if sg.slot then 1 else 0) b.lt s { b.activate s.die sg with lic := lic } t ∧
      b.oneRecord { b.activate s.die sg with lic := lic } r ∧ r.cause = 0x0002 := by
  obtain ⟨r, hone, hcause, hinfo⟩ := hp.record s.die hroom
  obtain ⟨t, ht, hcomp⟩ := insn_done_record h (persActivateBody_passed hsg hc) hone hinfo
  exact ⟨t, _, _, ht, hcomp, rfl, hcause⟩

end

/-- Settles O25: the checks of R305 one by one, then the activation as its swap, its entries and its last edge. -/
theorem activationSwapsEverything : Obligations.ActivationSwapsEverything := by
  unfold Obligations.ActivationSwapsEverything
  intro q f s b h
  refine ⟨fun hnone => insn_done h (persActivateBody_unstaged hnone) ⟨rfl, rfl⟩, fun sg hsg => ?_⟩
  intro checked
  have hiff : b.actCheck (Src.ofQueue q) sg = none ↔ checked := by
    rw [Chip.actCheck_none, Chip.actBusy_false]
    constructor
    · rintro ⟨⟨hv, hf, hk⟩, ⟨hclaim, hq⟩, h0, h1, hrout⟩
      exact ⟨hv, fun n hn => ⟨hf n hn, (hclaim n hn).1, (hclaim n hn).2, hk n hn⟩, hq, h0, h1, hrout⟩
    · rintro ⟨hv, hunits, hq, h0, h1, hrout⟩
      refine ⟨⟨hv, fun n hn => (hunits n hn).1, fun n hn => ?_⟩, ⟨fun n hn => ?_, hq⟩, h0, h1, hrout⟩
      · obtain ⟨-, -, -, hk⟩ := hunits n hn
        exact hk
      · obtain ⟨-, hfrond, hcam, -⟩ := hunits n hn
        exact ⟨hfrond, hcam⟩
  refine ⟨hiff, fun hok hgen => ?_, fun hv => ?_, fun st x hx hw => ?_, fun hc => ⟨fun hw => ?_, fun hwait hgen => ?_⟩,
    fun hc hregs hrout hstore hposted hroom => ?_⟩
  · obtain ⟨t, e, ht, hcomp, -, hprs⟩ := persActivate_completes h hsg (hiff.2 hok) (.inr hgen)
    exact ⟨t, e, ht, hcomp, hprs⟩
  · exact insn_done h (persActivateBody_refused hsg (Chip.actCheck_unverified _ hv)) ⟨rfl, rfl⟩
  · obtain ⟨t, ht, hcomp⟩ := insn_done_free h rfl (persActivateBody_refused hsg hx) (.inl hw)
    exact ⟨t, _, ht, hcomp, Chip.describe_keeps _ _ _, fun hn => Chip.describe_none hn⟩
  · obtain ⟨t, e, ht, hcomp, hkeeps, hldr, hslot, hid, -, hstaged⟩ := persActivate_completes h hsg hc hw
    exact ⟨t, e, ht, hcomp, hkeeps, hldr, hslot, hid, hstaged⟩
  · exact insn_done_stuck h rfl (by decide) (persActivateBody_passed hsg hc) hwait hgen
  · have hp : b.plainActivation sg := ⟨hregs, hrout, hstore, hposted⟩
    obtain ⟨t, r, lic, ht, hcomp, hone, hcause⟩ := persActivate_plain h hsg hc hp hroom
    obtain ⟨hldr, hslot, hid, hbuild, hstaged⟩ := b.activate_prs s.die sg
    have hkeeps : b.keeps [.fronds, .cams, .pins, .banks, .edg, .scr, .prs, .lic] { b.activate s.die sg with lic := lic } :=
      (hp.keeps s.die).trans (Chip.keeps_lic _ lic (by decide))
    refine ⟨t, _, r, ht, hcomp, hkeeps, hone, hcause, hldr, hslot, hid, hbuild, hstaged, hp.evt s.die, hp.irpEn s.die,
      fun n hn => ?_, fun p hpin => hp.cfg s.die hpin⟩
    obtain ⟨hplane, hgolden, hactive, hgen, hst⟩ := hp.frond s.die hn
    exact ⟨hplane, hgolden, hactive, hgen, hst, hp.cam s.die hn⟩

end Sys2Proof.Machine
end

section
namespace Sys2Proof.Machine

/-! ### What comes before a body (R54, R146, R154, R155) -/

/-- With no switch of the clock in flight, the row of every instruction gives its queue the word of the instruction. -/
theorem exec_insn?_row {i : Instr} {q : Queue} {o : OpInfo} {f : Insn} {s : State} (hi : i.insn? = some (q, o, f))
    (hsw : s.chip.clk.switch = none) :
    ∃ body, exec i s = .next { s with chip := runInsn o q f s.die body s.chip } := by
  have hrow (o : OpInfo) (body : Body) (q : Queue) (f : Insn) :
      insn o body q f s = .next { s with chip := runInsn o q f s.die body s.chip } := by
    simp only [insn, onChip, inFlight, Chip.endSwitch_none hsw]
  have hforce : s.chip.beforeForce = s.chip := by simp only [Chip.beforeForce, hsw]
  cases i
  case clkForce q' f' =>
    cases hi
    exact ⟨clkForceBody, by
      change execClkForce _ _ _ = _
      simp only [execClkForce, inFlight, hforce]⟩
  all_goals cases hi
  all_goals exact ⟨_, hrow _ _ _ _⟩

/-- A word taken while the engine runs issues. -/
theorem runInsn_yes {o : OpInfo} {q : Queue} {f : Insn} {die : Die} {body : Body} {b c : Chip} (hon : b.engineOn = true)
    (ht : b.take q (encodeWord o.code f) = .yes c) : runInsn o q f die body b = c.issue o q f die body := by
  have hcore : b.coreOn = true := ((Bool.and_eq_true _ _).mp hon).1
  simp [runInsn, hcore, hon, ht]

section
variable {o : OpInfo} {q : Queue} {f : Insn} {die : Die} {body : Body} {c : Chip}

theorem Chip.issue_chained (h : (c.queue q).chain = true) : c.issue o q f die body = c.retire q f St.aborted 0 := by
  simp [Chip.issue, h]

theorem Chip.issue_fenced (h : (c.queue q).chain = false) (hf : c.fenced q o.code f = true) :
    c.issue o q f die body = c.beginWait q o.code f .fence 0 0 := by
  simp [Chip.issue, h, hf]

theorem Chip.issue_refused {st : Byte} (h : (c.queue q).chain = false) (hf : c.fenced q o.code f = false)
    (hp : (c.begun q).precheck o q f = some st) : c.issue o q f die body = (c.begun q).retire q f st 0 := by
  unfold Chip.begun at hp ⊢
  simp [Chip.issue, h, hf, hp]

@[simp] theorem Chip.begun_txnOf (c : Chip) (q : Queue) : (c.begun q).txnOf q = c.txnOf q := by
  simp [Chip.begun, Chip.txnOf]

theorem Chip.precheck_unnamed (h : o.named f = false) : c.precheck o q f = some St.illegal := by
  simp [Chip.precheck, h]

theorem Chip.precheck_notPermitted (h : o.named f = true)
    (hp : o.permits q = false ∨ (q = 5 ∧ o.code = 0x11 ∧ q5May f = false)) : c.precheck o q f = some St.priv := by
  rcases hp with hp | ⟨rfl, hc, hm⟩
  · simp [Chip.precheck, h, hp]
  · simp [Chip.precheck, h, hc, hm]

theorem Chip.precheck_tx (h : o.named f = true)
    (hp : ¬ (o.permits q = false ∨ (q = 5 ∧ o.code = 0x11 ∧ q5May f = false))) (htx : f.tx = true)
    (hx : o.tx = false ∨ c.txnOf q = none) : c.precheck o q f = some St.illegal := by
  have hmay : (!o.permits q || (decide (q = 5) && o.code == 0x11 && !q5May f)) = false := by
    simpa [and_assoc] using hp
  have hno : (f.tx && (!o.tx || (c.txnOf q).isNone)) = true := by
    simpa [htx] using hx
  simp only [Chip.precheck, h, hmay, hno, Bool.not_true, Bool.false_eq_true, if_false, if_true]

end

/-- Settles O5: every row issues the word it gives (`exec_insn?_row`), and each check stops it before its body. -/
theorem checksComeBeforeTheEffect : Obligations.ChecksComeBeforeTheEffect := by
  unfold Obligations.ChecksComeBeforeTheEffect
  constructor
  · intro i q o f s c hi hsw hon ht
    obtain ⟨body, hx⟩ := exec_insn?_row hi hsw
    rw [runInsn_yes hon ht] at hx
    have hends {st : Byte} (hg : (c.queue q).chain = false ∧ c.fenced q o.code f = false)
        (hp : (c.begun q).precheck o q f = some st) :
        ∃ t, exec i s = .next t ∧ Completes q f st 0 c.lt s (c.begun q) t :=
      ⟨_, hx.trans (by rw [Chip.issue_refused hg.1 hg.2 hp]), completes_retire_now (e := c.begun q)⟩
    refine ⟨fun hch => ?chain, fun hch hf => ?fence, fun hg hn => ?named, fun hg hn hp => ?permits,
      fun hg hn hp htx hnone => ?tx⟩
    case chain => exact ⟨_, hx.trans (by rw [Chip.issue_chained hch]), completes_retire_now⟩
    case fence => exact ⟨_, hx.trans (by rw [Chip.issue_fenced hch hf]), waits_begin⟩
    case named => exact hends hg (Chip.precheck_unnamed hn)
    case permits => exact hends hg (Chip.precheck_notPermitted hn hp)
    case tx => exact hends hg (Chip.precheck_tx hn hp htx (by rwa [Chip.begun_txnOf]))
  · intro i q o f s hi hsw hoff
    obtain ⟨body, hx⟩ := exec_insn?_row hi hsw
    simpa [runInsn, hoff] using hx

end Sys2Proof.Machine
end

section
namespace Sys2Proof.Machine

/-! ### Runs of the model, for refutations -/

/-- The state that a command leaves. -/
def State.after (s : State) (i : Instr) : State := match exec i s with | .next t => t | _ => s

theorem State.after_eq {s t : State} {i : Instr} (h : exec i s = .next t) : s.after i = t := by
  simp only [State.after, h]

/-- The state that commands leave, one after the other, of a part that has just been reset. -/
def State.afterAll (l : List Instr) : State := l.foldl State.after State.reset

/-- The state after one step. -/
def State.next (s : State) : State := match step s with | .next t => t | _ => s

theorem State.next_eq {s t : State} (h : step s = .next t) : s.next = t := by
  simp only [State.next, h]

/-! ### The island moves to LCLK as the PLL locks (R63) -/

/-- The crystal has stopped in step 1 of start-up, and then the CDR has locked. -/
def lineWithoutCrystal : State := .afterAll [.powerGood, .xtalLoss, .cdrLock]

theorem lineWithoutCrystal_meets :
    lineWithoutCrystal.chip.endSwitch.pwr.pgood = true ∧ lineWithoutCrystal.chip.endSwitch.clk.cdrLock = true ∧
      lineWithoutCrystal.chip.endSwitch.clk.onLclk = false := by decide +kernel

/-- With the crystal stopped, the island runs on LCLK from PLL_LOCK on. -/
theorem lineWithoutCrystal_pllLock : (lineWithoutCrystal.after .pllLock).chip.clk.onLclk = true := by decide +kernel

/-- Refutes O47: PLL_LOCK sets more of the clock unit than `pllLock` and `lclk`. Where the crystal has stopped, the island
moves to LCLK as it starts (R63), so `onLclk` changes too. The state is one that three commands reach from reset:
POWER_GOOD, XTAL_LOSS, CDR_LOCK. -/
theorem not_recoveredClockIsQualified : ¬ Obligations.RecoveredClockIsQualified := by
  unfold Obligations.RecoveredClockIsQualified
  rintro ⟨h, -⟩
  obtain ⟨hgood, hlock, hisland⟩ := lineWithoutCrystal_meets
  obtain ⟨-, -, -, -, hpll, -⟩ := h lineWithoutCrystal hgood
  obtain ⟨t, ht, -, hclk⟩ := hpll hlock
  have hsame : t.chip.clk.onLclk = false := (congrArg Clk.onLclk hclk).trans hisland
  rw [← State.after_eq ht, lineWithoutCrystal_pllLock] at hsame
  exact absurd hsame (by decide)

/-! ### A clock loss before the restore (R376, R385) -/

/-- The crystal has stopped in step 3 of start-up, with LCLK there for the island. -/
def crystalLost : State := .afterAll [.powerGood, .xtalOk 0, .cdrLock, .pllLock, .xtalLoss]

theorem crystalLost_meets :
    crystalLost.chip.endSwitch.pwr.pgood = true ∧ crystalLost.chip.endSwitch.pwr.step = 3 ∧
      crystalLost.chip.endSwitch.islandOn = true := by decide +kernel

/-- The record of the loss is the first of those that the restore leaves. -/
theorem crystalLost_licRestore :
    (crystalLost.after .licRestore).chip.lic.buf.head?.map (·.cause) = some 0x2102 := by decide +kernel

/-- Refutes O42: the power-on record need not be the first after LIC_RESTORE. The record of a crystal lost before the restore
comes from the clock-loss detector, and among records of one line time, which stands still in HOLD, such a record goes first
(R376). The state is one that five commands reach from reset: POWER_GOOD, XTAL_OK, CDR_LOCK, PLL_LOCK, XTAL_LOSS. -/
theorem not_startupStepsFollowEachOther : ¬ Obligations.StartupStepsFollowEachOther := by
  unfold Obligations.StartupStepsFollowEachOther
  intro h
  obtain ⟨hgood, hstep, hisland⟩ := crystalLost_meets
  replace h := h crystalLost
  dsimp only at h
  obtain ⟨-, -, hrestore, -⟩ := h
  obtain ⟨t, r, ht, -, -, -, hcause, hhead, -⟩ := hrestore hgood hstep hisland
  have hfirst := crystalLost_licRestore
  rw [State.after_eq ht, hhead, Option.map_some, hcause] at hfirst
  exact absurd hfirst (by decide)

/-! ### The core's term of INT_N as HOLD begins (Table FLT-9) -/

/-- A powered device in LINE whose engine asserts INT_N: ENG.EVT.timeout is set and enabled. -/
def interrupting : State :=
  ⟨[], Die.reset,
    { expectant with
      clk := { expectant.clk with st := .line, lineOk := true, cdrLock := true, pllLock := true, lclk := true }
      eng := { Eng.reset with evt := 2, inten := 2 } }⟩

theorem interrupting_meets :
    interrupting.chip.pwr.pgood = true ∧ interrupting.chip.pwr.step = 0 ∧ interrupting.chip.lic.free .clock = true ∧
      interrupting.chip.clk.switch = none ∧ interrupting.chip.clk.st = .line ∧ interrupting.chip.flt.intHeld = false := by
  decide +kernel

/-- As HOLD begins, the core's terms of INT_N freeze at their value. -/
theorem interrupting_lineLoss : (interrupting.after .lineLoss).chip.flt.intHeld = true := by decide +kernel

/-- Refutes O48: the loss of the running source changes more than the clock, the pins and their banks, the ports and the
recorder. The core's terms of INT_N freeze as HOLD begins (Table FLT-9), so `flt.intHeld` takes their value: in LINE with an
enabled event pending, a LINE_LOSS sets it. -/
theorem not_holdBeginsAndEnds : ¬ Obligations.HoldBeginsAndEnds := by
  unfold Obligations.HoldBeginsAndEnds
  rintro ⟨h, -⟩
  obtain ⟨hgood, hstep, hfree, hsw, hline, hclear⟩ := interrupting_meets
  obtain ⟨hnone, -, -⟩ := h interrupting hgood hstep hfree
  obtain ⟨t, ht, ⟨-, -, hkeeps⟩, -⟩ := (hnone hsw).1 hline
  have hflt : t.chip.flt = interrupting.chip.flt := hkeeps .flt (by decide)
  have hheld := interrupting_lineLoss
  rw [State.after_eq ht, hflt, hclear] at hheld
  exact absurd hheld (by decide)

/-! ### A CLK.SEL that has waited for a switch to end (R492) -/

/-- A CLK.SEL to a source, 1 crystal or 2 line, with its completion recorded. -/
def selectClock (target : DWord) : Insn :=
  { tx := false, fence := false, cmpl := true, chain := false, rsv := 0, tag := 0, ext := 0, tgt := 0, op := target }

/-- A queue in which one CLK.SEL stands. -/
def selecting (target : DWord) : QState :=
  { QState.reset with words := [encodeWord Op.clkSel.code (selectClock target)] }

/-- A powered device on the crystal, the line good: CLK.SEL to the line stands in Q0, CLK.SEL to the crystal in Q1. -/
def twoSelects : State :=
  ⟨[], Die.reset,
    { expectant with
      clk := { expectant.clk with st := .forced, lineOk := true, cdrLock := true, pllLock := true, lclk := true }
      eng := { Eng.reset with queues := vset (vset Eng.reset.queues 0 (selecting 2)) 1 (selecting 1) } }⟩

/-- Four clock periods later the switch that the CLK.SEL of Q0 has begun is in its last period. -/
def lastPeriod : State := State.next^[4] twoSelects

/-- The switch in its last period. -/
def lastOfSwitch : Switch := ⟨false, true, .line, 0x10, .forced, .queue 0, 1⟩

/-- The CLK.SEL of Q0 as it waits for its switch. -/
def selectWait : Wait := ⟨.switch, 0xB0, selectClock 2, 0, 0, 0⟩

theorem lastPeriod_meets :
    lastPeriod.pending = [] ∧ lastPeriod.chip.coreOn = true ∧ lastPeriod.chip.clk.switch = some lastOfSwitch ∧
      (∀ q, (lastPeriod.chip.queue q).words = [] ∧ (lastPeriod.chip.queue q).calls = []) ∧
      lastPeriod.chip.scr.irpEn = false ∧ lastPeriod.chip.scr.running = none ∧ lastPeriod.chip.stager = none ∧
      lastPeriod.chip.mgt.stretch = false ∧ (lastPeriod.chip.queue 0).wait = some selectWait := by
  decide +kernel

/-- The period that ends the switch begins that of the CLK.SEL of Q1, which has waited for it. -/
theorem lastPeriod_next : lastPeriod.next.chip.clk.switch.isSome = true := by decide +kernel

/-- Refutes O29: the last period of a glitch-free switch need not leave the clock without a switch. A CLK.SEL of the other
queue that has waited for it (R492) is judged in that period, and begins its own. The state is one that four clock periods
reach from words in Q0 and Q1. -/
theorem not_clockAndTimeInstructions : ¬ Obligations.ClockAndTimeInstructions := by
  unfold Obligations.ClockAndTimeInstructions
  rintro ⟨⟨-, h⟩, -⟩
  obtain ⟨hpend, hon, hsw, hempty, hirp, hrun, hstage, hstretch, hwait⟩ := lastPeriod_meets
  obtain ⟨-, hlast⟩ := h lastPeriod lastOfSwitch hpend hon hsw rfl hempty hirp hrun hstage hstretch
  obtain ⟨t, e, ht, hdone, -, hclk⟩ := hlast le_rfl 0 selectWait rfl hwait rfl
  have hnone : t.chip.clk.switch = none := (congrArg Clk.switch (hdone.frame .clk (by decide))).trans (congrArg Clk.switch hclk)
  have hsome := lastPeriod_next
  rw [State.next_eq ht, hnone] at hsome
  exact absurd hsome (by decide)

end Sys2Proof.Machine
end

section
namespace Sys2Proof.Machine

/-! ### Register words that a commit of Q5 writes at its position (R133, R171) -/

/-- A TXN.COMMIT.AT of position 5. -/
def commitAt5 : Insn :=
  { tx := false, fence := false, cmpl := true, chain := false, rsv := 0, tag := 0, ext := 0, tgt := 0, op := 5 }

/-- The register words staged: SYS.CFG, line time 0 applied, and to CLK.POLICY the value that it holds. -/
def stagedWords : List (Nat × Word) := [(0x00000004, 1), (0x0003002C, 1), (0x00010004, 0x0A06)]

/-- The context that stages them. -/
def stagedCtx : Ctx := { Ctx.reset with isOpen := true, owner := 5, waiting := true, regs := stagedWords }

/-- The commit as it waits for its position. -/
def commitWait : Wait := ⟨.position, 0x83, commitAt5, 5, 0, 5⟩

/-- Q5 waits with its commit at line time 64, the position reached; at line time 0 the data path has changed the clock. -/
def waitingCommit : State :=
  ⟨[], Die.reset,
    { expectant with
      clk := { expectant.clk with gen := 1 }
      lt := { LineTime.reset with ticks := 64 }
      pos := { Pos.reset with st := .tracking, p0 := 5 }
      eng := { Eng.reset with
        queues := vset Eng.reset.queues 5 { QState.reset with wait := some commitWait, txn := some 0 }
        ctxs := vset Eng.reset.ctxs 0 stagedCtx
        memo := ⟨0, [], 0, [⟨.clock, 0, 4, 0, commitAt5, 0x40⟩], 0⟩ } }⟩

/-- The chip with register words written one after the other. -/
def Chip.written (a : Chip) (die : Die) (q : Queue) (l : List (Nat × Word)) : Chip :=
  l.foldl (fun a w => (a.commitReg die q w.1 w.2).2) a

/-- The chip at the position. -/
def atCommit : Chip := waitingCommit.chip.endSwitch.advance 64

theorem waitingCommit_meets :
    waitingCommit.chip.endSwitch.coreOn = true ∧ (waitingCommit.chip.endSwitch.queue 5).wait = some commitWait ∧
      waitingCommit.chip.endSwitch.txnOf 5 = some 0 ∧
      vget waitingCommit.chip.endSwitch.eng.ctxs (0 : Fin 4).val = stagedCtx ∧ atCommit.moving = true ∧
      0 ≤ (atCommit.look.getD 0 - 5).toInt ∧ atCommit.claimsGood 0 = true ∧ atCommit.eng.memo.words = [] := by
  decide +kernel

/-- Written one after the other, the words complete OK and leave no record. -/
theorem stagedWords_ok :
    ((atCommit.written Die.reset 5 stagedWords).lic.buf = atCommit.lic.buf ∧
      (atCommit.written Die.reset 5 stagedWords).lic.wait = atCommit.lic.wait) ∧
    (∀ w, w ∈ stagedWords → (atCommit.writeReg Die.reset (Src.ofQueue 5) w.1 w.2).1 ≠ St.locked) ∧
    ∀ i, i < stagedWords.length → failed ((atCommit.written Die.reset 5 (stagedWords.take i)).commitReg Die.reset 5
      (stagedWords.getD i (0, 0)).1 (stagedWords.getD i (0, 0)).2).1 = false := by
  decide +kernel

/-- The write of CLK.POLICY leaves its page dirty. -/
theorem stagedWords_dirty : (atCommit.written Die.reset 5 stagedWords).nvs.dirtyP.getLsbD 1024 = true := by decide +kernel

/-- At the position the memo of the commit cc tells Q5 that the clock has changed, so CLK.POLICY is STALE and its page stays
clean (R133). -/
theorem waitingCommit_dirty :
    (waitingCommit.after (.positionReached 5 64)).chip.nvs.dirtyP.getLsbD 1024 = false := by decide +kernel

/-- Refutes O22: the clause of the TXN.COMMIT.AT that waits takes what the words write from the chip before the commit cc
opens its memo. In Q5, where the memo still names a change of the clock at line time 0 and the staged LT.CTRL word sets line
time to 0, the CLK.POLICY word that writes its own value is then OK and leaves its page dirty; in the commit cc, whose memo
holds the generation at its start, the same word is STALE (R133) and the page stays clean. The clause ranges over every
queue and state; Q5 may open no transaction (Table IMD-3), so no run reaches this one. -/
theorem not_transactionsOpenCommitAndAbort : ¬ Obligations.TransactionsOpenCommitAndAbort := by
  unfold Obligations.TransactionsOpenCommitAndAbort
  rintro ⟨-, h⟩
  obtain ⟨hon, hwait, htxn, hctx, hmoving, hpos, hclaims, hmemo⟩ := waitingCommit_meets
  obtain ⟨hrec, hlocked, hok⟩ := stagedWords_ok
  replace h := h 5 commitAt5 waitingCommit waitingCommit.chip 0
  dsimp only at h
  obtain ⟨-, -, -, -, -, -, -, -, -, h⟩ := h
  replace h := h commitWait 64 hon hwait rfl rfl htxn hmoving
  rw [hctx] at h
  obtain ⟨t, e, n, ht, hdone, ⟨-, hwords, -⟩, -⟩ := h (decide_eq_true hpos)
    ⟨rfl, rfl, rfl, hclaims, fun _ => .inl rfl, .inr ⟨rfl, rfl, rfl, hrec, hlocked, hok⟩⟩ hmemo
  have he : e.nvs = (atCommit.written Die.reset 5 stagedWords).nvs := (hwords rfl rfl rfl).1 .nvs (by decide)
  have ht' : t.chip.nvs = e.nvs := hdone.frame .nvs (by decide)
  have hclean := waitingCommit_dirty
  rw [State.after_eq ht, ht', he, stagedWords_dirty] at hclean
  exact absurd hclean (by decide)

end Sys2Proof.Machine
end

section
namespace Sys2Proof.Machine

/-! ### The ports of the links -/

theorem Chip.modPort_keeps (c : Chip) (p : Nat) (g : Port → Port) : c.keeps [.ports] (c.modPort p g) := by
  intro x hx
  cases x <;> first | rfl | exact absurd hx (by decide)

theorem Chip.setLnkEvt_keeps (c : Chip) (p n : Nat) : c.keeps [.ports] (c.setLnkEvt p n) := by
  intro x hx
  cases x <;> first | rfl | exact absurd hx (by decide)

theorem Chip.sendFrame_keeps (c : Chip) (p : Nat) (typ route : Byte) (payload : List Byte) :
    c.keeps [.ports] (c.sendFrame p typ route payload) := c.modPort_keeps p _

/-- A change of one port leaves the others. -/
theorem vget_ports_other (v : Vector Port 3) (g : Port → Port) {p k : Nat} (hp : p < 3) (hk : k < 3) (h : k ≠ p) :
    vget (vmod v p g) k = vget v k := vget_vmod_other v g (by omega)

/-- A step that leaves the recorder as it is gives it nothing. -/
theorem Chip.noRecord_of_keeps {b e : Chip} {ps : List Part} (h : b.keeps ps e) (hl : Part.lic ∉ ps) : b.noRecord e := by
  have hlic : e.lic = b.lic := h .lic hl
  exact ⟨congrArg Lic.buf hlic, congrArg Lic.wait hlic⟩

/-- A record on a chip whose recorder has room takes an entry. -/
theorem Chip.record_oneRecord {b e : Chip} {cause : BitVec 16} {cls idx : Nat} {x : BitVec 192} {info : BitVec 32}
    (hl : e.lic = b.lic) (hroom : b.lic.room = true) :
    b.oneRecord (e.record cause cls idx x info)
      ⟨.general, cause, BitVec.ofNat 8 cls, BitVec.ofNat 8 idx, e.lt.word, info, x⟩ := by
  unfold Chip.oneRecord
  rw [Chip.record_lic, hl]
  exact Lic.give_room hroom rfl

theorem natBytes_length (v n : Nat) : (natBytes v n).length = n := by
  induction n generalizing v with
  | zero => rfl
  | succ n ih => simp only [natBytes, List.length_cons, ih]

/-! ### A port leaves UP (R98) -/

section
variable {c : Chip} {p why : Nat}

theorem Chip.leaveUp_down (hst : (vget c.ports p).st ≠ 2) : c.leaveUp p why = c := by
  unfold Chip.leaveUp
  rw [if_pos (bne_iff_ne.2 hst)]

/-- The port drops what its transmitter holds and shows LNK.EVT.down, the line port clears aligned, and the recorder is
given 0x1301. -/
theorem Chip.leaveUp_up (hp : p < 3) (hst : (vget c.ports p).st = 2) (hroom : c.lic.room = true) :
    c.keeps [.ports, .lt, .lic] (c.leaveUp p why) ∧
      (∀ k, k < 3 → k ≠ p → vget (c.leaveUp p why).ports k = vget c.ports k) ∧
      vget (c.leaveUp p why).ports p = { vget c.ports p with
        evt := (vget c.ports p).evt ||| bitW 1 true, fwdBuf := [], posBuf := none, rsp := [] } ∧
      (p = 0 → (c.leaveUp p why).lt.aligned = false) ∧
      ∃ r, c.oneRecord (c.leaveUp p why) r ∧ r.cause = 0x1301 ∧ r.info = 0 := by
  obtain ⟨d, hd⟩ : ∃ d, d = if p = 0 then { c.setLnkEvt p 1 with lt := { (c.setLnkEvt p 1).lt with aligned := false } }
    else c.setLnkEvt p 1 := ⟨_, rfl⟩
  have hkeeps : c.keeps [.ports, .lt, .lic] d := by
    intro x hx
    rw [hd]
    cases x <;> first | exact absurd hx (by decide) | (split <;> rfl)
  have hports : d.ports = vmod c.ports p fun x => { x with evt := x.evt ||| bitW 1 true } := by
    rw [hd]
    split <;> rfl
  have hlic : d.lic = c.lic := by
    rw [hd]
    split <;> rfl
  unfold Chip.leaveUp
  rw [if_neg (by simp [hst])]
  dsimp only
  rw [← hd]
  refine ⟨hkeeps.trans ?_, fun k hk hkp => ?_, ?_, fun h0 => ?_, _, Chip.record_oneRecord hlic hroom, rfl, rfl⟩
  · exact ((Chip.modPort_keeps _ _ _).mono (by decide)).trans (Chip.keeps_lic _ _ (by decide))
  · simp only [Chip.record_ports, Chip.modPort_ports, hports, vget_ports_other _ _ hp hk hkp]
  · simp only [Chip.record_ports, Chip.modPort_ports, hports, vget_vmod_same]
  · simp only [Chip.record_lt, Chip.modPort_lt, hd, if_pos h0]

end

/-! ### Words of the transmit area -/

/-- A load of a good aligned word of the link areas is that word. -/
theorem load_link {c : Chip} {d : Die} {x : Src} {a : Nat} (hlo : 0x60000000 ≤ a) (hhi : a < 0x6000C000)
    (hal : a % 16 = 0) (hecc : c.eccAt a = 0) : c.load d x a 16 = (St.ok, (c.getWord a).toNat, c) := by
  have hreg : regionOf a = some 8 := by
    unfold regionOf
    rw [if_neg (by omega), if_neg (by omega), if_neg (by omega), if_neg (by omega), if_neg (by omega), if_neg (by omega),
      if_neg (by omega), if_neg (by omega), if_pos ⟨hlo, hhi⟩]
  have hrange : loadRange a = none := by
    simp only [loadRange, hreg]
    rw [if_neg (by omega), if_neg (by omega), if_neg (by omega)]
    rfl
  have hword : (c.getWord a).toNat = memNat 0 c.mem a 16 := by
    unfold Chip.getWord
    rw [show a / 16 * 16 = a by omega]
    exact Nat.mod_eq_of_lt (memNat_lt 0 c.mem a 16)
  have hread : c.readEcc a 0 = (St.ok, c) := by simp only [Chip.readEcc, hecc]
  simp [Chip.load, hrange, hreg, show ¬ a < 0x10000000 by omega, hread, hword, failed, St.ok]

/-- Good words of the link areas are read as they stand. -/
theorem loadWords_link {c : Chip} {d : Die} {x : Src} {a n : Nat} (hlo : 0x60000000 ≤ a)
    (hhi : a + 16 * n ≤ 0x6000C000) (hal : a % 16 = 0) (hecc : ∀ i, i < n → c.eccAt (a + 16 * i) = 0) :
    c.loadWords d x a n = (St.ok, (List.range n).map fun i => c.getWord (a + 16 * i), c) := by
  induction n generalizing a with
  | zero => rfl
  | succ n ih =>
    have hfirst := load_link (d := d) (x := x) hlo (by omega) hal (hecc 0 (by omega))
    have hrest := ih (a := a + 16) (by omega) (by omega) (by omega) fun i hi => by
      rw [show a + 16 + 16 * i = a + 16 * (i + 1) by omega]
      exact hecc (i + 1) (by omega)
    have hwords : (List.range (n + 1)).map (fun i => c.getWord (a + 16 * i)) =
        c.getWord a :: (List.range n).map fun i => c.getWord (a + 16 + 16 * i) := by
      rw [List.range_succ_eq_map, List.map_cons, List.map_map]
      refine congrArg _ (List.map_congr_left fun i _ => ?_)
      simp only [Function.comp_apply, show a + 16 + 16 * i = a + 16 * i.succ by omega]
    rw [hwords]
    simp [Chip.loadWords, hfirst, hrest, failed, joinSt, St.ok]

end Sys2Proof.Machine
end

section
namespace Sys2Proof.Machine

/-! ### LINK.CTL by its function (Table LNK-5a) -/

section
variable {q : Queue} {f : Insn} {s : State} {b : Chip} {d : Die} {p : Nat} (hport : field f.tgt 0 2 = p) (hp : p < 3)
include hport hp

theorem linkCtlBody_enable (hf : field f.op 0 4 = 1) : linkCtlBody q f d b = .done St.ok 0 (b.enablePort p) := by
  simp only [linkCtlBody, hport, hf, if_neg (show p ≠ 3 by omega)]

theorem linkCtlBody_disable (hf : field f.op 0 4 = 2) :
    linkCtlBody q f d b = if b.lineInUse p then .fail St.clockHold b else .done St.ok 0 (b.disablePort p) := by
  simp only [linkCtlBody, hport, hf, if_neg (show p ≠ 3 by omega)]

theorem linkCtlBody_retrain (hf : field f.op 0 4 = 3) :
    linkCtlBody q f d b = if b.lineInUse p then .fail St.clockHold b else .done St.ok 0 (b.retrain p 2) := by
  simp only [linkCtlBody, hport, hf, if_neg (show p ≠ 3 by omega)]

theorem linkCtlBody_sendData (hf : field f.op 0 4 = 4) : linkCtlBody q f d b = sendData q f d b p := by
  simp only [linkCtlBody, hport, hf, if_neg (show p ≠ 3 by omega)]

theorem linkCtlBody_sendCmd (hf : field f.op 0 4 = 5) : linkCtlBody q f d b = sendCmd q f d b p := by
  simp only [linkCtlBody, hport, hf, if_neg (show p ≠ 3 by omega)]

end

theorem linkCtlBody_syncNow {q : Queue} {f : Insn} {b : Chip} {d : Die} (h0 : field f.tgt 0 2 = 0)
    (hf : field f.op 0 4 = 6) (hst : (vget b.ports 0).st = 2) :
    linkCtlBody q f d b = .done St.ok 0 (b.startSync b.now) := by
  simp [linkCtlBody, h0, hf, hst]

section
variable {b : Chip} {p : Nat}

theorem Chip.lineInUse_line (h0 : p = 0) (hline : b.clk.st = .line) : b.lineInUse p = true := by
  simp [Chip.lineInUse, h0, hline]

theorem Chip.lineInUse_false (h : p = 0 → b.clk.st ≠ .line) : b.lineInUse p = false := by
  by_cases h0 : p = 0
  · simp [Chip.lineInUse, h h0]
  · simp [Chip.lineInUse, h0]

theorem Port.held_iff (x : Port) : x.held = true ↔ x.posBuf ≠ none ∨ x.rsp ≠ [] ∨ x.fwdBuf ≠ [] := by
  simp [Port.held, Option.isSome_iff_ne_none, or_assoc]

end

/-! ### SEND_DATA and SEND_CMD (R85 to R87) -/

/-- The length and the places of a SEND_DATA are in range. -/
def sendInRange (f : Insn) : Prop :=
  1 ≤ field f.op 16 5 ∧ field f.op 16 5 ≤ 16 ∧ field f.op 8 8 + field f.op 16 5 ≤ 256 ∧
    field f.op 32 10 + field f.op 16 5 ≤ 768

section
variable {q : Queue} {f : Insn} {b : Chip} {d : Die} {p : Nat}

section
variable (hin : sendInRange f)
include hin

theorem sendData_down (hst : (vget b.ports p).st ≠ 2) : sendData q f d b p = .done St.busy 0 b := by
  obtain ⟨hn, hn', hsrc, hdest⟩ := hin
  simp only [sendData]
  rw [if_neg (by omega), if_pos (bne_iff_ne.2 hst)]
  rfl

theorem sendData_paused (hst : (vget b.ports p).st = 2) (hx : (vget b.ports p).xoffRx = true) :
    sendData q f d b p = .wait .xoff 0 0 b := by
  obtain ⟨hn, hn', hsrc, hdest⟩ := hin
  simp only [sendData]
  rw [if_neg (by omega), if_neg (by simp [hst]), if_pos hx]

theorem sendData_behind (hst : (vget b.ports p).st = 2) (hx : (vget b.ports p).xoffRx = false)
    (hh : (vget b.ports p).held = true) : sendData q f d b p = .wait .boundary 0 0 b := by
  obtain ⟨hn, hn', hsrc, hdest⟩ := hin
  simp only [sendData]
  rw [if_neg (by omega), if_neg (by simp [hst]), if_neg (by simp [hx]), if_pos hh]

theorem sendData_sends (hp : p < 3) (hst : (vget b.ports p).st = 2) (hx : (vget b.ports p).xoffRx = false)
    (hh : (vget b.ports p).held = false)
    (hecc : ∀ i, i < field f.op 16 5 → b.eccAt (0x60003000 + p * 0x4000 + 16 * (field f.op 8 8 + i)) = 0) :
    sendData q f d b p = .done St.ok ((vget b.ports p).txSeq.setWidth 64)
      (b.sendFrame p 3 0 (natBytes (16 * field f.op 32 10) 2 ++ [0, 0] ++ (List.range (field f.op 16 5)).flatMap fun i =>
        natBytes (b.getWord (0x60003000 + p * 0x4000 + 16 * (field f.op 8 8 + i))).toNat 16)) := by
  obtain ⟨hn, hn', hsrc, hdest⟩ := hin
  have hplace (i : Nat) : 0x60003000 + p * 0x4000 + 16 * field f.op 8 8 + 16 * i =
      0x60003000 + p * 0x4000 + 16 * (field f.op 8 8 + i) := by omega
  have hload := loadWords_link (c := b) (d := d) (x := Src.ofQueue q) (a := 0x60003000 + p * 0x4000 + 16 * field f.op 8 8)
    (n := field f.op 16 5) (by omega) (by omega) (by omega) fun i hi => by rw [hplace]; exact hecc i hi
  simp only [sendData]
  rw [if_neg (by omega), if_neg (by simp [hst]), if_neg (by simp [hx]), if_neg (by simp [hh]), hload]
  simp only [failed, St.ok, hplace, List.flatMap_map]
  rfl

end

theorem sendCmd_sends (hp : p < 3) (hst : (vget b.ports p).st = 2) (hx : (vget b.ports p).xoffRx = false)
    (hh : (vget b.ports p).held = false) (hecc : b.eccAt (0x60003000 + p * 0x4000 + 16 * field f.op 8 8) = 0) :
    sendCmd q f d b p = .done St.ok ((vget b.ports p).txSeq.setWidth 64)
      (b.sendFrame p 2 (BitVec.ofNat 8 (field f.op 4 3))
        (natBytes (b.getWord (0x60003000 + p * 0x4000 + 16 * field f.op 8 8)).toNat 16)) := by
  have hsrc : field f.op 8 8 < 256 := Nat.mod_lt _ (by decide)
  have hload := loadWords_link (c := b) (d := d) (x := Src.ofQueue q) (a := 0x60003000 + p * 0x4000 + 16 * field f.op 8 8)
    (n := 1) (by omega) (by omega) (by omega) fun i hi => by
      rw [show i = 0 by omega]
      exact hecc
  simp only [sendCmd]
  rw [if_neg (by simp [hst]), if_neg (by simp [hx]), if_neg (by simp [hh]), hload]
  simp [failed, St.ok]

end

/-! ### A SYNC exchange begins (R91) -/

/-- A SYNC_REQ leaves the line port with the next seq, and its t1 is kept. -/
theorem Chip.startSync_spec (b : Chip) (t : BitVec 64) :
    b.keeps [.ports, .syncT1] (b.startSync t) ∧ (∀ k, k < 3 → k ≠ 0 → vget (b.startSync t).ports k = vget b.ports k) ∧
      (b.startSync t).syncT1 = some t ∧ (vget (b.startSync t).ports 0).txSeq = (vget b.ports 0).txSeq + 1 ∧
      (vget (b.startSync t).ports 0).sent = some (frameOf 4 0 (vget b.ports 0).txSeq (b.ltBytes t)) := by
  obtain ⟨d, hd⟩ : ∃ d, d = if b.syncT1.isSome then b.setLnkEvt 0 6 else b := ⟨_, rfl⟩
  have hkeeps : b.keeps [.ports, .syncT1] d := by
    rw [hd]
    split
    · exact (b.setLnkEvt_keeps 0 6).mono (by decide)
    · exact Chip.keeps.refl _ _
  have hother (k : Nat) (hk : k < 3) (h0 : k ≠ 0) : vget d.ports k = vget b.ports k := by
    rw [hd]
    split
    · exact vget_ports_other _ _ (by decide) hk h0
    · rfl
  have hseq : (vget d.ports 0).txSeq = (vget b.ports 0).txSeq := by
    rw [hd]
    split
    · rw [Chip.setLnkEvt_ports, vget_vmod_same]
    · rfl
  have hbytes : d.ltBytes t = b.ltBytes t := by
    rw [Chip.ltBytes, Chip.now, hkeeps .lt (by decide)]
    rfl
  unfold Chip.startSync
  dsimp only
  rw [← hd]
  refine ⟨hkeeps.trans ?_, fun k hk h0 => ?_, rfl, ?_, ?_⟩
  · intro x hx
    cases x <;> first | rfl | exact absurd hx (by decide)
  · exact (vget_ports_other _ _ (by decide) hk h0).trans (hother k hk h0)
  · simp only [Chip.sendFrame, Chip.modPort_ports, vget_vmod_same, hseq]
  · simp only [Chip.sendFrame, Chip.modPort_ports, vget_vmod_same, hseq, hbytes]

/-! ### What LINK.CTL leaves -/

section
variable {q : Queue} {f : Insn} {s : State} {b : Chip} (h : s.chip.issuesAs Op.linkCtl q f b)
include h

/-- A function that takes its port out of UP: the port and its record. -/
theorem linkCtl_leavesUp {p why : Nat} {g : Port → Port} {v : BitVec 2} (hp : p < 3) (hst : (vget b.ports p).st = 2)
    (hroom : b.lic.room = true) (hbody : linkCtlBody q f s.die b = .done St.ok 0 ((b.leaveUp p why).modPort p g))
    (hv : ∀ x, (g x).st = v) (hevt : ∀ x, (g x).evt = x.evt) :
    ∃ t e r, insn Op.linkCtl linkCtlBody q f s = .next t ∧ Completes q f St.ok 0 b.lt s e t ∧
      b.keeps [.ports, .lt, .lic] e ∧ (∀ k, k < 3 → k ≠ p → vget e.ports k = vget b.ports k) ∧ (vget e.ports p).st = v ∧
      (vget e.ports p).evt.getLsbD 1 = true ∧ b.oneRecord e r ∧ r.cause = 0x1301 ∧ (p = 0 → e.lt.aligned = false) := by
  obtain ⟨hkeeps, hothers, hown, haligned, r, hrecord, hcause, hinfo⟩ := Chip.leaveUp_up (why := why) hp hst hroom
  obtain ⟨t, ht, hc⟩ := insn_done_record h hbody hrecord hinfo
  refine ⟨t, _, _, ht, hc, ?_, fun k hk hkp => ?_, ?_, ?_, rfl, hcause, haligned⟩
  · exact (hkeeps.trans ((Chip.modPort_keeps _ _ _).mono (by decide))).trans (Chip.keeps_lic _ _ (by decide))
  · exact (vget_ports_other _ _ hp hk hkp).trans (hothers k hk hkp)
  · simp [hv]
  · simp only [Chip.modPort_ports, vget_vmod_same, hevt, hown]
    exact getLsbD_raised _ (by decide)

/-- A function that changes its port alone. -/
theorem linkCtl_changesPort {p : Nat} {g : Port → Port} {res : DWord} (hp : p < 3)
    (hbody : linkCtlBody q f s.die b = .done St.ok res (b.modPort p g)) :
    ∃ t e, insn Op.linkCtl linkCtlBody q f s = .next t ∧ Completes q f St.ok res b.lt s e t ∧ b.keeps [.ports] e ∧
      (∀ k, k < 3 → k ≠ p → vget e.ports k = vget b.ports k) ∧ vget e.ports p = g (vget b.ports p) := by
  have hkeeps := b.modPort_keeps p g
  obtain ⟨t, ht, hc⟩ := insn_done h hbody (Chip.noRecord_of_keeps hkeeps (by decide))
  exact ⟨t, _, ht, hc, hkeeps, fun k hk hkp => vget_ports_other _ _ hp hk hkp, vget_vmod_same _ _ _⟩

end

/-- Settles O30: each function of LINK.CTL is what its body does with the port, by the state of the port. -/
theorem linkControl : Obligations.LinkControl := by
  unfold Obligations.LinkControl
  intro q f s b h p x src n dest word others hp
  have hport : field f.tgt 0 2 = p := rfl
  refine ⟨fun hf => ?enable, fun hf => ⟨fun h0 hline => ?held, fun hfree hst => ?disable, fun hfree hst hroom => ?leave⟩,
    fun hf hfree hst hroom => ?retrain, fun hf hn hn' hsrc hdest hst hx hh hecc => ?sendData,
    fun hf hn hn' hsrc hdest => ⟨fun hst => ?down, fun hst hx => ?paused, fun hst hx hbehind => ?behind⟩,
    fun hf hst hx hh hecc => ?sendCmd, fun hf h0 hst => ?syncNow⟩
  case enable =>
    obtain ⟨t, e, ht, hc, hkeeps, hothers, hown⟩ := linkCtl_changesPort h hp (linkCtlBody_enable hport hp hf)
    refine ⟨t, e, ht, hc, hkeeps, hothers, hown.trans ?_⟩
    simp only [beq_iff_eq]
    rfl
  case held =>
    refine insn_done h ?_ ⟨rfl, rfl⟩
    rw [linkCtlBody_disable hport hp hf, if_pos (Chip.lineInUse_line h0 hline)]
    rfl
  case disable =>
    refine linkCtl_changesPort (g := fun x => { x with ctrl := x.ctrl &&& ~~~1, st := 0 }) h hp ?_
    rw [linkCtlBody_disable hport hp hf, Chip.lineInUse_false hfree]
    simp only [Bool.false_eq_true, if_false, Chip.disablePort, Chip.leaveUp_down hst]
  case leave =>
    have hbody := linkCtlBody_disable (q := q) (d := s.die) (b := b) hport hp hf
    simp only [Chip.lineInUse_false hfree, Bool.false_eq_true, if_false] at hbody
    obtain ⟨t, e, r, ht, hc, hkeeps, hothers, hdown, hevt, hrecord, hcause, -⟩ :=
      linkCtl_leavesUp h hp hst hroom hbody (fun _ => rfl) (fun _ => rfl)
    exact ⟨t, e, r, ht, hc, hkeeps, hothers, hdown, hevt, hrecord, hcause⟩
  case retrain =>
    refine linkCtl_leavesUp (why := 2) (g := fun x => { x with st := 1 }) h hp hst hroom ?_ (fun _ => rfl) (fun _ => rfl)
    rw [linkCtlBody_retrain hport hp hf, Chip.lineInUse_false hfree]
    have hup : ((vget b.ports p).st != 2) = false := bne_eq_false_iff_eq.2 hst
    simp only [Bool.false_eq_true, if_false, Chip.retrain, hup]
  case sendData =>
    obtain ⟨t, e, ht, hc, hkeeps, hothers, hown⟩ := linkCtl_changesPort h hp
      ((linkCtlBody_sendData hport hp hf).trans (sendData_sends ⟨hn, hn', hsrc, hdest⟩ hp hst hx hh hecc))
    exact ⟨t, e, ht, hc, hkeeps, hothers, congrArg Port.txSeq hown, congrArg Port.sent hown⟩
  case down =>
    exact insn_done h ((linkCtlBody_sendData hport hp hf).trans (sendData_down ⟨hn, hn', hsrc, hdest⟩ hst)) ⟨rfl, rfl⟩
  case paused =>
    exact insn_wait h ((linkCtlBody_sendData hport hp hf).trans (sendData_paused ⟨hn, hn', hsrc, hdest⟩ hst hx)) rfl
  case behind =>
    exact insn_wait h ((linkCtlBody_sendData hport hp hf).trans
      (sendData_behind ⟨hn, hn', hsrc, hdest⟩ hst hx ((Port.held_iff _).2 hbehind))) rfl
  case sendCmd =>
    obtain ⟨t, e, ht, hc, hkeeps, hothers, hown⟩ := linkCtl_changesPort h hp
      ((linkCtlBody_sendCmd hport hp hf).trans (sendCmd_sends hp hst hx hh hecc))
    exact ⟨t, e, ht, hc, hkeeps, hothers, congrArg Port.txSeq hown, congrArg Port.sent hown⟩
  case syncNow =>
    have hst0 : (vget b.ports 0).st = 2 := by rw [← h0]; exact hst
    obtain ⟨hkeeps, hothers, ht1, hseq, hsent⟩ := b.startSync_spec b.now
    obtain ⟨t, ht, hc⟩ := insn_done h (linkCtlBody_syncNow h0 hf hst0) (Chip.noRecord_of_keeps hkeeps (by decide))
    refine ⟨t, _, ht, hc, hkeeps, fun k hk hkp => hothers k hk (h0 ▸ hkp), ht1, ?_, _, hsent, rfl, natBytes_length _ _⟩
    rw [hseq, ← h0]

end Sys2Proof.Machine
end

section
namespace Sys2Proof.Machine

/-! ### Discontinuities of the position (R274) -/

section
variable (old new : Chip)

theorem Chip.mapWindows_keeps (c : Chip) (g : BitVec 64 → BitVec 64) : c.keeps [.pos, .cams, .queues] (c.mapWindows g) := by
  intro p hp
  cases p <;> first | rfl | exact absurd hp (by decide)

theorem Chip.discont_keeps : new.keeps [.pos, .cams, .queues] (old.discont new) := by
  intro p hp
  unfold Chip.discont
  dsimp only
  split
  · exact Chip.keeps.refl _ _ p hp
  · split <;> cases p <;> first | rfl | exact absurd hp (by decide)

/-- A discontinuity is judged by windows and counts: the model stays as it is. -/
theorem Chip.discont_model :
    (old.discont new).pos.st = new.pos.st ∧ (old.discont new).pos.p0 = new.pos.p0 ∧
      (old.discont new).pos.v = new.pos.v ∧ (old.discont new).pos.ts = new.pos.ts := by
  unfold Chip.discont
  dsimp only
  split
  · exact ⟨rfl, rfl, rfl, rfl⟩
  · split <;> exact ⟨rfl, rfl, rfl, rfl⟩

end

/-! ### POS frames (R81, R88, R269, R270) -/

section
variable {c : Chip} {fr : Frame}

theorem Pos.accepts_iff (p : Pos) (v ts : BitVec 64) :
    p.accepts v ts = true ↔ v.toInt.natAbs < 2 ^ 56 ∧ (p.st = .none ∨ 0 < (ts - p.ts).toInt) := by
  simp [Pos.accepts, signedGap]

theorem Chip.applyModel_keeps (c : Chip) (fr : Frame) : c.keeps [.pos, .cams, .queues] (c.applyModel fr) := by
  unfold Chip.applyModel
  dsimp only
  split
  · refine Chip.keeps.trans ?_ (Chip.discont_keeps _ _)
    intro p hp
    cases p <;> first | rfl | exact absurd hp (by decide)
  · intro p hp
    cases p <;> first | rfl | exact absurd hp (by decide)

/-- A model that may be applied is that of the extrapolator, which tracks. -/
theorem Chip.applyModel_accepted (h : c.pos.accepts (frameModel fr).2.1 (frameModel fr).2.2 = true) :
    (c.applyModel fr).pos.st = .tracking ∧ (c.applyModel fr).pos.p0 = (frameModel fr).1 ∧
      (c.applyModel fr).pos.v = (frameModel fr).2.1 ∧ (c.applyModel fr).pos.ts = (frameModel fr).2.2 := by
  unfold Chip.applyModel
  dsimp only
  rw [if_pos h]
  exact Chip.discont_model _ _

/-- One that may not be is counted. -/
theorem Chip.applyModel_refused (h : c.pos.accepts (frameModel fr).2.1 (frameModel fr).2.2 = false) :
    (c.applyModel fr).pos = { c.pos with vrej := satAdd c.pos.vrej 1, evt := c.pos.evt ||| 0x10 } := by
  unfold Chip.applyModel
  dsimp only
  rw [if_neg (by simp [h])]
  rfl

theorem Chip.buildPos_keeps (c : Chip) (fr : Frame) (p : Nat) : c.keeps [.ports] (c.buildPos fr p) := by
  unfold Chip.buildPos
  split
  · exact c.modPort_keeps _ _
  · exact Chip.keeps.refl _ _

theorem Chip.buildPos_other {p k : Nat} (hp : p < 3) (hk : k < 3) (h : k ≠ p) :
    vget (c.buildPos fr p).ports k = vget c.ports k := by
  unfold Chip.buildPos
  split
  · exact vget_ports_other _ _ hp hk h
  · rfl

/-- The transmitter of a port that forwards holds the frame, one hop further. -/
theorem Chip.buildPos_own (p : Nat) :
    (vget (c.buildPos fr p).ports p).posBuf = if c.lnkfwd.getLsbD (p - 1) = true ∧ (vget c.ports p).st = 2 then
      some { fr with route := (fr.route &&& 7) + 1 } else (vget c.ports p).posBuf := by
  unfold Chip.buildPos
  simp only [Bool.and_eq_true, beq_iff_eq]
  split
  · rw [Chip.modPort_ports, vget_vmod_same]
  · rfl

/-- The chip once the line port has taken the distance of a POS frame from the source and its model. -/
def Chip.takePos (c : Chip) (fr : Frame) : Chip :=
  let hop : BitVec 3 := fr.route.setWidth 3
  let a := (c.modPort 0 (·.seqSeen fr.seq)).modPort 0 fun x => { x with lastHop := hop }
  { a with lt := { a.lt with hops := hop.setWidth 4 + 1 } }.applyModel fr

theorem Chip.frameIn_pos (c : Chip) (t : BitVec 64) (h : fr.typ = 1) :
    c.frameIn 0 fr t = if (fr.route.setWidth 3 : BitVec 3) = 7 then c.takePos fr
      else ((c.takePos fr).buildPos fr 1).buildPos fr 2 := by
  simp only [Chip.frameIn, h]
  rfl

theorem Chip.takePos_keeps (c : Chip) (fr : Frame) : c.keeps [.ports, .lt, .pos, .cams, .queues] (c.takePos fr) := by
  refine Chip.keeps.trans ?_ ((Chip.applyModel_keeps _ fr).mono (by decide))
  intro p hp
  cases p <;> first | rfl | exact absurd hp (by decide)

theorem Chip.takePos_lt (c : Chip) (fr : Frame) :
    (c.takePos fr).lt = { c.lt with hops := (fr.route.setWidth 3 : BitVec 3).setWidth 4 + 1 } :=
  Chip.applyModel_keeps _ fr .lt (by decide)

theorem Chip.takePos_ports (c : Chip) (fr : Frame) :
    (c.takePos fr).ports = vmod (vmod c.ports 0 (·.seqSeen fr.seq)) 0 fun x => { x with lastHop := fr.route.setWidth 3 } :=
  Chip.applyModel_keeps _ fr .ports (by decide)

/-- What a POS frame on the line port leaves of the chip (R81, R88). -/
theorem Chip.frameIn_pos_spec (c : Chip) (t : BitVec 64) (h : fr.typ = 1) :
    (c.takePos fr).keeps [.ports] (c.frameIn 0 fr t) ∧
      (vget (c.frameIn 0 fr t).ports 0).lastHop = fr.route.setWidth 3 ∧
      ∀ k, 1 ≤ k → k < 3 → (vget (c.frameIn 0 fr t).ports k).posBuf =
        if (fr.route.setWidth 3 : BitVec 3) ≠ 7 ∧ c.lnkfwd.getLsbD (k - 1) = true ∧ (vget c.ports k).st = 2 then
          some { fr with route := (fr.route &&& 7) + 1 } else (vget c.ports k).posBuf := by
  rw [Chip.frameIn_pos c t h]
  have hfwd : (c.takePos fr).lnkfwd = c.lnkfwd := c.takePos_keeps fr .lnkfwd (by decide)
  have hline : (vget (c.takePos fr).ports 0).lastHop = fr.route.setWidth 3 := by
    rw [Chip.takePos_ports, vget_vmod_same]
  have hpeer (k : Nat) (hk : 1 ≤ k) (hk' : k < 3) : vget (c.takePos fr).ports k = vget c.ports k := by
    rw [Chip.takePos_ports, vget_ports_other _ _ (by decide) hk' (by omega), vget_ports_other _ _ (by decide) hk' (by omega)]
  generalize c.takePos fr = d at hfwd hline hpeer ⊢
  by_cases hhop : (fr.route.setWidth 3 : BitVec 3) = 7
  · rw [if_pos hhop]
    refine ⟨Chip.keeps.refl _ _, hline, fun k hk hk' => ?_⟩
    rw [if_neg (fun hfwds => hfwds.1 hhop), hpeer k hk hk']
  · rw [if_neg hhop]
    refine ⟨(d.buildPos_keeps fr 1).trans (Chip.buildPos_keeps _ fr 2), ?_, fun k hk hk' => ?_⟩
    · rw [Chip.buildPos_other (by decide) (by decide) (by decide), Chip.buildPos_other (by decide) (by decide) (by decide),
        hline]
    · have hlnkfwd : (d.buildPos fr 1).lnkfwd = c.lnkfwd := (d.buildPos_keeps fr 1 .lnkfwd (by decide)).trans hfwd
      obtain rfl | rfl : k = 1 ∨ k = 2 := by omega
      · rw [Chip.buildPos_other (by decide) (by decide) (by decide), Chip.buildPos_own, hfwd, hpeer 1 hk hk']
        simp only [hhop, ne_eq, not_false_eq_true, true_and]
      · rw [Chip.buildPos_own, hlnkfwd, Chip.buildPos_other (by decide) (by decide) (by decide), hpeer 2 hk hk']
        simp only [hhop, ne_eq, not_false_eq_true, true_and]

end

/-! ### The extrapolator stops (R273) -/

section
variable {c : Chip}

/-- No cam is armed where the mask of armed cams is empty. -/
theorem Chip.armMask_zero (h : c.armMask = 0) {n : Nat} (hn : n < 32) : (vget c.cams n).armed = false := by
  have hbit : c.armMask.getLsbD n = _ := getLsbD_collect (fun n => (vget c.cams n).armed) le_rfl n
  rw [h] at hbit
  simpa [hn] using hbit.symm

theorem Cam.disarm_armed (k : Cam) : k.disarm.armed = false := by
  unfold Cam.disarm
  split
  · rfl
  · exact Bool.eq_false_iff.2 ‹_›

/-- Every cam is disarmed, and of the extrapolator only the events change. -/
theorem Chip.autoDisarm_spec (c : Chip) :
    c.keeps [.cams, .pos] c.autoDisarm ∧ (∃ evt, c.autoDisarm.pos = { c.pos with evt := c.pos.evt ||| evt }) ∧
      ∀ n, n < 32 → (vget c.autoDisarm.cams n).armed = false := by
  unfold Chip.autoDisarm
  split
  · rename_i h
    exact ⟨Chip.keeps.refl _ _, ⟨0, by simp⟩, fun n hn => Chip.armMask_zero h hn⟩
  · refine ⟨?_, ⟨bitW 6 true, rfl⟩, fun n hn => ?_⟩
    · intro p hp
      cases p <;> first | rfl | exact absurd hp (by decide)
    · simp only [Chip.setCamEvt_cams, Chip.disarmAll, vget_vmapi _ _ hn, Cam.disarm_armed]

/-- The extrapolator that has coasted to its limit. -/
def Chip.coasted (c : Chip) : Chip :=
  let a := c.freezePos.setCamEvt 1
  if a.pos.cfg.getLsbD 8 then a.autoDisarm else a

theorem Chip.coasted_spec (h : c.pos.st = .coasting) :
    c.keeps [.pos, .cams] c.coasted ∧ c.coasted.pos.st = .stopped ∧ c.coasted.pos.frozenN = c.pos.at c.now ∧
      c.coasted.pos.frozenQ = c.pos.at (c.now + 256) ∧ c.coasted.pos.evt.getLsbD 1 = true ∧
      ∀ n, n < 32 → (vget c.coasted.cams n).armed = ((vget c.cams n).armed && !c.pos.cfg.getLsbD 8) := by
  obtain ⟨a, ha⟩ : ∃ a, a = c.freezePos.setCamEvt 1 := ⟨_, rfl⟩
  have hfrozen : a = { c with pos := { c.pos with
      st := .stopped, frozenQ := c.pos.at (c.now + 256), frozenN := c.pos.at c.now, evt := c.pos.evt ||| bitW 1 true } } := by
    simp [ha, Chip.freezePos, Chip.moving, h, Chip.look, Chip.posNow, Chip.setCamEvt]
  have hkeeps : c.keeps [.pos, .cams] a := by
    rw [hfrozen]
    intro p hp
    cases p <;> first | rfl | exact absurd hp (by decide)
  have hpos := congrArg Chip.pos hfrozen
  have hcams := congrArg Chip.cams hfrozen
  have hcfg : a.pos.cfg = c.pos.cfg := by rw [hpos]
  unfold Chip.coasted
  dsimp only
  rw [← ha, hcfg]
  cases c.pos.cfg.getLsbD 8
  · simp only [Bool.false_eq_true, if_false, hpos, hcams, Bool.not_false, Bool.and_true]
    exact ⟨hkeeps, trivial, trivial, trivial, getLsbD_raised _ (by decide), fun _ _ => trivial⟩
  · obtain ⟨hdisarms, ⟨evt, hevt⟩, harmed⟩ := a.autoDisarm_spec
    simp only [if_true, hevt, hpos, Bool.not_true, Bool.and_false]
    refine ⟨hkeeps.trans (hdisarms.mono (by decide)), trivial, trivial, trivial, ?_, harmed⟩
    rw [BitVec.getLsbD_or, getLsbD_raised _ (by decide), Bool.true_or]

end

/-! ### The rows of the links -/

section
variable {s : State} (hon : s.chip.endSwitch.coreOn = true)
include hon

theorem coreRow_on (g : Chip → Chip) : coreRow s g = .next { s with chip := g s.chip.endSwitch } := by
  simp only [coreRow, onChip, inFlight, hon, if_true]

/-- A valid frame without a time on a port that is UP takes effect. -/
theorem rxRow_good {p : BitVec 2} {fr : Frame} (hp : p.toNat < 3) (hst : (vget s.chip.endSwitch.ports p.toNat).st = 2)
    (hline : fr.line = []) (hcode : fr.codeErrs = 0) (hcrc : frameCrc fr = fr.crc) (hform : frameForm fr = true) :
    rxRow p fr none s = .next { s with chip := s.chip.endSwitch.frameIn p.toNat fr s.chip.endSwitch.now } := by
  have hlink : s.chip.endSwitch.linkOn = true := by
    simp only [Chip.coreOn, Chip.cclkOn, Bool.and_eq_true] at hon
    simp only [Chip.linkOn, hon, Bool.and_self]
  have hp3 : ¬ p = 3#2 := fun h => by simp [h] at hp
  simp [rxRow, onChip, inFlight, hlink, hp3, hst, hon, Chip.receive, hline, hcode, Chip.codeErrors, Chip.judgeFrame, hcrc,
    hform]

theorem exec_posLost_tracking (hst : s.chip.endSwitch.pos.st = .tracking) :
    exec .posLost s = .next { s with chip :=
      { s.chip.endSwitch.setLnkEvt 0 8 with pos := { s.chip.endSwitch.pos with st := .coasting } } } := by
  show execPosLost s = _
  simp only [execPosLost, coreRow_on hon, hst]

theorem exec_coastLimit_coasting (hst : s.chip.endSwitch.pos.st = .coasting) :
    exec .coastLimit s = .next { s with
      chip := s.chip.endSwitch.coasted.record 0x1602 0 0
        (ctxAt 32 (if s.chip.endSwitch.pos.cfg.getLsbD 8 then s.chip.endSwitch.armMask else 0).toNat) } := by
  show execCoastLimit s = _
  simp only [execCoastLimit, coreRow_on hon, hst, beq_self_eq_true, if_true, Chip.coasted]

theorem exec_coastLimit_idle (hst : s.chip.endSwitch.pos.st ≠ .coasting) :
    exec .coastLimit s = .next { s with chip := s.chip.endSwitch } := by
  show execCoastLimit s = _
  simp only [execCoastLimit, coreRow_on hon, beq_eq_false_iff_ne.2 hst, Bool.false_eq_true, if_false]

end

/-- Settles O50: a POS frame is its model applied or refused, then its copies for the peers that forward; the timers are the
transitions of the extrapolator. -/
theorem positionModelsComeAndGo : Obligations.PositionModelsComeAndGo := by
  unfold Obligations.PositionModelsComeAndGo
  intro s u c hon
  refine ⟨fun fr hline hst hcode hcrc hform htyp => ?frame, fun hst => ?lost, fun hst hroom => ?limit,
    fun hst => ?idle⟩
  case frame =>
    intro hop p0 v ts fits
    have hrow : exec (.posFrameRx 0 fr) s = .next { s with chip := c.frameIn 0 fr c.now } :=
      rxRow_good hon (by decide) hst hline hcode hcrc hform
    obtain ⟨hkeeps, hlast, hpeers⟩ := c.frameIn_pos_spec c.now htyp
    have hlt := (hkeeps .lt (by decide)).trans (c.takePos_lt fr)
    have hpos : (c.frameIn 0 fr c.now).pos = (c.takePos fr).pos := hkeeps .pos (by decide)
    refine ⟨_, hrow, State.keeps_chip ((c.takePos_keeps fr).trans (hkeeps.mono (by decide))), hlt, hlast, fun hfits => ?_,
      fun hfits => ?_, hpeers⟩
    · rw [hpos]
      exact Chip.applyModel_accepted ((Pos.accepts_iff _ _ _).2 hfits)
    · rw [hpos]
      exact Chip.applyModel_refused (Bool.eq_false_iff.2 fun h => hfits ((Pos.accepts_iff _ _ _).1 h))
  case lost =>
    refine ⟨_, exec_posLost_tracking hon hst, State.keeps_chip ?_, rfl, ?_⟩
    · intro p hp
      cases p <;> first | rfl | exact absurd hp (by decide)
    · simp only [Chip.setLnkEvt_ports, vget_vmod_same]
      exact getLsbD_raised _ (by decide)
  case limit =>
    obtain ⟨hkeeps, hstopped, hn, hq, hevt, harmed⟩ := Chip.coasted_spec hst
    have hlic : c.coasted.lic = c.lic := hkeeps .lic (by decide)
    exact ⟨_, _, exec_coastLimit_coasting hon hst,
      State.keeps_chip ((hkeeps.mono (by decide)).trans (Chip.keeps_lic _ _ (by decide))), hstopped, hn, hq, hevt, harmed,
      Chip.record_oneRecord hlic hroom, rfl⟩
  case idle => exact exec_coastLimit_idle hon hst

end Sys2Proof.Machine
end

section
namespace Sys2Proof.Machine

/-! ### A head that waits for a switch of the clock in flight (R492) -/

/-- The fields of an LT.SET to 0 s and 1,000 ticks. -/
def setTime : Insn :=
  { tx := false, fence := false, cmpl := false, chain := false, rsv := 0, tag := 0, ext := 0, tgt := 0, op := 1000 }

/-- A device at work with empty queues, the head of queue 0 an LT.SET that waits until no switch is in flight. -/
def settingTime : State :=
  ⟨[], Die.reset, expectant.modQ 0 fun x => { x with wait := some ⟨.clkFree, 0xB3, setTime, 0, 0, 0⟩ }⟩

theorem settingTime_meets :
    settingTime.chip.coreOn = true ∧ settingTime.chip.clk.switch = none ∧
      (∀ q, (settingTime.chip.queue q).words = [] ∧ (settingTime.chip.queue q).calls = []) ∧
      settingTime.chip.stager = none := by decide +kernel

/-- In the idle step the LT.SET goes on, and line time is what it sets. -/
theorem settingTime_next : settingTime.next.chip.lt.sec = 0 ∧ settingTime.next.chip.lt.ticks = 1000 := by decide +kernel

/-- Refutes O3: empty queues and no routine do not mean that nothing goes on in a clock period. A head that waits for the
switch in flight to end is judged in the first period without one, and where that head is an LT.SET, line time at the end of
the period is the time that it sets. The statement assumes nothing of the waits but that none is for the loader; no run
reaches this state, since CLK.SEL alone begins such a wait (R492). -/
theorem not_idleStepIsOneClockPeriod : ¬ Obligations.IdleStepIsOneClockPeriod := by
  unfold Obligations.IdleStepIsOneClockPeriod
  intro h
  obtain ⟨hon, hswitch, hqueues, hstager⟩ := settingTime_meets
  obtain ⟨t, ht, -, -, htime⟩ := h settingTime rfl
  have htotal := htime hon hswitch hqueues rfl rfl hstager rfl rfl
  obtain ⟨hsec, hticks⟩ := settingTime_next
  rw [← State.next_eq ht, hsec, hticks] at htotal
  exact absurd htotal (by decide)

end Sys2Proof.Machine
end

section
namespace Sys2Proof.Machine

/-! ### A CMD frame for a queue whose slots are promised (R82, R113) -/

/-- A CMD frame with distance 0 and an instruction word of zeros. -/
def cmdFrame : Frame := frameOf 2 0 0 (List.replicate 16 0)

/-- A device at work whose line port is UP, its queues empty, with as many words accepted for Q2 at the host port as Q2 has
slots. -/
def promised : Chip :=
  { expectant with
    ports := vmod expectant.ports 0 fun x => { x with st := 2 }
    prt := { expectant.prt with cross := List.replicate 32 (0, 0, 2, 0) } }

theorem promised_meets :
    promised.endSwitch.coreOn = true ∧ (vget promised.endSwitch.ports 0).st = 2 ∧ frameForm cmdFrame = true ∧
      (promised.endSwitch.queue 2).words = [] ∧ (promised.endSwitch.queue 2).occupied < 32 := by decide +kernel

theorem cmdFrame_crc : frameCrc cmdFrame = cmdFrame.crc := by decide +kernel

/-- The frame finds no free slot in Q2 and is dropped. -/
theorem promised_dropped :
    ((State.after ⟨[], Die.reset, promised⟩ (.cmdFrameRx 0 cmdFrame)).chip.queue 2).words = [] := by decide +kernel

/-- Refutes O49: a CMD frame does not enter its queue whenever fewer than 32 slots are occupied. Slots promised to words
accepted at the host port are not free either (R113), and with all 32 of Q2 promised the frame is dropped. The statement
assumes nothing of the words in the crossings; no run reaches this state, since the host port pushes to Q0 and Q1 alone. -/
theorem not_framesAreCheckedThenTakeEffect : ¬ Obligations.FramesAreCheckedThenTakeEffect := by
  unfold Obligations.FramesAreCheckedThenTakeEffect
  rintro ⟨-, h⟩
  obtain ⟨hon, hup, hform, hempty, hslots⟩ := promised_meets
  obtain ⟨-, -, -, -, -, harrives, -⟩ := h ⟨[], Die.reset, promised⟩ 0 cmdFrame rfl hon (by decide)
  obtain ⟨t, ht, -, -, hq, -⟩ := (harrives ⟨hup, rfl, cmdFrame_crc, hform⟩ rfl rfl).1 hslots
  have hwords := congrArg QState.words hq
  dsimp only at hwords
  have hdropped := promised_dropped
  rw [State.after_eq ht] at hdropped
  exact absurd (hdropped.symm.trans hwords) (by simp)

end Sys2Proof.Machine
end

section
namespace Sys2Proof.Machine

/-! ### Frames that leave as the seconds of line time wrap (R91, R100, R179) -/

/-- The last tick before the seconds of line time wrap. -/
def lastTick : LineTime := { LineTime.reset with sec := 0xFFFFFFFF, ticks := 15999999999 }

/-- A device at work at that tick, its line port and Peer East UP, with a SYNC_REQ on Peer East to be answered. -/
def lastSecond : State :=
  ⟨[], Die.reset,
    { expectant with
      lt := lastTick
      ports := vmod (vmod expectant.ports 0 fun x => { x with st := 2 }) 1 fun x =>
        { x with st := 2, rsp := [([], lastTick.stamp)] } }⟩

theorem lastSecond_meets :
    lastSecond.chip.endSwitch.coreOn = true ∧ (vget lastSecond.chip.endSwitch.ports 0).st = 2 ∧
      lastSecond.chip.endSwitch.syncper &&& 0xFFFF ≠ 0 ∧ (vget lastSecond.chip.endSwitch.ports 1).st = 2 ∧
      (vget lastSecond.chip.endSwitch.ports 1).posBuf = none ∧
      (vget lastSecond.chip.endSwitch.ports 1).rsp = [([], lastTick.stamp)] := by decide +kernel

/-- A SYNC_RSP that leaves one tick later carries other times than those of the chip that began to answer. -/
theorem lastSecond_answer :
    ((vget (lastSecond.after (.syncRspTx 1 (lastTick.stamp + 1))).chip.ports 1).sent.map Frame.payload) ≠
      some ([] ++ lastSecond.chip.endSwitch.ltBytes lastTick.stamp
        ++ lastSecond.chip.endSwitch.ltBytes (lastTick.stamp + 1)) := by decide +kernel

/-- So does a SYNC_REQ. -/
theorem lastSecond_request :
    ((vget (lastSecond.after (.syncPeriod (lastTick.stamp + 1))).chip.ports 0).sent.map Frame.payload) ≠
      some (lastSecond.chip.endSwitch.ltBytes (lastTick.stamp + 1)) := by decide +kernel

/-- Refutes O51: the times of a SYNC_RSP are not always those of the chip before line time has come to t3. Stamps count ticks
modulo 2^64 and line time wraps at 2^32 s, which is no multiple of that: in the cc that begins second 0 anew the stamps of line
time jump, so the t2 and t3 of an answer that leaves there are read from a line time that the frame's times no longer lie
near. LT.SET takes line time to that second. -/
theorem not_portsForwardAnswerAndTrain : ¬ Obligations.PortsForwardAnswerAndTrain := by
  unfold Obligations.PortsForwardAnswerAndTrain
  intro h
  obtain ⟨hon, -, -, hup, hpos, hrsp⟩ := lastSecond_meets
  obtain ⟨-, -, -, -, hanswer, -⟩ := h lastSecond 1 hon (by decide)
  obtain ⟨t, fr, ht, -, -, hport, -, -, hpayload⟩ := hanswer _ _ _ (lastTick.stamp + 1) hup hpos hrsp
  have hsent := congrArg (fun x : Port => x.sent.map Frame.payload) hport
  dsimp only [Option.map_some] at hsent
  rw [hpayload] at hsent
  have hother := lastSecond_answer
  rw [State.after_eq ht] at hother
  exact hother hsent

/-- Refutes O52: the time in a SYNC_REQ is not always the one that the chip before line time has come to it would write. In
the cc in which the seconds of line time wrap, the stamps of line time jump (see O51), and the t1 of a request that begins
there is read from a line time that it no longer lies near. -/
theorem not_syncExchangesAlignLineTime : ¬ Obligations.SyncExchangesAlignLineTime := by
  unfold Obligations.SyncExchangesAlignLineTime
  intro h
  obtain ⟨hon, hup, hper, -⟩ := lastSecond_meets
  obtain ⟨-, -, hrequest, -⟩ := h lastSecond cmdFrame (lastTick.stamp + 1) hon
  obtain ⟨t, f, ht, -, -, hsent, -, hpayload⟩ := hrequest hup hper
  have hother := lastSecond_request
  rw [State.after_eq ht, hsent, Option.map_some, hpayload] at hother
  exact hother rfl

end Sys2Proof.Machine
end

section
namespace Sys2Proof.Machine

/-! ### A management change alone (R132) -/

/-- MGT.EXPECT taken by a change expected at generation `gen`. -/
theorem Chip.mgtExpect_eq (c : Chip) (gen : BitVec 16) :
    c.mgtExpect gen = (c.mgt.expValid && c.mgt.expGen == gen, (c.mgtExpect gen).2) := rfl

theorem Chip.mgtExpect_keeps (c : Chip) (gen : BitVec 16) : c.keeps [.mgt] (c.mgtExpect gen).2 := by
  intro p hp
  cases p <;> first | rfl | exact absurd hp (by decide)

@[simp] theorem Chip.mgtExpect_expValid (c : Chip) (gen : BitVec 16) : (c.mgtExpect gen).2.mgt.expValid = false := rfl

/-- A unit that the data path has not touched in the cc meets no contest. -/
theorem Chip.contest_none {c : Chip} (h : c.memo.units = []) (u : UnitId) (r : Nat) : c.contest u r = none := by
  unfold Chip.contest
  split
  · rfl
  · rw [h]; rfl

/-- A change from Q5 that meets no contest acts when MGT.EXPECT has the unit's generation. -/
theorem Chip.mgtChange_good {c : Chip} (hm : c.memo.units = []) (u : UnitId) (r : Nat) (g : Chip → Chip)
    (hg : (c.mgt.expValid && c.mgt.expGen == c.unitGen u) = true) :
    c.mgtChange u r g = (true, g (c.mgtExpect (c.unitGen u)).2) := by
  unfold Chip.mgtChange
  rw [Chip.contest_none hm]
  simp only [Chip.mgtAlone]
  rw [Chip.mgtExpect_eq, hg]
  rfl

/-- Otherwise it takes MGT.EXPECT and counts in MGT.STALE. -/
theorem Chip.mgtChange_stale {c : Chip} (hm : c.memo.units = []) (u : UnitId) (r : Nat) (g : Chip → Chip)
    (hg : (c.mgt.expValid && c.mgt.expGen == c.unitGen u) = false) :
    c.mgtChange u r g = (false, (c.mgtExpect (c.unitGen u)).2) := by
  unfold Chip.mgtChange
  rw [Chip.contest_none hm]
  simp only [Chip.mgtAlone]
  rw [Chip.mgtExpect_eq, hg]
  rfl

theorem Chip.mgtExpect_stale {c : Chip} {gen : BitVec 16} (hg : (c.mgt.expValid && c.mgt.expGen == gen) = false) :
    (c.mgtExpect gen).2.mgt.stale = satAdd c.mgt.stale 1 := by
  unfold Chip.mgtExpect
  simp only [hg]
  rfl

/-! ### The pins of a bank -/

theorem Chip.modPin_keeps (c : Chip) (n : Nat) (f : Pin → Pin) : c.keeps [.pins] (c.modPin n f) := by
  intro p hp
  cases p <;> first | rfl | exact absurd hp (by decide)

theorem Chip.modPins_keeps (n : Nat → Nat) (f : Pin → Pin) (l : List Nat) (c : Chip) :
    c.keeps [.pins] (l.foldl (fun c i => c.modPin (n i) f) c) := keeps_foldl (fun c i => c.modPin_keeps (n i) f) l c

/-- Pins of bank `b` changed at the numbers of a list below 16. -/
theorem Chip.vget_foldl_modPin (f : Pin → Pin) {b j : Nat} (hb : b < 12) (hj : j < 192) (l : List Nat) (hl : l.Nodup)
    (hlt : ∀ i, i ∈ l → i < 16) (c : Chip) :
    vget (l.foldl (fun c i => c.modPin (16 * b + i) f) c).pins j =
      if j / 16 = b ∧ j % 16 ∈ l then f (vget c.pins j) else vget c.pins j := by
  induction l generalizing c with
  | nil => simp
  | cons n r ih =>
    obtain ⟨hn, hr⟩ := List.nodup_cons.1 hl
    have hn16 : n < 16 := hlt n (by simp)
    have hmod : ((16 * b + n) % 192 = j % 192) ↔ j / 16 = b ∧ j % 16 = n := by omega
    rw [List.foldl_cons, ih hr fun x hx => hlt x (by simp [hx])]
    simp only [Chip.modPin, vget_vmod, hmod, List.mem_cons]
    by_cases h : j / 16 = b ∧ j % 16 = n
    · obtain ⟨h1, rfl⟩ := h; simp [h1, hn]
    · by_cases h1 : j / 16 = b
      · simp_all
      · simp [h1]

/-- The numbers of the bits collected over the pins of a bank. -/
theorem mem_maskList_collect (p : Nat → Bool) (i : Nat) :
    i ∈ maskList ((List.range 16).foldl (fun a i => a ||| bitW i (p i)) 0) ↔ i < 16 ∧ p i = true := by
  simp only [maskList, List.mem_filter, List.mem_range, getLsbD_collect p (show 16 ≤ 32 by decide), Bool.and_eq_true,
    decide_eq_true_eq]
  exact ⟨fun h => h.2, fun h => ⟨by omega, h⟩⟩

/-- Pins of bank `b` changed where a predicate holds. -/
theorem Chip.vget_modPins (p : Nat → Bool) (f : Pin → Pin) {b j : Nat} (hb : b < 12) (hj : j < 192) (c : Chip) :
    vget ((maskList ((List.range 16).foldl (fun a i => a ||| bitW i (p i)) 0)).foldl
        (fun c i => c.modPin (16 * b + i) f) c).pins j =
      if j / 16 = b ∧ p (j % 16) = true then f (vget c.pins j) else vget c.pins j := by
  rw [Chip.vget_foldl_modPin f hb hj (maskList _) (List.nodup_range.filter _) fun i hi => ((mem_maskList_collect p i).1 hi).1]
  simp only [mem_maskList_collect, Nat.mod_lt j (show 0 < 16 by decide), true_and]

@[simp] theorem forcePin_psafe (old new : Chip) (p : Nat) (pin : Pin) : (forcePin old new p pin).1.psafe = pin.psafe := by
  unfold forcePin
  dsimp only
  repeat' split
  all_goals rfl

/-- Settling forces leaves the forces of PIN.SAFE. -/
theorem Chip.settle_psafe (old new : Chip) {p : Nat} (hp : p < 192) :
    (vget (old.settle new).pins p).psafe = (vget new.pins p).psafe := by
  have hpins : (old.settle new).pins = vmapi (fun p pin => (forcePin old new p pin).1) new.pins := by
    unfold Chip.settle
    dsimp only
    split
    · rfl
    · rfl
  rw [hpins, vget_vmapi _ _ hp, forcePin_psafe]

/-! ### EDGE.CAL (R200, R252, R253) -/

theorem Chip.calUpdate_keeps (c : Chip) : c.keeps [.banks] c.calUpdate := by
  intro p hp
  cases p <;> first | rfl | exact absurd hp (by decide)

theorem Chip.passEnd_keeps (c : Chip) (k : Nat) : c.keeps [.banks, .freeIx] (c.passEnd k) := by
  intro p hp
  cases p <;> first | rfl | exact absurd hp (by decide)

/-- The chip after EDGE.CAL of bank `k`. -/
def Chip.calibrated (b : Chip) (k : Nat) : Chip :=
  (((maskList (b.idlePins k)).foldl (fun c i => c.modPin (16 * k + i) fun p => { p with measured := true }) b).passEnd k).calUpdate

theorem Chip.calibrated_keeps (b : Chip) (k : Nat) : b.keeps [.pins, .banks, .freeIx] (b.calibrated k) := by
  have h := Chip.modPins_keeps (16 * k + ·) (fun p => { p with measured := true }) (maskList (b.idlePins k)) b
  exact (h.mono (by decide)).trans
    (((Chip.passEnd_keeps _ k).mono (by decide)).trans ((Chip.calUpdate_keeps _).mono (by decide)))

theorem Chip.calibrated_pin (b : Chip) {k i : Nat} (hk : k < 12) (hi : i < 16) :
    vget (b.calibrated k).pins (16 * k + i) = { vget b.pins (16 * k + i) with
      measured := (vget b.pins (16 * k + i)).measured || (vget b.pins (16 * k + i)).idle } := by
  have h := Chip.vget_modPins (fun i => (vget b.pins (16 * k + i)).idle) (fun p => { p with measured := true }) hk
    (show 16 * k + i < 192 by omega) b
  rw [show (16 * k + i) / 16 = k by omega, show (16 * k + i) % 16 = i by omega] at h
  refine Eq.trans h ?_
  cases hidle : (vget b.pins (16 * k + i)).idle
  · simp
  · simp

theorem Chip.calibrated_passes (b : Chip) {k : Nat} (hk : k < 12) :
    (vget (b.calibrated k).banks k).passes = (vget b.banks k).passes + 1 := by
  have hb : ((maskList (b.idlePins k)).foldl (fun c i => c.modPin (16 * k + i) fun p => { p with measured := true }) b).banks
      = b.banks := Chip.modPins_keeps (16 * k + ·) _ _ b .banks (by decide)
  unfold Chip.calibrated Chip.calUpdate
  dsimp only
  rw [vget_vmapi _ _ hk]
  simp [Chip.passEnd, Chip.modBank, Chip.free, hb]

theorem edgeCalBody_bank {q : Queue} {f : Insn} {d : Die} {b : Chip} (h : field f.tgt 0 4 < 12) :
    edgeCalBody q f d b = .done St.ok ((b.idlePins (field f.tgt 0 4)).setWidth 64) (b.calibrated (field f.tgt 0 4)) := by
  unfold edgeCalBody
  rw [if_neg (by omega)]
  rfl

/-! ### PIN.SAFE (R200, R241) -/

theorem Chip.setPinSafe_keeps (c : Chip) (k mask : Nat) (release : Bool) :
    c.keeps [.pins, .banks, .edg] (c.setPinSafe k mask release) :=
  ((Chip.modPins_keeps (16 * k + ·) _ _ c).mono (by decide)).trans (Chip.settle_keeps _ _)

/-- The force of a pin after PIN.SAFE. -/
theorem Chip.setPinSafe_psafe (c : Chip) {k j : Nat} (mask : Nat) (release : Bool) (hk : k < 12) (hj : j < 192) :
    (vget (c.setPinSafe k mask release).pins j).psafe =
      if j / 16 = k ∧ mask.testBit (j % 16) = true then !release else (vget c.pins j).psafe := by
  unfold Chip.setPinSafe
  rw [Chip.settle_psafe _ _ hj]
  unfold Chip.pinMask
  rw [Chip.vget_modPins (fun i => mask.testBit i && (vget c.pins (16 * k + i)).psafe == release) _ hk hj]
  by_cases h : j / 16 = k
  · obtain rfl := h
    rw [Nat.div_add_mod]
    cases mask.testBit (j % 16) <;> cases hp : (vget c.pins j).psafe <;> cases release <;> simp [hp]
  · simp [h]

/-- The pins that PIN.SAFE answers. -/
theorem Chip.pinMask_bit (c : Chip) (k mask : Nat) (release : Bool) {i : Nat} (hi : i < 16) :
    ((c.pinMask k mask release).setWidth 64).getLsbD i
      = (mask.testBit i && (vget c.pins (16 * k + i)).psafe == release) := by
  unfold Chip.pinMask
  rw [BitVec.getLsbD_setWidth, getLsbD_collect _ (by decide)]
  simp [hi, show i < 64 by omega]

theorem pinSafeBody_direct {q : Queue} {f : Insn} {d : Die} {b : Chip} (hk : field f.tgt 0 4 < 12)
    (hm : field f.op 0 16 ≠ 0) (htx : f.tx = false) :
    pinSafeBody q f d b = if q = 5 then
        let r := b.mgtChange (.bank (field f.tgt 0 4)) (if f.ext.getLsbD 0 then 1 else 0) fun c =>
          c.setPinSafe (field f.tgt 0 4) (field f.op 0 16) (f.ext.getLsbD 0)
        .done (if r.1 then St.ok else St.stale)
          (if r.1 then (b.pinMask (field f.tgt 0 4) (field f.op 0 16) (f.ext.getLsbD 0)).setWidth 64 else 0) r.2
      else .done St.ok ((b.pinMask (field f.tgt 0 4) (field f.op 0 16) (f.ext.getLsbD 0)).setWidth 64)
        (b.setPinSafe (field f.tgt 0 4) (field f.op 0 16) (f.ext.getLsbD 0)) := by
  unfold pinSafeBody
  rw [if_neg (by omega), htx]

/-! ### Captures (R198, R262) -/

theorem capArmBody_pin {q : Queue} {f : Insn} {d : Die} {b : Chip} (h : field f.tgt 0 8 < 192) :
    capArmBody q f d b = .done St.ok 0 (b.modPin (field f.tgt 0 8) fun x => { x with
      tcu := f.ext.extractLsb' 0 2
      cap := if x.tcu == 0 && f.ext.extractLsb' 0 2 != 0 then none else x.cap }) := by
  unfold capArmBody
  rw [if_neg (by omega)]

theorem capValue_some (t : BitVec 64) (r : Bool) :
    (capValue (some (t, r))).getLsbD 63 = r ∧ (capValue (some (t, r))).extractLsb' 0 63 = t.extractLsb' 0 63 := by
  unfold capValue
  constructor
  · cases r <;> simp
  · have h63 : (0x8000000000000000#64).extractLsb' 0 63 = 0 := by decide
    have ht : ((t.extractLsb' 0 63).setWidth 64).extractLsb' 0 63 = t.extractLsb' 0 63 := by
      ext i hi; simp [hi, show i < 64 by omega]
    cases r
    · simp [ht]
    · simp [BitVec.extractLsb'_or, h63, ht]

/-- Settles O15: each body's end, PIN.SAFE from Q5 by whether MGT.EXPECT has the bank's generation. -/
theorem pinInstructions : Obligations.PinInstructions := by
  unfold Obligations.PinInstructions
  refine ⟨fun q f s b => ?_, fun q f s b => ?_⟩
  · refine ⟨?cal, ?calRange, ?arm, ?read, ?readRange⟩
    case cal =>
      intro h hk
      obtain ⟨t, ht, hc⟩ := insn_done h (edgeCalBody_bank hk) (Chip.noRecord_of_keeps (b.calibrated_keeps _) (by decide))
      refine ⟨t, _, _, ht, hc, b.calibrated_keeps _, fun i hi => ?_, fun i hi => b.calibrated_pin hk hi,
        b.calibrated_passes hk⟩
      unfold Chip.idlePins
      rw [BitVec.getLsbD_setWidth, getLsbD_collect _ (by decide)]
      simp [hi, show i < 64 by omega]
    case calRange =>
      intro h hk
      exact insn_refused h (by unfold edgeCalBody; rw [if_pos (by omega)]; rfl)
    case arm =>
      intro h hp
      obtain ⟨t, ht, hc⟩ := insn_done h (capArmBody_pin hp) (Chip.noRecord_of_keeps (Chip.modPin_keeps _ _ _) (by decide))
      refine ⟨t, _, ht, hc, Chip.modPin_keeps _ _ _, ?_, ?_, ?_, fun j hj hne => ?_⟩
      · simp [Chip.modPin]
      · intro h0 h1
        simp only [Chip.modPin, vget_vmod_same]
        rw [if_pos (by simpa [h0] using h1)]
      · intro h0
        simp only [Chip.modPin, vget_vmod_same]
        rw [if_neg (by simpa using fun h => absurd h h0)]
      · exact vget_vmod_other _ _ (by omega)
    case read =>
      intro h hp
      have hb : capReadBody q f s.die b = .done St.ok (capValue (vget b.pins (field f.tgt 0 8)).cap) b := by
        unfold capReadBody; rw [if_neg (by omega)]
      refine ⟨fun hn => ?_, fun a r hs => ?_⟩
      · rw [hn] at hb
        exact insn_done h hb ⟨rfl, rfl⟩
      · rw [hs] at hb
        obtain ⟨t, ht, hc⟩ := insn_done h hb ⟨rfl, rfl⟩
        exact ⟨t, _, ht, hc, capValue_some a r⟩
    case readRange =>
      intro h hp
      exact insn_refused h (by unfold capReadBody; rw [if_pos (by omega)]; rfl)
  · refine ⟨?safe, ?stale, ?range⟩
    case safe =>
      intro h htx hk hm h5
      have hb := pinSafeBody_direct (q := q) (d := s.die) (b := b) hk hm htx
      have key : ∃ c : Chip, b.keeps [.mgt] c ∧ (q ≠ 5 → c.mgt = b.mgt) ∧ (q = 5 → c.mgt.expValid = false) ∧
          pinSafeBody q f s.die b =
            .done St.ok ((b.pinMask (field f.tgt 0 4) (field f.op 0 16) (f.ext.getLsbD 0)).setWidth 64)
              (c.setPinSafe (field f.tgt 0 4) (field f.op 0 16) (f.ext.getLsbD 0)) := by
        by_cases hq : q = 5
        · obtain ⟨hg, hu⟩ := h5 hq
          rw [if_pos hq, Chip.mgtChange_good hu (.bank _) _ _ hg] at hb
          exact ⟨_, b.mgtExpect_keeps _, fun hn => absurd hq hn, fun _ => rfl, hb⟩
        · rw [if_neg hq] at hb
          exact ⟨b, Chip.keeps.refl _ _, fun _ => rfl, fun hn => absurd hn hq, hb⟩
      obtain ⟨c, hkc, hm1, hm2, hb⟩ := key
      have hpins : c.pins = b.pins := hkc .pins (by decide)
      have hks := c.setPinSafe_keeps (field f.tgt 0 4) (field f.op 0 16) (f.ext.getLsbD 0)
      have hkb : b.keeps [.pins, .banks, .edg, .mgt] _ := (hkc.mono (by decide)).trans (hks.mono (by decide))
      have hmgt := hks .mgt (by decide)
      obtain ⟨t, ht, hc⟩ := insn_done h hb (Chip.noRecord_of_keeps hkb (by decide))
      refine ⟨t, _, _, ht, hc, hkb, fun hq => Eq.trans hmgt (hm1 hq), fun hq => ?_, fun i hi => ?_,
        fun i hi => b.pinMask_bit _ _ _ hi, fun j hj hne => ?_⟩
      · rw [show (c.setPinSafe _ _ _).mgt = c.mgt from hmgt, hm2 hq]
      · rw [Chip.setPinSafe_psafe _ _ _ hk (by omega), hpins, show (16 * field f.tgt 0 4 + i) / 16 = field f.tgt 0 4 by omega,
          show (16 * field f.tgt 0 4 + i) % 16 = i by omega]
        simp
      · rw [Chip.setPinSafe_psafe _ _ _ hk hj, hpins, if_neg (by omega)]
    case stale =>
      intro h htx hk hm hq hg hu
      have hb := pinSafeBody_direct (q := q) (d := s.die) (b := b) hk hm htx
      rw [if_pos hq, Chip.mgtChange_stale hu (.bank _) _ _ hg] at hb
      obtain ⟨t, ht, hc⟩ := insn_done h hb (Chip.noRecord_of_keeps (b.mgtExpect_keeps _) (by decide))
      exact ⟨t, _, ht, hc, b.mgtExpect_keeps _, rfl, Chip.mgtExpect_stale hg⟩
    case range =>
      intro h hk
      exact insn_refused h (by unfold pinSafeBody; rw [if_pos (by omega)]; rfl)

end Sys2Proof.Machine
end

section
namespace Sys2Proof.Machine

/-! ### Words of the Profile RAM -/

/-- Words that each load as they stand are read as they stand. -/
theorem loadWords_of_load {c : Chip} {d : Die} {x : Src} {a n : Nat}
    (h : ∀ i, i < n → c.load d x (a + 16 * i) 16 = (St.ok, (c.getWord (a + 16 * i)).toNat, c)) :
    c.loadWords d x a n = (St.ok, (List.range n).map fun i => c.getWord (a + 16 * i), c) := by
  induction n generalizing a with
  | zero => rfl
  | succ n ih =>
    have hfirst : c.load d x a 16 = _ := h 0 (by omega)
    have hrest := ih (a := a + 16) fun i hi => by
      rw [show a + 16 + 16 * i = a + 16 * (i + 1) by omega]
      exact h (i + 1) (by omega)
    rw [List.range_succ_eq_map, List.map_cons, List.map_map]
    simp [Chip.loadWords, hfirst, hrest, failed, joinSt, St.ok, Nat.mul_add, Nat.add_comm, Nat.add_assoc]

theorem field_lt {w : Nat} (v : BitVec w) (i n : Nat) : field v i n < 2 ^ n := Nat.mod_lt _ (Nat.two_pow_pos n)

/-! ### Bodies of the cam instructions without a transaction -/

theorem Chip.barred_none (c : Chip) (q : Queue) (tx : Bool) : c.barred q tx none = false := rfl

theorem Chip.barred_other {c : Chip} {q : Queue} {k : Option (Fin 4)} (h : k ≠ none) (hk : k ≠ c.txnOf q) :
    c.barred q true k = true := by
  cases k with
  | none => exact absurd rfl h
  | some k => simpa [Chip.barred] using fun e => hk e.symm

/-- Another cam than the one changed stays. -/
theorem Chip.modCam_other (c : Chip) (f : Cam → Cam) {n k : Nat} (hn : n < 32) (hk : k < 32) (h : k ≠ n) :
    vget (c.modCam n f).cams k = vget c.cams k := vget_vmod_other _ _ (by omega)

@[simp] theorem Chip.modCam_same (c : Chip) (n : Nat) (f : Cam → Cam) : vget (c.modCam n f).cams n = f (vget c.cams n) :=
  vget_vmod_same _ _ _

section
variable {q : Queue} {f : Insn} {d : Die} {b : Chip}

/-- CAM.LOAD past the checks of its operands. -/
theorem camLoadBody_direct (htx : f.tx = false) (hal : field f.op 0 32 % 16 = 0) (h1 : 1 ≤ field f.op 32 13)
    (h2 : field f.op 32 13 ≤ 4096) (hlo : 0x10000000 ≤ field f.op 0 32)
    (hhi : field f.op 0 32 + 16 * field f.op 32 13 ≤ 0x10100000) :
    camLoadBody q f d b = if (vget b.cams (field f.tgt 0 5)).armed || b.barred q false (vget b.cams (field f.tgt 0 5)).claim
          || decide (b.tabFree + (vget b.cams (field f.tgt 0 5)).table.length < field f.op 32 13) then .fail St.busy b
      else
        let r := b.loadWords d (Src.ofQueue q) (field f.op 0 32) (field f.op 32 13)
        if failed r.1 then .fail r.1 r.2.2
        else match tableOf r.2.1 with
          | none => .fail St.range r.2.2
          | some t => .done r.1 (BitVec.ofNat 64 (field f.op 32 13)) (r.2.2.modCam (field f.tgt 0 5) (·.load t)) := by
  unfold camLoadBody
  dsimp only
  rw [if_neg (by omega), if_neg (by omega), htx]
  rfl

theorem camArmBody_direct (htx : f.tx = false) :
    camArmBody q f d b = if !(vget b.cams (field f.tgt 0 5)).tabOk then .fail St.range b
      else if b.barred q true (vget b.cams (field f.tgt 0 5)).claim then .fail St.busy b
      else .done St.ok 0 (b.modCam (field f.tgt 0 5) (·.arm (b.look.getD 0))) := by
  unfold camArmBody
  rw [htx]

theorem camDisarmBody_direct (htx : f.tx = false) :
    camDisarmBody q f d b = if q = 5 then
        let r := b.mgtChange (.cam (field f.tgt 0 5)) 0 fun c => c.modCam (field f.tgt 0 5) Cam.disarm
        .done (if r.1 then St.ok else St.stale) 0 r.2
      else .done St.ok 0 ((if q = 7 && (vget b.cams (field f.tgt 0 5)).armed then b.setCamEvt 6 else b).modCam
        (field f.tgt 0 5) Cam.disarm) := by
  unfold camDisarmBody
  rw [htx]

theorem camNudgeBody_direct (htx : f.tx = false) :
    camNudgeBody q f d b = if b.barred q true (vget b.cams (field f.tgt 0 5)).claim then .fail St.busy b
      else .done St.ok (((vget b.cams (field f.tgt 0 5)).pend + f.op.setWidth 32).setWidth 64)
        (b.modCam (field f.tgt 0 5) (·.nudge (f.op.setWidth 32))) := by
  unfold camNudgeBody
  rw [htx]

end

/-! ### A management change that wins its contest (R133) -/

/-- The instruction that a management change of the same cc overrules ends STALE: its queue counts an error. -/
theorem Chip.restate_errs {c : Chip} {n : UnitNote} (h : (c.queue n.queue).wait = none) :
    c.keeps [.queues, .mem, .ecc, .nvs, .engEvt, .timeouts] (c.restate n)
      ∧ ((c.restate n).queue n.queue).errs = satAdd16 (c.queue n.queue).errs 1 := by
  have hret : c.notRetired n = false := by unfold Chip.notRetired; rw [h]
  have stale (d : Chip) (hk : c.keeps [.queues, .mem, .ecc, .nvs, .engEvt] d)
      (he : (d.queue n.queue).errs = (c.queue n.queue).errs) :
      c.keeps [.queues, .mem, .ecc, .nvs, .engEvt, .timeouts] (d.countStatus n.queue St.stale)
        ∧ ((d.countStatus n.queue St.stale).queue n.queue).errs = satAdd16 (c.queue n.queue).errs 1 := by
    obtain ⟨k, -, -, hq, -⟩ := Chip.countStatus_spec d n.queue St.stale
    refine ⟨(hk.mono (by decide)).trans (k.mono (by decide)), ?_⟩
    rw [hq, ← he]
    rfl
  unfold Chip.restate
  rw [if_neg (by simp [hret])]
  dsimp only
  split
  · have k := Chip.putWord_keeps c (0x28000000 + n.queue.val * 0x400 + field n.slot 0 6 * 16)
    exact stale _ ((k _).mono (by decide)) (congrArg QState.errs (Chip.queue_congr (k _ .queues (by decide)) n.queue))
  · obtain ⟨k, -, -, -, hq, -⟩ := Chip.ringWrite_spec c n.queue n.f.tag St.stale 0
    exact stale _ (k.mono (by decide)) (by rw [hq])

/-- A CAM.DISARM from Q5 that wins: the cam disarmed, its generation advanced once, the other instruction overruled. -/
theorem Chip.mgtChange_disarm_wins {c : Chip} {n : Nat} {u : UnitNote} (hn : n < 32)
    (hu : c.contest (.cam n) 0 = some (.lt, u)) (hun : u.unit = .cam n)
    (hv : c.mgt.expValid = true) (hg : c.mgt.expGen = u.gen) (hw : (c.queue u.queue).wait = none) :
    ∃ e, c.mgtChange (.cam n) 0 (fun c => c.modCam n Cam.disarm) = (true, e) ∧ c.noRecord e ∧
      (∀ k, k < 32 → k ≠ n → vget e.cams k = vget c.cams k) ∧ (vget e.cams n).armed = false ∧
      (vget e.cams n).gen = u.gen + 1 ∧ (e.queue u.queue).errs = satAdd16 (c.queue u.queue).errs 1 := by
  have hexp : c.mgtExpect u.gen = (true, (c.mgtExpect u.gen).2) := by rw [Chip.mgtExpect_eq, hv, hg]; simp
  obtain ⟨d, hd⟩ : ∃ d, d = ((c.mgtExpect u.gen).2.modCam n Cam.disarm).modCam n fun x => { x with gen := u.gen + 1 } := ⟨_, rfl⟩
  have hchange : c.mgtChange (.cam n) 0 (fun c => c.modCam n Cam.disarm) = (true, d.restate u) := by
    unfold Chip.mgtChange
    rw [hu]
    dsimp only
    rw [hexp]
    simp only [Chip.overrule, hun, hd]
    rfl
  have hkeep : c.keeps [.mgt, .cams] d := by
    subst hd
    intro p hp
    cases p <;> first | rfl | exact absurd hp (by decide)
  have hqueues := hkeep .queues (by decide)
  obtain ⟨hk, herrs⟩ := Chip.restate_errs (c := d) (n := u) (by rw [Chip.queue_congr hqueues]; exact hw)
  have hcams : (d.restate u).cams = d.cams := hk .cams (by decide)
  have hlic : (d.restate u).lic = c.lic := Eq.trans (hk .lic (by decide)) (hkeep .lic (by decide))
  refine ⟨_, hchange, ⟨congrArg Lic.buf hlic, congrArg Lic.wait hlic⟩, ?_, ?_, ?_, ?_⟩
  · intro k hk hne
    rw [hcams, hd, Chip.modCam_other _ _ hn hk hne, Chip.modCam_other _ _ hn hk hne]
    rfl
  · rw [hcams, hd]
    simp [Cam.disarm_armed]
  · rw [hcams, hd, Chip.modCam_same]
  · rw [herrs, Chip.queue_congr hqueues]

/-- Settles O16: each body past the checks of its operands, by whether the cam is armed, claimed or expected. -/
theorem camInstructions : Obligations.CamInstructions := by
  unfold Obligations.CamInstructions
  refine ⟨fun q f s b => ?_, fun q f s b => ?_⟩
  · dsimp only
    intro h hal h1 h2 hlo hhi htx
    have hb := camLoadBody_direct (q := q) (d := s.die) (b := b) htx hal h1 h2 hlo hhi
    refine ⟨fun ha => ?_, fun ha hc hroom hecc => ?_⟩
    · rw [ha, Bool.true_or, Bool.true_or, if_pos rfl] at hb
      exact insn_refused h hb
    · have hload := loadWords_of_load (c := b) (d := s.die) (x := Src.ofQueue q) (a := field f.op 0 32)
        (n := field f.op 32 13) fun i hi => load_profile (by omega) (by omega) (by omega) (hecc i hi)
      rw [ha, hc, Chip.barred_none, if_neg (by simpa using hroom), hload] at hb
      dsimp only at hb
      rw [if_neg (by decide)] at hb
      refine ⟨fun tab ht => ?_, fun ht => ?_⟩
      · rw [ht] at hb
        obtain ⟨t, hs, hcm⟩ := insn_done h hb (Chip.noRecord_of_keeps (b.modCam_keeps _ _) (by decide))
        exact ⟨t, _, hs, hcm, b.modCam_keeps _ _, Chip.modCam_same _ _ _,
          fun k hk hne => b.modCam_other _ (field_lt _ _ _) hk hne⟩
      · rw [ht] at hb
        exact insn_refused h hb
  · have hn : field f.tgt 0 5 < 32 := field_lt _ _ _
    refine ⟨fun h htx => ?arm, fun h htx h5 => ?disarm, fun u h htx hq _ hu hun hv hg hw => ?wins,
      fun h htx hq hg hu => ?stale, fun h htx => ?nudge⟩
    case arm =>
      have hb := camArmBody_direct (q := q) (d := s.die) (b := b) htx
      refine ⟨fun ht => ?_, fun ht hc => ?_⟩
      · rw [ht, Bool.not_false, if_pos rfl] at hb
        exact insn_refused h hb
      · rw [ht, hc, Chip.barred_none, Bool.not_true, if_neg (by decide), if_neg (by decide)] at hb
        obtain ⟨t, hs, hcm⟩ := insn_done h hb (Chip.noRecord_of_keeps (b.modCam_keeps _ _) (by decide))
        refine ⟨t, _, hs, hcm, b.modCam_keeps _ _, fun k hk hne => b.modCam_other _ hn hk hne, ?_, fun ha => ?_, fun ha => ?_⟩
        · rw [Chip.modCam_same]
          unfold Cam.arm
          split
          · assumption
          · rfl
        · rw [Chip.modCam_same, Cam.arm, if_pos ha]
        · rw [Chip.modCam_same, Cam.arm, if_neg (by simp [ha])]
    case disarm =>
      have hb := camDisarmBody_direct (q := q) (d := s.die) (b := b) htx
      have key : ∃ c : Chip, b.keeps [.mgt, .pos] c ∧ (q ≠ 5 → c.mgt = b.mgt) ∧ (q = 5 → c.mgt.expValid = false) ∧
          (q = 7 → (vget b.cams (field f.tgt 0 5)).armed = true → c.pos.evt.getLsbD 6 = true) ∧ (q ≠ 7 → c.pos = b.pos) ∧
          camDisarmBody q f s.die b = .done St.ok 0 (c.modCam (field f.tgt 0 5) Cam.disarm) := by
        by_cases hq : q = 5
        · obtain ⟨hg, hu⟩ := h5 hq
          rw [if_pos hq, Chip.mgtChange_good hu (.cam _) _ _ hg] at hb
          exact ⟨_, (b.mgtExpect_keeps _).mono (by decide), fun hn => absurd hq hn, fun _ => rfl,
            fun h7 => absurd (hq.symm.trans h7) (by decide), fun _ => rfl, hb⟩
        · rw [if_neg hq] at hb
          refine ⟨_, ?_, ?_, fun hn => absurd hn hq, ?_, ?_, hb⟩
          · split
            · intro p hp
              cases p <;> first | rfl | exact absurd hp (by decide)
            · exact Chip.keeps.refl _ _
          · intro _
            split
            · rfl
            · rfl
          · intro h7 ha
            rw [if_pos (by simp [h7, ha])]
            exact getLsbD_raised _ (by decide)
          · intro h7
            rw [if_neg (by simp [h7])]
      obtain ⟨c, hkc, hm1, hm2, hp1, hp2, hb⟩ := key
      have hcams : c.cams = b.cams := hkc .cams (by decide)
      have hkb : b.keeps [.cams, .mgt, .pos] (c.modCam (field f.tgt 0 5) Cam.disarm) :=
        (hkc.mono (by decide)).trans ((c.modCam_keeps _ _).mono (by decide))
      obtain ⟨t, hs, hcm⟩ := insn_done h hb (Chip.noRecord_of_keeps hkb (by decide))
      refine ⟨t, _, hs, hcm, hkb, fun k hk hne => ?_, fun ha => ?_, fun ha => ?_, hm1, hm2, hp1, hp2⟩
      · rw [Chip.modCam_other _ _ hn hk hne, hcams]
      · rw [Chip.modCam_same, hcams, Cam.disarm, if_pos ha]
      · rw [Chip.modCam_same, hcams, Cam.disarm, if_neg (by simp [ha])]
    case wins =>
      have hb := camDisarmBody_direct (q := q) (d := s.die) (b := b) htx
      obtain ⟨e, he, hrec, honly, harm, hgen, herrs⟩ := Chip.mgtChange_disarm_wins hn hu hun hv hg hw
      rw [if_pos hq, he] at hb
      obtain ⟨t, hs, hcm⟩ := insn_done h hb hrec
      exact ⟨t, e, hs, hcm, honly, harm, hgen, herrs⟩
    case stale =>
      have hb := camDisarmBody_direct (q := q) (d := s.die) (b := b) htx
      rw [if_pos hq, Chip.mgtChange_stale hu (.cam _) _ _ hg] at hb
      obtain ⟨t, hs, hcm⟩ := insn_done h hb (Chip.noRecord_of_keeps (b.mgtExpect_keeps _) (by decide))
      exact ⟨t, _, hs, hcm, b.mgtExpect_keeps _, rfl, Chip.mgtExpect_stale hg⟩
    case nudge =>
      have hb := camNudgeBody_direct (q := q) (d := s.die) (b := b) htx
      refine ⟨fun hc ht => ?_, fun hc => ?_⟩
      · rw [Chip.barred_other hc ht, if_pos rfl] at hb
        exact insn_refused h hb
      · rw [hc, Chip.barred_none, if_neg (by decide)] at hb
        obtain ⟨t, hs, hcm⟩ := insn_done h hb (Chip.noRecord_of_keeps (b.modCam_keeps _ _) (by decide))
        exact ⟨t, _, hs, hcm, b.modCam_keeps _ _, fun k hk hne => b.modCam_other _ hn hk hne, Chip.modCam_same _ _ _⟩

end Sys2Proof.Machine
end

section
namespace Sys2Proof.Machine

/-! ### A snapshot of a slot whose second word stands corrected (R120, R388) -/

/-- The check codes of the second word of slot 0 of the recorder. -/
def secondWord : Nat := slotAddr 0 / 16 + 1

/-- A device at work with one wrong bit in that word. -/
def oneBitWrong : State := ⟨[], Die.reset, { expectant with ecc := memWrite 0 expectant.ecc secondWord 1 }⟩

theorem oneBitWrong_meets :
    oneBitWrong.chip.endSwitch.mgtServed = true ∧ oneBitWrong.chip.endSwitch.mgt.stretch = false ∧
      oneBitWrong.chip.endSwitch.eccAt (slotAddr 0) = 0 ∧ memRead 0 oneBitWrong.chip.endSwitch.ecc secondWord = 1 := by
  decide +kernel

/-- The read of the first group takes the whole slot into the buffer, and the wrong bit is corrected. -/
theorem oneBitWrong_corrected :
    memRead 0 (oneBitWrong.after (.licMgtSlotRead 0)).chip.ecc secondWord = 0 := by decide +kernel

/-- Refutes O37: LIC_MGT_SLOT_READ need not change the management port alone. The snapshot reads the four words of its slot
(R388), and where one of them but the first has a wrong bit, the read corrects it and with it the check codes of the SRAM.
The statement asks good check codes of the first word alone. -/
theorem not_theManagementPortTakesItsCommands : ¬ Obligations.TheManagementPortTakesItsCommands := by
  unfold Obligations.TheManagementPortTakesItsCommands
  rintro ⟨-, h, -⟩
  obtain ⟨hserved, hstretch, hgood, hwrong⟩ := oneBitWrong_meets
  obtain ⟨-, -, -, hslot⟩ := h oneBitWrong hserved hstretch
  obtain ⟨t, ht, ⟨-, -, hkeeps⟩, -⟩ := hslot 0 hgood
  have hecc : t.chip.ecc = oneBitWrong.chip.endSwitch.ecc := hkeeps .ecc (by decide)
  have hcorrected := oneBitWrong_corrected
  rw [State.after_eq ht, hecc, hwrong] at hcorrected
  exact absurd hcorrected (by decide)

end Sys2Proof.Machine
end

section
namespace Sys2Proof.Machine

/-! ### Test mode while a frond masters the IRP (R137, R329) -/

/-- The master of an enabled IRP leaves RUN: the IRP drives its answers to no one. -/
theorem Chip.placeFronds_hush {c : Chip} (hen : c.scr.irpEn = true)
    (hrun : (vget c.fronds c.scr.irpMast.toNat).st = .run) : (c.placeFronds 0xFFFFFFFF .safe).scr.hush = true := by
  have hmast : c.scr.irpMast.toNat < 32 := c.scr.irpMast.isLt
  have hmask : (0xFFFFFFFF : Word).getLsbD c.scr.irpMast.toNat = true := by
    rw [show (0xFFFFFFFF : Word) = BitVec.allOnes 32 from rfl, BitVec.getLsbD_allOnes]
    exact decide_eq_true hmast
  have hchanging : (c.changing 0xFFFFFFFF .safe).getLsbD c.scr.irpMast.toNat = true := by
    rw [Chip.getLsbD_changing _ _ _ hmast, hrun, hmask]
    rfl
  obtain ⟨d, hd⟩ : ∃ d, d = (maskList (c.changing 0xFFFFFFFF .safe)).foldl
      (fun c n => c.modFrond n fun f => { f with st := .safe, gen := f.gen + 1 }) c := ⟨_, rfl⟩
  have hscr : d.scr = c.scr := by
    rw [hd]
    exact keeps_foldl (ps := [.fronds]) (fun c n => c.modFrond_keeps n _) _ c .scr (by decide)
  have hplaced : c.placeFronds 0xFFFFFFFF .safe = d.hushIrp (c.changing 0xFFFFFFFF .safe) := by
    rw [hd]
    rfl
  rw [hplaced]
  unfold Chip.hushIrp
  rw [hscr, hen, hchanging]
  rfl

/-- The entry into test mode does to the scrubber's and the IRP's state what the fronds' change to SAFE does. -/
theorem Chip.enterTest_scr (c : Chip) (ir : BitVec 10) :
    (c.enterTest ir).scr = (c.placeFronds 0xFFFFFFFF .safe).scr := by
  have hset : (c.setFronds 0xFFFFFFFF .safe).scr = (c.placeFronds 0xFFFFFFFF .safe).scr :=
    Chip.settle_keeps _ _ .scr (by decide)
  rw [← hset]
  generalize hd : (c.setFronds 0xFFFFFFFF .safe).disarmAll = d
  have hscr : d.scr = (c.setFronds 0xFFFFFFFF .safe).scr := by rw [← hd]; rfl
  unfold Chip.enterTest
  dsimp only
  rw [hd, ← hscr]
  have hon : (d.settle { d with jtg := { d.jtg with test := true } }).scr = d.scr := Chip.settle_keeps _ _ .scr (by decide)
  generalize d.settle { d with jtg := { d.jtg with test := true } } = on at hon
  split
  · exact (Chip.onceGen_keeps c _ .scr (by decide)).trans hon
  · exact (Chip.onceGen_keeps c _ .scr (by decide)).trans hon

/-- CLAMP on a part whose JTAG is not locked enters test mode. -/
theorem clamp_scr {s t : State} (hgood : s.chip.endSwitch.pwr.pgood = true) (hlock : s.die.jtagLock = false)
    (ht : exec .clamp s = .next t) : t.chip.scr = ((s.chip.endSwitch.irUpdate 0x007).placeFronds 0xFFFFFFFF .safe).scr := by
  have hexec : exec .clamp s = execClamp s := by rfl
  rw [hexec] at ht
  unfold execClamp testRow tap onChip inFlight at ht
  simp only [hgood, hlock, if_true, Bool.false_eq_true, if_false] at ht
  cases ht
  exact Chip.enterTest_scr _ _

/-- A device at work with the IRP enabled and its master, frond 0, in RUN. -/
def mastered : State :=
  ⟨[], Die.reset,
    { expectant with
      fronds := vmod expectant.fronds 0 fun f => { f with st := .run }
      scr := { expectant.scr with irpEn := true, irpMast := 0 } }⟩

theorem mastered_meets :
    mastered.chip.endSwitch.pwr.pgood = true ∧ mastered.die.jtagLock = false ∧
      mastered.chip.endSwitch.scr.hush = false ∧ (mastered.chip.endSwitch.irUpdate 0x007).scr.irpEn = true ∧
      (vget (mastered.chip.endSwitch.irUpdate 0x007).fronds
        (mastered.chip.endSwitch.irUpdate 0x007).scr.irpMast.toNat).st = .run := by decide +kernel

/-- Refutes O40: the entry into test mode changes more than the JTAG port, the fronds, the cams, the pins, their banks and the
recorder. It puts every frond in SAFE, and where the master of an enabled IRP leaves RUN so, the IRP marks that it drives its
answers to no one. -/
theorem not_boundaryScanInstructions : ¬ Obligations.BoundaryScanInstructions := by
  unfold Obligations.BoundaryScanInstructions
  intro h
  obtain ⟨hgood, hunlocked, hquiet, hen, hrun⟩ := mastered_meets
  obtain ⟨-, -, htest⟩ := h mastered 0 0 hgood
  obtain ⟨-, henter⟩ := htest .clamp 0x007 (by simp)
  obtain ⟨t, ht, ⟨-, -, hkeeps⟩, -⟩ := henter hunlocked
  have hscr : t.chip.scr = mastered.chip.endSwitch.scr := hkeeps .scr (by decide)
  have hhush := Chip.placeFronds_hush hen hrun
  rw [← clamp_scr hgood hunlocked ht, hscr, hquiet] at hhush
  exact absurd hhush (by decide)

end Sys2Proof.Machine
end

section
namespace Sys2Proof.Machine

/-! ### A warm reset while MGT_SCL is held low (R106, R128, R437) -/

/-- The reset of the core releases MGT_SCL. -/
theorem Chip.holdReset_stretch (c : Chip) : c.holdReset.mgt.stretch = false := rfl

/-- WARM_RESET of a part at work releases MGT_SCL. -/
theorem warmReset_stretch {s t : State} {part : BitVec 3} {cross : List (BitVec 3 × BitVec 128)} {c : Chip}
    (hc : s.chip.endSwitch = c) (hgood : c.pwr.pgood = true) (hstep : c.pwr.step = 0)
    (hclk : c.clk.st ≠ .hold) (hheld : c.pwr.held = false) (ht : exec (.warmReset part cross) s = .next t) :
    t.chip.mgt.stretch = false := by
  have hexec : exec (.warmReset part cross) s = execWarmReset s part cross := by rfl
  have hlow : c.resetLow part cross = c.settle
      ((({ c with pwr := { c.pwr with resetN := false } } : Chip).cutFrames part cross).holdPins.holdReset) := by
    unfold Chip.resetLow
    dsimp only
    rw [if_neg (by simp [hgood, hstep]), if_neg (by simpa using hclk), if_neg (by simp [hheld])]
  rw [hexec] at ht
  unfold execWarmReset onChip inFlight at ht
  cases ht
  show (s.chip.endSwitch.resetLow part cross).mgt.stretch = false
  rw [hc, hlow, Chip.settle_keeps _ _ .mgt (by decide)]
  exact Chip.holdReset_stretch _

/-- A device at work with Q5 full and MGT_SCL held low, a store waiting for a slot. -/
def storeWaits : State :=
  ⟨[], Die.reset,
    { expectant.modQ 5 fun x => { x with words := List.replicate 32 0 } with
      mgt := { expectant.mgt with stretch := true, more := [5], cur := 0x00070000 } }⟩

theorem storeWaits_meets :
    storeWaits.chip.endSwitch.pwr.pgood = true ∧ storeWaits.chip.endSwitch.pwr.step = 0 ∧
      storeWaits.chip.endSwitch.clk.st ≠ .hold ∧ storeWaits.chip.endSwitch.pwr.held = false ∧
      storeWaits.chip.endSwitch.mgt.stretch = true := by decide +kernel

/-- Refutes O45: WARM_RESET need not leave the management port as it is. Where MGT_SCL is held low for a store that waits for
a slot of Q5, the reset drops the store and releases the line (R106), and the store counts as partly received though no
operand of the row names its port. -/
theorem not_sensorsResetAndSafeBalls : ¬ Obligations.SensorsResetAndSafeBalls := by
  unfold Obligations.SensorsResetAndSafeBalls
  rintro ⟨-, h⟩
  obtain ⟨hgood, hstep, hclk, hheld, hstretch⟩ := storeWaits_meets
  obtain ⟨hreset, -⟩ := h storeWaits 0 [] hgood
  obtain ⟨t, ht, -, -, -, -, -, -, -, -, -, -, -, -, hmgt, -⟩ := hreset hstep hclk hheld
  have hreleased := warmReset_stretch rfl hgood hstep hclk hheld ht
  rw [hmgt, hstretch] at hreleased
  exact absurd hreleased (by decide)

end Sys2Proof.Machine
end

section
namespace Sys2Proof.Machine

/-! ### A clock period that a row names (R274, log entry 6) -/

theorem Chip.keepers_pin (c : Chip) {p : Nat} (hp : p < 192) :
    ∃ v, vget c.keepers.pins p = { vget c.pins p with keep := v } := by
  unfold Chip.keepers
  rw [vget_vmapi _ _ hp]
  split
  · exact ⟨_, rfl⟩
  · exact ⟨_, rfl⟩

/-- Line time comes to the cc at `t`: with it go the signals of one cc, the levels of keepers and the jump of the last cc. -/
theorem Chip.advance_passes (c : Chip) (t : BitVec 64) : c.passes [] (c.advance t) := by
  unfold Chip.advance
  split
  · refine ⟨?_, .inr fun p hp => ?_, .inr rfl⟩
    · intro p hp
      cases p <;> first | rfl | exact absurd hp (by decide)
    · obtain ⟨v, hv⟩ := c.keepers_pin hp
      have hpin : vget c.keepers.newCc.pins p = { vget c.pins p with keep := v } := hv
      dsimp only
      rw [hpin]
  · exact ⟨Chip.keeps.refl _ _, .inr fun _ _ => rfl, .inr rfl⟩

theorem Chip.advance_keeps (c : Chip) (t : BitVec 64) : c.keeps [.lt, .pulses, .scr, .pins, .pos] (c.advance t) :=
  (c.advance_passes t).1

@[simp] theorem Chip.advance_cams (c : Chip) (t : BitVec 64) : (c.advance t).cams = c.cams :=
  c.advance_keeps t .cams (by decide)

theorem Chip.advance_pos (c : Chip) (t : BitVec 64) : (c.advance t).pos = { c.pos with jump := (c.advance t).pos.jump } :=
  (c.advance_passes t).2.2.resolve_left (by simp)

/-- The event time of a crossing does not look at the jumps of the last cc. -/
theorem Pos.eventTime_jump (p : Pos) (j : Option Jump) : ({ p with jump := j } : Pos).eventTime = p.eventTime := rfl

theorem Chip.advance_eventTime (c : Chip) (t : BitVec 64) : (c.advance t).pos.eventTime = c.pos.eventTime := by
  rw [Chip.advance_pos, Pos.eventTime_jump]

/-- What follows in the cc that a row names. -/
theorem Chip.passes.then {a b e : Chip} {ps : List Part} (h : a.passes [] b) (hk : b.keeps (.pulses :: ps) e)
    (hpins : .pins ∈ ps ∨ e.pins = b.pins) (hpos : .pos ∈ ps ∨ e.pos = b.pos) : a.passes ps e := by
  obtain ⟨hkeeps, hkeep, hjump⟩ := h
  refine ⟨(hkeeps.mono (by simp)).trans (hk.mono ?_), ?_, ?_⟩
  · intro p hp
    simp only [List.mem_cons, List.mem_append] at hp ⊢
    tauto
  · exact hpins.imp_right fun he p hp => by rw [he]; exact hkeep.resolve_left (by simp) p hp
  · exact hpos.imp_right fun he => by rw [he]; exact hjump.resolve_left (by simp)

theorem Chip.advance_moving (c : Chip) (t : BitVec 64) : (c.advance t).moving = c.moving := by
  unfold Chip.moving
  rw [Chip.advance_pos]

/-! ### A firing (R279 to R282) -/

theorem Chip.bindFire_keeps (c : Chip) (n cam : Nat) (e : BitVec 64) : c.keeps [.pins, .edg, .lic] (c.bindFire n cam e) := by
  unfold Chip.bindFire
  dsimp only
  split
  · exact Chip.keeps.refl _ _
  · split
    · intro p hp
      cases p <;> first | rfl | exact absurd hp (by decide)
    · split
      · intro p hp
        cases p <;> first | rfl | exact absurd hp (by decide)
      · exact (c.modPin_keeps n _).mono (by decide)

theorem Chip.handEvent_keeps (c : Chip) (cam : Nat) (e : BitVec 64) : c.keeps [.pins, .edg, .lic] (c.handEvent cam e) := by
  unfold Chip.handEvent
  refine keeps_foldl (fun c n => ?_) _ c
  split
  · exact Chip.keeps.refl _ _
  · exact ((c.modPin_keeps n _).mono (by decide)).trans (Chip.bindFire_keeps _ _ _ _)

/-- What a cam is once it has fired for a crossing in the cc at line time `now`. -/
def Cam.fired (k : Cam) (x : Crossing) (delayed : Bool) (e now : BitVec 64) : Cam :=
  { k with
    latch := some x.x
    last := lastWord e x delayed ((k.table[x.index]?.map (·.mark)).getD 0) (x.x + k.offset)
    fire := satAdd k.fire 1
    coll := if delayed then satAdd k.coll 1 else k.coll
    firedAt := some now }

/-- A cam fired, its signal and the event of a delayed firing, before its source and the EPUs take it. -/
def Chip.markFired (c : Chip) (n : Nat) (x : Crossing) (delayed : Bool) : Chip :=
  { c with
    cams := vmod c.cams n fun k => k.fired x delayed (c.pos.eventTime x.x k.offset x.fwd c.now) c.now
    pos := if delayed then { c.pos with evt := c.pos.evt ||| 4 } else c.pos
    pulses := c.pulses ||| BitVec.ofNat 64 (2 ^ n) }

theorem Chip.markFired_keeps (c : Chip) (n : Nat) (x : Crossing) (delayed : Bool) :
    c.keeps [.cams, .pos, .pulses] (c.markFired n x delayed) := by
  intro p hp
  cases p <;> first | rfl | exact absurd hp (by decide)

theorem Chip.fireCam_eq (c : Chip) (n : Nat) (x : Crossing) (delayed : Bool) :
    c.fireCam n x delayed = ((c.markFired n x delayed).fireSource 1 n).handEvent n
      (c.pos.eventTime x.x (vget c.cams n).offset x.fwd c.now) := by
  unfold Chip.fireCam
  dsimp only
  congr 2
  unfold Chip.markFired vmod
  cases delayed
  · rfl
  · rfl

/-- What the source of a firing and the EPUs take changes flags and pins. -/
theorem Chip.fireCam_keeps (c : Chip) (n : Nat) (x : Crossing) (delayed : Bool) :
    (c.markFired n x delayed).keeps [.flags, .pins, .edg, .lic] (c.fireCam n x delayed) := by
  rw [Chip.fireCam_eq]
  exact ((Chip.fireSource_keeps _ 1 n).mono (by decide)).trans ((Chip.handEvent_keeps _ _ _).mono (by decide))

/-! ### Crossings that wait (R281) -/

/-- A chip with crossings added to those that wait at a cam. -/
def Chip.addWaiting (c : Chip) (n : Nat) (xs : List Crossing) : Chip :=
  c.modCam n fun k => { k with waiting := k.waiting ++ xs }

theorem vmod_vmod {α : Type} {m : Nat} [NeZero m] (v : Vector α m) (i : Nat) (f g : α → α) :
    vmod (vmod v i f) i g = vmod v i fun x => g (f x) := by
  refine vget_ext fun j _ => ?_
  simp only [vget_vmod]
  split
  · rfl
  · rfl

/-- Crossings that find room wait. -/
theorem Chip.holdCrossings_room {n : Nat} (xs : List Crossing) (c : Chip)
    (h : (vget c.cams n).waiting.length + xs.length ≤ 8) : c.holdCrossings n xs = c.addWaiting n xs := by
  induction xs generalizing c with
  | nil =>
    show c = c.modCam n fun k => { k with waiting := k.waiting ++ [] }
    simp only [List.append_nil, Chip.modCam, vmod_id]
  | cons x r ih =>
    simp only [List.length_cons] at h
    have hstep : c.holdCrossings n (x :: r) = (c.addWaiting n [x]).holdCrossings n r := by
      unfold Chip.holdCrossings
      rw [List.foldl_cons, if_pos (by omega)]
      rfl
    rw [hstep, ih]
    · simp [Chip.addWaiting, Chip.modCam, vmod_vmod]
    · simp only [Chip.addWaiting, Chip.modCam_same, List.length_append, List.length_singleton]
      omega

/-- A cam whose latch has been judged and whose window ends at `q`. -/
def Cam.tested (k : Cam) (q : BitVec 64) : Cam := { k.release q with prevQ := q }

/-- What a test leaves of a cam. -/
theorem Cam.tested_same (k : Cam) (q : BitVec 64) : ∃ l, k.tested q = { k with latch := l, prevQ := q } := by
  unfold Cam.tested Cam.release
  split
  · split
    · exact ⟨_, rfl⟩
    · exact ⟨_, rfl⟩
  · exact ⟨_, rfl⟩

/-! ### A row of an armed cam -/

/-- A table of good entries is read as it stands. -/
theorem Chip.readTable_good {c : Chip} {n : Nat} (h : ∀ b, b ∈ (vget c.cams n).table → b.ecc = 0) : c.readTable n = c := by
  unfold Chip.readTable
  dsimp only
  have hbad : ((vget c.cams n).table.mapIdx fun i b => (i, b.ecc)).filter (fun e => e.2 != 0) = [] := by
    rw [List.filter_eq_nil_iff]
    intro e he
    obtain ⟨i, hi, rfl⟩ := List.mem_mapIdx.1 he
    simp [h _ (List.getElem_mem hi)]
  rw [hbad]

/-- The row of an armed cam that has not fired in the cc, its table good. -/
theorem Chip.camRow_armed {c : Chip} {n : Nat} {t : BitVec 64} {f : Chip → Option Chip} (hon : c.coreOn = true)
    (ha : (vget c.cams n).armed = true) (hf : (vget c.cams n).firedNow t = false)
    (hecc : ∀ b, b ∈ (vget c.cams n).table → b.ecc = 0) : c.camRow n t f = (f (c.advance t)).getD c := by
  unfold Chip.camRow
  have hread : (c.advance t).readTable n = c.advance t := Chip.readTable_good (by simpa using hecc)
  simp [hon, ha, hf, hread]

theorem Chip.camRow_disarmed {c : Chip} {n : Nat} {t : BitVec 64} {f : Chip → Option Chip}
    (ha : (vget c.cams n).armed = false) : c.camRow n t f = c := by
  unfold Chip.camRow
  simp [ha]

/-- The cam that a firing of cam `k` leaves, its latch judged and its window tested as in `k`, with `rest` still to fire. -/
structure CamFires (c a e : Chip) (n : Nat) (k : Cam) (x : Crossing) (rest : List Crossing) (delayed : Bool) : Prop where
  keeps   : c.keeps [.lt, .pulses, .scr, .cams, .pos, .flags, .pins, .edg, .lic] e
  lt      : e.lt = a.lt
  signal  : e.pulses.getLsbD n = true
  others  : ∀ j, j < 32 → j ≠ n → vget e.cams j = vget c.cams j
  cam     : vget e.cams n =
    { k.fired x delayed (c.pos.eventTime x.x k.offset x.fwd a.now) a.now with waiting := rest }
  pos     : e.pos = if delayed then { a.pos with evt := a.pos.evt ||| 4 } else a.pos

theorem getLsbD_signal (v : BitVec 64) {n : Nat} (hn : n < 64) : (v ||| BitVec.ofNat 64 (2 ^ n)).getLsbD n = true := by
  rw [BitVec.getLsbD_or, BitVec.getLsbD_ofNat, Nat.testBit_two_pow_self]
  simp [hn]

/-- A firing in the cc that a row names. -/
theorem CamFires.of_fireCam {c : Chip} {t : BitVec 64} {n : Nat} {g : Cam → Cam} {x : Crossing} {delayed : Bool} (hn : n < 32) :
    CamFires c (c.advance t) (((c.advance t).modCam n g).fireCam n x delayed) n (g (vget c.cams n)) x
      (g (vget c.cams n)).waiting delayed := by
  obtain ⟨d, hd⟩ : ∃ d, d = (c.advance t).modCam n g := ⟨_, rfl⟩
  rw [← hd]
  have hadv : c.keeps [.lt, .pulses, .scr, .cams, .pos, .pins] d := by
    subst hd
    exact ((c.advance_keeps t).mono (by decide)).trans (((c.advance t).modCam_keeps n g).mono (by decide))
  have hfired := d.fireCam_keeps n x delayed
  have hcams : (d.fireCam n x delayed).cams = _ := hfired .cams (by decide)
  have hcam : vget d.cams n = g (vget c.cams n) := by rw [hd, Chip.modCam_same, Chip.advance_cams]
  have hpos : d.pos = (c.advance t).pos := by rw [hd, Chip.modCam_pos]
  have hlt : d.lt = (c.advance t).lt := by rw [hd, Chip.modCam_lt]
  constructor
  · exact (hadv.mono (by decide)).trans (((d.markFired_keeps n x delayed).mono (by decide)).trans (hfired.mono (by decide)))
  · exact (hfired .lt (by decide)).trans hlt
  · rw [show (d.fireCam n x delayed).pulses = _ from hfired .pulses (by decide)]
    exact getLsbD_signal _ (by omega)
  · intro j hj hne
    have hmod : n % 32 ≠ j % 32 := by omega
    rw [hcams, Chip.markFired, vget_vmod_other _ _ hmod, hd, Chip.modCam_other _ _ hn hj hne, Chip.advance_cams]
  · rw [hcams, Chip.markFired, vget_vmod_same, hcam, hpos, show d.now = (c.advance t).now from congrArg LineTime.stamp hlt]
    rw [Chip.advance_eventTime]
    rfl
  · rw [show (d.fireCam n x delayed).pos = _ from hfired .pos (by decide), Chip.markFired, hpos]

/-- So with crossings that then wait. -/
theorem CamFires.addWaiting {c a e : Chip} {n : Nat} {k : Cam} {x : Crossing} {rest : List Crossing} {delayed : Bool}
    (hn : n < 32) (h : CamFires c a e n k x rest delayed) (r : List Crossing) :
    CamFires c a (e.addWaiting n r) n k x (rest ++ r) delayed := by
  obtain ⟨hkeeps, hlt, hsignal, hothers, hcam, hpos⟩ := h
  refine ⟨hkeeps.trans ((e.modCam_keeps n _).mono (by decide)), hlt, hsignal, fun j hj hne => ?_, ?_, hpos⟩
  · rw [Chip.addWaiting, Chip.modCam_other _ _ hn hj hne, hothers j hj hne]
  · rw [Chip.addWaiting, Chip.modCam_same, hcam]

/-- CAM.LASTn holds the event time (Table CAM-6). -/
theorem lastWord_event (e : BitVec 64) (x : Crossing) (delayed : Bool) (mark : BitVec 16) (xa : BitVec 64) :
    (lastWord e x delayed mark xa).extractLsb' 0 64 = e := BitVec.extractLsb'_append_eq_right

/-- It holds whether the firing was delayed. -/
theorem lastWord_delayed (e : BitVec 64) (x : Crossing) (delayed : Bool) (mark : BitVec 16) (xa : BitVec 64) :
    (lastWord e x delayed mark xa).getLsbD 78 = delayed := by
  unfold lastWord
  have above {m n : Nat} (a : BitVec m) (b : BitVec n) (i : Nat) : (a ++ b).getLsbD (n + i) = a.getLsbD i := by
    simp [BitVec.getLsbD_append]
  refine (above _ e 14).trans ((above _ (BitVec.ofNat 12 x.index) 2).trans ((above _ _ 0).trans ?_))
  rw [BitVec.getLsbD_append]
  cases delayed
  · rfl
  · rfl

section
variable {a : Chip} {n : Nat} {q : BitVec 64} (hq : a.look.getD 0 = q)
include hq

/-- The window of a cam that crosses nothing. -/
theorem Chip.camWindow_nil (hx : ((vget a.cams n).release q).crossings q = []) : a.camWindow n = none := by
  unfold Chip.camWindow
  dsimp only
  rw [hq, hx]

/-- The window of a cam whose first crossing is `x`. -/
theorem Chip.camWindow_cons {x : Crossing} {r : List Crossing} (hx : ((vget a.cams n).release q).crossings q = x :: r) :
    a.camWindow n = some (((a.modCam n (Cam.tested · q)).fireCam n x false).holdCrossings n r) := by
  unfold Chip.camWindow
  dsimp only
  rw [hq, hx]
  rfl

/-- The oldest waiting crossing of a cam whose window crosses nothing. -/
theorem Chip.camDelayed_cons {x : Crossing} {r : List Crossing} (hx : ((vget a.cams n).release q).crossings q = [])
    (hw : (vget a.cams n).waiting = x :: r) (hl : (vget a.cams n).latch ≠ some x.x) :
    a.camDelayed n = some ((a.modCam n fun k => { k with waiting := r }).fireCam n x true) := by
  unfold Chip.camDelayed
  rw [Chip.camWindow_nil hq hx]
  dsimp only
  rw [hw, List.dropWhile_cons_of_neg (by simpa using hl)]
  simp

end

theorem Chip.camDelayed_none {c : Chip} {n : Nat} (hw : (vget c.cams n).waiting = []) : c.camDelayed n = none := by
  unfold Chip.camDelayed
  dsimp only
  rw [hw]
  split
  · rfl
  · rfl

/-! ### The boundary (R284) -/

theorem Chip.camOnce_keeps (old new : Chip) : new.keeps [.cams, .memo] (old.camOnce new) := by
  intro p hp
  cases p <;> first | rfl | exact absurd hp (by decide)

/-- A change of cams in a cc advances the generation of a cam that has not advanced it in that cc. -/
theorem Chip.camOnce_cam (old new : Chip) {j : Nat} (hj : j < 32) :
    vget (old.camOnce new).cams j =
      if new.memo.cams.getLsbD j && (vget new.cams j).gen != (vget old.cams j).gen then
        { vget new.cams j with gen := (vget old.cams j).gen }
      else vget new.cams j := by
  unfold Chip.camOnce
  dsimp only
  rw [vget_vmapi _ _ hj]
  rfl

section
variable (a : Chip)

/-- The chip in the boundary cc, before the generations that have advanced in that cc already are put back. -/
def Chip.applyPends (a : Chip) : Chip :=
  { a with
    pos := { a.pos with bndQ := a.look.getD 0 }
    cams := vmapi (fun _ k => Cam.applyPend a k) a.cams
    pulses := a.pulses ||| BitVec.ofNat 64 (2 ^ 44) }

theorem Chip.boundary_cross {a : Chip} {x : BitVec 64} (hm : a.moving = true)
    (hx : crossFwd a.pos.bndQ (a.look.getD 0) 0 = some x) : a.boundary = some (a.camOnce a.applyPends) := by
  unfold Chip.boundary
  simp only [hm, hx]
  rfl

theorem Chip.boundary_idle {a : Chip} (h : a.moving = false ∨ crossFwd a.pos.bndQ (a.look.getD 0) 0 = none) :
    a.boundary = none := by
  unfold Chip.boundary
  dsimp only
  rcases h with h | h
  · rw [if_pos (by rw [h]; rfl)]
  · rw [if_pos (by rw [h]; simp)]

theorem Chip.applyPends_keeps : a.keeps [.pos, .cams, .pulses] a.applyPends := by
  intro p hp
  cases p <;> first | rfl | exact absurd hp (by decide)

theorem Chip.applyPends_memo : a.applyPends.memo = a.memo := rfl

/-- A cam after the boundary: its pending offset applied, its generation advanced once in the cc. -/
theorem Chip.boundary_cam {j : Nat} (hj : j < 32) :
    vget (a.camOnce a.applyPends).cams j =
      let m := vget a.cams j
      if m.pend = 0 then m else
        { m with
          off := m.off + m.pend
          pend := 0
          gen := if a.memo.cams.getLsbD j then m.gen else m.gen + 1
          prevQ := a.windowStart m.prevQ } := by
  have hcam : vget a.applyPends.cams j = Cam.applyPend a (vget a.cams j) := vget_vmapi _ _ hj
  rw [Chip.camOnce_cam _ _ hj, hcam, Chip.applyPends_memo]
  generalize vget a.cams j = m
  dsimp only
  unfold Cam.applyPend
  by_cases hp : m.pend = 0
  · rw [if_pos hp, if_pos hp, if_neg (by simp)]
  · have hmoved : (m.gen + 1 != m.gen) = true := by simp
    rw [if_neg hp, if_neg hp]
    dsimp only
    rw [hmoved, Bool.and_true]
    cases a.memo.cams.getLsbD j
    · rfl
    · rfl

end

theorem Pos.at_jump (p : Pos) (j : Option Jump) : ({ p with jump := j } : Pos).at = p.at := rfl

/-- Where the window of a cam starts that a change in the cc gives it. -/
theorem Chip.windowStart_eq {a : Chip} {q w : BitVec 64} {p : BitVec 64 → BitVec 64} (hq : a.look.getD 0 = q)
    (hp : a.pos.at = p) : a.windowStart w = if w = q then q else match a.pos.jump with
        | some d => d.start
        | none => p (a.now + 256 - BitVec.ofNat 64 a.lt.len) := by
  unfold Chip.windowStart Chip.lookPrev
  rw [hq, hp]
  split
  · assumption
  · cases a.pos.jump
    · rfl
    · rfl

theorem Chip.advance_at (c : Chip) (t : BitVec 64) : (c.advance t).pos.at = c.pos.at := by
  rw [Chip.advance_pos, Pos.at_jump]

/-! ### The latch (R279) -/

/-- A latch empties once the cam lies its hysteresis or more from the latched position. -/
theorem Cam.release_far {k : Cam} {q x : BitVec 64} (hl : k.latch = some x)
    (h : field k.cfg 0 16 * 256 ≤ (q - k.offset - x).toInt.natAbs) : k.release q = { k with latch := none } := by
  unfold Cam.release
  rw [hl]
  exact if_pos h

theorem Cam.release_near {k : Cam} {q x : BitVec 64} (hl : k.latch = some x)
    (h : (q - k.offset - x).toInt.natAbs < field k.cfg 0 16 * 256) : k.release q = k := by
  unfold Cam.release
  rw [hl]
  exact if_neg (Nat.not_le.2 h)

/-- The latch of a cam judged in the cc of `a`, which a row finds as `c`. -/
def Chip.judgeLatch (a c : Chip) (n : Nat) : Chip :=
  match a.look with
  | some q =>
    if c.coreOn && ((vget c.cams n).release q).latch.isNone && (vget c.cams n).latch.isSome then a.modCam n (·.release q) else c
  | none => c

theorem Chip.judgeLatch_far {a c : Chip} {n : Nat} {q x : BitVec 64} (hon : c.coreOn = true) (hq : a.look = some q)
    (hl : (vget c.cams n).latch = some x)
    (h : field (vget c.cams n).cfg 0 16 * 256 ≤ (q - (vget c.cams n).offset - x).toInt.natAbs) :
    a.judgeLatch c n = a.modCam n (·.release q) := by
  unfold Chip.judgeLatch
  rw [hq]
  dsimp only
  rw [Cam.release_far hl h, if_pos (by simp [hon, hl])]

theorem Chip.judgeLatch_near {a c : Chip} {n : Nat} {q x : BitVec 64} (hq : a.look = some q)
    (hl : (vget c.cams n).latch = some x)
    (h : (q - (vget c.cams n).offset - x).toInt.natAbs < field (vget c.cams n).cfg 0 16 * 256) :
    a.judgeLatch c n = c := by
  unfold Chip.judgeLatch
  rw [hq]
  dsimp only
  rw [Cam.release_near hl h, if_neg (by simp [hl])]

theorem Chip.look_some {c : Chip} (h : c.pos.st ≠ .none) : ∃ q, c.look = some q := by
  unfold Chip.look
  split
  · exact absurd (by assumption) h
  · exact ⟨_, rfl⟩
  · exact ⟨_, rfl⟩

/-! ### The rows -/

section
variable {s : State} {n : BitVec 5} {t : BitVec 64}

theorem exec_camFire : exec (.camFire n t) s = execCamFire n t s := by rfl

theorem exec_camDelayedFiring : exec (.camDelayedFiring n t) s = execCamDelayedFiring n t s := by rfl

theorem exec_camBoundary : exec (.camBoundary t) s = execCamBoundary t s := by rfl

theorem exec_hysteresisLatchEmpty : exec (.hysteresisLatchEmpty n t) s = execHysteresisLatchEmpty n t s := by rfl

theorem exec_camFire_row (h : s.chip.endSwitch.moving = true) : exec (.camFire n t) s =
    .next { s with chip := s.chip.endSwitch.camRow n.toNat t fun c => c.camWindow n.toNat } := by
  rw [exec_camFire]
  unfold execCamFire onChip inFlight
  dsimp only
  rw [h, Bool.not_true, if_neg (by decide)]

theorem exec_camFire_disarmed (h : (vget s.chip.endSwitch.cams n.toNat).armed = false) :
    exec (.camFire n t) s = .next { s with chip := s.chip.endSwitch } := by
  rw [exec_camFire]
  unfold execCamFire onChip inFlight
  dsimp only
  rw [Chip.camRow_disarmed h, ite_self]

theorem exec_camDelayedFiring_row : exec (.camDelayedFiring n t) s =
    .next { s with chip := s.chip.endSwitch.camRow n.toNat t fun c => c.camDelayed n.toNat } := by
  rw [exec_camDelayedFiring]
  unfold execCamDelayedFiring onChip inFlight
  dsimp only

theorem exec_camBoundary_row (h : s.chip.endSwitch.coreOn = true) : exec (.camBoundary t) s =
    .next { s with chip := ((s.chip.endSwitch.advance t).boundary).getD s.chip.endSwitch } := by
  rw [exec_camBoundary]
  unfold execCamBoundary onChip inFlight
  dsimp only
  rw [if_pos h]

/-- The row with the chip of its cc given. -/
theorem execHysteresisLatchEmpty_eq {a c : Chip} (hc : s.chip.endSwitch = c) (ha : c.advance t = a) :
    execHysteresisLatchEmpty n t s = .next { s with chip := Chip.judgeLatch a c n.toNat } := by
  unfold execHysteresisLatchEmpty onChip inFlight
  dsimp only
  rw [hc, ha]
  rfl

theorem exec_hysteresisLatchEmpty_row : exec (.hysteresisLatchEmpty n t) s =
    .next { s with chip := Chip.judgeLatch (s.chip.endSwitch.advance t) s.chip.endSwitch n.toNat } := by
  rw [exec_hysteresisLatchEmpty, execHysteresisLatchEmpty_eq rfl rfl]

end

/-- The firing of a row as the statement has it. -/
theorem CamFires.fires {s : State} {c a e : Chip} {n : Nat} {k : Cam} {x : Crossing} {rest : List Crossing} {delayed : Bool}
    (h : CamFires c a e n k x rest delayed) :
    State.keeps [.lt, .pulses, .scr, .cams, .pos, .flags, .pins, .edg, .lic] { s with chip := c } { s with chip := e } ∧
      e.lt = a.lt ∧ e.pulses.getLsbD n = true ∧ (∀ j, j < 32 → j ≠ n → vget e.cams j = vget c.cams j) ∧
      (vget e.cams n).latch = some x.x ∧ (vget e.cams n).fire = satAdd k.fire 1 ∧ (vget e.cams n).waiting = rest ∧
      (vget e.cams n).armed = k.armed ∧
      (vget e.cams n).last.extractLsb' 0 64 = c.pos.eventTime x.x k.offset x.fwd a.now ∧
      (vget e.cams n).last.getLsbD 78 = delayed ∧
      (vget e.cams n).coll = (if delayed then satAdd k.coll 1 else k.coll) ∧
      e.pos = (if delayed then { a.pos with evt := a.pos.evt ||| 4 } else a.pos) := by
  refine ⟨State.keeps_chip h.keeps, h.lt, h.signal, h.others, ?_⟩
  rw [h.cam]
  exact ⟨rfl, rfl, rfl, rfl, lastWord_event _ _ _ _ _, lastWord_delayed _ _ _ _ _, rfl, h.pos⟩

/-- Settles O54: a row of an armed cam is its window or its oldest waiting crossing, the boundary applies each pending
offset. -/
theorem camsFireForTheirCrossings : Obligations.CamsFireForTheirCrossings := by
  unfold Obligations.CamsFireForTheirCrossings
  refine ⟨fun s n at_ => ?_, fun s n at_ => ?_⟩
  · dsimp only
    intro hon
    have hn : n.toNat < 32 := n.isLt
    generalize hc : s.chip.endSwitch = c at hon ⊢
    have hcams := c.advance_cams at_
    obtain ⟨q, hq⟩ : ∃ q, (c.advance at_).look.getD 0 = q := ⟨_, rfl⟩
    rw [hq]
    refine ⟨fun ha => ⟨?_, ?_⟩, fun ha hf hecc => ⟨fun x r hm hx hroom => ?fire, fun hm hx => ?nothing,
      fun x r hm hx hw hl => ?delayed, fun hw => ?empty⟩⟩
    · rw [← hc] at ha ⊢
      exact exec_camFire_disarmed ha
    · rw [exec_camDelayedFiring_row, hc, Chip.camRow_disarmed ha]
    case fire =>
      have hrow := Chip.camRow_armed (f := fun c => c.camWindow n.toNat) hon ha hf hecc
      rw [Chip.camWindow_cons hq (by rw [hcams]; exact hx), Option.getD_some] at hrow
      obtain ⟨l, hl⟩ := (vget c.cams n.toNat).tested_same q
      have hfire := CamFires.of_fireCam (c := c) (t := at_) (g := (Cam.tested · q)) (x := x) (delayed := false) hn
      rw [hl] at hfire
      rw [Chip.holdCrossings_room r _ (by rw [hfire.cam]; exact hroom)] at hrow
      obtain ⟨h1, h2, h3, h4, h5, h6, h7, h8, h9, h10, h11, h12⟩ := (hfire.addWaiting hn r).fires (s := s)
      exact ⟨_, by rw [exec_camFire_row (by rw [hc]; exact hm), hc, hrow], h1, h2, h3, h4, h5, h6, h7, h8.trans ha, h9, h10,
        h11, h12⟩
    case nothing =>
      have hrow := Chip.camRow_armed (f := fun c => c.camWindow n.toNat) hon ha hf hecc
      rw [Chip.camWindow_nil hq (by rw [hcams]; exact hx), Option.getD_none] at hrow
      rw [exec_camFire_row (by rw [hc]; exact hm), hc, hrow]
    case delayed =>
      have hrow := Chip.camRow_armed (f := fun c => c.camDelayed n.toNat) hon ha hf hecc
      rw [Chip.camDelayed_cons hq (by rw [hcams]; exact hx) (by rw [hcams]; exact hw) (by rw [hcams]; exact hl),
        Option.getD_some] at hrow
      have hfire := CamFires.of_fireCam (c := c) (t := at_) (g := fun k => { k with waiting := r }) (x := x)
        (delayed := true) hn
      obtain ⟨h1, h2, h3, h4, h5, h6, h7, h8, h9, h10, h11, h12⟩ := hfire.fires (s := s)
      exact ⟨_, by rw [exec_camDelayedFiring_row, hc, hrow], h1, h2, h3, h4, h5, h6, h7, h8.trans ha, h9, h10, h11, h12⟩
    case empty =>
      have hrow := Chip.camRow_armed (f := fun c => c.camDelayed n.toNat) hon ha hf hecc
      rw [Chip.camDelayed_none (by rw [hcams]; exact hw), Option.getD_none] at hrow
      rw [exec_camDelayedFiring_row, hc, hrow]
  · dsimp only
    intro hon
    have hn : n.toNat < 32 := n.isLt
    have hboundary := exec_camBoundary_row (t := at_) hon
    have hhyst := exec_hysteresisLatchEmpty_row (s := s) (n := n) (t := at_)
    generalize hc : s.chip.endSwitch = c at hon hboundary hhyst ⊢
    have hcams := c.advance_cams at_
    have hadv := c.advance_passes at_
    have hmoving := c.advance_moving at_
    have hat := c.advance_at at_
    have hbnd : (c.advance at_).pos.bndQ = c.pos.bndQ := by rw [Chip.advance_pos]
    have hst' : (c.advance at_).pos.st = c.pos.st := by rw [Chip.advance_pos]
    generalize c.advance at_ = a at hboundary hhyst hcams hadv hmoving hat hbnd hst' ⊢
    refine ⟨fun x hm hx => ?cross, fun h => ?idle, fun x hst hl => ?latch⟩
    case cross =>
      rw [← hmoving] at hm
      rw [← hbnd] at hx
      rw [Chip.boundary_cross hm hx, Option.getD_some] at hboundary
      have honce := a.camOnce_keeps a.applyPends
      have hkeeps : a.keeps [.pulses, .cams, .pos, .memo] (a.camOnce a.applyPends) :=
        (a.applyPends_keeps.mono (by decide)).trans (honce.mono (by decide))
      have hpasses : c.passes [.cams, .pos, .memo] (a.camOnce a.applyPends) :=
        hadv.then hkeeps (.inr (hkeeps .pins (by decide))) (.inl (by decide))
      refine ⟨_, hboundary, ⟨rfl, rfl, hpasses⟩, hkeeps .lt (by decide), honce .pos (by decide), ?_, fun j hj => ?_⟩
      · rw [show (a.camOnce a.applyPends).pulses = a.applyPends.pulses from honce .pulses (by decide)]
        exact getLsbD_signal _ (by decide)
      · have hcam := a.boundary_cam hj
        dsimp only at hcam
        rw [Chip.windowStart_eq rfl hat, hcams] at hcam
        exact hcam
    case idle =>
      rw [← hmoving, ← hbnd] at h
      rw [hboundary, Chip.boundary_idle h, Option.getD_none]
    case latch =>
      obtain ⟨q, hq⟩ := Chip.look_some (c := a) (by rw [hst']; exact hst)
      rw [hq, Option.getD_some]
      refine ⟨fun hfar => ?_, fun hnear => ?_⟩
      · rw [Chip.judgeLatch_far hon hq hl hfar] at hhyst
        have hkeeps : a.keeps [.pulses, .cams] (a.modCam n.toNat (·.release q)) := (a.modCam_keeps _ _).mono (by decide)
        refine ⟨_, hhyst, ⟨rfl, rfl, hadv.then hkeeps (.inr (hkeeps .pins (by decide))) (.inr (hkeeps .pos (by decide)))⟩,
          ?_, fun j hj hne => ?_⟩
        · rw [Chip.modCam_same, hcams, Cam.release_far hl hfar]
        · rw [Chip.modCam_other _ _ hn hj hne, hcams]
      · rw [hhyst, Chip.judgeLatch_near hq hl hnear]

end Sys2Proof.Machine
end

section
namespace Sys2Proof.Machine

/-! ### The store of a register row -/

/-- A chip with the status of a register row kept. -/
def Chip.withStatus (e : Chip) (st : Byte) : Chip := { e with eng := { e.eng with lastSt := st } }

theorem Chip.withStatus_keeps {ps : List Part} {c e : Chip} (h : c.keeps ps e) (st : Byte) :
    c.keeps (.lastSt :: ps) (e.withStatus st) := by
  intro p hp
  have hps : p ∉ ps := fun hm => hp (List.mem_cons_of_mem _ hm)
  have hlast : p ≠ .lastSt := fun he => hp (he ▸ List.mem_cons_self)
  have hsame := h p hps
  cases p <;> first | exact hsame | exact absurd rfl hlast

/-- A row of a register that is there: the status and the chip of its write. -/
theorem regRow_ends {q : Queue} {a : Nat} {v : Word} {s : State} {c e : Chip} {st : Byte} {ps : List Part}
    (hc : s.chip.endSwitch = c) (hon : c.engineOn = true) (hq : q ≠ 5) (hal : a % 4 = 0) (ha : a < 0x10000000)
    (hw : c.writeReg s.die (Src.ofQueue q) a v = (st, e)) (hk : c.keeps ps e) :
    ∃ t, regRow q a v s = .next t ∧ State.keeps (.lastSt :: ps) { s with chip := c } t ∧ t.chip.eng.lastSt = st ∧
      t.chip = e.withStatus st := by
  have hstore : c.regStore s.die q a v = (st, e) := by
    have hone := writeRegs_one c s.die (Src.ofQueue q) a (v.setWidth 64)
    rw [BitVec.toNat_setWidth_of_le (by decide)] at hone
    unfold Chip.regStore
    rw [if_neg (fun h => hq h.1), if_neg (by omega), store_register ha, hone,
      BitVec.setWidth_setWidth_of_le v (by decide), BitVec.setWidth_eq, hw]
  rw [← hc] at hon hstore
  refine ⟨_, regRow_engineOn hon, ?_⟩
  rw [hstore, ← hc] at *
  exact ⟨State.keeps_chip (Chip.withStatus_keeps hk st), rfl, rfl⟩

/-! ### Where each register lies (Table ARC-5) -/

section
variable (c : Chip) (d : Die) (x : Src) (v : Word)

theorem writeReg_evtSrc {k : Nat} (hk : k < 32) : c.writeReg d x (evtSrcAddr k) v = wrEvtSrc c k v := by
  have hb : evtSrcAddr k / 0x10000 = 8 := by unfold evtSrcAddr; omega
  have ho : evtSrcAddr k % 0x10000 = 0x80 + 4 * k := by unfold evtSrcAddr; omega
  have hval : (engVal c (0x80 + 4 * k)).isNone = false := by
    simp only [engVal, apply_ite Option.isNone, Option.isNone_some, Option.isNone_none]
    simp
    omega
  have hi : (0x80 + 4 * k - 0x80) / 4 = k := by omega
  simp only [Chip.writeReg, Chip.regVal, hb, ho, hval, wrEng]
  rw [if_neg (by decide), if_neg (by omega), if_neg (by omega), if_neg (by omega), if_neg (by omega), if_pos (by omega), hi]

theorem edgVal_pin {o : Nat} (ho : o < 0x1000) (hp : o % 0x400 < 0x300) : (edgVal c o).isNone = false := by
  simp only [edgVal, hp, apply_ite Option.isNone, Option.isNone_some]
  simp
  omega

theorem writeReg_pincfg {p : Nat} (hp : p < 192) : c.writeReg d x (pincfgAddr p) v = wrPincfg c x (pincfgAddr p) p v := by
  have hb : pincfgAddr p / 0x10000 = 10 := by unfold pincfgAddr; omega
  have ho : pincfgAddr p % 0x10000 = 4 * p := by unfold pincfgAddr; omega
  have hval := edgVal_pin c (o := 4 * p) (by omega) (by omega)
  have hi : 4 * p % 0x400 / 4 = p := by omega
  simp only [Chip.writeReg, Chip.regVal, hb, ho, hval, wrEdg, hi]
  rw [if_neg (by decide), if_pos (by omega)]

theorem writeReg_bind {p : Nat} (hp : p < 192) : c.writeReg d x (bindAddr p false) v = wrBind c p v := by
  have hb : bindAddr p false / 0x10000 = 10 := by unfold bindAddr; simp; omega
  have ho : bindAddr p false % 0x10000 = 0x800 + 4 * p := by unfold bindAddr; simp; omega
  have hval := edgVal_pin c (o := 0x800 + 4 * p) (by omega) (by omega)
  have hi : (0x800 + 4 * p) % 0x400 / 4 = p := by omega
  simp only [Chip.writeReg, Chip.regVal, hb, ho, hval, wrEdg, hi]
  rw [if_neg (by decide), if_neg (by omega), if_neg (by omega), if_pos (by omega)]

theorem writeReg_boff {p : Nat} (hp : p < 192) :
    c.writeReg d x (bindAddr p true) v = (St.ok, c.modPin p fun x => { x with boff := v }) := by
  have hb : bindAddr p true / 0x10000 = 10 := by unfold bindAddr; simp; omega
  have ho : bindAddr p true % 0x10000 = 0xC00 + 4 * p := by unfold bindAddr; simp; omega
  have hval := edgVal_pin c (o := 0xC00 + 4 * p) (by omega) (by omega)
  have hi : (0xC00 + 4 * p) % 0x400 / 4 = p := by omega
  simp only [Chip.writeReg, Chip.regVal, hb, ho, hval, wrEdg, hi]
  rw [if_neg (by decide), if_neg (by omega), if_neg (by omega), if_neg (by omega), if_pos (by omega)]

theorem frdVal_low {o : Nat} (ho : o < 0x130) : (frdVal c o).isNone = false := by
  simp only [frdVal, apply_ite Option.isNone, Option.isNone_some, Option.isNone_none]
  simp
  omega

theorem writeReg_pol {n : Nat} (hn : n < 32) : c.writeReg d x (polAddr n) v = wrFrdPol c x (polAddr n) n v := by
  have hb : polAddr n / 0x10000 = 9 := by unfold polAddr; omega
  have ho : polAddr n % 0x10000 = 0x80 + 4 * n := by unfold polAddr; omega
  have hval := frdVal_low c (o := 0x80 + 4 * n) (by omega)
  have hi : (0x80 + 4 * n - 0x80) / 4 = n := by omega
  simp only [Chip.writeReg, Chip.regVal, hb, ho, hval, wrFrd, hi]
  rw [if_neg (by decide), if_pos (by omega)]

theorem writeReg_safest {b : Nat} (h : b < 12) : c.writeReg d x (safestAddr b) v = wrSafest c x (safestAddr b) b v := by
  have hb : safestAddr b / 0x10000 = 9 := by unfold safestAddr; omega
  have ho : safestAddr b % 0x10000 = 0x100 + 4 * b := by unfold safestAddr; omega
  have hval := frdVal_low c (o := 0x100 + 4 * b) (by omega)
  have hi : (0x100 + 4 * b - 0x100) / 4 = b := by omega
  simp only [Chip.writeReg, Chip.regVal, hb, ho, hval, wrFrd, hi]
  rw [if_neg (by decide), if_neg (by omega), if_pos (by omega)]

theorem writeReg_scrPol {n : Nat} (hn : n < 32) : c.writeReg d x (scrPolAddr n) v = wrScrPol c x (scrPolAddr n) n v := by
  have hb : scrPolAddr n / 0x10000 = 14 := by unfold scrPolAddr; omega
  have ho : scrPolAddr n % 0x10000 = 0x100 + 4 * n := by unfold scrPolAddr; omega
  have hval : (scrVal c (0x100 + 4 * n)).isNone = false := by
    unfold scrVal
    rw [if_neg (by omega), if_neg (by omega), if_pos (by omega)]
    rfl
  have hi : (0x100 + 4 * n - 0x100) / 4 = n := by omega
  simp only [Chip.writeReg, Chip.regVal, hb, ho, hval, wrScr, hi]
  rw [if_neg (by decide), if_pos (by omega)]

theorem writeReg_repair : c.writeReg d x 0xE001C v = (St.ok, c.wrRepair v) := rfl

theorem writeReg_prtReset : c.writeReg d x 0x70000 v = wrPrt c 0 v := rfl

theorem writeReg_dmaCtrl {ch : Nat} (h : ch < 12) : c.writeReg d x (dmaCtrlAddr ch) v = wrDmaCtrl c x ch v := by
  have hb : dmaCtrlAddr ch / 0x10000 = 17 := by unfold dmaCtrlAddr; omega
  have ho : dmaCtrlAddr ch % 0x10000 = 0x110 + 0x40 * ch := by unfold dmaCtrlAddr; omega
  have hr : (0x110 + 0x40 * ch) % 0x40 = 0x10 := by omega
  have hval : (dmaVal c (0x110 + 0x40 * ch)).isNone = false := by
    unfold dmaVal
    rw [if_neg (by omega), if_pos (by omega)]
    simp only [hr]
    rfl
  have hi : (0x110 + 0x40 * ch - 0x100) / 0x40 = ch := by omega
  simp only [Chip.writeReg, Chip.regVal, hb, ho, hval, wrDma, hi, hr]
  rw [if_neg (by decide), if_neg (by omega)]

theorem writeReg_lnkCtrl {p : Nat} (h : p < 3) : c.writeReg d x (lnkCtrlAddr p) v = (St.ok, c.wrLnkCtrl p v) := by
  have hb : lnkCtrlAddr p / 0x10000 = 2 := by unfold lnkCtrlAddr; omega
  have ho : lnkCtrlAddr p % 0x10000 = 0x100 + 0x100 * p := by unfold lnkCtrlAddr; omega
  have hr : (0x100 + 0x100 * p) % 0x100 = 0 := by omega
  have hval : (lnkVal c (0x100 + 0x100 * p)).isNone = false := by
    unfold lnkVal
    rw [if_neg (by omega), if_neg (by omega), if_pos (by omega), hr]
    rfl
  have hi : (0x100 + 0x100 * p) / 0x100 - 1 = p := by omega
  simp only [Chip.writeReg, Chip.regVal, hb, ho, hval, wrLnk, hi, hr]
  rw [if_neg (by decide), if_neg (by omega), if_neg (by omega)]

end

/-! ### What the writes change -/

theorem Chip.violate_keeps (c : Chip) (x : Src) (cause : BitVec 16) (cls idx ctx : Nat) (info : BitVec 32) :
    c.keeps [.sec, .lic] (c.violate x cause cls idx ctx info) := by
  intro p hp
  cases p <;> first | rfl | exact absurd hp (by decide)

theorem Chip.modBank_keeps (c : Chip) (n : Nat) (f : Bank → Bank) : c.keeps [.banks] (c.modBank n f) := by
  intro p hp
  cases p <;> first | rfl | exact absurd hp (by decide)

section
variable (c : Chip) {p : Nat} (v : Word)

/-- A pin given its configuration, its bank the generation of a mode that changes. -/
def Chip.configured (c : Chip) (p : Nat) (v : Word) : Chip :=
  let d := c.modPin p fun x => { x with cfg := v &&& 0x00FFFFFF }
  if v.extractLsb' 0 2 != (vget c.pins p).cfg.extractLsb' 0 2 then d.modBank (p / 16) fun k => { k with gen := k.gen + 1 }
  else d

theorem Chip.setPincfg_eq (c : Chip) (p : Nat) (v : Word) : c.setPincfg p v = c.onceGen (c.settle (c.configured p v)) := rfl

theorem Chip.configured_keeps (p : Nat) : c.keeps [.pins, .banks] (c.configured p v) := by
  have hpin : c.keeps [.pins] _ := c.modPin_keeps p fun x => { x with cfg := v &&& 0x00FFFFFF }
  unfold Chip.configured
  dsimp only
  split
  · exact (hpin.mono (by decide)).trans ((Chip.modBank_keeps _ _ _).mono (by decide))
  · exact hpin.mono (by decide)

theorem Chip.configured_pins (p : Nat) :
    (c.configured p v).pins = vmod c.pins p fun x => { x with cfg := v &&& 0x00FFFFFF } := by
  unfold Chip.configured
  dsimp only
  split
  · rfl
  · rfl

/-- Fronds and cams that keep their generations stay. -/
theorem Chip.onceGen_same {old new : Chip} (hf : new.fronds = old.fronds) (hc : new.cams = old.cams) :
    (old.onceGen new).fronds = old.fronds ∧ (old.onceGen new).cams = old.cams := by
  unfold Chip.onceGen
  dsimp only
  rw [hf, hc]
  refine ⟨vget_ext fun i hi => ?_, vget_ext fun i hi => ?_⟩
  · rw [vget_vmapi _ _ hi, genOnce_self]
  · rw [vget_vmapi _ _ hi, genOnce_self]

theorem Chip.setPincfg_keeps (p : Nat) : c.keeps [.pins, .banks, .edg] (c.setPincfg p v) := by
  have hset : c.keeps [.pins, .banks, .edg] (c.settle (c.configured p v)) :=
    ((c.configured_keeps v p).mono (by decide)).trans (Chip.settle_keeps _ _)
  have hall := hset.mono (qs := [.fronds, .cams, .pins, .banks, .edg]) (by decide)
  have honce := (Chip.onceGen_keeps c (c.settle (c.configured p v))).mono
    (qs := [.fronds, .cams, .pins, .banks, .edg]) (by decide)
  obtain ⟨hf, hc⟩ := Chip.onceGen_same (hset .fronds (by decide)) (hset .cams (by decide))
  rw [Chip.setPincfg_eq]
  intro x hx
  by_cases hfr : x = .fronds
  · subst hfr; exact hf
  · by_cases hca : x = .cams
    · subst hca; exact hc
    · exact (hall.trans honce) x (by simp_all)

theorem Chip.setPincfg_cfg {j : Nat} (hp : p < 192) (hj : j < 192) :
    (vget (c.setPincfg p v).pins j).cfg = if j = p then v &&& 0xFFFFFF else (vget c.pins j).cfg := by
  have hpins : (c.setPincfg p v).pins = (c.settle (c.configured p v)).pins := rfl
  rw [hpins, Chip.settle_cfg _ _ hj, Chip.configured_pins, vget_vmod]
  by_cases h : j = p
  · subst h
    simp
  · rw [if_neg (by omega), if_neg h]

/-- Settling forces advances the generation of a bank once or not at all. -/
theorem Chip.settle_gen (old new : Chip) {b : Nat} (hb : b < 12) :
    (vget (old.settle new).banks b).gen = (vget new.banks b).gen ∨
      (vget (old.settle new).banks b).gen = (vget new.banks b).gen + 1 := by
  have hbanks : ∃ m : Nat → Bool, (old.settle new).banks =
      vmapi (fun b k => if m b then { k with gen := k.gen + 1 } else k) new.banks := by
    unfold Chip.settle
    dsimp only
    split
    · exact ⟨_, rfl⟩
    · exact ⟨_, rfl⟩
  obtain ⟨m, hm⟩ := hbanks
  rw [hm, vget_vmapi _ _ hb]
  split
  · exact .inr rfl
  · exact .inl rfl

/-- A mode that changes advances the generation of its bank once. -/
theorem Chip.setPincfg_gen (hp : p < 192) (hmode : v.extractLsb' 0 2 ≠ (vget c.pins p).cfg.extractLsb' 0 2) :
    (vget (c.setPincfg p v).banks (p / 16)).gen = (vget c.banks (p / 16)).gen + 1 := by
  have hb : p / 16 < 12 := by omega
  have hgen : (vget (c.configured p v).banks (p / 16)).gen = (vget c.banks (p / 16)).gen + 1 := by
    unfold Chip.configured
    dsimp only
    rw [if_pos (bne_iff_ne.2 hmode)]
    simp [Chip.modBank, Chip.modPin]
  have honce : (vget (c.setPincfg p v).banks (p / 16)).gen = genOnce (vget c.banks (p / 16)).gen
      (vget (c.settle (c.configured p v)).banks (p / 16)).gen := by
    rw [Chip.setPincfg_eq]
    unfold Chip.onceGen
    dsimp only
    rw [vget_vmapi _ _ hb]
  rw [honce]
  generalize (vget c.banks (p / 16)).gen = g at hgen
  unfold genOnce
  rcases Chip.settle_gen c (c.configured p v) hb with h | h
  · rw [h, hgen, if_neg (by simp)]
  · rw [h, hgen, if_neg (by bv_omega)]

end

/-! ### Policies of a frond (R242, R337) -/

section
variable (c : Chip) (x : Src) (a : Nat) {n : Nat} (v : Word)

/-- A frond with its policy set. -/
def Frond.withPol (f : Frond) (p : BitVec 2) : Frond := { f with pol := p, gen := if f.pol = p then f.gen else f.gen + 1 }

/-- A frond after a store to FRD.POL: its flip-flops may have taken their initial values. -/
theorem wrFrdPol_unlocked (hn : n < 32) (hl : c.fabricLocked = false) :
    ∃ e ff, wrFrdPol c x a n v = (St.ok, e) ∧ c.keeps [.fronds] e ∧
      vget e.fronds n = { (vget c.fronds n).withPol (v.extractLsb' 0 2) with ff := ff } ∧
      ∀ j, j < 32 → j ≠ n → vget e.fronds j = vget c.fronds j := by
  obtain ⟨d, hd⟩ : ∃ d, d = c.modFrond n (Frond.withPol · (v.extractLsb' 0 2)) := ⟨_, rfl⟩
  have hkeeps : c.keeps [.fronds] d := hd ▸ c.modFrond_keeps n _
  have hothers : ∀ j, j < 32 → j ≠ n → vget d.fronds j = vget c.fronds j := fun j hj hne => by
    rw [hd]
    exact vget_vmod_other _ _ (by omega)
  have hfrond : vget d.fronds n = (vget c.fronds n).withPol (v.extractLsb' 0 2) := by
    rw [hd]
    exact vget_vmod_same _ _ _
  have hwr : wrFrdPol c x a n v = (St.ok, if c.safeForce n && !d.safeForce n then d.seatInit [n] else d) := by
    unfold wrFrdPol
    rw [if_neg (by simp [hl]), hd]
    rfl
  rw [hwr]
  split
  · refine ⟨_, d.initBits n, rfl, hkeeps.trans (d.modFrond_keeps n _), ?_, fun j hj hne => ?_⟩
    · show vget (vmod d.fronds n _) n = _
      rw [vget_vmod_same, hfrond]
    · exact Eq.trans (vget_vmod_other _ _ (by omega)) (hothers j hj hne)
  · exact ⟨_, _, rfl, hkeeps, hfrond, hothers⟩

theorem wrScrPol_unlocked (hn : n < 32) (hl : c.fabricLocked = false) :
    ∃ e, wrScrPol c x a n v = (St.ok, e) ∧ c.keeps [.fronds] e ∧ (vget e.fronds n).scrPol = v.extractLsb' 0 2 ∧
      (vget e.fronds n).pol = (vget c.fronds n).pol ∧ ∀ j, j < 32 → j ≠ n → vget e.fronds j = vget c.fronds j := by
  unfold wrScrPol
  rw [if_neg (by simp [hl])]
  refine ⟨_, rfl, c.modFrond_keeps n _, ?_, ?_, fun j hj hne => vget_vmod_other _ _ (by omega)⟩
  · simp
  · simp

end

/-! ### Channels, ports, port resets (R98, R106, R411) -/

/-- A channel that has given back its credits. -/
def Chip.dmaFreed (c : Chip) (ch : Nat) : Chip :=
  { c with
    dma := vmod c.dma ch fun d =>
      { d with
        st := .idle
        gen := d.gen + 1
        bytes := (Config.freeValue c.freeIx).setWidth 32
        rdbytes := (Config.freeValue (c.freeIx + 1)).setWidth 32
        pos := (Config.freeValue (c.freeIx + 1 + 1)).setWidth 32
        buf := []
        chk := []
        credits := 0
        fail := none
        tries := 0 }
    credits := c.credits + (vget c.dma ch).credits
    freeIx := c.freeIx + 1 + 1 + 1 }

theorem Chip.dmaFreed_keeps (c : Chip) (ch : Nat) : c.keeps [.dma, .credits, .freeIx] (c.dmaFreed ch) := by
  intro p hp
  cases p <;> first | rfl | exact absurd hp (by decide)

theorem Chip.dmaFreed_idle (c : Chip) (ch : Nat) : (vget (c.dmaFreed ch).dma ch).active = false := by
  unfold Chip.dmaFreed
  dsimp only
  rw [vget_vmod_same]
  rfl

/-- The heads that wait for the drain of a channel end. -/
def Chip.endDrains (c : Chip) (ch : Nat) : Chip :=
  (List.range 8).foldl (fun c q =>
    match (vget c.eng.queues q).wait with
    | some w => if w.kind == .drain && w.t.toNat == ch then c.retireWait (Fin.ofNat 8 q) St.ok 0 else c
    | none => c) c

theorem Chip.endDrains_none (c : Chip) (ch : Nat) (hw : ∀ j w, (c.queue j).wait = some w → w.kind ≠ .drain) :
    c.endDrains ch = c := by
  unfold Chip.endDrains
  refine List.foldl_fixed' (fun q => ?_) _
  split
  case h_1 w hsome =>
    have hq : (c.queue (Fin.ofNat 8 q)).wait = some w := by
      rw [← hsome]
      exact congrArg QState.wait (vget_eq_of_mod _ (by simp))
    rw [if_neg (by simp [hw _ _ hq])]
  case h_2 => rfl

theorem Chip.dropDma_active {c : Chip} {ch : Nat} (h : (vget c.dma ch).active = true) :
    c.dropDma ch = (c.dmaFreed ch).endDrains ch := by
  unfold Chip.dropDma
  rw [if_neg (by simp [h])]
  rfl

/-- A channel dropped while no head waits for a drain. -/
theorem Chip.dropDma_spec (c : Chip) (ch : Nat) (hw : ∀ j w, (c.queue j).wait = some w → w.kind ≠ .drain) :
    c.keeps [.dma, .credits, .freeIx] (c.dropDma ch) ∧ (vget (c.dropDma ch).dma ch).active = false ∧
      (c.dropDma ch).credits = c.credits + (if (vget c.dma ch).active then (vget c.dma ch).credits else 0) := by
  cases hactive : (vget c.dma ch).active with
  | false =>
    have hsame : c.dropDma ch = c := by
      unfold Chip.dropDma
      rw [if_pos (by simp [hactive])]
    rw [hsame]
    exact ⟨Chip.keeps.refl _ _, hactive, rfl⟩
  | true =>
    rw [Chip.dropDma_active hactive, Chip.endDrains_none (c.dmaFreed ch) ch hw]
    exact ⟨c.dmaFreed_keeps ch, c.dmaFreed_idle ch, rfl⟩

/-- A port that leaves UP keeps its state for the change that follows. -/
theorem Chip.leaveUp_spec (c : Chip) {p : Nat} (why : Nat) (hp : p < 3) :
    c.keeps [.ports, .lt, .lic] (c.leaveUp p why) ∧ (c.leaveUp p why).now = c.now ∧
      ((vget c.ports p).st = 2 → (vget (c.leaveUp p why).ports p).evt.getLsbD 1 = true ∧
        (p = 0 → (c.leaveUp p why).lt.aligned = false)) ∧
      ∀ j, j < 3 → j ≠ p → vget (c.leaveUp p why).ports j = vget c.ports j := by
  by_cases hst : (vget c.ports p).st = 2
  · obtain ⟨d, hd⟩ : ∃ d, d = if p = 0 then { c.setLnkEvt p 1 with lt := { (c.setLnkEvt p 1).lt with aligned := false } }
      else c.setLnkEvt p 1 := ⟨_, rfl⟩
    have hkeeps : c.keeps [.ports, .lt, .lic] d := by
      intro x hx
      rw [hd]
      cases x <;> first | exact absurd hx (by decide) | (split <;> rfl)
    have hports : d.ports = vmod c.ports p fun x => { x with evt := x.evt ||| bitW 1 true } := by
      rw [hd]
      split
      · rfl
      · rfl
    have hnow : d.now = c.now := by
      rw [hd]
      split
      · rfl
      · rfl
    obtain ⟨l, hl⟩ : ∃ l, c.leaveUp p why =
        { d.modPort p fun x => { x with fwdBuf := [], posBuf := none, rsp := [] } with lic := l } := by
      unfold Chip.leaveUp
      rw [if_neg (by simp [hst])]
      dsimp only
      rw [← hd]
      exact ⟨_, rfl⟩
    rw [hl]
    refine ⟨?_, hnow, fun _ => ⟨?_, fun h0 => ?_⟩, fun j hj hne => ?_⟩
    · exact hkeeps.trans (((d.modPort_keeps p _).mono (by decide)).trans (Chip.keeps_lic _ _ (by decide)))
    · simp only [Chip.modPort_ports, hports, vget_vmod_same]
      exact getLsbD_raised _ (by decide)
    · simp only [Chip.modPort_lt, hd, if_pos h0]
    · simp only [Chip.modPort_ports, hports, vget_ports_other _ _ hp hj hne]
  · rw [Chip.leaveUp_down hst]
    exact ⟨Chip.keeps.refl _ _, rfl, fun h => absurd h hst, fun _ _ _ => rfl⟩

/-- A port disabled: it leaves UP. -/
theorem Chip.disabled_spec (c : Chip) {p : Nat} (v : Word) (hp : p < 3) (hv : v.getLsbD 0 = false) :
    c.keeps [.ports, .lt, .lic] (c.wrLnkCtrl p v) ∧ (vget (c.wrLnkCtrl p v).ports p).ctrl = v &&& 3 ∧
      (vget (c.wrLnkCtrl p v).ports p).st = 0 ∧ (c.wrLnkCtrl p v).now = c.now ∧
      ((vget c.ports p).st = 2 → (vget (c.wrLnkCtrl p v).ports p).evt.getLsbD 1 = true ∧
        (p = 0 → (c.wrLnkCtrl p v).lt.aligned = false)) ∧
      ∀ j, j < 3 → j ≠ p → vget (c.wrLnkCtrl p v).ports j = vget c.ports j := by
  obtain ⟨hkeeps, hnow, hup, hothers⟩ := c.leaveUp_spec 3 hp
  have heq : c.wrLnkCtrl p v = ((c.leaveUp p 3).modPort p fun x => { x with ctrl := x.ctrl &&& ~~~1, st := 0 }).modPort p
      fun x => { x with ctrl := v &&& 3 } := by
    unfold Chip.wrLnkCtrl
    rw [if_neg (by rw [hv]; exact Bool.false_ne_true)]
    rfl
  rw [heq]
  refine ⟨?_, ?_, ?_, hnow, fun hst => ?_, fun j hj hne => ?_⟩
  · exact hkeeps.trans (((Chip.modPort_keeps _ p _).mono (by decide)).trans ((Chip.modPort_keeps _ p _).mono (by decide)))
  · simp
  · simp
  · obtain ⟨hevt, haligned⟩ := hup hst
    exact ⟨by simpa using hevt, haligned⟩
  · simp only [Chip.modPort_ports, vget_ports_other _ _ hp hj hne, hothers j hj hne]

/-- A port enabled: it begins to train where it was off. -/
theorem Chip.enabled_spec (c : Chip) (p : Nat) (v : Word) (hv : v.getLsbD 0 = true) :
    c.keeps [.ports] (c.wrLnkCtrl p v) ∧ (vget (c.wrLnkCtrl p v).ports p).ctrl = v &&& 3 ∧
      (vget (c.wrLnkCtrl p v).ports p).st = (if (vget c.ports p).st = 0 then 1 else (vget c.ports p).st) := by
  have heq : c.wrLnkCtrl p v = (c.enablePort p).modPort p fun x => { x with ctrl := v &&& 3 } := by
    unfold Chip.wrLnkCtrl
    rw [if_pos hv]
  rw [heq]
  refine ⟨(c.modPort_keeps p _).trans (Chip.modPort_keeps _ p _), ?_, ?_⟩
  · simp
  · simp [Chip.enablePort]

/-- The reset of the JTAG front end out of test mode (R106). -/
theorem Chip.resetJtag_idle {c : Chip} (h : c.jtg.test = false) : c.resetJtag =
    { c with jtg := { c.jtg with ir := 0x004, idx := 0, slot := 0, dr := 0, isc := false, code := 0 } } := by
  unfold Chip.resetJtag
  rw [h]
  rfl

theorem forcePin_held (old new : Chip) (p : Nat) (pin : Pin) : (forcePin old new p pin).1.held = pin.held := by
  unfold forcePin
  dsimp only
  repeat' split
  all_goals rfl

/-- Settling forces leaves the hold of R57. -/
theorem Chip.settle_held (old new : Chip) {p : Nat} (hp : p < 192) :
    (vget (old.settle new).pins p).held = (vget new.pins p).held := by
  have hpins : (old.settle new).pins = vmapi (fun p pin => (forcePin old new p pin).1) new.pins := by
    unfold Chip.settle
    dsimp only
    split
    · rfl
    · rfl
  rw [hpins, vget_vmapi _ _ hp, forcePin_held]

/-- In test mode the reset of the JTAG front end ends it, every output held. -/
theorem Chip.resetJtag_test {c : Chip} (h : c.jtg.test = true) :
    c.keeps [.jtg, .pins, .banks, .edg] c.resetJtag ∧ c.resetJtag.jtg.ir = 0x004 ∧ c.resetJtag.jtg.test = false ∧
      ∀ j, j < 192 → (vget c.resetJtag.pins j).held = true := by
  obtain ⟨d, hd⟩ : ∃ d : Chip, d = { c.holdPins with jtg := { c.jtg with test := false } } := ⟨_, rfl⟩
  have hreset : c.resetJtag = { c.settle d with
      jtg := { (c.settle d).jtg with ir := 0x004, idx := 0, slot := 0, dr := 0, isc := false, code := 0 } } := by
    unfold Chip.resetJtag
    rw [h, hd]
    rfl
  have hset := Chip.settle_keeps c d
  have hkeeps : c.keeps [.jtg, .pins, .banks, .edg] (c.settle d) := by
    refine Chip.keeps.trans (b := d) ?_ (hset.mono (by decide))
    intro p hp
    subst hd
    cases p <;> first | rfl | exact absurd hp (by decide)
  rw [hreset]
  refine ⟨?_, rfl, ?_, fun j hj => ?_⟩
  · refine hkeeps.trans ?_
    intro p hp
    cases p <;> first | rfl | exact absurd hp (by decide)
  · show (c.settle d).jtg.test = false
    rw [show (c.settle d).jtg = d.jtg from hset .jtg (by decide), hd]
  · show (vget (c.settle d).pins j).held = true
    rw [Chip.settle_held _ _ hj, hd]
    show (vget (vmapi _ c.pins) j).held = true
    rw [vget_vmapi _ _ hj]

/-! ### The rows -/

/-- A row ends with a status, changes the status and the parts named alone, and leaves what is asked. -/
def rowEnds (s : State) (i : Instr) (st : Byte) (ps : List Part) (post : Chip → Prop) : Prop :=
  ∃ t, exec i s = .next t ∧ State.keeps (.lastSt :: ps) { s with chip := s.chip.endSwitch } t ∧
    t.chip.eng.lastSt = st ∧ post t.chip

theorem rowEnds_of_write {i : Instr} {q : Queue} {a : Nat} {v : Word} {s : State} {e : Chip} {st : Byte} {ps : List Part}
    {post : Chip → Prop} (hon : s.chip.endSwitch.engineOn = true) (hq : q ≠ 5) (hexec : exec i s = regRow q a v s)
    (ha : a % 4 = 0 ∧ a < 0x10000000) (hw : s.chip.endSwitch.writeReg s.die (Src.ofQueue q) a v = (st, e))
    (hk : s.chip.endSwitch.keeps ps e) (hpost : post (e.withStatus st)) : rowEnds s i st ps post := by
  obtain ⟨t, ht, hkeeps, hst, hchip⟩ := regRow_ends rfl hon hq ha.1 ha.2 hw hk
  exact ⟨t, hexec.trans ht, hkeeps, hst, hchip ▸ hpost⟩

/-- A row of a unit that is there is the row of its register. -/
theorem unitRow_there {P : Prop} [Decidable P] (h : P) (q : Queue) (a : Nat) (v : Word) (s : State) :
    unitRow (decide P) q a v s = regRow q a v s := by
  unfold unitRow
  rw [if_pos (decide_eq_true h)]

theorem exec_pincfgWrite (q : Queue) {p : BitVec 8} (v : Word) (s : State) (hp : p.toNat < 192) :
    exec (.edgPincfgWrite q p v) s = regRow q (pincfgAddr p.toNat) v s := by
  have h : exec (.edgPincfgWrite q p v) s = execEdgPincfgWrite q p v s := by rfl
  exact h.trans (unitRow_there hp q _ v s)

theorem exec_bindWrite (q : Queue) {p : BitVec 8} (off : Bool) (v : Word) (s : State) (hp : p.toNat < 192) :
    exec (.edgBindWrite q p off v) s = regRow q (bindAddr p.toNat off) v s := by
  have h : exec (.edgBindWrite q p off v) s = execEdgBindWrite q p off v s := by rfl
  exact h.trans (unitRow_there hp q _ v s)

theorem exec_safestWrite (q : Queue) {b : BitVec 4} (v : Word) (s : State) (hb : b.toNat < 12) :
    exec (.frdSafestWrite q b v) s = regRow q (safestAddr b.toNat) v s := by
  have h : exec (.frdSafestWrite q b v) s = execFrdSafestWrite q b v s := by rfl
  exact h.trans (unitRow_there hb q _ v s)

theorem exec_dmaDrop (q : Queue) {b : BitVec 4} (s : State) (hb : b.toNat < 12) :
    exec (.dmaCtrlDrop q b) s = regRow q (dmaCtrlAddr b.toNat) 1 s := by
  have h : exec (.dmaCtrlDrop q b) s = execDmaCtrlDrop q b s := by rfl
  exact h.trans (unitRow_there hb q _ 1 s)

theorem exec_lnkCtrlWrite (q : Queue) {p : BitVec 2} (v : Word) (s : State) (hp : p.toNat < 3) :
    exec (.lnkCtrlWrite q p v) s = regRow q (lnkCtrlAddr p.toNat) v s := by
  have h : exec (.lnkCtrlWrite q p v) s = execLnkCtrlWrite q p v s := by rfl
  exact h.trans (unitRow_there hp q _ v s)

/-- From an instruction of another queue than Q5 a store of 1 drops the channel. -/
theorem wrDmaCtrl_drop (c : Chip) {q : Queue} (hq : q ≠ 5) (ch : Nat) :
    wrDmaCtrl c (Src.ofQueue q) ch 1 = (St.ok, c.dropDma ch) := by
  have hnot : ((Src.ofQueue q).fromQ && (Src.ofQueue q).queue == 5) = false := by
    rw [Bool.and_eq_false_iff]
    exact .inr (beq_eq_false_iff_ne.2 hq)
  unfold wrDmaCtrl
  rw [if_neg (by decide), hnot]
  rfl

/-- A repair request joins the frond whose repair check failed. -/
theorem Chip.wrRepair_want (c : Chip) (v : Word) {j : Nat} (hj : j < 32) : (c.wrRepair v).scr.want.getLsbD j
    = (c.scr.want.getLsbD j || (v.getLsbD j && (vget c.fronds j).check == 2)) := by
  have hmask : (c.frdMask fun f => f.check == 2).getLsbD j = ((vget c.fronds j).check == 2) := by
    unfold Chip.frdMask
    rw [getLsbD_collect (fun n => (vget c.fronds n).check == 2) le_rfl]
    simp [hj]
  unfold Chip.wrRepair
  dsimp only
  rw [BitVec.getLsbD_or, BitVec.getLsbD_and, hmask]

theorem Chip.wrRepair_keeps (c : Chip) (v : Word) : c.keeps [.scr] (c.wrRepair v) := by
  intro p hp
  cases p <;> first | rfl | exact absurd hp (by decide)

theorem Chip.setEvtsrc_keeps (c : Chip) (k : Nat) (v : Word) :
    c.keeps [.evtsrc] { c with eng := { c.eng with evtsrc := vset c.eng.evtsrc k v } } := by
  intro p hp
  cases p <;> first | rfl | exact absurd hp (by decide)

theorem Chip.resetSpi_keeps (c : Chip) : c.keeps [.spi] c.resetSpi := by
  intro p hp
  cases p <;> first | rfl | exact absurd hp (by decide)

theorem Chip.resetMgt_keeps (c : Chip) : c.keeps [.mgt] c.resetMgt := by
  intro p hp
  cases p <;> first | rfl | exact absurd hp (by decide)

theorem Chip.setJtg_keeps (c : Chip) (j : Jtg) : c.keeps [.jtg] { c with jtg := j } := by
  intro p hp
  cases p <;> first | rfl | exact absurd hp (by decide)

section
variable {c : Chip} {x : Src} {a p : Nat} {v : Word} (hmode : v.getLsbD 1 = false)
include hmode

theorem wrPincfg_locked (hlock : c.fabricLocked = true) :
    wrPincfg c x a p v = (St.locked, c.violate x 0x3E01 0x0B (a / 0x10000) a) := by
  unfold wrPincfg
  rw [if_neg (by rw [hmode]; exact Bool.false_ne_true), if_pos hlock]
  rfl

theorem wrPincfg_busy (hlock : c.fabricLocked = false) (hne : v.extractLsb' 0 2 ≠ (vget c.pins p).cfg.extractLsb' 0 2)
    (harm : (vget c.pins p).armed = true) : wrPincfg c x a p v = (St.busy, c) := by
  unfold wrPincfg
  rw [if_neg (by rw [hmode]; exact Bool.false_ne_true), if_neg (by simp [hlock]),
    if_pos (by rw [harm, bne_iff_ne.2 hne]; rfl)]

theorem wrPincfg_done (hp : p < 192) (hlock : c.fabricLocked = false)
    (h : v.extractLsb' 0 2 = (vget c.pins p).cfg.extractLsb' 0 2 ∨ (vget c.pins p).armed = false) :
    ∃ e, wrPincfg c x a p v = (St.ok, e) ∧ c.keeps [.pins, .banks, .edg] e ∧
      (vget e.pins p).cfg = v &&& 0xFFFFFF ∧
      (∀ j, j < 192 → j ≠ p → (vget e.pins j).cfg = (vget c.pins j).cfg) ∧
      (v.extractLsb' 0 2 ≠ (vget c.pins p).cfg.extractLsb' 0 2 →
        (vget e.banks (p / 16)).gen = (vget c.banks (p / 16)).gen + 1) := by
  refine ⟨c.setPincfg p v, ?_, c.setPincfg_keeps v p, (c.setPincfg_cfg v hp hp).trans (if_pos rfl),
    fun j hj hne => (c.setPincfg_cfg v hp hj).trans (if_neg hne), c.setPincfg_gen v hp⟩
  unfold wrPincfg
  rw [if_neg (by rw [hmode]; exact Bool.false_ne_true), if_neg (by simp [hlock]), if_neg (by rcases h with h | h <;> simp [h])]

end

/-- Settles O39: each row is the store of its register, whose chip and parts are given by the lemmas on its write. -/
theorem unitRegisters : Obligations.UnitRegisters := by
  unfold Obligations.UnitRegisters
  intro q s v k n p bk u c hon hq hp hbk x row
  have hrow : row = rowEnds s := rfl
  clear_value row
  subst hrow
  have hevt : evtSrcAddr k.toNat % 4 = 0 ∧ evtSrcAddr k.toNat < 0x10000000 := by unfold evtSrcAddr; omega
  have hcfg : pincfgAddr p.toNat % 4 = 0 ∧ pincfgAddr p.toNat < 0x10000000 := by unfold pincfgAddr; omega
  have hbind (off : Bool) : bindAddr p.toNat off % 4 = 0 ∧ bindAddr p.toNat off < 0x10000000 := by
    unfold bindAddr
    split
    · omega
    · omega
  have hsafest : safestAddr bk.toNat % 4 = 0 ∧ safestAddr bk.toNat < 0x10000000 := by unfold safestAddr; omega
  have hpol : polAddr n.toNat % 4 = 0 ∧ polAddr n.toNat < 0x10000000 := by unfold polAddr; omega
  have hscr : scrPolAddr n.toNat % 4 = 0 ∧ scrPolAddr n.toNat < 0x10000000 := by unfold scrPolAddr; omega
  have hdma : dmaCtrlAddr bk.toNat % 4 = 0 ∧ dmaCtrlAddr bk.toNat < 0x10000000 := by unfold dmaCtrlAddr; omega
  have hlnk (port : BitVec 2) : lnkCtrlAddr port.toNat % 4 = 0 ∧ lnkCtrlAddr port.toNat < 0x10000000 := by
    unfold lnkCtrlAddr
    omega
  have hpin := exec_pincfgWrite q v s hp
  refine ⟨fun hok => ?_, fun hok => ?_, fun hmode => ?_, fun hmode hlock => ?_, fun hmode hlock => ⟨fun hne harm => ?_,
    fun heq => ?_, fun hne harm => ?_⟩, ?_, fun hok => ?_, fun hok => ?_, fun hlock => ?_, fun hlock => ?_, fun hlock => ?_,
    fun hlock => ?_, ?_, fun hw => ?_, fun port hport hv => ?_, fun port hport hv => ?_, ?_, ?_, fun htest => ?_, fun htest => ?_⟩
  · refine rowEnds_of_write hon hq (by rfl) hevt ((writeReg_evtSrc _ _ _ _ k.isLt).trans (if_pos hok))
      (Chip.setEvtsrc_keeps c k.toNat v) ⟨?_, fun j hj hne => ?_⟩
    · exact vget_vset_same _ _ _
    · exact vget_vset_other _ _ (by omega)
  · exact rowEnds_of_write hon hq (by rfl) hevt ((writeReg_evtSrc _ _ _ _ k.isLt).trans (if_neg (by simp [hok])))
      (Chip.keeps.refl _ _) trivial
  · exact rowEnds_of_write hon hq hpin hcfg ((writeReg_pincfg _ _ _ _ hp).trans (if_pos hmode)) (Chip.keeps.refl _ _) trivial
  · exact rowEnds_of_write hon hq hpin hcfg ((writeReg_pincfg _ _ _ _ hp).trans (wrPincfg_locked hmode hlock))
      (Chip.violate_keeps _ _ _ _ _ _ _) rfl
  · exact rowEnds_of_write hon hq hpin hcfg ((writeReg_pincfg _ _ _ _ hp).trans (wrPincfg_busy hmode hlock hne harm))
      (Chip.keeps.refl _ _) trivial
  · obtain ⟨e, hw, hkeeps, hsame, hothers, -⟩ :=
      wrPincfg_done (x := Src.ofQueue q) (a := pincfgAddr p.toNat) hmode hp hlock (.inl heq)
    exact rowEnds_of_write hon hq hpin hcfg ((writeReg_pincfg _ _ _ _ hp).trans hw) hkeeps ⟨hsame, hothers⟩
  · obtain ⟨e, hw, hkeeps, hsame, -, hgen⟩ :=
      wrPincfg_done (x := Src.ofQueue q) (a := pincfgAddr p.toNat) hmode hp hlock (.inr harm)
    exact rowEnds_of_write hon hq hpin hcfg ((writeReg_pincfg _ _ _ _ hp).trans hw) hkeeps ⟨hsame, hgen hne⟩
  · exact rowEnds_of_write hon hq (exec_bindWrite q true v s hp) (hbind true) (writeReg_boff _ _ _ _ hp)
      (c.modPin_keeps _ _) (vget_vmod_same _ _ _)
  · exact rowEnds_of_write hon hq (exec_bindWrite q false v s hp) (hbind false)
      ((writeReg_bind _ _ _ _ hp).trans (if_pos hok)) (c.modPin_keeps _ _) (vget_vmod_same _ _ _)
  · exact rowEnds_of_write hon hq (exec_bindWrite q false v s hp) (hbind false)
      ((writeReg_bind _ _ _ _ hp).trans (if_neg (by simp [hok]))) (Chip.keeps.refl _ _) trivial
  · exact rowEnds_of_write hon hq (exec_safestWrite q v s hbk) hsafest
      ((writeReg_safest _ _ _ _ hbk).trans
        (if_neg (by rw [show s.chip.endSwitch.fabricLocked = false from hlock]; exact Bool.false_ne_true)))
      (c.modBank_keeps _ _) (vget_vmod_same _ _ _)
  · exact rowEnds_of_write hon hq (exec_safestWrite q v s hbk) hsafest ((writeReg_safest _ _ _ _ hbk).trans (if_pos hlock))
      (Chip.violate_keeps _ _ _ _ _ _ _) rfl
  · obtain ⟨e, ff, hw, hkeeps, hfrond, hothers⟩ := wrFrdPol_unlocked c (Src.ofQueue q) (polAddr n.toNat) v n.isLt hlock
    refine rowEnds_of_write hon hq (by rfl) hpol ((writeReg_pol _ _ _ _ n.isLt).trans hw) hkeeps ⟨?_, ?_, hothers⟩
    · exact congrArg Frond.pol hfrond
    · exact congrArg Frond.gen hfrond
  · obtain ⟨e, hw, hkeeps, hset⟩ := wrScrPol_unlocked c (Src.ofQueue q) (scrPolAddr n.toNat) v n.isLt hlock
    exact rowEnds_of_write hon hq (by rfl) hscr ((writeReg_scrPol _ _ _ _ n.isLt).trans hw) hkeeps hset
  · exact rowEnds_of_write hon hq (by rfl) (by decide) (writeReg_repair _ _ _ _) (c.wrRepair_keeps v)
      fun j hj => c.wrRepair_want v hj
  · obtain ⟨hkeeps, hidle, hcredits⟩ := c.dropDma_spec bk.toNat hw
    exact rowEnds_of_write hon hq (exec_dmaDrop q s hbk) hdma
      ((writeReg_dmaCtrl _ _ _ _ hbk).trans (wrDmaCtrl_drop _ hq _)) hkeeps ⟨hidle, hcredits⟩
  · obtain ⟨hkeeps, hctrl, hst⟩ := c.enabled_spec port.toNat v hv
    exact rowEnds_of_write hon hq (exec_lnkCtrlWrite q v s hport) (hlnk port) (writeReg_lnkCtrl _ _ _ _ hport) hkeeps ⟨hctrl, hst⟩
  · obtain ⟨hkeeps, hall⟩ := c.disabled_spec v hport hv
    exact rowEnds_of_write hon hq (exec_lnkCtrlWrite q v s hport) (hlnk port) (writeReg_lnkCtrl _ _ _ _ hport) hkeeps hall
  · exact rowEnds_of_write hon hq (by rfl) (by decide) (writeReg_prtReset _ _ _ 1) c.resetSpi_keeps rfl
  · exact rowEnds_of_write hon hq (by rfl) (by decide) (writeReg_prtReset _ _ _ 2) c.resetMgt_keeps rfl
  · have hw := (writeReg_prtReset c s.die (Src.ofQueue q) 4).trans (congrArg (Prod.mk St.ok) (Chip.resetJtag_idle htest))
    exact rowEnds_of_write hon hq (by rfl) (by decide) hw (c.setJtg_keeps _) ⟨rfl, rfl, rfl, rfl, rfl⟩
  · obtain ⟨hkeeps, hir, htest', hheld⟩ := Chip.resetJtag_test htest
    exact rowEnds_of_write hon hq (by rfl) (by decide) (writeReg_prtReset _ _ _ 4) hkeeps ⟨hir, htest', hheld⟩

end Sys2Proof.Machine
end

section
namespace Sys2Proof.Machine

/-! ### A frame of the host port (R105, R107) -/

/-- A chip as a frame begins: the status byte sampled, nothing driven, RESET disarmed. -/
def Chip.spiBegun (c : Chip) : Chip := { c with spi := { c.spi with status := c.statusByte, out := [], armed := false } }

theorem Chip.setSpi_keeps (c : Chip) (x : Spi) : c.keeps [.spi] { c with spi := x } := by
  intro p hp
  cases p <;> first | rfl | exact absurd hp (by decide)

theorem Chip.spiBegun_keeps (c : Chip) : c.keeps [.spi] c.spiBegun := c.setSpi_keeps _

theorem spiFrame_served {s : State} (h : s.chip.endSwitch.spiServed = true) (g : Die → Chip → Chip) :
    spiFrame s g = .next { s with chip := g s.die s.chip.endSwitch.spiBegun } := by
  have hframe : spiFrame s g = .next { s with
      chip := if !s.chip.endSwitch.spiServed then s.chip.endSwitch else g s.die s.chip.endSwitch.spiBegun } := rfl
  rw [hframe, h]
  rfl

theorem spiFrame_unserved {s : State} (h : s.chip.endSwitch.spiServed = false) (g : Die → Chip → Chip) :
    spiFrame s g = .next { s with chip := s.chip.endSwitch } := by
  have hframe : spiFrame s g = .next { s with
      chip := if !s.chip.endSwitch.spiServed then s.chip.endSwitch else g s.die s.chip.endSwitch.spiBegun } := rfl
  rw [hframe, h]
  rfl

theorem Chip.frameError_keeps (c : Chip) : c.keeps [.spi] c.frameError :=
  (c.setSpi_keeps _).trans (Chip.setSpi_keeps _ _)

theorem Chip.frameError_evt (c : Chip) : c.frameError.spi.evt.getLsbD 0 = true := getLsbD_raised _ (by decide)

/-! ### Whole instructions through the crossing (R104, R113) -/

/-- The words a PUSH frame gives to the crossing, in order. -/
def Chip.pushAll (c : Chip) (q : Queue) (ws : List QWord) : Chip :=
  ws.foldl (fun c w => c.crossing 0 q false w) c

/-- With the core held in reset they wait, each with the epoch of its acceptance. -/
theorem Chip.pushAll_held (q : Queue) : ∀ (ws : List QWord) {c : Chip}, c.pwr.held = true →
    c.pushAll q ws = { c with prt := { c.prt with cross := c.prt.cross ++ ws.map fun w => (0, c.prt.epoch, q, w) } } := by
  intro ws
  induction ws with
  | nil =>
    intro c _
    simp [Chip.pushAll]
  | cons w ws ih =>
    intro c h
    obtain ⟨d, hd⟩ : ∃ d : Chip, d = { c with prt := { c.prt with cross := c.prt.cross ++ [(0, c.prt.epoch, q, w)] } } := ⟨_, rfl⟩
    have hstep : c.crossing 0 q false w = d := (if_pos h).trans hd.symm
    have hcons : c.pushAll q (w :: ws) = d.pushAll q ws := by
      rw [← hstep]
      rfl
    rw [hcons, ih (c := d) (by rw [hd]; exact h), hd]
    simp

/-- A word that enters a queue of the host port with a free slot. -/
theorem Chip.crossing_open {c : Chip} {q : Queue} (hq : q = 0 ∨ q = 1) (h : c.pwr.held = false) (hfree : 0 < c.freeSlots q.val)
    (w : QWord) : c.crossing 0 q false w = c.modQ q.val fun x => { x with words := x.words ++ [w] } := by
  have hin : c.crossing 0 q false w = c.enqueue q.val w := by
    unfold Chip.crossing
    rw [if_neg (by simp [h]), if_neg (by decide)]
  rw [hin]
  unfold Chip.enqueue
  rcases hq with rfl | rfl
  · rw [if_neg (by decide), if_neg (by decide), if_pos hfree]
    exact if_neg (by decide)
  · rw [if_neg (by decide), if_neg (by decide), if_pos hfree]
    exact if_neg (by decide)

/-- It takes one slot. -/
theorem Chip.freeSlots_put (c : Chip) (q : Queue) (w : QWord) :
    (c.modQ q.val fun x => { x with words := x.words ++ [w] }).freeSlots q.val = c.freeSlots q.val - 1 := by
  have hocc : (vget (c.modQ q.val fun x => { x with words := x.words ++ [w] }).eng.queues q.val).occupied
      = (vget c.eng.queues q.val).occupied + 1 := by
    simp only [Chip.modQ_eng, vget_vmod_same, QState.occupied, List.length_append, List.length_singleton]
    omega
  unfold Chip.freeSlots
  rw [hocc]
  show _ - _ - c.accepted q.val = _
  omega

/-- Words for which there are free slots enter their queue in order. -/
theorem Chip.pushAll_open {q : Queue} (hq : q = 0 ∨ q = 1) : ∀ (ws : List QWord) {c : Chip}, c.pwr.held = false →
    ws.length ≤ c.freeSlots q.val → c.keeps [.queues] (c.pushAll q ws) ∧
      ((c.pushAll q ws).queue q).words = (c.queue q).words ++ ws ∧ ∀ j, j ≠ q → (c.pushAll q ws).queue j = c.queue j := by
  intro ws
  induction ws with
  | nil =>
    intro c _ _
    exact ⟨Chip.keeps.refl _ _, (List.append_nil _).symm, fun _ _ => rfl⟩
  | cons w ws ih =>
    intro c h hfree
    obtain ⟨d, hd⟩ : ∃ d, d = c.modQ q.val fun x => { x with words := x.words ++ [w] } := ⟨_, rfl⟩
    have hlen : (w :: ws).length = ws.length + 1 := rfl
    have hcons : c.pushAll q (w :: ws) = d.pushAll q ws := by
      rw [hd, ← Chip.crossing_open hq h (by omega)]
      rfl
    have hfree' : ws.length ≤ d.freeSlots q.val := by
      rw [hd, Chip.freeSlots_put]
      omega
    obtain ⟨hkeeps, hwords, hothers⟩ := ih (c := d) (by rw [hd]; exact h) hfree'
    rw [hcons]
    refine ⟨Chip.keeps.trans (hd ▸ c.modQ_keeps q.val _) hkeeps, ?_, fun j hj => ?_⟩
    · rw [hwords, hd, Chip.queue_modQ_same]
      simp
    · rw [hothers j hj, hd, Chip.queue_modQ_other _ _ hj]

/-- The end of a PUSH frame of `n` words of which `k` were accepted. -/
def Chip.pushEnd (c : Chip) (k n : Nat) (part : Bool) : Chip :=
  let c := { c with spi := { c.spi with accept := satAdd c.spi.accept k, lastAcc := BitVec.ofNat 6 k } }
  let c := if k < n then
      let c := (c.setSpiEvt 1).refuse (n - k)
      { c with spi := { c.spi with refused := true } }
    else c
  if part then (c.setSpiEvt 2).partialAt 0 else c

theorem Chip.push_eq (c : Chip) (q : Queue) (ws : List QWord) (part : Bool) :
    c.push q ws part = (c.pushAll q (ws.take (min ws.length (c.hostFree q.val)))).pushEnd
      (min ws.length (c.hostFree q.val)) ws.length part := rfl

theorem Chip.setSpiPrt_keeps (c : Chip) (x : Spi) (y : Prt) : c.keeps [.spi, .prt] { c with spi := x, prt := y } := by
  intro p hp
  cases p <;> first | rfl | exact absurd hp (by decide)

/-- What the end of a PUSH frame counts and raises. -/
theorem Chip.pushEnd_spec (c : Chip) (k n : Nat) (part : Bool) :
    c.keeps [.spi, .prt] (c.pushEnd k n part) ∧ (c.pushEnd k n part).prt.cross = c.prt.cross ∧
      (c.pushEnd k n part).spi.accept = satAdd c.spi.accept k ∧ (c.pushEnd k n part).spi.lastAcc = BitVec.ofNat 6 k ∧
      (k < n → (c.pushEnd k n part).spi.refuse = satAdd c.spi.refuse (n - k) ∧ (c.pushEnd k n part).spi.refused = true ∧
        (c.pushEnd k n part).spi.evt.getLsbD 1 = true) ∧
      (k = n → (c.pushEnd k n part).spi.refuse = c.spi.refuse ∧ (c.pushEnd k n part).spi.refused = c.spi.refused) ∧
      (part = true → (c.pushEnd k n part).spi.evt.getLsbD 2 = true ∧
        vget (c.pushEnd k n part).prt.part 0 = satAdd (vget c.prt.part 0) 1) ∧
      (part = false → (c.pushEnd k n part).prt.part = c.prt.part) := by
  unfold Chip.pushEnd
  dsimp only
  by_cases hk : k < n
  · have hne := Nat.ne_of_lt hk
    rw [if_pos hk]
    cases part with
    | false => exact ⟨c.setSpiPrt_keeps _ _, rfl, rfl, rfl, fun _ => ⟨rfl, rfl, getLsbD_raised _ (by decide)⟩,
        fun h => absurd h hne, nofun, fun _ => rfl⟩
    | true =>
      refine ⟨c.setSpiPrt_keeps _ _, rfl, rfl, rfl, fun _ => ⟨rfl, rfl, ?_⟩, fun h => absurd h hne,
        fun _ => ⟨getLsbD_raised _ (by decide), ?_⟩, nofun⟩
      · show ((c.spi.evt ||| bitW 1 true) ||| bitW 2 true).getLsbD 1 = true
        rw [BitVec.getLsbD_or, getLsbD_raised _ (by decide), Bool.true_or]
      · simp [Chip.refuse, Chip.partialAt]
  · rw [if_neg hk]
    cases part with
    | false => exact ⟨c.setSpiPrt_keeps _ _, rfl, rfl, rfl, fun h => absurd h hk, fun _ => ⟨rfl, rfl⟩, nofun, fun _ => rfl⟩
    | true =>
      refine ⟨c.setSpiPrt_keeps _ _, rfl, rfl, rfl, fun h => absurd h hk, fun _ => ⟨rfl, rfl⟩,
        fun _ => ⟨getLsbD_raised _ (by decide), ?_⟩, nofun⟩
      simp [Chip.partialAt]

/-! ### The status word (R112) -/

theorem getLsbD_natW_in {n v j : Nat} (hj : j < 6) (hn : n + 6 ≤ 32) : (natW n v).getLsbD (n + j) = v.testBit j := by
  unfold natW
  rw [BitVec.getLsbD_shiftLeft, BitVec.getLsbD_ofNat, Nat.add_sub_cancel_left]
  simp only [show n + j < 32 by omega, show j < 32 by omega, show ¬ n + j < n by omega, decide_true, decide_false,
    Bool.not_false, Bool.true_and]

/-- A value of six bits stands in its field alone. -/
theorem getLsbD_natW_out {n v j : Nat} (hv : v < 64) (hj : j < n ∨ n + 6 ≤ j) : (natW n v).getLsbD j = false := by
  unfold natW
  rw [BitVec.getLsbD_shiftLeft, BitVec.getLsbD_ofNat]
  rcases hj with hj | hj
  · simp [hj]
  · have hbit : v.testBit (j - n) = false :=
      Nat.testBit_lt_two_pow (lt_of_lt_of_le hv (Nat.pow_le_pow_right (n := 2) (i := 6) (by decide) (by omega)))
    rw [hbit, Bool.and_false, Bool.and_false]

theorem getLsbD_bitW_out {n j : Nat} (b : Bool) (hn : n < 32) (hj : j ≠ n) : (bitW n b).getLsbD j = false := by
  rw [getLsbD_bitW b j hn, beq_eq_false_iff_ne.2 hj, Bool.and_false]

theorem getLsbD_bitW_in {n : Nat} (b : Bool) (hn : n < 32) : (bitW n b).getLsbD n = b := by
  rw [getLsbD_bitW b n hn, beq_self_eq_true, Bool.and_true]

/-- A word of five fields of six bits from bit 0 on, and two flags. -/
def fiveFields (v0 v1 v2 v3 v4 : Nat) (b30 b31 : Bool) : Word :=
  natW 0 v0 ||| natW 6 v1 ||| natW 12 v2 ||| natW 18 v3 ||| natW 24 v4 ||| bitW 30 b30 ||| bitW 31 b31

section
variable {v0 v1 v2 v3 v4 : Nat} (b30 b31 : Bool) (h0 : v0 < 64) (h1 : v1 < 64) (h2 : v2 < 64) (h3 : v3 < 64) (h4 : v4 < 64)
include h0 h1 h2 h3 h4

/-- Each field is read back. -/
theorem fiveFields_fields : ∀ e ∈ [(0, v0), (6, v1), (12, v2), (18, v3), (24, v4)],
    (fiveFields v0 v1 v2 v3 v4 b30 b31).extractLsb' e.1 6 = BitVec.ofNat 6 e.2 := by
  intro e he
  refine BitVec.eq_of_getLsbD_eq fun i hi => ?_
  rw [BitVec.getLsbD_extractLsb', BitVec.getLsbD_ofNat, decide_eq_true hi, Bool.true_and, Bool.true_and]
  unfold fiveFields
  simp only [List.mem_cons, List.not_mem_nil, or_false] at he
  rcases he with rfl | rfl | rfl | rfl | rfl <;>
    simp (disch := omega) only [BitVec.getLsbD_or, getLsbD_natW_in, getLsbD_natW_out, getLsbD_bitW_out,
      Bool.or_false, Bool.false_or]

theorem fiveFields_flags : (fiveFields v0 v1 v2 v3 v4 b30 b31).getLsbD 30 = b30 ∧
    (fiveFields v0 v1 v2 v3 v4 b30 b31).getLsbD 31 = b31 := by
  unfold fiveFields
  constructor <;>
    simp (disch := omega) only [BitVec.getLsbD_or, getLsbD_natW_out, getLsbD_bitW_out, getLsbD_bitW_in,
      Bool.or_false, Bool.false_or]

end

theorem ofNat_field {w : Nat} (v : BitVec w) (lo n : Nat) : BitVec.ofNat n (field v lo n) = v.extractLsb' lo n := by
  apply BitVec.eq_of_toNat_eq
  simp [field]

theorem Chip.hostFree_lt (c : Chip) (q : Nat) : c.hostFree q < 64 := by
  have hdepth : depth q ≤ 32 := by
    unfold depth
    split
    · decide
    · decide
  unfold Chip.hostFree Chip.freeSlots
  split
  · decide
  · omega

theorem Chip.statusWord_eq (c : Chip) : c.statusWord = fiveFields (c.hostFree 0) (c.hostFree 1)
    (field (c.queue 0).rnext 0 6) (field (c.queue 1).rnext 0 6) c.spi.lastAcc.toNat c.inHold c.spi.epoch := by
  have hlast : fldW 24 c.spi.lastAcc = natW 24 c.spi.lastAcc.toNat := by
    unfold fldW natW
    rw [BitVec.ofNat_toNat]
  unfold Chip.statusWord fiveFields
  rw [hlast]

/-- The fields of the status word (Table PRT-4). -/
theorem Chip.statusWord_spec (c : Chip) :
    c.statusWord.extractLsb' 0 6 = BitVec.ofNat 6 (c.hostFree 0) ∧
      c.statusWord.extractLsb' 6 6 = BitVec.ofNat 6 (c.hostFree 1) ∧
      c.statusWord.extractLsb' 12 6 = (c.queue 0).rnext.extractLsb' 0 6 ∧
      c.statusWord.extractLsb' 18 6 = (c.queue 1).rnext.extractLsb' 0 6 ∧
      c.statusWord.extractLsb' 24 6 = c.spi.lastAcc ∧ c.statusWord.getLsbD 30 = c.inHold ∧
      c.statusWord.getLsbD 31 = c.spi.epoch := by
  have h0 := c.hostFree_lt 0
  have h1 := c.hostFree_lt 1
  have h2 := field_lt (c.queue 0).rnext 0 6
  have h3 := field_lt (c.queue 1).rnext 0 6
  have h4 : c.spi.lastAcc.toNat < 64 := c.spi.lastAcc.isLt
  have hf := fiveFields_fields c.inHold c.spi.epoch h0 h1 h2 h3 h4
  obtain ⟨hhold, hepoch⟩ := fiveFields_flags c.inHold c.spi.epoch h0 h1 h2 h3 h4
  rw [Chip.statusWord_eq]
  refine ⟨hf (0, c.hostFree 0) (by simp), hf (6, c.hostFree 1) (by simp), ?_, ?_, ?_, hhold, hepoch⟩
  · exact (hf (12, field (c.queue 0).rnext 0 6) (by simp)).trans (ofNat_field _ _ _)
  · exact (hf (18, field (c.queue 1).rnext 0 6) (by simp)).trans (ofNat_field _ _ _)
  · exact (hf (24, c.spi.lastAcc.toNat) (by simp)).trans ((BitVec.ofNat_toNat _ _).trans (BitVec.setWidth_eq _))

/-! ### Reads of the rings and the window (R116, R117, R120, R121) -/

theorem memBytes_succ (d : Byte) (m : Mem) (a n : Nat) : memBytes d m a (n + 1) = memRead d m a :: memBytes d m (a + 1) n := by
  unfold memBytes
  rw [List.range_succ_eq_map, List.map_cons, List.map_map]
  exact congrArg _ (List.map_congr_left fun i _ => congrArg (memRead d m) (by simp only [Nat.succ_eq_add_one]; omega))

theorem memBytes_add (d : Byte) (m : Mem) (a k n : Nat) :
    memBytes d m a (k + n) = memBytes d m a k ++ memBytes d m (a + k) n := by
  unfold memBytes
  rw [List.range_add, List.map_append, List.map_map]
  exact congrArg _ (List.map_congr_left fun i _ => congrArg (memRead d m) (Nat.add_assoc a k i).symm)

theorem take_memBytes (d : Byte) (m : Mem) (a : Nat) {k n : Nat} (h : k ≤ n) :
    (memBytes d m a n).take k = memBytes d m a k := by
  unfold memBytes
  rw [← List.map_take, List.take_range, Nat.min_eq_left h]

/-- The bytes of a number read from memory are the bytes read. -/
theorem natBytes_memNat (d : Byte) (m : Mem) (n : Nat) : ∀ a, natBytes (memNat d m a n) n = memBytes d m a n := by
  induction n with
  | zero => exact fun _ => rfl
  | succ n ih =>
    intro a
    have hbyte := (memRead d m a).isLt
    have hlow : BitVec.ofNat 8 ((memRead d m a).toNat + 256 * memNat d m (a + 1) n) = memRead d m a := by
      apply BitVec.eq_of_toNat_eq
      rw [BitVec.toNat_ofNat]
      omega
    have hhigh : ((memRead d m a).toNat + 256 * memNat d m (a + 1) n) / 256 = memNat d m (a + 1) n := by omega
    rw [memBytes_succ, ← ih]
    show BitVec.ofNat 8 (_ + 256 * _) :: natBytes ((_ + 256 * _) / 256) n = _
    rw [hlow, hhigh]

theorem Chip.natBytes_getWord (c : Chip) {a : Nat} (h : a % 16 = 0) :
    natBytes (c.getWord a).toNat 16 = memBytes 0 c.mem a 16 := by
  have ha : a / 16 * 16 = a := by omega
  have hlt : memNat 0 c.mem a 16 < 2 ^ 128 := lt_of_lt_of_eq (memNat_lt 0 c.mem a 16) (by norm_num)
  unfold Chip.getWord
  rw [ha, BitVec.toNat_ofNat, Nat.mod_eq_of_lt hlt, natBytes_memNat]

/-- Words with good check bits are read as they stand. -/
theorem Chip.portRead_good (c : Chip) {base size : Nat} (hb : base % 16 = 0) : ∀ (n off : Nat), off % 16 = 0 →
    off + 16 * n ≤ size → (∀ k, k < n → c.eccAt (base + off + 16 * k) = 0) →
    c.portRead base size off n = (memBytes 0 c.mem (base + off) (16 * n), c) := by
  intro n
  induction n with
  | zero => exact fun _ _ _ _ => rfl
  | succ n ih =>
    intro off hal hsize hgood
    have hin : base + off % size = base + off := by rw [Nat.mod_eq_of_lt (by omega)]
    have hread : c.readEcc (base + off) 0 = (St.ok, c) := by
      have hfirst := hgood 0 (by omega)
      rw [Nat.mul_zero, Nat.add_zero] at hfirst
      unfold Chip.readEcc
      rw [hfirst]
      rfl
    have hrest : c.portRead base size (off + 16) n = (memBytes 0 c.mem (base + off + 16) (16 * n), c) :=
      ih (off + 16) (by omega) (by omega) fun k hk => by
        rw [show base + (off + 16) + 16 * k = base + off + 16 * (k + 1) by omega]
        exact hgood (k + 1) (by omega)
    have hok : failed St.ok = false := by decide
    rw [show 16 * (n + 1) = 16 + 16 * n by omega, memBytes_add, ← Chip.natBytes_getWord c (by omega)]
    unfold Chip.portRead
    dsimp only
    rw [hin, hread]
    simp only [hok, Bool.false_eq_true, if_false, hrest]

theorem Chip.spiRead_open {c : Chip} {base size off n : Nat} (hopen : c.hostShut = false) (hb : base % 16 = 0)
    (hal : off % 16 = 0) (hsize : off + 16 * ((n + 15) / 16) ≤ size)
    (hgood : ∀ k, 16 * k < n → c.eccAt (base + off + 16 * k) = 0) :
    c.spiRead base size off n = { c with spi := { c.spi with out := memBytes 0 c.mem (base + off) n } } := by
  have hread := c.portRead_good hb ((n + 15) / 16) off hal hsize fun k hk => hgood k (by omega)
  unfold Chip.spiRead
  rw [if_neg (by simp [hopen]), hread]
  dsimp only
  rw [take_memBytes _ _ _ (by omega)]

theorem Chip.hostShut_of_hold {c : Chip} (h : c.inHold = true) : c.hostShut = true := by
  unfold Chip.hostShut
  rw [h, Bool.true_or]

theorem Chip.spiRead_hold {c : Chip} (base size off n : Nat) (h : c.inHold = true) :
    c.spiRead base size off n = { c with spi := { c.spi with out := List.replicate n 0 } } := by
  unfold Chip.spiRead
  rw [if_pos (Chip.hostShut_of_hold h), if_pos h]

/-! ### Words into the window (R118) -/

/-- The words of a WRITE_STREAM frame, written in order. -/
def Chip.putStream (c : Chip) (off : Nat) (ws : List QWord) : Chip :=
  (ws.foldl (fun (r : Nat × Chip) w => (r.1 + 16, r.2.putWord (0x70000000 + r.1 % 0x10000) w)) (off, c)).2

theorem Chip.putStream_cons (c : Chip) (off : Nat) (w : QWord) (ws : List QWord) :
    c.putStream off (w :: ws) = (c.putWord (0x70000000 + off % 0x10000) w).putStream (off + 16) ws := rfl

/-- A word written to the window changes memory and its check codes alone. -/
theorem Chip.putWord_window (c : Chip) {off : Nat} (h : off < 0x10000) (w : QWord) :
    c.keeps [.mem, .ecc] (c.putWord (0x70000000 + off) w) := by
  have hregion : regionOf (0x70000000 + off) ≠ some 4 := by
    unfold regionOf
    split_ifs <;> first | omega | decide
  intro p hp
  by_cases hn : p = .nvs
  · subst hn
    exact Chip.putWord_nvs c _ w hregion
  · exact c.putWord_keeps _ w p (by simp_all)

/-- What the words written change: memory and check codes in their place, where each stands with good check bits. -/
theorem Chip.putStream_spec : ∀ (ws : List QWord) (c : Chip) {off : Nat}, off % 16 = 0 → off + 16 * ws.length ≤ 0x10000 →
    c.keeps [.mem, .ecc] (c.putStream off ws) ∧
      sameOutside 0 c.mem (c.putStream off ws).mem (0x70000000 + off) (16 * ws.length) ∧
      (∀ x, x < (0x70000000 + off) / 16 → memRead 0 (c.putStream off ws).ecc x = memRead 0 c.ecc x) ∧
      ∀ k, k < ws.length → (c.putStream off ws).getWord (0x70000000 + off + 16 * k) = ws.getD k 0 ∧
        (c.putStream off ws).eccAt (0x70000000 + off + 16 * k) = 0 := by
  intro ws
  induction ws with
  | nil => exact fun c _ _ _ => ⟨Chip.keeps.refl _ _, fun _ _ => rfl, fun _ _ => rfl, fun k hk => absurd hk (Nat.not_lt_zero k)⟩
  | cons w ws ih =>
    intro c off hal hsize
    rw [List.length_cons] at hsize
    obtain ⟨a, ha⟩ : ∃ a, a = 0x70000000 + off := ⟨_, rfl⟩
    have hin : 0x70000000 + off % 0x10000 = a := by omega
    have hword : a / 16 * 16 = a := by omega
    obtain ⟨hkeeps, hmem, hecc, hwords⟩ := ih (c.putWord a w) (off := off + 16) (by omega) (by omega)
    rw [Chip.putStream_cons, hin, ← ha]
    rw [show 0x70000000 + (off + 16) = a + 16 by omega] at hmem hecc hwords
    generalize (c.putWord a w).putStream (off + 16) ws = e at hkeeps hmem hecc hwords
    refine ⟨Chip.keeps.trans (ha ▸ c.putWord_window (by omega) w) hkeeps, fun x hx => ?_, fun x hx => ?_, fun k hk => ?_⟩
    · rw [List.length_cons] at hx
      rw [hmem x (by omega), Chip.putWord_mem, hword]
      exact memRead_put_other _ _ _ _ (by omega)
    · rw [hecc x (by omega), Chip.putWord_ecc]
      exact memRead_write_other (by omega)
    · cases k with
      | zero =>
        rw [Nat.mul_zero, Nat.add_zero]
        constructor
        · have hsame : e.getWord a = (c.putWord a w).getWord a := by
            unfold Chip.getWord
            rw [hword]
            exact congrArg (BitVec.ofNat 128) (memNat_congr 16 a fun x _ _ => hmem x (by omega))
          exact hsame.trans (c.getWord_putWord a w)
        · unfold Chip.eccAt
          rw [hecc (a / 16) (by omega), Chip.putWord_ecc, memRead_write_same]
          rfl
      | succ k =>
        rw [List.length_cons] at hk
        rw [show a + 16 * (k + 1) = a + 16 + 16 * k by omega]
        exact hwords k (by omega)

/-- WRITE_STREAM with the window open to the port. -/
theorem Chip.spiWrite_open {c : Chip} (off : Nat) (ws : List QWord) (hopen : c.hostShut = false)
    (hctrl : c.spi.ctrl.getLsbD 0 = true) : c.spiWrite off ws false = c.putStream off ws := by
  have hhold : c.inHold = false := (Bool.or_eq_false_iff.1 hopen).1
  unfold Chip.spiWrite
  rw [hhold, hctrl, hopen]
  rfl

theorem Chip.spiWrite_hold {c : Chip} (off : Nat) (ws : List QWord) (h : c.inHold = true) :
    c.spiWrite off ws false = c.refuse ws.length := by
  unfold Chip.spiWrite
  rw [h]
  rfl

/-! ### The rows of the port -/

section
variable (s : State) (ws : List QWord) (part : Bool) (a : BitVec 24) (n : Nat)

theorem exec_pushQ0 : exec (.pushQ0 ws part) s = spiFrame s fun _ c => c.push 0 ws part := by rfl

theorem exec_pushQ1 : exec (.pushQ1 ws part) s = spiFrame s fun _ c => c.push 1 ws part := by rfl

theorem exec_readStatus (b : Byte) :
    exec (.readStatus b) s = spiFrame s fun die c => c.spiCommand die s.chip.endSwitch.spi.armed b := by rfl

theorem exec_readId : exec .readId s = spiFrame s fun die c => c.readId die := by rfl

theorem exec_resetEnable :
    exec .resetEnable s = spiFrame s fun _ c => { c with spi := { c.spi with armed := true } } := by rfl

theorem exec_reset : exec .reset s = spiFrame s fun _ c => if s.chip.endSwitch.spi.armed then c.resetSpi else c := by rfl

theorem exec_readRing : exec (.readRing a n) s = spiFrame s fun _ c =>
    if a.toNat % 16 ≠ 0 ∨ 0x2000 ≤ a.toNat then c.frameError else c.spiRead 0x28000000 0x2000 a.toNat n := by rfl

theorem exec_readStream : exec (.readStream a n) s = spiFrame s fun _ c =>
    if a.toNat % 16 ≠ 0 ∨ 0x10000 ≤ a.toNat then c.frameError else c.spiRead 0x70000000 0x10000 a.toNat n := by rfl

theorem exec_writeStream : exec (.writeStream a ws part) s = spiFrame s fun _ c =>
    if a.toNat % 16 ≠ 0 ∨ 0x10000 ≤ a.toNat then c.frameError else c.spiWrite a.toNat ws part := by rfl

end

/-- A served frame takes the chip on from where the frame begins; what it may change beside the front end. -/
theorem spiFrame_keeps {s : State} {i : Instr} {g : Die → Chip → Chip} {ps : List Part} (hexec : exec i s = spiFrame s g)
    (h : s.chip.endSwitch.spiServed = true) (hps : Part.spi ∈ ps)
    (hk : s.chip.endSwitch.spiBegun.keeps ps (g s.die s.chip.endSwitch.spiBegun)) :
    ∃ t, exec i s = .next t ∧ State.keeps ps { s with chip := s.chip.endSwitch } t ∧
      t.chip = g s.die s.chip.endSwitch.spiBegun := by
  refine ⟨_, hexec.trans (spiFrame_served h g), State.keeps_chip ?_, rfl⟩
  exact ((Chip.spiBegun_keeps _).mono fun p hp => List.mem_singleton.1 hp ▸ hps).trans hk

/-! ### What the frames do -/

theorem Chip.setPrt_keeps (c : Chip) (x : Prt) : c.keeps [.prt] { c with prt := x } := by
  intro p hp
  cases p <;> first | rfl | exact absurd hp (by decide)

/-- What the words given to the crossing change. -/
theorem Chip.pushAll_spec {c : Chip} {q : Queue} (hq : q = 0 ∨ q = 1) {ws : List QWord}
    (hfree : ws.length ≤ c.freeSlots q.val) :
    c.keeps [.queues, .prt] (c.pushAll q ws) ∧ (c.pushAll q ws).prt.part = c.prt.part ∧
      (c.pwr.held = false → ((c.pushAll q ws).queue q).words = (c.queue q).words ++ ws ∧
        (c.pushAll q ws).prt.cross = c.prt.cross) ∧
      (c.pwr.held = true → (c.pushAll q ws).queue q = c.queue q ∧
        (c.pushAll q ws).prt.cross = c.prt.cross ++ ws.map fun w => (0, c.prt.epoch, q, w)) ∧
      ∀ j, j ≠ q → (c.pushAll q ws).queue j = c.queue j := by
  cases hheld : c.pwr.held with
  | true =>
    rw [Chip.pushAll_held q ws hheld]
    refine ⟨?_, rfl, nofun, fun _ => ⟨rfl, rfl⟩, fun _ _ => rfl⟩
    exact (c.setPrt_keeps _).mono (by decide)
  | false =>
    obtain ⟨hkeeps, hwords, hothers⟩ := Chip.pushAll_open hq ws hheld hfree
    have hprt : (c.pushAll q ws).prt = c.prt := hkeeps .prt (by decide)
    exact ⟨hkeeps.mono (by decide), congrArg Prt.part hprt, fun _ => ⟨hwords, congrArg Prt.cross hprt⟩, nofun, hothers⟩

theorem Chip.push_shut {c : Chip} (q : Queue) (ws : List QWord) (part : Bool) (h : c.hostShut = true) :
    c.push q ws part = c.pushEnd 0 ws.length part := by
  have hfree : c.hostFree q.val = 0 := if_pos h
  rw [Chip.push_eq, hfree, Nat.min_zero]
  rfl

theorem Chip.hostFree_open {c : Chip} {q : Queue} (hq : q = 0 ∨ q = 1) (h : c.hostShut = false) :
    c.hostFree q.val = 32 - (c.queue q).occupied - c.accepted q.val := by
  have hfree : c.hostFree q.val = c.freeSlots q.val := if_neg (by rw [h]; exact Bool.false_ne_true)
  rw [hfree]
  rcases hq with rfl | rfl
  · rfl
  · rfl

/-- The rows of PUSH while the queues take nothing. -/
theorem pushRow_shut {s : State} {i : Instr} {q : Queue} {ws : List QWord} {part : Bool} {c : Chip}
    (hc : s.chip.endSwitch = c) (hserved : c.spiServed = true)
    (hexec : exec i s = spiFrame s fun _ c => c.push q ws part) (hshut : c.hostShut = true) :
    ∃ t, exec i s = .next t ∧ State.keeps [.spi, .prt] { s with chip := c } t ∧
      t.chip = c.spiBegun.pushEnd 0 ws.length part := by
  subst hc
  have hpush := Chip.push_shut (c := s.chip.endSwitch.spiBegun) q ws part hshut
  obtain ⟨t, ht, hkeeps, hchip⟩ := spiFrame_keeps (ps := [.spi, .prt]) hexec hserved (by decide)
    (hpush ▸ (Chip.pushEnd_spec _ 0 ws.length part).1)
  exact ⟨t, ht, hkeeps, hchip.trans hpush⟩

/-- Those of PUSH to open queues: the words for which there are free slots enter. -/
theorem pushRow_open {s : State} {i : Instr} {q : Queue} {ws : List QWord} {part : Bool} {c : Chip}
    (hc : s.chip.endSwitch = c) (hserved : c.spiServed = true) (hq : q = 0 ∨ q = 1)
    (hexec : exec i s = spiFrame s fun _ c => c.push q ws part) (hopen : c.hostShut = false) :
    ∃ t d k, k = min ws.length (32 - (c.queue q).occupied - c.accepted q.val) ∧ exec i s = .next t ∧
      State.keeps [.queues, .spi, .prt] { s with chip := c } t ∧ d = c.spiBegun.pushAll q (ws.take k) ∧
      (ws.take k).length ≤ c.spiBegun.freeSlots q.val ∧ t.chip = d.pushEnd k ws.length part := by
  subst hc
  obtain ⟨c, hc⟩ : ∃ c, c = s.chip.endSwitch.spiBegun := ⟨_, rfl⟩
  obtain ⟨k, hk⟩ : ∃ k, k = min ws.length (c.hostFree q.val) := ⟨_, rfl⟩
  have hshut : c.hostShut = false := hc ▸ hopen
  have hlen : (ws.take k).length ≤ c.freeSlots q.val := by
    have hfree : c.hostFree q.val = c.freeSlots q.val := if_neg (by rw [hshut]; exact Bool.false_ne_true)
    rw [List.length_take, hk, hfree]
    omega
  have hpush : c.push q ws part = (c.pushAll q (ws.take k)).pushEnd k ws.length part := hk ▸ c.push_eq q ws part
  have hkeeps : c.keeps [.queues, .spi, .prt] (c.push q ws part) := by
    rw [hpush]
    exact ((Chip.pushAll_spec hq hlen).1.mono (by decide)).trans ((Chip.pushEnd_spec _ k ws.length part).1.mono (by decide))
  obtain ⟨t, ht, htkeeps, hchip⟩ := spiFrame_keeps (ps := [.queues, .spi, .prt]) hexec hserved (by decide) (hc ▸ hkeeps)
  rw [← hc]
  rw [Chip.hostFree_open hq hshut, hc] at hk
  exact ⟨t, _, k, hk, ht, htkeeps, rfl, hlen, hchip.trans (hc ▸ hpush)⟩

theorem Chip.readStatus_keeps (c : Chip) : c.keeps [.spi] c.readStatus := c.setSpi_keeps _

theorem Chip.readId_keeps (c : Chip) (die : Die) : c.keeps [.spi] (c.readId die) := c.setSpi_keeps _

theorem Die.sysId_toNat (d : Die) : d.sysId.toNat = if d.xb then 0x48400012 else 0x48400002 := by
  unfold Die.sysId
  split
  · rfl
  · rfl

/-- A command byte of PUSH with no data accepts nothing. -/
theorem Chip.push_nil (c : Chip) (q : Queue) : c.push q [] false = c.pushEnd 0 0 false := by
  rw [Chip.push_eq]
  show (c.pushAll q (List.take (min 0 _) [])).pushEnd (min 0 _) 0 false = _
  rw [Nat.zero_min]
  rfl

/-- A frame that ends after its command byte: what the bytes that name no row of their own do. -/
theorem Chip.spiCommand_quiet (c : Chip) (die : Die) (armed : Bool) {b : Byte} (hb : b ∈ [0x01, 0x02, 0x0B, 0x0D, 0x0E]) :
    c.keeps [.spi] (c.spiCommand die armed b) ∧ (c.spiCommand die armed b).spi.out = c.spi.out ∧
      (c.spiCommand die armed b).spi.evt = c.spi.evt ∧ (c.spiCommand die armed b).spi.frmerr = c.spi.frmerr ∧
      (c.spiCommand die armed b).spi.refuse = c.spi.refuse := by
  have hpush (q : Queue) : c.keeps [.spi] (c.push q [] false) ∧ (c.push q [] false).spi.out = c.spi.out ∧
      (c.push q [] false).spi.evt = c.spi.evt ∧ (c.push q [] false).spi.frmerr = c.spi.frmerr ∧
      (c.push q [] false).spi.refuse = c.spi.refuse := by
    rw [Chip.push_nil]
    exact ⟨c.setSpi_keeps _, rfl, rfl, rfl, rfl⟩
  simp only [List.mem_cons, List.not_mem_nil, or_false] at hb
  rcases hb with rfl | rfl | rfl | rfl | rfl
  · exact hpush 0
  · exact hpush 1
  all_goals exact ⟨Chip.keeps.refl _ _, rfl, rfl, rfl, rfl⟩

/-- A byte that Table PRT-2 does not hold. -/
theorem Chip.spiCommand_unknown (c : Chip) (die : Die) (armed : Bool) {b : Byte}
    (hb : b ∉ [0x01, 0x02, 0x05, 0x0B, 0x0D, 0x0E, 0x9F, 0x66, 0x99]) : c.spiCommand die armed b = c.frameError := by
  unfold Chip.spiCommand
  split
  case h_10 => rfl
  all_goals
    rename_i hval
    have hbyte : b = BitVec.ofNat 8 b.toNat := ((BitVec.ofNat_toNat 8 b).trans (BitVec.setWidth_eq b)).symm
    rw [hbyte, hval] at hb
    exact absurd (by decide) hb

/-- Settles O36: a frame does to the chip what the lemma on its command says, from where the frame begins. -/
theorem theHostPortTakesItsCommands : Obligations.TheHostPortTakesItsCommands := by
  unfold Obligations.TheHostPortTakesItsCommands
  refine ⟨?_, ?_, ?_⟩
  · intro ws part s u c hserved none into
    have hnone {i : Instr} {q : Queue} (hexec : exec i s = spiFrame s fun _ c => c.push q ws part)
        (hshut : c.hostShut = true) : none i := by
      obtain ⟨t, ht, hkeeps, hchip⟩ := pushRow_shut rfl hserved hexec hshut
      obtain ⟨-, hcross, haccept, hlast, hrefused, -⟩ := Chip.pushEnd_spec c.spiBegun 0 ws.length part
      refine ⟨t, ht, hkeeps, ?_⟩
      rw [hchip]
      exact ⟨hcross, haccept, hlast, hrefused⟩
    have hinto {i : Instr} {q : Queue} (hq : q = 0 ∨ q = 1) (hexec : exec i s = spiFrame s fun _ c => c.push q ws part)
        (hopen : c.hostShut = false) : into i q 32 := by
      obtain ⟨t, d, k, hk, ht, hkeeps, hd, hlen, hchip⟩ := pushRow_open rfl hserved hq hexec hopen
      obtain ⟨hdkeeps, hpart, hpass, hwait, hothers⟩ := Chip.pushAll_spec hq hlen
      obtain ⟨hend, hcross, haccept, hlast, hrefused, hall, hcut, hwhole⟩ := Chip.pushEnd_spec d k ws.length part
      rw [← hd] at hdkeeps hpart hpass hwait hothers
      have hqueue (j : Queue) : (d.pushEnd k ws.length part).queue j = d.queue j :=
        congrArg (vget · j.val) (hend .queues (by decide))
      have hspi : d.spi = c.spiBegun.spi := hdkeeps .spi (by decide)
      rw [hspi] at haccept hrefused hall
      rw [hpart] at hcut hwhole
      rw [← hchip] at hcross haccept hlast hrefused hall hcut hwhole hqueue
      subst hk
      refine ⟨t, ht, hkeeps, fun hheld => ⟨?_, ?_⟩, fun hheld => ⟨?_, ?_⟩, fun j hj => ?_, haccept, hlast, hrefused, hall,
        hcut, hwhole⟩
      · exact (congrArg QState.words (hqueue q)).trans (hpass hheld).1
      · exact hcross.trans (hpass hheld).2
      · exact (hqueue q).trans (hwait hheld).1
      · exact hcross.trans (hwait hheld).2
      · exact (hqueue j).trans (hothers j hj)
    exact ⟨fun hshut => ⟨hnone (exec_pushQ0 s ws part) hshut, hnone (exec_pushQ1 s ws part) hshut⟩,
      fun hopen => ⟨hinto (.inl rfl) (exec_pushQ0 s ws part) hopen, hinto (.inr rfl) (exec_pushQ1 s ws part) hopen⟩⟩
  · intro s u c
    refine ⟨fun hshut => ⟨fun i hi => ?_, fun b => (exec_readStatus s b).trans (spiFrame_unserved hshut _)⟩, ?_⟩
    · simp only [List.mem_cons, List.not_mem_nil, or_false] at hi
      rcases hi with rfl | rfl | rfl
      · exact (exec_readId s).trans (spiFrame_unserved hshut _)
      · exact (exec_resetEnable s).trans (spiFrame_unserved hshut _)
      · exact (exec_reset s).trans (spiFrame_unserved hshut _)
    intro hserved status ident arms resets
    have hframe {i : Instr} {g : Die → Chip → Chip} (hexec : exec i s = spiFrame s g)
        (hk : c.spiBegun.keeps [.spi] (g s.die c.spiBegun)) :
        ∃ t, exec i s = .next t ∧ State.keeps [.spi] u t ∧ t.chip = g s.die c.spiBegun :=
      spiFrame_keeps hexec hserved (by decide) hk
    have hident {i : Instr} (hexec : exec i s = spiFrame s fun die c => c.readId die) : ident i := by
      obtain ⟨t, ht, hkeeps, hchip⟩ := hframe hexec (Chip.readId_keeps _ _)
      refine ⟨t, ht, hkeeps, ?_, hchip ▸ rfl⟩
      rw [hchip, ← Die.sysId_toNat]
      rfl
    have harms {i : Instr} (hexec : exec i s = spiFrame s fun _ c => { c with spi := { c.spi with armed := true } }) :
        arms i := by
      obtain ⟨t, ht, hkeeps, hchip⟩ := hframe hexec (Chip.setSpi_keeps _ _)
      exact ⟨t, ht, hkeeps, hchip ▸ rfl, hchip ▸ rfl, hchip ▸ rfl⟩
    have hresets {i : Instr} (hexec : exec i s = spiFrame s fun _ c => if s.chip.endSwitch.spi.armed then c.resetSpi else c) :
        resets i := by
      have hk : c.spiBegun.keeps [.spi] (if s.chip.endSwitch.spi.armed then c.spiBegun.resetSpi else c.spiBegun) := by
        split
        · exact Chip.resetSpi_keeps _
        · exact Chip.keeps.refl _ _
      obtain ⟨t, ht, hkeeps, hchip⟩ := hframe hexec hk
      refine ⟨t, ht, hkeeps, ?_⟩
      cases harmed : c.spi.armed with
      | true =>
        rw [hchip.trans (if_pos harmed)]
        exact ⟨rfl, fun _ => ⟨rfl, rfl⟩, nofun, rfl, rfl⟩
      | false =>
        rw [hchip.trans (if_neg (by rw [show s.chip.endSwitch.spi.armed = false from harmed]; exact Bool.false_ne_true))]
        exact ⟨rfl, nofun, fun _ => ⟨rfl, rfl⟩, rfl, rfl⟩
    have hstatus : status (.readStatus 0x05) := by
      obtain ⟨t, ht, hkeeps, hchip⟩ := hframe (exec_readStatus s 0x05) (Chip.readStatus_keeps _)
      obtain ⟨h0, h1, h2, h3, h4, hhold, hepoch⟩ := c.spiBegun.statusWord_spec
      refine ⟨t, c.spiBegun.statusWord.toNat, ht, hkeeps, hchip ▸ rfl, ?_⟩
      rw [BitVec.ofNat_toNat, BitVec.setWidth_eq]
      exact ⟨h0, h1, h2, h3, h4, hhold, hepoch, hchip ▸ rfl, hchip ▸ rfl, hchip ▸ rfl⟩
    refine ⟨hstatus, hident (exec_readId s), hident (exec_readStatus s 0x9F), harms (exec_resetEnable s),
      harms (exec_readStatus s 0x66), hresets (exec_reset s), hresets (exec_readStatus s 0x99), fun b hb => ?_, fun b hb => ?_⟩
    · obtain ⟨hk, hout, hevt, hfrmerr, hrefuse⟩ := Chip.spiCommand_quiet c.spiBegun s.die s.chip.endSwitch.spi.armed hb
      obtain ⟨t, ht, hkeeps, hchip⟩ := hframe (exec_readStatus s b) hk
      refine ⟨t, ht, hkeeps, ?_⟩
      rw [hchip]
      exact ⟨hout, hevt, hfrmerr, hrefuse⟩
    · have herror := Chip.spiCommand_unknown c.spiBegun s.die s.chip.endSwitch.spi.armed hb
      obtain ⟨t, ht, hkeeps, hchip⟩ := hframe (exec_readStatus s b) (herror ▸ Chip.frameError_keeps _)
      rw [herror] at hchip
      refine ⟨t, ht, hkeeps, ?_⟩
      rw [hchip]
      exact ⟨rfl, rfl, Chip.frameError_evt _⟩
  · intro s a n ws u c hserved framed reads
    have hframe {i : Instr} {g : Die → Chip → Chip} {ps : List Part} (hexec : exec i s = spiFrame s g) (hps : Part.spi ∈ ps)
        (hk : c.spiBegun.keeps ps (g s.die c.spiBegun)) :
        ∃ t, exec i s = .next t ∧ State.keeps ps u t ∧ t.chip = g s.die c.spiBegun :=
      spiFrame_keeps hexec hserved hps hk
    have hframed {i : Instr} {size : Nat} {f : Chip → Chip}
        (hexec : exec i s = spiFrame s fun _ c => if a.toNat % 16 ≠ 0 ∨ size ≤ a.toNat then c.frameError else f c) :
        framed i size := by
      intro hout
      obtain ⟨t, ht, hkeeps, hchip⟩ := hframe hexec (ps := [.spi]) (by decide)
        (by rw [if_pos hout]; exact Chip.frameError_keeps _)
      refine ⟨t, ht, hkeeps, ?_⟩
      rw [hchip.trans (if_pos hout)]
      exact ⟨rfl, Chip.frameError_evt _⟩
    have hin {size : Nat} (hal : a.toNat % 16 = 0) (hsize : a.toNat < size) : ¬ (a.toNat % 16 ≠ 0 ∨ size ≤ a.toNat) := by omega
    have hreads {i : Instr} {base size : Nat} (hb : base % 16 = 0)
        (hexec : exec i s = spiFrame s fun _ c =>
          if a.toNat % 16 ≠ 0 ∨ size ≤ a.toNat then c.frameError else c.spiRead base size a.toNat n) : reads i base size := by
      refine ⟨fun hopen hal hsize hend hgood => ?_, fun hhold hal hsize => ?_, hframed hexec⟩
      · have hread := Chip.spiRead_open (c := c.spiBegun) hopen hb hal hend hgood
        obtain ⟨t, ht, hkeeps, hchip⟩ := hframe hexec (ps := [.spi]) (by decide)
          (by rw [if_neg (hin hal hsize), hread]; exact Chip.setSpi_keeps _ _)
        refine ⟨t, ht, hkeeps, ?_⟩
        rw [hchip.trans (if_neg (hin hal hsize)), hread]
        rfl
      · have hread := Chip.spiRead_hold (c := c.spiBegun) base size a.toNat n hhold
        obtain ⟨t, ht, hkeeps, hchip⟩ := hframe hexec (ps := [.spi]) (by decide)
          (by rw [if_neg (hin hal hsize), hread]; exact Chip.setSpi_keeps _ _)
        refine ⟨t, ht, hkeeps, ?_⟩
        rw [hchip.trans (if_neg (hin hal hsize)), hread]
    refine ⟨hreads (by decide) (exec_readRing s a n), hreads (by decide) (exec_readStream s a n),
      hframed (exec_writeStream s ws false a), hframed (exec_writeStream s ws true a), fun hopen hctrl hal hend hsize => ?_,
      fun hhold hal hsize => ?_⟩
    · have hwrite := Chip.spiWrite_open (c := c.spiBegun) a.toNat ws hopen hctrl
      obtain ⟨hk, hmem, -, hwords⟩ := Chip.putStream_spec ws c.spiBegun hal hend
      obtain ⟨t, ht, hkeeps, hchip⟩ := hframe (exec_writeStream s ws false a) (ps := [.spi, .mem, .ecc]) (by decide)
        (by rw [if_neg (hin hal hsize), hwrite]; exact hk.mono (by decide))
      rw [if_neg (hin hal hsize), hwrite] at hchip
      refine ⟨t, ht, hkeeps, ?_⟩
      rw [hchip]
      exact ⟨hmem, hwords⟩
    · have hwrite := Chip.spiWrite_hold (c := c.spiBegun) a.toNat ws hhold
      obtain ⟨t, ht, hkeeps, hchip⟩ := hframe (exec_writeStream s ws false a) (ps := [.spi]) (by decide)
        (by rw [if_neg (hin hal hsize), hwrite]; exact Chip.setSpi_keeps _ _)
      refine ⟨t, ht, hkeeps, ?_⟩
      rw [hchip.trans (if_neg (hin hal hsize)), hwrite]
      rfl

end Sys2Proof.Machine
end

section
namespace Sys2Proof.Machine

/-! ### Issue from the head of a queue (R148, R151 to R155) -/

section
variable {a b : Chip} {o : OpInfo} {q : Queue} {f : Insn}

/-- A word at the head of its queue's slots is taken from them, and the count of the arbitrations that its queue has lost starts
again. -/
theorem take_head {c : Chip} {q : Queue} {w : QWord} {r : List QWord} (hh : (c.queue q).halted = false)
    (hw : (c.queue q).wait = none) (hc : (c.queue q).calls = []) (hn : (c.queue q).words = w :: r) :
    c.take q w = .yes (c.modQ q.val fun x => { x with words := r, lost := 0 }) := by
  unfold Chip.take Chip.fetchCheck
  simp [hh, hw, hc, hn, Chip.fetchWaits]

/-- The queue as the body of an instruction from the head of its words finds it. -/
theorem issuesAs_head {r : List QWord} (hs : a.clk.switch = none) (hh : (a.queue q).halted = false)
    (hw : (a.queue q).wait = none) (hc : (a.queue q).calls = []) (hn : (a.queue q).words = encodeWord o.code f :: r)
    (h : a.issuesAs o q f b) : b.queue q = { a.queue q with words := r, lost := 0, fenceOk := false } := by
  obtain ⟨-, c, htake, -, -, -, rfl⟩ := h
  rw [Chip.endSwitch_none hs, take_head hh hw hc hn] at htake
  cases htake
  simp only [Chip.begun, Chip.queue_modQ_same]

/-- With nothing before it an instruction that the checks pass issues, outside Q5 and Q7 on the chip as it is. -/
theorem issuesAs_empty (hs : a.clk.switch = none) (hon : a.engineOn = true)
    (hx : a.queue q = { a.queue q with halted := false, wait := none, calls := [], chain := false, fenceOk := false, words := [] })
    (hq : q ≠ 5 ∧ q ≠ 7) (hfence : a.fenced q o.code f = false) (hpre : a.precheck o q f = none) : a.issuesAs o q f a := by
  have hself : a.begun q = a := begun_self (by rw [hx])
  refine ⟨by rw [Chip.endSwitch_none hs]; exact hon, a, ?_, by rw [hx], hfence, by rw [hself]; exact hpre, hself.symm⟩
  rw [Chip.endSwitch_none hs, take_empty (by rw [hx]) (by rw [hx]) (by rw [hx]) (by rw [hx]), if_neg (by simp [hq])]

end

/-! ### The count of lost arbitrations (R152) -/

/-- Q0 has lost an arbitration with a NOP at its head. -/
def lostOnce : Chip := expectant.modQ 0 fun x => { x with words := [encodeWord Op.nop.code (taggedNop 0)], lost := 1 }

/-- Refutes O4: a word that issues from the head of its queue does not leave the rest of the queue's state as it is. The count
of arbitrations that the queue has lost (R152) starts again, so with `lost` at 1 the queue after the issue is not the old
one with its words alone shortened. -/
theorem not_issueAndRetirement : ¬ Obligations.IssueAndRetirement := by
  unfold Obligations.IssueAndRetirement
  rintro ⟨h, -⟩
  have hhead := (h lostOnce Op.nop 0 (taggedNop 0) rfl (by decide) rfl rfl rfl rfl rfl (by decide) (by decide) (by decide)
    (by decide) (by decide)).2 [] rfl
  obtain ⟨b, hissue, -, hqueue, -⟩ := hhead
  have hreset : (b.queue 0).lost = 0 := by rw [issuesAs_head (o := Op.nop) rfl rfl rfl rfl rfl hissue]
  have hkept : (b.queue 0).lost = 1 := by rw [hqueue]; rfl
  exact absurd (hreset.symm.trans hkept) (by decide)

/-! ### A store whose snapshot must write a record (R36, R175, R347) -/

/-- A record that stands in the writer. -/
def heldRecord : LicRec := ⟨.general, 0x2201, 8, 4, 0, 0, 0⟩

/-- Page 0 of the store is dirty, its first word cannot be corrected, and the general entries of the lichen writer are all in
use. -/
def storeStuck : Chip :=
  { expectant with
    nvs := { expectant.nvs with dirtyP := 1 }
    ecc := [(0x3000000, 2)]
    lic := { expectant.lic with buf := List.replicate 14 heldRecord } }

/-- An NV.STORE. -/
def nvStoreInsn : Insn :=
  { tx := false, fence := false, cmpl := true, chain := false, rsv := 0, tag := 0, ext := 0, tgt := 0, op := 0 }

theorem storeStuck_meets :
    storeStuck.portFree = true ∧ storeStuck.nvs.dirtyP ≠ 0 := by decide +kernel

theorem storeStuck_issues : storeStuck.issuesAs Op.nvStore 0 nvStoreInsn storeStuck :=
  issuesAs_empty rfl (by decide) rfl (by decide) (by decide) (by decide)

/-- The NV.STORE waits for the lichen writer, not for its commit record. -/
theorem storeStuck_waits :
    ((State.after ⟨[], Die.reset, storeStuck⟩ (.nvStore 0 nvStoreInsn)).chip.queue 0).wait.map (·.kind) = some .licWriter := by
  decide +kernel

/-- Refutes O18: an NV.STORE with a dirty page and the port free need not begin its store. Where a word of the page cannot be
corrected the snapshot poisons it with a record (Table NVS-2), and an instruction that must write a record takes the writer
last (R36, R175): with all general entries in use it has changed nothing and waits for the writer. -/
theorem not_storesAndRecallsMoveGenerations : ¬ Obligations.StoresAndRecallsMoveGenerations := by
  unfold Obligations.StoresAndRecallsMoveGenerations
  rintro ⟨⟨hstore, -⟩, -⟩
  obtain ⟨hport, hdirty⟩ := storeStuck_meets
  obtain ⟨-, hbegins, -⟩ := hstore 0 nvStoreInsn ⟨[], Die.reset, storeStuck⟩ storeStuck storeStuck_issues
  obtain ⟨t, e, o, ht, hwaits, -⟩ := hbegins rfl rfl hport (.inl hdirty)
  have hkind := storeStuck_waits
  rw [State.after_eq ht, hwaits.own] at hkind
  exact absurd (show some WaitKind.storeDone = some .licWriter from hkind) (by decide)

end Sys2Proof.Machine
end

section
namespace Sys2Proof.Machine

/-! ### Routines (R172, R173) -/

section
variable {q : Queue} {f : Insn} {s : State} {b : Chip} {d : Die}

theorem callBody_misaligned (h : f.tgt.toNat % 16 ≠ 0) : callBody q f d b = .done St.align 0 b := by
  simp [callBody, h, Done.fail]

theorem callBody_outside (hal : f.tgt.toNat % 16 = 0)
    (h : f.tgt.toNat < 0x30000000 ∨ 0x30040000 ≤ f.tgt.toNat ∨ 4 ≤ (b.queue q).calls.length) :
    callBody q f d b = .done St.range 0 b := by
  simp only [callBody, hal, ne_eq, not_true_eq_false, if_false, h, if_true, Done.fail]

/-- The chip with queue `q` in the routine that a CALL names. -/
def Chip.enterRoutine (c : Chip) (q : Queue) (f : Insn) : Chip :=
  c.modQ q.val fun x => { x with calls := ⟨f, f.tgt.toNat, 0, false⟩ :: x.calls }

theorem callBody_inside (hal : f.tgt.toNat % 16 = 0) (hlo : 0x30000000 ≤ f.tgt.toNat) (hhi : f.tgt.toNat < 0x30040000)
    (hdepth : (b.queue q).calls.length < 4) :
    callBody q f d b = if b.nvs.recl.isSome then .wait .recallCall 0 0 b else .hold (b.enterRoutine q f) := by
  have h : ¬ (f.tgt.toNat < 0x30000000 ∨ 0x30040000 ≤ f.tgt.toNat ∨ 4 ≤ (b.queue q).calls.length) := by omega
  simp only [callBody, hal, ne_eq, not_true_eq_false, if_false, h]
  rfl

theorem retBody_outside (h : (b.queue q).calls = []) : retBody q f d b = .done St.illegal 0 b := by
  simp [retBody, h, Done.fail]

theorem retBody_inside {fr : CallFrame} {r : List CallFrame} (h : (b.queue q).calls = fr :: r) :
    retBody q f d b = .hold ((b.retire q f St.ok 0).popCall q) := by
  simp [retBody, h]

/-- The chip in which the innermost routine of a queue has ended and its CALL has not yet retired. -/
def Chip.leaveRoutine (c : Chip) (q : Queue) (r : List CallFrame) : Chip := c.modQ q.val fun x => { x with calls := r }

/-- The end of a routine retires its CALL with the count of its instructions; no posted store begins where none is due. -/
theorem Chip.popCall_eq {c : Chip} {fr : CallFrame} {r : List CallFrame} (h : (c.queue q).calls = fr :: r)
    (hdue : r = [] → c.noStoreDue) :
    c.popCall q = (c.leaveRoutine q r).retire q fr.f (if fr.corr then St.corrected else St.ok)
      (BitVec.ofNat 64 (fr.count % 2 ^ 32)) := by
  simp only [Chip.popCall, h]
  cases r with
  | nil => exact (((hdue rfl).modQ (q := q) (f := fun x => { x with calls := [] }) fun _ => rfl).retire _ _ _).startPosted
  | cons => rfl

/-- The routine of a RET that has retired has one more instruction (log entry 20). -/
theorem retire_calls {fr : CallFrame} {r : List CallFrame} (h : (b.queue q).calls = fr :: r) (st : Byte) (res : DWord) :
    ((b.retire q f st res).queue q).calls = { fr with count := fr.count + 1 } :: r := by
  rw [(Chip.retire_spec b q f st res).2.1]
  simp only [QState.completed, h]

end

/-- Settles O8: a CALL by its checks, a RET by its own completion and then that of its CALL. -/
theorem callAndRetNestRoutines : Obligations.CallAndRetNestRoutines := by
  unfold Obligations.CallAndRetNestRoutines
  intro q f s b
  refine ⟨fun h hal hlo hhi hdepth hrecl => ?enters, fun h hal hlo hhi hdepth hrecl => ?waits,
    fun h hal => insn_refused h (callBody_misaligned hal), fun h hal hout => insn_refused h (callBody_outside hal hout),
    fun h hcalls => insn_refused h (retBody_outside hcalls), fun fr r h hcalls hdue => ?returns⟩
  case enters =>
    have hbody : callBody q f s.die b = .hold (b.enterRoutine q f) := by
      rw [callBody_inside hal hlo hhi hdepth, hrecl]; rfl
    exact ⟨_, insn_hold h hbody, rfl, rfl, b.modQ_keeps _ _, Chip.queue_modQ_same _ _ _,
      fun k hk => Chip.queue_modQ_other _ _ hk⟩
  case waits =>
    have hbody : callBody q f s.die b = .wait .recallCall 0 0 b := by
      rw [callBody_inside hal hlo hhi hdepth, if_pos (Option.isSome_iff_ne_none.2 hrecl)]
    exact insn_wait h hbody rfl
  case returns =>
    have hpop := Chip.popCall_eq (retire_calls hcalls St.ok 0 (f := f)) fun hr =>
      (show b.noStoreDue from hdue hr).retire f St.ok 0
    have hex := insn_hold h (retBody_inside hcalls (d := s.die) (f := f))
    rw [hpop] at hex
    refine ⟨_, (b.retire q f St.ok 0).leaveRoutine q r, { s with chip := b.retire q f St.ok 0 }, hex, completes_retire_now,
      Chip.modQ_keeps _ _ _, ?_, ?_⟩
    · rw [Chip.leaveRoutine, Chip.queue_modQ_same]
    · exact completes_retire_now (s := s)

end Sys2Proof.Machine
end

section
namespace Sys2Proof.Machine

/-! ### SIG.EVT (Table ISA-2) -/

section
variable {q : Queue} {f : Insn} {s : State} {b : Chip} {d : Die}

/-- The chip with the flags E0 to E31 that a SIG.EVT names set and cleared. -/
def Chip.signalled (c : Chip) (op : BitVec 64) : Chip :=
  { c with eng := { c.eng with flags := (c.eng.flags ||| (op &&& 0xFFFFFFFF)) &&& ~~~(op >>> (32 : Nat)) } }

/-- The low half of an operand holds its bits 0 to 31. -/
theorem getLsbD_lowHalf (v : BitVec 64) (k : Nat) : (v &&& 0xFFFFFFFF).getLsbD k = (v.getLsbD k && decide (k < 32)) := by
  have hmask : (0xFFFFFFFF : BitVec 64) = (BitVec.allOnes 32).setWidth 64 := by decide
  rw [hmask, BitVec.getLsbD_and, BitVec.getLsbD_setWidth, BitVec.getLsbD_allOnes]
  by_cases hk : k < 32
  · simp [hk, show k < 64 by omega]
  · simp [hk]

/-- Flag `k` is named by both halves of the operand of a SIG.EVT. -/
theorem getLsbD_conflict (op : BitVec 64) (k : Nat) :
    ((op &&& 0xFFFFFFFF) &&& op >>> (32 : Nat)).getLsbD k
      = (op.getLsbD k && decide (k < 32) && op.getLsbD (32 + k)) := by
  rw [BitVec.getLsbD_and, getLsbD_lowHalf, BitVec.getLsbD_ushiftRight]

theorem signal_conflict (op : BitVec 64) :
    (op &&& 0xFFFFFFFF) &&& op >>> (32 : Nat) ≠ 0 ↔ ∃ k, k < 32 ∧ op.getLsbD k = true ∧ op.getLsbD (32 + k) = true := by
  constructor
  · intro h
    by_contra hnone
    refine h (BitVec.eq_of_getLsbD_eq fun k _ => ?_)
    rw [getLsbD_conflict, show (0 : BitVec 64).getLsbD k = false from BitVec.getLsbD_zero, Bool.eq_false_iff]
    intro hbits
    simp only [Bool.and_eq_true, decide_eq_true_eq] at hbits
    exact hnone ⟨k, hbits.1.2, hbits.1.1, hbits.2⟩
  · rintro ⟨k, hk, hset, hclear⟩ h
    have hbit : _ = (0 : BitVec 64).getLsbD k := congrArg (BitVec.getLsbD · k) h
    rw [getLsbD_conflict, hset, hclear, decide_eq_true hk, show (0 : BitVec 64).getLsbD k = false from BitVec.getLsbD_zero]
      at hbit
    cases hbit

theorem sigEvtBody_conflict (h : ∃ k, k < 32 ∧ f.op.getLsbD k = true ∧ f.op.getLsbD (32 + k) = true) :
    sigEvtBody q f d b = .done St.range 0 b := if_pos ((signal_conflict f.op).2 h)

theorem sigEvtBody_signals (h : ∀ k, k < 32 → (f.op.getLsbD k && f.op.getLsbD (32 + k)) = false) :
    sigEvtBody q f d b = .done St.ok ((b.signalled f.op).eng.flags &&& 0xFFFFFFFF) (b.signalled f.op) := by
  refine if_neg ?_
  rw [signal_conflict]
  rintro ⟨k, hk, hset, hclear⟩
  simpa [hset, hclear] using h k hk

theorem Chip.signalled_keeps (c : Chip) (op : BitVec 64) : c.keeps [.flags] (c.signalled op) := by
  intro p hp; cases p <;> first | rfl | exact absurd hp (by decide)

theorem Chip.getLsbD_signalled (c : Chip) (op : BitVec 64) {k : Nat} (hk : k < 64) :
    (c.signalled op).eng.flags.getLsbD k
      = ((c.eng.flags.getLsbD k || (op.getLsbD k && decide (k < 32))) && !op.getLsbD (32 + k)) := by
  rw [Chip.signalled, BitVec.getLsbD_and, BitVec.getLsbD_or, getLsbD_lowHalf, BitVec.getLsbD_not, BitVec.getLsbD_ushiftRight,
    decide_eq_true hk, Bool.true_and]

theorem Chip.signalled_low (c : Chip) (op : BitVec 64) {k : Nat} (hk : k < 32) :
    (c.signalled op).eng.flags.getLsbD k = ((c.eng.flags.getLsbD k || op.getLsbD k) && !op.getLsbD (32 + k)) := by
  rw [c.getLsbD_signalled op (by omega), decide_eq_true hk, Bool.and_true]

theorem Chip.signalled_high (c : Chip) (op : BitVec 64) {k : Nat} (hk : 32 ≤ k) :
    (c.signalled op).eng.flags.getLsbD k = c.eng.flags.getLsbD k := by
  by_cases h64 : k < 64
  · rw [c.getLsbD_signalled op h64, BitVec.getLsbD_of_ge op (32 + k) (by omega), decide_eq_false (by omega)]
    simp only [Bool.and_false, Bool.or_false, Bool.not_false, Bool.and_true]
  · rw [BitVec.getLsbD_of_ge _ _ (by omega), BitVec.getLsbD_of_ge _ _ (by omega)]

end

/-! ### HALT.Q (R150, R189) -/

section
variable {q : Queue} {f : Insn} {s : State} {b : Chip} {d : Die}

/-- The queue that a HALT.Q names. -/
def haltTarget (f : Insn) : Queue := Fin.ofNat 8 (f.tgt.toNat % 8)

/-- The chip with a queue halted or resumed. -/
def Chip.setHalted (c : Chip) (n : Queue) (on : Bool) : Chip := c.modQ n.val fun x => { x with halted := on }

theorem haltQBody_handler (h : haltTarget f = 7) : haltQBody q f d b = .done St.priv 0 b := if_pos h

theorem haltQBody_self (h7 : haltTarget f ≠ 7) (hn : haltTarget f = q)
    (h : f.ext.getLsbD 0 = true ∨ f.ext.getLsbD 1 = true) : haltQBody q f d b = .done St.busySelf 0 b :=
  (if_neg h7).trans (if_pos ⟨hn, h⟩)

/-- What a HALT.Q that passes its checks does to the queue that it names before it halts or resumes it: the number of words
that a flush completes, and the chip. -/
def Chip.haltFlush (c : Chip) (f : Insn) : Nat × Chip :=
  if f.ext.getLsbD 1 then c.flushQueue (haltTarget f) else (0, c)

theorem haltQBody_halts (h7 : haltTarget f ≠ 7) (hself : ¬ (haltTarget f = q ∧ (f.ext.getLsbD 0 ∨ f.ext.getLsbD 1))) :
    haltQBody q f d b = .done St.ok (BitVec.ofNat 64 (b.haltFlush f).1)
      ((b.haltFlush f).2.setHalted (haltTarget f) (f.ext.getLsbD 0)) :=
  (if_neg h7).trans (if_neg hself)

/-- Words that complete ABORTED one after the other change their queue and what completions change, and no word enters. -/
theorem Chip.abortWords_spec (n : Queue) (ws : List QWord) (c : Chip) :
    let e := ws.foldl (fun c w => c.retire n (wordFields w) St.aborted 0) c
    c.keeps [.queues, .engEvt, .ports, .mgt, .scr, .mem, .ecc] e ∧ (e.queue n).words = (c.queue n).words ∧
      ∀ k, k ≠ n → e.queue k = c.queue k := by
  refine List.foldlRecOn ws _ (motive := fun e : Chip => c.keeps [.queues, .engEvt, .ports, .mgt, .scr, .mem, .ecc] e ∧
    (e.queue n).words = (c.queue n).words ∧ ∀ k, k ≠ n → e.queue k = c.queue k)
    ⟨Chip.keeps.refl _ _, rfl, fun _ _ => rfl⟩ ?_
  intro e ⟨hk, hwords, hothers⟩ w _
  obtain ⟨hr, hown, hrest, -, htimeouts, -⟩ := Chip.retire_spec e n (wordFields w) St.aborted 0
  refine ⟨hk.trans fun p hp => ?_, by rw [hown]; exact hwords, fun k h => (hrest k h).trans (hothers k h)⟩
  by_cases ht : p = .timeouts
  · subst ht; exact htimeouts
  · exact hr p (by simp only [List.mem_cons, List.not_mem_nil, or_false] at hp ⊢; tauto)

/-- A queue that neither waits nor stands in a routine is flushed of its words. -/
theorem Chip.flushQueue_spec {c : Chip} {n : Queue} (hw : (c.queue n).wait = none) (hc : (c.queue n).calls = []) :
    ∃ e, c.flushQueue n = ((c.queue n).words.length, e) ∧ c.keeps [.queues, .engEvt, .ports, .mgt, .scr, .mem, .ecc] e ∧
      (e.queue n).words = [] ∧ ∀ k, k ≠ n → e.queue k = c.queue k := by
  obtain ⟨hk, hwords, hothers⟩ :=
    Chip.abortWords_spec n (c.queue n).words (c.modQ n.val fun x => { x with words := [], lost := 0 })
  refine ⟨_, ?_, ((Chip.modQ_keeps _ _ _).mono (by decide)).trans hk, ?_, fun k h => ?_⟩
  · simp [Chip.flushQueue, hw, hc]
  · rw [hwords, Chip.queue_modQ_same]
  · rw [hothers k h, Chip.queue_modQ_other _ _ h]

end

/-- Settles O6: each body by what it ends with, a flush by the words that complete ABORTED one after the other. -/
theorem queueControlInstructions : Obligations.QueueControlInstructions := by
  unfold Obligations.QueueControlInstructions
  refine ⟨fun q f s b => ⟨fun h => insn_done h rfl ⟨rfl, rfl⟩, fun h => insn_done h rfl ⟨rfl, rfl⟩, fun h hone => ?signals,
    fun h hboth => insn_refused h (sigEvtBody_conflict hboth)⟩, fun q f s b h => ?halt⟩
  case signals =>
    obtain ⟨t, hex, hdone⟩ := insn_done h (sigEvtBody_signals hone) ⟨rfl, rfl⟩
    exact ⟨t, _, hex, hdone, b.signalled_keeps _, fun k hk => b.signalled_low _ hk, fun k hk => b.signalled_high _ hk⟩
  case halt =>
    intro n
    refine ⟨fun h7 hflush hself => ?_, fun h7 => insn_refused h (haltQBody_handler h7),
      fun h7 hn hx => insn_refused h (haltQBody_self h7 hn hx), fun h7 hn hflush hwait hcalls => ?_⟩
    · have hkept : b.haltFlush f = (0, b) := if_neg (by rw [hflush]; decide)
      have hbody := haltQBody_halts (d := s.die) (b := b) (q := q) h7 (by
        rintro ⟨hn, hx | hx⟩
        · exact absurd (hx.symm.trans (hself hn)) (by decide)
        · exact absurd (hx.symm.trans hflush) (by decide))
      rw [hkept] at hbody
      obtain ⟨t, hex, hdone⟩ := insn_done h hbody ⟨rfl, rfl⟩
      exact ⟨t, _, hex, hdone, b.modQ_keeps _ _, Chip.queue_modQ_same _ _ _, fun k hk => Chip.queue_modQ_other _ _ hk⟩
    · obtain ⟨e, he, hk, hwords, hothers⟩ := Chip.flushQueue_spec hwait hcalls
      have hflushed : b.haltFlush f = ((b.queue n).words.length, e) := (if_pos hflush).trans he
      have hbody := haltQBody_halts (d := s.die) (b := b) (q := q) h7 (fun hx => hn hx.1)
      rw [hflushed] at hbody
      have hke := hk.trans ((e.modQ_keeps n.val fun x => { x with halted := f.ext.getLsbD 0 }).mono (by decide))
      have hqueue : (e.setHalted n (f.ext.getLsbD 0)).queue n = { e.queue n with halted := f.ext.getLsbD 0 } :=
        Chip.queue_modQ_same _ _ _
      obtain ⟨t, hex, hdone⟩ := insn_done h hbody (Chip.noRecord_of_keeps hke (by decide))
      exact ⟨t, _, hex, hdone, hke, (congrArg QState.words hqueue).trans hwords, congrArg QState.halted hqueue,
        fun k hk => (Chip.queue_modQ_other _ _ hk).trans (hothers k hk)⟩

end Sys2Proof.Machine
end

section
namespace Sys2Proof.Machine

/-! ### Words of the RAMs (R182, R185, Table NVS-2) -/

theorem regionOf_user_iff {a : Nat} : regionOf a = some 4 ↔ 0x30000000 ≤ a ∧ a < 0x30040000 := by
  unfold regionOf
  constructor
  · intro h
    repeat' split at h
    all_goals first | assumption | cases h
  · intro h
    rw [if_neg (by omega), if_neg (by omega), if_neg (by omega), if_neg (by omega), if_pos h]

theorem destCheck_none {q : Queue} {a n : Nat} (h : destCheck q a n = none) :
    a % 16 = 0 ∧ (0x10000000 ≤ a ∧ a + 16 * n ≤ 0x10100000 ∨ 0x60000000 ≤ a ∧ a + 16 * n ≤ 0x6000C000
      ∨ 0x70000000 ≤ a ∧ a + 16 * n ≤ 0x70010000) := by
  unfold destCheck at h
  split at h
  · cases h
  split at h
  · cases h
  split at h
  · exact ⟨by omega, by assumption⟩
  · cases h

theorem regionOf_destination {q : Queue} {a n : Nat} (h : destCheck q a (n + 1) = none) :
    a % 16 = 0 ∧ regionOf a ≠ some 4 := by
  obtain ⟨hal, hin⟩ := destCheck_none h
  exact ⟨hal, by rw [ne_eq, regionOf_user_iff]; omega⟩

/-- A mark set is read back. -/
theorem getLsbD_marked {w n : Nat} (v : BitVec w) (hn : n < w) : (v ||| BitVec.ofNat w (2 ^ n)).getLsbD n = true := by
  rw [BitVec.getLsbD_or, BitVec.getLsbD_ofNat, Nat.testBit_two_pow_self, decide_eq_true hn, Bool.and_self, Bool.or_true]

section
variable {c : Chip} {a : Nat}

@[simp] theorem Chip.setEcc_same (c : Chip) (a : Nat) (v : Byte) : (c.setEcc a v).eccAt a = v.toNat := by
  simp [Chip.eccAt, Chip.setEcc]

theorem Chip.setEcc_keeps (c : Chip) (a : Nat) (v : Byte) : c.keeps [.ecc] (c.setEcc a v) := by
  intro p hp; cases p <;> first | rfl | exact absurd hp (by decide)

theorem Chip.eccAt_congr {b e : Chip} (h : e.ecc = b.ecc) (a : Nat) : e.eccAt a = b.eccAt a := by
  rw [Chip.eccAt, h, ← Chip.eccAt]

/-- A correctable word corrected and logged. -/
def Chip.corrected (c : Chip) (a : Nat) : Chip := (c.setEcc a 0).logCorrect a

theorem Chip.corrected_spec (c : Chip) (a : Nat) : c.keeps [.ecc, .nvs] (c.corrected a) ∧ (c.corrected a).eccAt a = 0 := by
  have hlog := (c.setEcc a 0).logCorrect_keeps a
  exact ⟨((c.setEcc_keeps a 0).mono (by decide)).trans (hlog.mono (by decide)),
    (Chip.eccAt_congr (hlog .ecc (by decide)) a).trans (c.setEcc_same a 0)⟩

/-- The record of a poisoned word. -/
def poisonRecord (c : Chip) (a how : Nat) : LicRec :=
  ⟨.general, 0x2201, BitVec.ofNat 8 8, BitVec.ofNat 8 ((regionOf a).getD 0), c.lt.word, 0, ctxAt 32 a ||| ctxAt 36 how⟩

theorem Chip.poisonWord_lic (c : Chip) (a how : Nat) : (c.poisonWord a how).lic = c.lic.give (poisonRecord c a how) := by
  unfold Chip.poisonWord
  dsimp only
  split <;> rfl

theorem Chip.poisonWord_eccAt (c : Chip) (a how : Nat) : (c.poisonWord a how).eccAt a = 3 := by
  have hecc : (c.poisonWord a how).ecc = (c.setEcc a 3).ecc := by
    unfold Chip.poisonWord
    dsimp only
    split <;> rfl
  exact (Chip.eccAt_congr hecc a).trans (c.setEcc_same a 3)

theorem Chip.poisonWord_record (hroom : c.lic.room = true) (how : Nat) :
    c.oneRecord (c.poisonWord a how) (poisonRecord c a how) := by
  rw [Chip.oneRecord, Chip.poisonWord_lic, Lic.give_room hroom rfl]

/-- A record of the core that finds the general entries in use waits. -/
theorem Lic.give_full {l : Lic} {r : LicRec} (h : 14 ≤ l.general) (he : r.entry = .general) :
    l.give r = { l with wait := l.wait ++ [r] } := by
  have hfree : l.free .general = false := by simpa [Lic.free] using h
  have hroom : l.room = false := by simp [Lic.room, hfree]
  simp [Lic.give, he, hroom]

/-! #### Reads and writes -/

theorem Chip.readEcc_good (h : c.eccAt a = 0) (how : Nat) : c.readEcc a how = (St.ok, c) := by
  simp only [Chip.readEcc, h]

theorem Chip.readEcc_correctable (h : c.eccAt a = 1) (how : Nat) : c.readEcc a how = (St.corrected, c.corrected a) := by
  simp only [Chip.readEcc, h]; rfl

theorem Chip.readEcc_uncorrectable (h : 2 ≤ c.eccAt a) (how : Nat) :
    c.readEcc a how = (St.eccUncorr, c.poisonWord a how) := by
  unfold Chip.readEcc
  split
  · omega
  · omega
  · rfl

/-- A load of a RAM reads through the check bits of its word. -/
theorem load_ram {d : Die} {x : Src} {n : Nat} (ha : 0x10000000 ≤ a) (hr : loadRange a = none) (h6 : regionOf a ≠ some 6)
    (h4 : regionOf a = some 4 → c.mayRead x = true) :
    c.load d x a n = ((c.readEcc a 0).1, if failed (c.readEcc a 0).1 then 0 else memNat 0 (c.readEcc a 0).2.mem a n,
      (c.readEcc a 0).2) := by
  have hread : (decide (regionOf a = some 4) && !c.mayRead x) = false := by
    by_cases h : regionOf a = some 4
    · simp [h4 h]
    · simp [h]
  simp only [Chip.load, hr, if_neg (show ¬ a < 0x10000000 by omega), if_neg h6]
  rw [hread, if_neg Bool.false_ne_true]

theorem load_good {d : Die} {x : Src} {n : Nat} (ha : 0x10000000 ≤ a) (hr : loadRange a = none) (h6 : regionOf a ≠ some 6)
    (h4 : regionOf a = some 4 → c.mayRead x = true) (hecc : c.eccAt a = 0) :
    c.load d x a n = (St.ok, memNat 0 c.mem a n, c) := by
  rw [load_ram ha hr h6 h4, Chip.readEcc_good hecc]
  rfl

/-- The chip with bytes of a RAM word written, and its page of the store dirty. -/
def Chip.stored (c : Chip) (a n v : Nat) : Chip :=
  let c := { c with mem := memPut 0 c.mem a v n }
  if regionOf a = some 4 then c.dirty ((a - 0x30000000) / 256) else c

theorem Chip.stored_keeps (c : Chip) (a n v : Nat) : c.keeps [.mem, .nvs] (c.stored a n v) := by
  intro p hp
  unfold Chip.stored
  cases p <;> first | exact absurd hp (by decide) | (dsimp only; split <;> rfl)

theorem Chip.stored_mem (c : Chip) (a n v : Nat) : (c.stored a n v).mem = memPut 0 c.mem a v n := by
  unfold Chip.stored; dsimp only; split <;> rfl

theorem Chip.stored_nvs (c : Chip) (a n v : Nat) (h : regionOf a ≠ some 4) : (c.stored a n v).nvs = c.nvs := by
  simp only [Chip.stored, if_neg h]

theorem Chip.stored_dirty (c : Chip) (a n v : Nat) (h : regionOf a = some 4) :
    (c.stored a n v).nvs.dirtyP.getLsbD ((a - 0x30000000) / 256) = true := by
  obtain ⟨hlo, hhi⟩ := regionOf_user_iff.1 h
  simp only [Chip.stored, if_pos h]
  exact getLsbD_marked _ (by omega)

theorem Chip.partialWrite_good (h : c.eccAt a = 0) (n v : Nat) : c.partialWrite a n v = (St.ok, c.stored a n v) := by
  simp only [Chip.partialWrite, h]; rfl

theorem Chip.partialWrite_uncorrectable (h : 2 ≤ c.eccAt a) (n v : Nat) :
    c.partialWrite a n v = (St.poison, c.poisonWord a 1) := by
  unfold Chip.partialWrite
  split
  · omega
  · omega
  · rfl

theorem store_ram {d : Die} {x : Src} {n v : Nat} (ha : 0x10000000 ≤ a) (hr : storeRange a = none)
    (h4 : regionOf a = some 4 → c.mayWrite x a = true) : c.store d x a n v = c.partialWrite a n v := by
  have hwrite : (decide (regionOf a = some 4) && !c.mayWrite x a) = false := by
    by_cases h : regionOf a = some 4
    · simp [h4 h]
    · simp [h]
  simp only [Chip.store, hr, if_neg (show ¬ a < 0x10000000 by omega)]
  rw [hwrite, if_neg Bool.false_ne_true]

end

/-! #### LD and ST -/

section
variable {q : Queue} {f : Insn} {s : State} {b : Chip}

theorem stBody_ram {d : Die} (htx : f.tx = false) (hal : f.tgt.toNat % (if f.ext.getLsbD 0 then 8 else 4) = 0)
    (ha : 0x10000000 ≤ f.tgt.toNat) (hr : storeRange f.tgt.toNat = none)
    (h4 : regionOf f.tgt.toNat = some 4 → b.mayWrite (Src.ofQueue q) f.tgt.toNat = true) :
    stBody q f d b = let r := b.partialWrite f.tgt.toNat (if f.ext.getLsbD 0 then 8 else 4) f.op.toNat
      .done r.1 0 r.2 := by
  simp only [stBody, htx, Bool.false_eq_true, false_and, if_false, hal, ne_eq, not_true_eq_false, store_ram ha hr h4]

/-- An LD of a whole word with a destination writes the word there. -/
theorem ldBody_destination {d : Die} {v : Nat} (htx : f.tx = false) (hw : field f.ext 0 2 = 2) (hal : f.tgt.toNat % 16 = 0)
    (hdest : field f.op 0 32 ≠ 0) (hcheck : destCheck q (field f.op 0 32) 1 = none)
    (hl : b.load d (b.ldSrc q) f.tgt.toNat 16 = (St.ok, v, b)) :
    ldBody q f d b = .done St.ok (BitVec.ofNat 64 v) (b.putWord (field f.op 0 32) (BitVec.ofNat 128 v)) := by
  simp [ldBody, hw, hal, hdest, hcheck, b.covered_live q _ _ htx, hl, b.through_live q _ _ _ htx,
    show failed St.ok = false from rfl]

/-- How an LD of a RAM ends, by the check bits of its word. -/
theorem ld_ram (h : s.chip.issuesAs Op.ld q f b) (htx : f.tx = false) (hw : field f.ext 0 2 < 3)
    (hdest : field f.ext 0 2 = 2 → field f.op 0 32 = 0) {a n : Nat} (hat : f.tgt.toNat = a)
    (hn : 4 * 2 ^ field f.ext 0 2 = n) (hal : a % n = 0) (ha : 0x10000000 ≤ a) (hr : loadRange a = none)
    (h6 : regionOf a ≠ some 6) (h4 : regionOf a = some 4 → b.mayRead (b.ldSrc q) = true) :
    (b.eccAt a = 0 → ∃ t, insn Op.ld ldBody q f s = .next t ∧
      Completes q f St.ok (BitVec.ofNat 64 (memNat 0 b.mem a n)) b.lt s b t) ∧
    (b.eccAt a = 1 → ∃ t, insn Op.ld ldBody q f s = .next t ∧
      Completes q f St.corrected (BitVec.ofNat 64 (memNat 0 b.mem a n)) b.lt s (b.corrected a) t) ∧
    (2 ≤ b.eccAt a → ldBody q f s.die b = .done St.eccUncorr 0 (b.poisonWord a 0)) := by
  subst hn hat
  have hbody := ldBody_live htx hw hdest hal (load_ram (d := s.die) ha hr h6 h4)
  refine ⟨fun hecc => ?_, fun hecc => ?_, fun hecc => ?_⟩
  · rw [Chip.readEcc_good hecc] at hbody
    exact insn_done h hbody ⟨rfl, rfl⟩
  · rw [Chip.readEcc_correctable hecc] at hbody
    have hk := (b.corrected_spec f.tgt.toNat).1
    have hmem : (b.corrected f.tgt.toNat).mem = b.mem := hk .mem (by decide)
    rw [← hmem]
    exact insn_done h hbody (Chip.noRecord_of_keeps hk (by decide))
  · rw [Chip.readEcc_uncorrectable hecc] at hbody
    exact hbody

/-- An access that poisons its word gives the recorder one record about its instruction. -/
theorem insn_poisons {o : OpInfo} {body : Body} {st : Byte} {a how : Nat} (h : s.chip.issuesAs o q f b)
    (hb : body q f s.die b = .done st 0 (b.poisonWord a how)) (hroom : b.lic.room = true) :
    ∃ t e r, insn o body q f s = .next t ∧ Completes q f st 0 b.lt s e t ∧ b.keeps [.ecc, .nvs, .lic] e ∧ e.eccAt a = 3 ∧
      b.oneRecord e r ∧ r.cause = 0x2201 := by
  obtain ⟨t, hex, hdone⟩ := insn_done_record h hb (Chip.poisonWord_record hroom how) rfl
  refine ⟨t, _, _, hex, hdone, ?_, b.poisonWord_eccAt a how, rfl, rfl⟩
  exact ((b.poisonWord_keeps a how).mono (by decide)).trans (Chip.keeps_lic _ _ (by decide))

end

/-- Settles O10: each access by the check bits of its word. -/
theorem loadsAndStoresReachTheRams : Obligations.LoadsAndStoresReachTheRams := by
  unfold Obligations.LoadsAndStoresReachTheRams
  refine ⟨fun q f s b => ?_, fun q f s b => ?wide⟩
  · intro a w n k
    refine ⟨fun h htx hw hdest hal ha hr h6 h4 => ?load, fun h htx hal ha hr h4 => ?store⟩
    case load =>
      obtain ⟨hgood, hcorrectable, hbad⟩ := ld_ram h htx hw hdest rfl rfl hal ha hr h6 h4
      refine ⟨hgood, fun hecc => ?_, fun hecc hroom => insn_poisons h (hbad hecc) hroom, fun hecc hfull => ?_⟩
      · obtain ⟨t, hex, hdone⟩ := hcorrectable hecc
        exact ⟨t, _, hex, hdone, b.corrected_spec a⟩
      · refine insn_done_stuck h (by decide) (by decide) (hbad hecc) ?_ (by omega)
        rw [Chip.poisonWord_lic, Lic.give_full hfull rfl]
        simp
    case store =>
      have hbody := stBody_ram (d := s.die) htx hal ha hr h4
      refine ⟨fun hecc => ?_, fun hecc hroom => ?_⟩
      · rw [Chip.partialWrite_good hecc] at hbody
        obtain ⟨t, hex, hdone⟩ := insn_done h hbody (Chip.noRecord_of_keeps (b.stored_keeps a k _) (by decide))
        refine ⟨t, b.stored a k f.op.toNat, hex, hdone, b.stored_keeps a k _, ?_, ?_, b.stored_nvs a k _,
          b.stored_dirty a k _⟩
        · rw [Chip.stored_mem, memNat_put, Nat.pow_mul]
        · intro x hx
          rw [Chip.stored_mem, memRead_put_other _ _ _ _ hx]
      · rw [Chip.partialWrite_uncorrectable hecc] at hbody
        obtain ⟨t, e, r, hex, hdone, hk, hpoisoned, -⟩ := insn_poisons h hbody hroom
        exact ⟨t, e, hex, hdone, hk, hpoisoned⟩
  case wide =>
    intro a dest h htx hw hal hdest hcheck ha hr h6 h4 hecc
    obtain ⟨haligned, hregion⟩ := regionOf_destination hcheck
    have hword : b.getWord a = BitVec.ofNat 128 (memNat 0 b.mem a 16) := by
      rw [Chip.getWord, show a / 16 * 16 = a by omega]
    have hbody := ldBody_destination htx hw hal hdest hcheck
      (load_good (d := s.die) (x := b.ldSrc q) (n := 16) ha hr h6 (fun h => absurd h h4) hecc)
    rw [← hword] at hbody
    have hk := b.putWord_keeps dest (b.getWord a)
    obtain ⟨t, hex, hdone⟩ := insn_done h hbody (Chip.noRecord_of_keeps hk (by decide))
    refine ⟨t, _, hex, hdone, fun p hp => ?_, b.getWord_putWord dest _, ?_, fun x hx => ?_⟩
    · by_cases hnvs : p = .nvs
      · subst hnvs; exact b.putWord_nvs dest _ hregion
      · exact hk p (by simp only [List.mem_cons, List.not_mem_nil, or_false] at hp ⊢; tauto)
    · rw [Chip.eccAt, Chip.putWord_ecc, memRead_write_same]; rfl
    · rw [Chip.putWord_mem, memRead_put_other _ _ _ _ (by omega)]

end Sys2Proof.Machine
end

section
namespace Sys2Proof.Machine

/-! ### What the end of a wait from outside leaves unchanged (R163, R164, R170, R173) -/

/-- The parts that change as a wait ends from outside, with its transaction, its routine and the stores that begin then. The
event flags are not among them. -/
def outsideParts : List Part :=
  [.queues, .engEvt, .timeouts, .ports, .mgt, .scr, .mem, .ecc, .nvs, .lic, .nvQ, .prs, .sec, .dma, .ctxs, .fronds, .cams]

section
variable {c : Chip} {q : Queue} {w : Wait}

theorem Chip.retire_keeps (c : Chip) (q : Queue) (f : Insn) (st : Byte) (res : DWord) :
    c.keeps [.queues, .engEvt, .timeouts, .ports, .mgt, .scr, .mem, .ecc] (c.retire q f st res) :=
  (Chip.retire_spec c q f st res).1

theorem Chip.startActStore_keeps (c : Chip) : c.keeps [.nvs, .ecc, .lic, .prs] c.startActStore := by
  unfold Chip.startActStore
  split
  · have hsnap := c.snapshot_keeps 3 c.prs.rtPages [] none none
    generalize c.snapshot 3 c.prs.rtPages [] none none = d at hsnap ⊢
    refine (hsnap.mono (by decide)).trans fun p hp => ?_
    cases p <;> first | rfl | exact absurd hp (by decide)
  · exact Chip.keeps.refl _ _

theorem Chip.startPosted_keeps (c : Chip) : c.keeps [.nvs, .ecc, .lic, .queues, .nvQ, .prs] c.startPosted := by
  unfold Chip.startPosted
  have hstores := c.startStores_keeps 8
  generalize c.startStores 8 = d at hstores ⊢
  exact (hstores.mono (by decide)).trans
    ((d.claimPort_keeps.mono (by decide)).trans (d.claimPort.startActStore_keeps.mono (by decide)))

theorem Chip.unwind_keeps (c : Chip) (q : Queue) (st : Byte) : c.keeps outsideParts (c.unwind q st) := by
  refine ((c.modQ_keeps q.val fun x => { x with calls := [], chain := false }).mono (by decide)).trans ?_
  refine Chip.keeps.trans (keeps_foldl (fun c e => ?_) _ _) ((Chip.startPosted_keeps _).mono (by decide))
  exact (c.retire_keeps q _ _ 0).mono (by decide)

theorem Chip.abortCtx_keeps (c : Chip) (k : Fin 4) : c.keeps [.ctxs, .queues, .fronds, .cams] (c.abortCtx k) := by
  obtain ⟨d, hd, he⟩ := c.abortCtx_closes k
  exact he ▸ (hd.mono (by decide)).trans (d.closeCtx_spec k).1

theorem Chip.clearKey_keeps (c : Chip) : c.keeps [.sec] c.clearKey := by
  intro p hp; cases p <;> first | rfl | exact absurd hp (by decide)

theorem Chip.releaseGo_keeps (c : Chip) (w : Wait) : c.keeps [.dma] (c.releaseGo w) := by
  unfold Chip.releaseGo
  split
  · exact c.modDma_keeps _ _
  · exact Chip.keeps.refl _ _

theorem Chip.abortWaiter_keeps (c : Chip) (q : Queue) (w : Wait) : c.keeps outsideParts (c.abortWaiter q w) := by
  obtain ⟨d, hd⟩ : ∃ d, d = (if w.code == 0xA1 && w.kind != .fence then c.clearKey else c).releaseGo w := ⟨_, rfl⟩
  have hkey : c.keeps outsideParts (if w.code == 0xA1 && w.kind != .fence then c.clearKey else c) := by
    split
    · exact c.clearKey_keeps.mono (by decide)
    · exact Chip.keeps.refl _ _
  have hk : c.keeps outsideParts d := hd ▸ hkey.trans ((Chip.releaseGo_keeps _ w).mono (by decide))
  unfold Chip.abortWaiter
  dsimp only
  rw [← hd]
  split
  · exact hk
  · split
    · exact hk.trans ((d.abortCtx_keeps _).mono (by decide))
    · exact hk

theorem Chip.retireWait_keeps (c : Chip) (q : Queue) (st : Byte) (res : DWord) :
    c.keeps outsideParts (c.retireWait q st res) := by
  unfold Chip.retireWait
  split
  · exact Chip.keeps.refl _ _
  · exact ((c.modQ_keeps _ _).mono (by decide)).trans ((Chip.retire_keeps _ q _ st res).mono (by decide))

theorem Chip.killWait_keeps (c : Chip) (q : Queue) (st : Byte) : c.keeps outsideParts (c.killWait q st) := by
  unfold Chip.killWait
  split
  · exact Chip.keeps.refl _ _
  · rename_i w _
    have hk : c.keeps outsideParts (((c.dropPort q).abortWaiter q w).retireWait q st 0) :=
      ((c.dropPort_keeps q).mono (by decide)).trans ((Chip.abortWaiter_keeps _ q w).trans (Chip.retireWait_keeps _ q st 0))
    refine Chip.keeps.trans ?_ ((Chip.startPosted_keeps _).mono (by decide))
    split
    · exact hk.trans (Chip.unwind_keeps _ q _)
    · exact hk

/-! ### The stall circle (R164) -/

theorem Chip.record_keeps (c : Chip) (cause : BitVec 16) (cls idx : Nat) (ctx : BitVec 192) (info : BitVec 32)
    (path : LicEntry) : c.keeps [.lic] (c.record cause cls idx ctx info path) := by
  intro p hp; cases p <;> first | rfl | exact absurd hp (by decide)

/-- The record of a stall circle. -/
def circleRecord (c : Chip) (q : Queue) (w : Wait) : LicRec :=
  ⟨.general, 0x1401, BitVec.ofNat 8 7, BitVec.ofNat 8 q.val, c.lt.word, insnInfo q w.code w.f.tag St.circle,
    ctxAt 32 w.t.toNat⟩

/-- The chip that has counted and recorded a stall circle. -/
def Chip.toldCircle (c : Chip) (q : Queue) (w : Wait) : Chip :=
  { c with
    eng := { c.eng with evt := c.eng.evt ||| bitW 0 true, circles := satAdd c.eng.circles 1 }
    lic := c.lic.give (circleRecord c q w) }

theorem Chip.toldCircle_keeps (c : Chip) (q : Queue) (w : Wait) :
    c.keeps [.engEvt, .circles, .lic] (c.toldCircle q w) := by
  intro p hp; cases p <;> first | rfl | exact absurd hp (by decide)

/-- The end of a circle: the youngest waiter ends, then its transaction aborts, and in a routine the routine unwinds. -/
theorem Chip.breakCircle_eq (c : Chip) (q : Queue) (w : Wait) :
    let e := (c.toldCircle q w).killWait q St.circle
    c.breakCircle q w = match e.txnOf q with
      | none => e
      | some k => if ((e.abortCtx k).queue q).calls.isEmpty then e.abortCtx k else (e.abortCtx k).unwind q St.aborted := rfl

theorem Chip.breakCircle_keeps (c : Chip) (q : Queue) (w : Wait) :
    c.keeps (.circles :: outsideParts) (c.breakCircle q w) := by
  have hk : c.keeps (.circles :: outsideParts) ((c.toldCircle q w).killWait q St.circle) :=
    ((c.toldCircle_keeps q w).mono (by decide)).trans ((Chip.killWait_keeps _ q _).mono (by decide))
  rw [Chip.breakCircle_eq]
  split
  · exact hk
  · rename_i k _
    have ha := hk.trans ((Chip.abortCtx_keeps _ k).mono (by decide))
    split
    · exact ha
    · exact ha.trans ((Chip.unwind_keeps _ q _).mono (by decide))

/-- The youngest waiter waits. -/
theorem Chip.youngest_waits (h : c.youngest = some (q, w)) : (c.queue q).wait = some w := by
  have hfold : ∀ r, c.youngest = some r → (c.queue r.1).wait = some r.2 := by
    unfold Chip.youngest
    refine List.foldlRecOn (List.finRange 8) _
      (motive := fun b : Option (Queue × Wait) => ∀ r, b = some r → (c.queue r.1).wait = some r.2) (by simp) ?_
    intro b hb k _ r hr
    split at hr
    · rename_i x _ v hx
      split at hr
      · cases hr; exact hx
      · exact hb r hr
    · rename_i x hx
      cases hr; exact hx
    · exact hb r hr
  exact hfold (q, w) h

theorem exec_stallCircle {s : State} (hon : s.chip.endSwitch.coreOn = true) (hcircle : s.chip.endSwitch.circle = true)
    (hy : s.chip.endSwitch.youngest = some (q, w)) :
    exec .stallCircle s = .next { s with chip := s.chip.endSwitch.breakCircle q w } := by
  change execStallCircle s = _
  simp only [execStallCircle, onChip, inFlight, hon, hcircle, hy, Bool.and_self]

end

end Sys2Proof.Machine
end

section
namespace Sys2Proof.Machine

/-! ### Waits for flags (R163, R164, R188) -/

section
variable {q : Queue} {f : Insn} {s : State} {b : Chip} {d : Die} {w : Wait} {c : Chip}

theorem waitEvtBody_empty (h : f.op = 0) : waitEvtBody q f d b = .done St.range 0 b := if_pos h

theorem waitEvtBody_waits (hop : f.op ≠ 0) (h : b.eng.flags &&& f.op = 0) :
    waitEvtBody q f d b = .wait .event f.op 0 b := (if_neg hop).trans (if_pos h)

theorem waitEvtBody_consumes (h : b.eng.flags &&& f.op ≠ 0) :
    waitEvtBody q f d b = .done St.ok (b.eng.flags &&& f.op) (b.consume f.op).2 :=
  (if_neg fun hop => h (by simp [hop])).trans (if_neg h)

theorem Chip.consume_keeps (c : Chip) (m : BitVec 64) : c.keeps [.flags] (c.consume m).2 := by
  intro p hp; cases p <;> first | rfl | exact absurd hp (by decide)

theorem waitMet_event (hkind : w.kind = .event) (h : c.eng.flags &&& w.t ≠ 0) (hw : (c.queue q).wait = some w) :
    c.waitMet d q w
      = some (((c.consume w.t).2.endWait q).retire q w.f St.ok (c.eng.flags &&& w.t)) := by
  have hwait : ((c.consume w.t).2.queue q).wait = some w := hw
  simp only [Chip.waitMet, hkind, if_neg h, Chip.retireWait_eq hwait]
  rfl

theorem waitMet_event_none (hkind : w.kind = .event) (h : c.eng.flags &&& w.t = 0) : c.waitMet d q w = none := by
  simp only [Chip.waitMet, hkind, if_pos h]

variable (hon : s.chip.endSwitch.coreOn = true) (hw : (s.chip.endSwitch.queue q).wait = some w)
include hon hw

theorem exec_waitEvtMet {m : Chip} (hkind : w.kind = .event) (hmet : s.chip.endSwitch.waitMet s.die q w = some m) :
    exec (.waitEvtMet q) s = .next { s with chip := m } := by
  change execWaitEvtMet q s = _
  simp only [execWaitEvtMet, waitRow_runs hon hw, hkind, beq_self_eq_true, if_true, hmet, Option.getD_some]

theorem exec_waitTimeMet (hkind : w.kind = .time) :
    exec (.waitTimeMet q) s
      = .next { s with chip := ((s.chip.endSwitch.advance w.t).waitMet s.die q w).getD s.chip.endSwitch } := by
  change execWaitTimeMet q s = _
  simp only [execWaitTimeMet, waitRow_runs hon hw, hkind, beq_self_eq_true, if_true]

theorem exec_positionReached (lt : BitVec 64) (hkind : w.kind = .position) :
    exec (.positionReached q lt) s
      = .next { s with chip := ((s.chip.endSwitch.advance lt).waitMet s.die q w).getD s.chip.endSwitch } := by
  change execPositionReached q lt s = _
  simp only [execPositionReached, waitRow_runs hon hw, hkind, beq_self_eq_true, if_true]

/-- A wait for flags that its limit ends leaves the flags as they are. -/
theorem waitTimeout_event_flags (hkind : w.kind = .event) (h : s.chip.endSwitch.eng.flags &&& w.t = 0) :
    ∃ t, exec (.waitTimeout q) s = .next t ∧ t.chip.eng.flags = s.chip.endSwitch.eng.flags :=
  ⟨_, exec_waitTimeout_unmet hon hw (by rw [hkind]; rfl) (waitMet_event_none hkind h),
    Chip.killWait_keeps _ q _ .flags (by decide)⟩

omit hw in
/-- So does the end of a stall circle. -/
theorem stallCircle_flags (hcircle : s.chip.endSwitch.circle = true) (hy : s.chip.endSwitch.youngest = some (q, w)) :
    ∃ t, exec .stallCircle s = .next t ∧ t.chip.eng.flags = s.chip.endSwitch.eng.flags :=
  ⟨_, exec_stallCircle hon hcircle hy, Chip.breakCircle_keeps _ q w .flags (by decide)⟩

end

/-! ### Waits for a time and for a position (R180, R286, R490) -/

section
variable {q : Queue} {f : Insn} {s : State} {b : Chip} {d : Die} {w : Wait} {c : Chip}

theorem waitTimeBody_late (h : (waitUntil f b - b.now).toInt < 0) : waitTimeBody q f d b = .done St.late b.now b := if_pos h

theorem waitTimeBody_now (h : 0 ≤ (waitUntil f b - b.now).toInt) (hn : (waitUntil f b - b.next).toInt < 0) :
    waitTimeBody q f d b = .done St.ok b.now b := (if_neg (not_lt.2 h)).trans (if_pos hn)

theorem waitTimeBody_waits (h : 0 ≤ (waitUntil f b - b.now).toInt) (hn : 0 ≤ (waitUntil f b - b.next).toInt) :
    waitTimeBody q f d b = .wait .time (waitUntil f b) 0 b := (if_neg (not_lt.2 h)).trans (if_neg (not_lt.2 hn))

theorem waitMet_time (hkind : w.kind = .time) (h : (w.t - c.next).toInt < 0) (hw : (c.queue q).wait = some w) :
    c.waitMet d q w = some ((c.endWait q).retire q w.f (if w.res = 1 then St.late else St.ok) c.now) := by
  simp only [Chip.waitMet, hkind, signedGap, h, if_true, Chip.retireWait_eq hw]

theorem waitMet_time_none (hkind : w.kind = .time) (h : 0 ≤ (w.t - c.next).toInt) : c.waitMet d q w = none := by
  simp only [Chip.waitMet, hkind, signedGap, not_lt.2 h, if_false]

theorem waitPosBody_passed (hcycle : f.ext.getLsbD 0 = false) (hm : b.moving = true)
    (h : 0 ≤ (b.look.getD 0 - f.op).toInt) : waitPosBody q f d b = .done St.late b.posNow b :=
  if_pos (by simp only [Chip.passed, hcycle, hm, signedGap, h, decide_true, Bool.not_false, Bool.and_self])

theorem waitPosBody_waits (h : f.ext.getLsbD 0 = true ∨ b.moving = false ∨ (b.look.getD 0 - f.op).toInt < 0) :
    waitPosBody q f d b = .wait .position f.op (b.look.getD 0) b := by
  have hahead : b.passed f = false := by
    rcases h with h | h | h
    · simp only [Chip.passed, h, Bool.not_true, Bool.false_and]
    · simp only [Chip.passed, h, Bool.and_false, Bool.false_and]
    · simp only [Chip.passed, signedGap, not_le.2 h, decide_false, Bool.and_false]
  exact if_neg (by rw [hahead]; exact Bool.false_ne_true)

/-- A WAIT.POS that has reached its position retires with it. -/
theorem waitMet_position (hkind : w.kind = .position) (hcode : w.code = 0x02) (hmet : c.positionMet w = true) :
    c.waitMet d q w = some ((c.endWait q).retire q w.f St.ok c.posNow) := by
  have hends : c.positionEnds d q w = .done St.ok c.posNow c := by
    have hat : c.atPosition d q w = .done St.ok c.posNow c := by
      unfold Chip.atPosition; rw [hcode]; rfl
    rw [Chip.positionEnds, hat, takeWriter_of_wait rfl]
  simp only [Chip.waitMet, hkind, hmet, if_true, hends, Chip.goOn, Done.describe,
    Chip.describe_none (show c.noRecord c from ⟨rfl, rfl⟩)]
  exact congrArg some (finish_done_now (c := c.endWait q))

theorem Chip.advance_queue (c : Chip) (t : BitVec 64) (k : Queue) : (c.advance t).queue k = c.queue k :=
  Chip.queue_congr (c.advance_keeps t .queues (by decide)) k

/-- The end of a wait in a later cc, seen from the chip before it. -/
theorem Chip.passes.endWait {a : Chip} (h : c.passes [] a) (q : Queue) :
    c.passes [.queues] (a.endWait q) ∧ ((a.endWait q).queue q).wait = none :=
  ⟨h.then ((Chip.modQ_keeps _ _ _).mono (by decide)) (.inr rfl) (.inr rfl), by rw [Chip.endWait_queue]⟩

theorem Chip.advance_lt (c : Chip) (t : BitVec 64) :
    (c.advance t).lt = if 0 < (t - c.now).toInt then { c.lt.plus (t - c.now).toInt with len := 64 } else c.lt := by
  by_cases h : 0 < (t - c.now).toInt
  · simp only [Chip.advance, signedGap, h, if_true]
  · simp only [Chip.advance, signedGap, h, if_false]

variable (hon : s.chip.endSwitch.coreOn = true) (hw : (s.chip.endSwitch.queue q).wait = some w)
include hon hw

/-- WAIT_TIME_MET in a cc, `a` the chip with line time carried to it, in which the time of the WAIT.TIME falls. -/
theorem waitTimeMet_ends {a : Chip} (ha : s.chip.endSwitch.advance w.t = a) (hkind : w.kind = .time)
    (hmet : (w.t - a.next).toInt < 0) :
    exec (.waitTimeMet q) s
      = .next { s with chip := (a.endWait q).retire q w.f (if w.res = 1 then St.late else St.ok) a.now } := by
  have hwait : (a.queue q).wait = some w := by rw [← ha, Chip.advance_queue]; exact hw
  rw [exec_waitTimeMet hon hw hkind, ha, waitMet_time hkind hmet hwait, Option.getD_some]

theorem waitTimeMet_waits {a : Chip} (ha : s.chip.endSwitch.advance w.t = a) (hkind : w.kind = .time)
    (hahead : 0 ≤ (w.t - a.next).toInt) : exec (.waitTimeMet q) s = .next { s with chip := s.chip.endSwitch } := by
  rw [exec_waitTimeMet hon hw hkind, ha, waitMet_time_none hkind hahead, Option.getD_none]

/-- POSITION_REACHED in a cc, `a` the chip with line time carried to it, in which the position of a WAIT.POS is reached. -/
theorem positionReached_ends {a : Chip} {lt : BitVec 64} (ha : s.chip.endSwitch.advance lt = a) (hkind : w.kind = .position)
    (hcode : w.code = 0x02) (hmet : a.positionMet w = true) :
    exec (.positionReached q lt) s = .next { s with chip := (a.endWait q).retire q w.f St.ok a.posNow } := by
  rw [exec_positionReached hon hw lt hkind, ha, waitMet_position hkind hcode hmet, Option.getD_some]

end

/-- Settles O7: each body by what it finds, each row of a wait's end by whether its condition is met, the limit and the circle by
what they keep. -/
theorem waitsTestWhatTheyName : Obligations.WaitsTestWhatTheyName := by
  unfold Obligations.WaitsTestWhatTheyName
  refine ⟨fun q f s b => ?events, fun q f s b => ?times, fun q f s b => ?positions⟩
  case events =>
    intro c
    refine ⟨fun h hset => ?_, fun h hop hnone => insn_wait h (waitEvtBody_waits hop hnone) rfl,
      fun h hop => insn_refused h (waitEvtBody_empty hop), fun w hon hw hkind hset => ?_,
      fun w hon hw hkind hcode hnone hrt hposted => ⟨?_, fun hcircle hy => stallCircle_flags hon hcircle hy⟩,
      fun w hon hw hkind hnone => ⟨?_, fun hcircle hy => ?_⟩⟩
    · obtain ⟨t, hex, hdone⟩ := insn_done h (waitEvtBody_consumes hset) ⟨rfl, rfl⟩
      exact ⟨t, _, hex, hdone, b.consume_keeps _, rfl⟩
    · refine ⟨_, (c.consume w.t).2.endWait q, exec_waitEvtMet hon hw hkind (waitMet_event hkind hset hw),
        completes_retire_now, ?_, rfl, by rw [Chip.endWait_queue]⟩
      exact ((c.consume_keeps _).mono (by decide)).trans ((Chip.modQ_keeps _ _ _).mono (by decide))
    · obtain ⟨t, e, hex, hdone, hk, hq, -⟩ := waitTimeout_alone hon hw (by rw [hkind]; rfl) (waitMet_event_none hkind hnone)
        ⟨hrt, hposted⟩ (by rw [hcode]; decide) (by rw [hkind]; decide) (.inr (by rw [hcode]; decide))
      exact ⟨t, e, hex, hdone, hk, show (e.queue q).txn = (c.queue q).txn by rw [hq],
        (hdone.frame .flags (by decide)).trans (hk .flags (by decide))⟩
    · obtain ⟨t, hex, hflags⟩ := waitTimeout_event_flags hon hw hkind hnone
      exact ⟨t, hex, fun j _ hj => by rw [hflags]; exact hj⟩
    · obtain ⟨t, hex, hflags⟩ := stallCircle_flags hon hcircle hy
      exact ⟨t, hex, fun j _ hj => by rw [hflags]; exact hj⟩
  case times =>
    intro c
    refine ⟨fun h => ⟨fun hlate => insn_done h (waitTimeBody_late hlate) ⟨rfl, rfl⟩,
      fun hge hin => insn_done h (waitTimeBody_now hge hin) ⟨rfl, rfl⟩,
      fun hge hahead => insn_wait h (waitTimeBody_waits hge hahead) rfl⟩, fun w hon hw hkind hmet => ?_,
      fun w hon hw hkind hahead => ?_⟩
    · have hlt := c.advance_lt w.t
      have hpass := c.advance_passes w.t
      obtain ⟨a, ha⟩ : ∃ a, c.advance w.t = a := ⟨_, rfl⟩
      rw [ha] at hmet hlt hpass
      obtain ⟨hpass, hended⟩ := hpass.endWait q
      exact ⟨_, a.endWait q, waitTimeMet_ends hon hw ha hkind hmet, completes_retire_now, hpass, hended, hlt⟩
    · exact waitTimeMet_waits hon hw rfl hkind hahead
  case positions =>
    intro c
    refine ⟨fun h hcycle hm hpast => insn_done h (waitPosBody_passed hcycle hm hpast) ⟨rfl, rfl⟩,
      fun h hahead => insn_wait h (waitPosBody_waits hahead) rfl, fun w lt hon hw hkind hcode hm hreached => ?_⟩
    have hpass := c.advance_passes lt
    obtain ⟨a, ha⟩ : ∃ a, c.advance lt = a := ⟨_, rfl⟩
    rw [ha] at hm hreached hpass
    have hmet : a.positionMet w = true := by
      simp only [Chip.positionMet, hm, Bool.true_and]; exact hreached
    obtain ⟨hpass, hended⟩ := hpass.endWait q
    exact ⟨_, a.endWait q, positionReached_ends hon hw ha hkind hcode hmet, completes_retire_now, hpass, hended⟩

end Sys2Proof.Machine
end

section
namespace Sys2Proof.Machine

/-! ### A stall circle broken (R164) -/

section
variable {c : Chip} {q : Queue} {w : Wait}

theorem Chip.dropPort_other (h : c.eng.nvQ ≠ some q) : c.dropPort q = c := by
  simp [Chip.dropPort, h]

/-- Every waiting queue of a stall circle waits for flags. -/
theorem Chip.circle_waits (h : c.circle = true) (hw : (c.queue q).wait = some w) : w.kind = .event := by
  have hstalled : c.stalled q = true := by
    have hall : (List.finRange 8).all c.stalled = true := (Bool.and_eq_true _ _ ▸ h : _ ∧ _).2
    exact List.all_eq_true.1 hall q (List.mem_finRange q)
  have hkind : (w.kind == .event) = true := by
    simp only [Chip.stalled, hw] at hstalled
    exact (Bool.and_eq_true _ _ ▸ hstalled : _ ∧ _).1
  simpa using hkind

/-- The chip in which the youngest waiter of a circle has ended and not yet retired. -/
def Chip.circleEnded (c : Chip) (q : Queue) (w : Wait) : Chip := (c.toldCircle q w).endWait q

theorem Chip.circleEnded_keeps (c : Chip) (q : Queue) (w : Wait) :
    c.keeps [.queues, .engEvt, .circles, .lic] (c.circleEnded q w) :=
  ((c.toldCircle_keeps q w).mono (by decide)).trans ((Chip.modQ_keeps _ _ _).mono (by decide))

theorem Chip.circleEnded_queue (c : Chip) (q : Queue) (w : Wait) :
    (c.circleEnded q w).queue q = { c.queue q with wait := none } := (c.toldCircle q w).endWait_queue q

theorem Chip.circleEnded_record (hroom : c.lic.room = true) : c.oneRecord (c.circleEnded q w) (circleRecord c q w) :=
  show c.lic.give (circleRecord c q w) = _ from Lic.give_room hroom rfl

/-- The youngest waiter of a circle, a WAIT.EVT that holds no port, completes CIRCLE. -/
theorem Chip.killWait_circle (hcircle : c.circle = true) (hy : c.youngest = some (q, w)) (hcode : w.code = 0x04)
    (hdue : c.noStoreDue) (hport : c.eng.nvQ ≠ some q) :
    (c.toldCircle q w).killWait q St.circle = (c.circleEnded q w).retire q w.f St.circle 0 := by
  have hw := c.youngest_waits hy
  have hgo : w.kind ≠ .credits := by rw [c.circle_waits hcircle hw]; decide
  rw [Chip.killWait_alone (c := c.toldCircle q w) hw St.circle
    (hdue.keeps (c.toldCircle_keeps q w) (by decide) (by decide)) (by rw [hcode]; decide) hgo
    (.inr (by rw [hcode]; decide)), Chip.dropPort_other (show (c.toldCircle q w).eng.nvQ ≠ some q from hport)]
  rfl

theorem retire_txn (c : Chip) (q : Queue) (f : Insn) (st : Byte) (res : DWord) :
    (c.retire q f st res).txnOf q = c.txnOf q := by
  show ((c.retire q f st res).queue q).txn = (c.queue q).txn
  rw [(Chip.retire_spec c q f st res).2.1]
  rfl

theorem retire_noCalls (h : (c.queue q).calls = []) (f : Insn) (st : Byte) (res : DWord) :
    ((c.retire q f st res).queue q).calls = [] := by
  rw [(Chip.retire_spec c q f st res).2.1]
  simp only [QState.completed, h]

theorem Chip.circleEnded_txn (c : Chip) (q : Queue) (w : Wait) : (c.circleEnded q w).txnOf q = c.txnOf q := by
  show ((c.circleEnded q w).queue q).txn = (c.queue q).txn
  rw [Chip.circleEnded_queue]

end

/-! ### Requests of the handler (R148, R424) -/

section
variable {c : Chip} {r : HReq} {b : Bool}

theorem Chip.condEdge_self (c : Chip) : c.condEdge c = c := Chip.condEdge_fallen (by simp)

/-- A rise of a condition sets event bit 0 alone and leaves the requests and the counts of their slots. -/
theorem Chip.condEdge_flt (old new : Chip) :
    (old.condEdge new).flt.list = new.flt.list ∧ (old.condEdge new).flt.resUsed = new.flt.resUsed ∧
      ∀ j, j < 32 → new.flt.evt.getLsbD j = true → (old.condEdge new).flt.evt.getLsbD j = true := by
  unfold Chip.condEdge
  dsimp only
  split
  · exact ⟨rfl, rfl, fun _ _ h => h⟩
  · refine ⟨rfl, rfl, fun j _ h => ?_⟩
    show (new.flt.evt ||| bitW 0 true).getLsbD j = true
    rw [BitVec.getLsbD_or, h, Bool.true_or]

/-- The chip with the only request of the handler passed on to a slot of Q7, a reserved one where `b`. -/
def Chip.handedOver (c : Chip) (r : HReq) (b : Bool) : Chip :=
  ({ c with flt :=
      { c.flt with
        list := []
        evt := if b then c.flt.evt ||| bitW 1 true else c.flt.evt
        resUsed := if b then satAdd16 c.flt.resUsed 1 else c.flt.resUsed } } : Chip).modQ 7 (QState.put r.word b)

theorem Chip.handlerPass_single (hl : c.flt.list = [r]) : c.handlerPass = c.handlerPut r := by
  simp only [Chip.handlerPass, hl, List.foldl_cons, List.foldl_nil]

theorem Chip.handlerPass_takes (hl : c.flt.list = [r]) (hs : c.slotFor7 r.word = some b) :
    c.handlerPass = c.handedOver r b := by
  have hslot (l : List HReq) : ({ c with flt := { c.flt with list := l } } : Chip).slotFor7 r.word = some b := hs
  rw [Chip.handlerPass_single hl, Chip.handlerPut, if_pos (by rw [hs]; rfl), hl, List.erase_cons_head]
  simp only [Chip.enqueue, if_true, Chip.enqueue7, hslot]
  cases b <;> rfl

theorem Chip.handedOver_keeps (c : Chip) (r : HReq) (b : Bool) : c.keeps [.queues, .flt] (c.handedOver r b) := by
  intro p hp; cases p <;> first | rfl | exact absurd hp (by decide)

/-- What a request that has entered Q7 leaves, the conditions judged after it. -/
theorem Chip.handedOver_spec (c : Chip) (r : HReq) (b : Bool) :
    let e := c.condEdge (c.handedOver r b)
    c.keeps [.queues, .flt] e ∧ e.flt.list = [] ∧ (e.queue 7).words = (c.queue 7).words ++ [r.word] ∧
      (∀ k, k ≠ 7 → e.queue k = c.queue k) ∧
      e.flt.resUsed = (if b then satAdd16 c.flt.resUsed 1 else c.flt.resUsed) ∧ (b = true → e.flt.evt.getLsbD 1 = true) := by
  intro e
  obtain ⟨hlist, hres, hevt⟩ := Chip.condEdge_flt c (c.handedOver r b)
  have hk := Chip.condEdge_keeps c (c.handedOver r b)
  have hq : ∀ k, e.queue k = (c.handedOver r b).queue k := Chip.queue_congr (hk .queues (by decide))
  refine ⟨(c.handedOver_keeps r b).trans (hk.mono (by decide)), hlist, ?_, fun k hne => ?_, hres, fun hb => ?_⟩
  · exact (congrArg QState.words ((hq 7).trans (Chip.queue_modQ_same _ 7 _)))
  · exact (hq k).trans (Chip.queue_modQ_other (q := 7) _ _ hne)
  · subst hb
    exact hevt 1 (by decide) (getLsbD_raised c.flt.evt (by decide))

/-- A request that finds no slot of its kind is counted once as waiting. -/
theorem Chip.handlerPass_waits (hl : c.flt.list = [r]) (hs : c.slotFor7 r.word = none) :
    c.keeps [.flt] (c.condEdge c.handlerPass) ∧ (c.condEdge c.handlerPass).flt.list.length = 1 ∧
      (c.condEdge c.handlerPass).flt.evt.getLsbD 2 = (c.flt.evt.getLsbD 2 || !r.late) := by
  have hput : c.handlerPut r = if r.late then c else
      { c with flt := { c.flt with
          list := c.flt.list.map fun x => if x = r then { x with late := true } else x
          evt := c.flt.evt ||| bitW 2 true
          waited := satAdd16 c.flt.waited 1 } } := by
    rw [Chip.handlerPut, if_neg (by rw [hs]; exact Bool.false_ne_true)]
    rfl
  rw [Chip.handlerPass_single hl, hput]
  cases hlate : r.late
  · obtain ⟨d, hd⟩ : ∃ d : Chip, d = { c with flt := { c.flt with
          list := c.flt.list.map fun x => if x = r then { x with late := true } else x
          evt := c.flt.evt ||| bitW 2 true
          waited := satAdd16 c.flt.waited 1 } } := ⟨_, rfl⟩
    have hk : c.keeps [.flt] d := by
      subst hd; intro p hp; cases p <;> first | rfl | exact absurd hp (by decide)
    obtain ⟨hlist, -, hevt⟩ := Chip.condEdge_flt c d
    simp only [Bool.false_eq_true, if_false, Bool.not_false, Bool.or_true]
    rw [← hd]
    refine ⟨hk.trans (Chip.condEdge_keeps c d), ?_, hevt 2 (by decide) ?_⟩
    · rw [hlist, hd, List.length_map, hl]; rfl
    · rw [hd]; exact getLsbD_raised _ (by decide)
  · rw [if_pos rfl, Chip.condEdge_self]
    exact ⟨Chip.keeps.refl _ _, by rw [hl]; rfl, by simp⟩

theorem Chip.slotFor7_general (h : c.general7 < 12) (x : QWord) : c.slotFor7 x = some false := if_pos h

theorem Chip.slotFor7_reserved {x : QWord} (h : 12 ≤ c.general7) (hr : c.reserved7 < 4) (ho : reservedOp x = true) :
    c.slotFor7 x = some true :=
  (if_neg (by omega)).trans (if_pos (by simp [hr, ho]))

theorem Chip.slotFor7_none {x : QWord} (h : 12 ≤ c.general7) (hr : 4 ≤ c.reserved7 ∨ reservedOp x = false) :
    c.slotFor7 x = none := by
  refine (if_neg (by omega)).trans (if_neg ?_)
  rcases hr with hr | hr
  · simp [show ¬ c.reserved7 < 4 by omega]
  · simp [hr]

end

/-! ### The rows -/

section
variable {s : State}

theorem exec_stallCircle_none (h : s.chip.endSwitch.circle = false) :
    exec .stallCircle s = .next { s with chip := s.chip.endSwitch } := by
  change execStallCircle s = _
  simp only [execStallCircle, onChip, inFlight, h, Bool.and_false]

variable (hon : s.chip.endSwitch.coreOn = true)
include hon

theorem exec_evtsrcTimer (k : BitVec 5) :
    exec (.evtsrcTimer k) s = .next { s with chip :=
      if (field (vget s.chip.endSwitch.eng.evtsrc k.toNat) 8 4) = 6 then s.chip.endSwitch.setFlag (32 + k.toNat)
      else s.chip.endSwitch } := by
  change execEvtsrcTimer k s = _
  simp only [execEvtsrcTimer, onChip, inFlight, hon, Bool.true_and, beq_iff_eq]

theorem exec_handlerRequestIssue :
    exec .handlerRequestIssue s
      = .next { s with chip := s.chip.endSwitch.condEdge s.chip.endSwitch.handlerPass } := by
  change execHandlerRequestIssue s = _
  simp only [execHandlerRequestIssue, onChip, inFlight, hon, if_true]

end

theorem Chip.getLsbD_setFlag (c : Chip) {k j : Nat} (hj : j < 64) :
    (c.setFlag k).eng.flags.getLsbD j = (c.eng.flags.getLsbD j || j == k) := by
  show (c.eng.flags ||| BitVec.ofNat 64 (2 ^ k)).getLsbD j = _
  rw [BitVec.getLsbD_or, BitVec.getLsbD_ofNat, decide_eq_true hj, Nat.testBit_two_pow, Bool.true_and]
  rw [Bool.beq_eq_decide_eq, decide_eq_decide.2 (eq_comm (a := j))]

/-- Settles O35: a circle by the completion of its youngest waiter and the abort of its transaction, a timer source by its flag,
the handler by the slot that its request finds. -/
theorem stallsTimersAndTheHandler : Obligations.StallsTimersAndTheHandler := by
  unfold Obligations.StallsTimersAndTheHandler
  refine ⟨fun s => ?circles, fun s => ?rows⟩
  case circles =>
    intro u c
    refine ⟨fun q w hon hcircle hy htxn hcode hroom hrt hposted hport => ?_,
      fun q w k hon hcircle hy htxn hcode hown hcalls hroom hrt hposted hport => ?_, fun h => exec_stallCircle_none h⟩
    all_goals
      have hex := exec_stallCircle hon hcircle hy
      rw [Chip.breakCircle_eq, Chip.killWait_circle hcircle hy hcode ⟨hrt, hposted⟩ hport, retire_txn,
        Chip.circleEnded_txn, htxn] at hex
    · exact ⟨_, _, _, hex, completes_retire_now, c.circleEnded_keeps q w, by rw [Chip.circleEnded_queue], rfl,
        getLsbD_raised _ (by decide), Chip.circleEnded_record hroom, rfl, rfl⟩
    · obtain ⟨e, he⟩ : ∃ e, e = (c.circleEnded q w).retire q w.f St.circle 0 := ⟨_, rfl⟩
      have hke : (c.circleEnded q w).keeps _ e := he ▸ Chip.retire_keeps _ q w.f St.circle 0
      have hetxn : (e.queue q).txn = some k := by
        have := (retire_txn (c.circleEnded q w) q w.f St.circle 0).trans ((c.circleEnded_txn q w).trans htxn)
        rw [← he] at this; exact this
      have heown : (vget e.eng.ctxs k.val).owner = q := by
        rw [show e.eng.ctxs = c.eng.ctxs from
          (hke .ctxs (by decide)).trans (c.circleEnded_keeps q w .ctxs (by decide)), hown]
      have hecalls : (e.queue q).calls = [] := by
        rw [he]; exact retire_noCalls (by rw [Chip.circleEnded_queue]; exact hcalls) _ _ _
      obtain ⟨hk, hctx, hq, -, hfree⟩ := Chip.abortCtx_spec heown hetxn
      dsimp only at hex
      rw [← he, hq, hecalls] at hex
      refine ⟨_, { s with chip := e }, c.circleEnded q w, circleRecord c q w, hex, he ▸ completes_retire_now,
        c.circleEnded_keeps q w, by rw [Chip.circleEnded_queue], rfl, getLsbD_raised _ (by decide),
        Chip.circleEnded_record hroom, rfl, rfl, ⟨rfl, rfl, hk⟩, ?_, hctx, hfree⟩
      show ((e.abortCtx k).queue q).txn = none
      rw [hq]
  case rows =>
    intro u c hon
    refine ⟨fun k => ⟨fun htimer => ?_, fun hother => ?_⟩, fun hl => ?_, fun r hl => ?_⟩
    · have hex := exec_evtsrcTimer hon k
      rw [if_pos htimer] at hex
      exact ⟨_, hex, ⟨rfl, rfl, c.setFlag_keeps _⟩, fun j hj => c.getLsbD_setFlag hj⟩
    · rw [exec_evtsrcTimer hon k, if_neg hother]
    · have hpass : s.chip.endSwitch.handlerPass = s.chip.endSwitch := by
        rw [Chip.handlerPass, show s.chip.endSwitch.flt.list = [] from hl]; rfl
      rw [exec_handlerRequestIssue hon, hpass, Chip.condEdge_self]
    · intro enters
      have hex := exec_handlerRequestIssue hon
      refine ⟨fun hg => ?_, fun hg hr ho => ?_, fun hg hr => ?_⟩
      · rw [Chip.handlerPass_takes hl (Chip.slotFor7_general hg _)] at hex
        obtain ⟨hk, hlist, hwords, hothers, hres, -⟩ := c.handedOver_spec r false
        exact ⟨_, ⟨hex, ⟨rfl, rfl, hk⟩, hlist, hwords, hothers⟩, hres⟩
      · rw [Chip.handlerPass_takes hl (Chip.slotFor7_reserved hg hr ho)] at hex
        obtain ⟨hk, hlist, hwords, hothers, hres, hevt⟩ := c.handedOver_spec r true
        exact ⟨_, ⟨hex, ⟨rfl, rfl, hk⟩, hlist, hwords, hothers⟩, hevt rfl, hres⟩
      · obtain ⟨hk, hlen, hevt⟩ := Chip.handlerPass_waits hl (Chip.slotFor7_none hg hr)
        exact ⟨_, hex, ⟨rfl, rfl, hk⟩, hlen, hevt⟩

end Sys2Proof.Machine
end

section
namespace Sys2Proof.Machine

/-! ### Staging and reading through it (R165 to R167, Table IMD-7) -/

/-- The context of a transaction replaced. -/
def Chip.setCtx (c : Chip) (k : Fin 4) (x : Ctx) : Chip := c.modCtx k.val fun _ => x

theorem Chip.modCtx_keeps (c : Chip) (k : Nat) (f : Ctx → Ctx) : c.keeps [.ctxs] (c.modCtx k f) := by
  intro p hp; cases p <;> first | rfl | exact absurd hp (by decide)

@[simp] theorem Chip.modCtx_same (c : Chip) (k : Nat) (f : Ctx → Ctx) :
    vget (c.modCtx k f).eng.ctxs k = f (vget c.eng.ctxs k) := vget_vmod_same _ _ _

theorem Chip.setCtx_keeps (c : Chip) (k : Fin 4) (x : Ctx) : c.keeps [.ctxs] (c.setCtx k x) := c.modCtx_keeps _ _

@[simp] theorem Chip.setCtx_same (c : Chip) (k : Fin 4) (x : Ctx) : vget (c.setCtx k x).eng.ctxs k.val = x :=
  c.modCtx_same _ _

theorem Chip.setCtx_setCtx (c : Chip) (k : Fin 4) (x y : Ctx) : (c.setCtx k x).setCtx k y = c.setCtx k y := by
  unfold Chip.setCtx Chip.modCtx
  dsimp only
  rw [vmod_vmod]

/-- An instruction whose body replaces the context of its transaction and nothing else. -/
theorem insn_stages {o : OpInfo} {body : Body} {q : Queue} {f : Insn} {s : State} {b : Chip} {k : Fin 4} {x : Ctx}
    (h : s.chip.issuesAs o q f b) (hb : body q f s.die b = .done St.ok 0 (b.setCtx k x)) :
    ∃ t e, insn o body q f s = .next t ∧ Completes q f St.ok 0 b.lt s e t ∧ b.keeps [.ctxs] e ∧
      vget e.eng.ctxs k.val = x := by
  obtain ⟨t, hex, hdone⟩ := insn_done h hb (Chip.noRecord_of_keeps (b.setCtx_keeps k x) (by decide))
  exact ⟨t, _, hex, hdone, b.setCtx_keeps k x, b.setCtx_same k x⟩

/-! #### Bytes of a number -/

/-- Byte `i` of the bytes that lie at an address. -/
theorem byte_memNat (d : Byte) (m : Mem) {n i : Nat} (a : Nat) (h : i < n) :
    BitVec.ofNat 8 (memNat d m a n / 256 ^ i) = memRead d m (a + i) := by
  induction n generalizing a i with
  | zero => omega
  | succ n ih =>
    cases i with
    | zero =>
      rw [memNat, Nat.pow_zero, Nat.div_one]
      apply BitVec.eq_of_toNat_eq
      rw [BitVec.toNat_ofNat, Nat.add_mul_mod_self_left, Nat.mod_eq_of_lt (memRead d m a).isLt]
      rfl
    | succ i =>
      have hdiv : memNat d m a (n + 1) / 256 ^ (i + 1) = memNat d m (a + 1) n / 256 ^ i := by
        rw [memNat, Nat.pow_succ', ← Nat.div_div_eq_div_mul, Nat.add_mul_div_left _ _ (by decide),
          Nat.div_eq_of_lt (memRead d m a).isLt, Nat.zero_add]
      rw [hdiv, ih (a + 1) (by omega), show a + 1 + i = a + (i + 1) by omega]

theorem extract_byte {w : Nat} (v i : Nat) (h : 8 * i + 8 ≤ w) :
    (BitVec.ofNat w v).extractLsb' (8 * i) 8 = BitVec.ofNat 8 (v / 256 ^ i) := by
  apply BitVec.eq_of_getLsbD_eq
  intro j hj
  rw [BitVec.getLsbD_extractLsb', BitVec.getLsbD_ofNat, BitVec.getLsbD_ofNat, show (256 : Nat) = 2 ^ 8 from rfl, ← Nat.pow_mul,
    Nat.testBit_div_two_pow, decide_eq_true hj, decide_eq_true (show 8 * i + j < w by omega)]
  simp only [Bool.true_and]
  rw [Nat.add_comm]

/-! #### The overlay -/

section
variable {x : Ctx} {a n : Nat}

/-- Byte `i` of what a read sees through the transaction: the byte staged for it, else the live one. -/
theorem Ctx.byte_overlay {i : Nat} (v : Nat) (h : i < n) :
    BitVec.ofNat 8 (x.overlay a v n / 256 ^ i) = (x.stagedByte (a + i)).getD (BitVec.ofNat 8 (v / 256 ^ i)) := by
  induction n generalizing a i v with
  | zero => omega
  | succ n ih =>
    cases i with
    | zero =>
      rw [Ctx.overlay, Nat.pow_zero, Nat.div_one, Nat.div_one]
      apply BitVec.eq_of_toNat_eq
      rw [BitVec.toNat_ofNat, Nat.add_mul_mod_self_left]
      exact Nat.mod_eq_of_lt (BitVec.isLt _)
    | succ i =>
      have hdiv : x.overlay a v (n + 1) / 256 ^ (i + 1) = x.overlay (a + 1) (v / 256) n / 256 ^ i := by
        rw [Ctx.overlay, Nat.pow_succ', ← Nat.div_div_eq_div_mul, Nat.add_mul_div_left _ _ (by decide),
          Nat.div_eq_of_lt (BitVec.isLt _), Nat.zero_add]
      rw [hdiv, ih (v / 256) (by omega), show a + 1 + i = a + (i + 1) by omega, Nat.div_div_eq_div_mul, ← Nat.pow_succ']

/-- What a read sees is the number whose bytes it sees. -/
theorem Ctx.overlay_eq {v r : Nat}
    (h : ∀ i, i < n → (x.stagedByte (a + i)).getD (BitVec.ofNat 8 (v / 256 ^ i)) = BitVec.ofNat 8 (r / 256 ^ i)) :
    x.overlay a v n = r % 256 ^ n := by
  induction n generalizing a v r with
  | zero => simp [Ctx.overlay, Nat.mod_one]
  | succ n ih =>
    have hfirst := h 0 (by omega)
    rw [Nat.add_zero, Nat.pow_zero, Nat.div_one, Nat.div_one] at hfirst
    have hrest := ih (a := a + 1) (v := v / 256) (r := r / 256) fun i hi => by
      have := h (i + 1) (by omega)
      rwa [Nat.pow_succ', ← Nat.div_div_eq_div_mul, ← Nat.div_div_eq_div_mul,
        show a + (i + 1) = a + 1 + i by omega] at this
    rw [Ctx.overlay, hfirst, hrest, Nat.pow_succ', Nat.mod_mul, BitVec.toNat_ofNat]

theorem Ctx.stagedByte_none (hr : x.regs = []) (hn : x.nv = []) : x.stagedByte a = none := by
  simp [Ctx.stagedByte, hr, hn]

/-- With no register word staged a byte is that of the journal. -/
theorem Ctx.stagedByte_journal (hr : x.regs = []) :
    x.stagedByte a = (x.nv.reverse.find? fun e => e.1 == a).map (·.2) := by
  simp [Ctx.stagedByte, hr]

/-- The bytes of the only register word staged. -/
theorem Ctx.stagedByte_word {v : Word} {i : Nat} (hr : x.regs = [(a, v)]) (hal : a % 4 = 0) (hi : i < 4) :
    x.stagedByte (a + i) = some (v.extractLsb' (8 * i) 8) := by
  have hword : (a + i) / 4 * 4 = a := by omega
  have hbyte : (a + i) % 4 = i := by omega
  simp [Ctx.stagedByte, hr, hword, hbyte]

theorem Ctx.overlay_live {v : Nat} (hr : x.regs = []) (hn : x.nv = []) : x.overlay a v n = v % 256 ^ n :=
  Ctx.overlay_eq fun i _ => by rw [Ctx.stagedByte_none hr hn]; rfl

theorem Ctx.overlay_word {v : Word} {w : Nat} (hr : x.regs = [(a, v)]) (hal : a % 4 = 0) : x.overlay a w 4 = v.toNat := by
  rw [Ctx.overlay_eq (r := v.toNat) fun i hi => ?_, Nat.mod_eq_of_lt (show v.toNat < 256 ^ 4 from v.isLt)]
  rw [Ctx.stagedByte_word hr hal hi, ← extract_byte (w := 32) v.toNat i (by omega), BitVec.ofNat_toNat, BitVec.setWidth_eq]
  rfl

end

/-! #### Register words -/

section
variable {q : Queue} {f : Insn} {s : State} {b : Chip} {k : Fin 4} {d : Die}
variable (htx : f.tx = true) (hk : b.txnOf q = some k)
include htx hk

theorem Chip.through_staged (a v n : Nat) : b.through q f a v n = (vget b.eng.ctxs k.val).overlay a v n := by
  simp only [Chip.through, htx, hk]

omit htx in
/-- A register word staged where the file holds none. -/
theorem Chip.stageReg_word {a : Nat} {v : DWord} {w : Word} {c : Chip} (ha : a < 0x10000000) (hv : v.setWidth 32 = w)
    (hr : (vget b.eng.ctxs k.val).regs = []) (hw : b.writeReg d (Src.ofQueue q) a w = (St.ok, c)) :
    b.stageReg d q a 4 v.toNat = (St.ok, b.setCtx k { vget b.eng.ctxs k.val with regs := [(a, w)] }) := by
  have hword : BitVec.ofNat 32 v.toNat = w := by rw [← hv]; rfl
  have hstore : b.store d (Src.ofQueue q) a 4 v.toNat = (St.ok, c) := by
    rw [store_register ha, writeRegs_one, hv, hw]
  simp only [Chip.stageReg, hk, hstore, Ctx.stageWord, hr, hword]
  rfl

theorem stBody_staged {c : Chip} (ha : f.tgt.toNat < 0x10000000) (hal : f.tgt.toNat % 4 = 0) (hx : f.ext.getLsbD 0 = false)
    (hr : (vget b.eng.ctxs k.val).regs = [])
    (hw : b.writeReg d (Src.ofQueue q) f.tgt.toNat (f.op.setWidth 32) = (St.ok, c)) :
    stBody q f d b = .done St.ok 0
      (b.setCtx k { vget b.eng.ctxs k.val with regs := [(f.tgt.toNat, f.op.setWidth 32)] }) := by
  simp only [stBody, htx, hx, Bool.false_eq_true, if_false, true_and, if_neg (not_le.2 ha), hal, ne_eq, not_true_eq_false,
    if_true, Chip.stageReg_word hk ha rfl hr hw]

theorem rmwBody_staged {v new : Word} {c : Chip} (ha : f.tgt.toNat < 0x10000000) (hal : f.tgt.toNat % 4 = 0)
    (hr : (vget b.eng.ctxs k.val).regs = []) (hn : (vget b.eng.ctxs k.val).nv = [])
    (hv : b.readReg d (Src.ofQueue q) f.tgt.toNat = some (v, b))
    (hnew : rmwVal (field f.ext 0 2) v (f.op.extractLsb' 0 32) (f.op.extractLsb' 32 32) = new)
    (hw : b.writeReg d (Src.ofQueue q) f.tgt.toNat new = (St.ok, c)) :
    rmwBody q f d b = .done St.ok 0 (b.setCtx k { vget b.eng.ctxs k.val with regs := [(f.tgt.toNat, new)] }) := by
  have hold : BitVec.ofNat 32 (b.through q f f.tgt.toNat v.toNat 4) = v := by
    rw [Chip.through_staged htx hk, Ctx.overlay_live hr hn]
    apply BitVec.eq_of_toNat_eq
    have := v.isLt
    rw [BitVec.toNat_ofNat]; omega
  have hstage : b.stageReg d q f.tgt.toNat 4 new.toNat = _ :=
    Chip.stageReg_word (v := new.setWidth 64) hk ha (by simp) hr hw
  have hwide : (new.setWidth 64).toNat = new.toNat := by
    rw [BitVec.toNat_setWidth]; exact Nat.mod_eq_of_lt (by have := new.isLt; omega)
  simp only [rmwBody, htx, true_and, if_neg (not_le.2 ha), hal, ne_eq, not_true_eq_false, if_false, if_pos ha, hv, hold, hnew,
    if_true, hstage, Bool.or_true]

theorem ldBody_staged {v w : Word} (ha : f.tgt.toNat < 0x10000000) (hal : f.tgt.toNat % 4 = 0)
    (hw : field f.ext 0 2 = 0) (hr : (vget b.eng.ctxs k.val).regs = [(f.tgt.toNat, v)])
    (hread : b.readReg d (b.ldSrc q) f.tgt.toNat = some (w, b)) : ldBody q f d b = .done St.ok (v.setWidth 64) b := by
  have hregion : regionOf f.tgt.toNat ≠ some 4 := by rw [ne_eq, regionOf_user_iff]; omega
  have hl : b.load d (b.ldSrc q) f.tgt.toNat 4 = (St.ok, w.toNat + 2 ^ 32 * 0, b) :=
    load_register ha (by simp only [Chip.readRegs, Nat.reduceDiv, hread])
  have hv : BitVec.ofNat 64 (b.through q f f.tgt.toNat (w.toNat + 2 ^ 32 * 0) 4) = v.setWidth 64 := by
    rw [Chip.through_staged htx hk, Ctx.overlay_word hr hal]; simp
  simp [ldBody, hw, hal, b.covered_elsewhere q f _ hregion, hl, show failed St.ok = false from rfl]
  simpa using hv

end

/-! #### Store words -/

section
variable {q : Queue} {f : Insn} {s : State} {b : Chip} {k : Fin 4} {d : Die}

/-- What an NV.RD sees of its eight bytes: the journal's where it holds them, the live ones elsewhere. -/
theorem nvRdBody_staged (htx : f.tx = true) (hk : b.txnOf q = some k) (hal : f.tgt.toNat % 8 = 0)
    (hlo : 0x30000000 ≤ f.tgt.toNat) (hhi : f.tgt.toNat + 8 ≤ 0x30040000) (hr : (vget b.eng.ctxs k.val).regs = [])
    (hmay : b.mayRead (Src.ofQueue q) = true) (hecc : b.eccAt f.tgt.toNat = 0) :
    ∃ v, nvRdBody q f d b = .done St.ok v b ∧ ∀ i, i < 8 → v.extractLsb' (8 * i) 8
      = (((vget b.eng.ctxs k.val).nv.reverse.find? fun w => w.1 == f.tgt.toNat + i).map (·.2)).getD
          (memRead 0 b.mem (f.tgt.toNat + i)) := by
  have hregion : regionOf f.tgt.toNat = some 4 := regionOf_user_iff.2 ⟨hlo, by omega⟩
  have hl : b.load d (Src.ofQueue q) f.tgt.toNat 8 = (St.ok, memNat 0 b.mem f.tgt.toNat 8, b) := by
    refine load_good (by omega) ?_ (by rw [hregion]; decide) (fun _ => hmay) hecc
    unfold loadRange
    rw [if_neg (by omega), if_neg (by omega), if_neg (by omega), hregion]
    rfl
  obtain ⟨v, hv⟩ : ∃ v, v = if b.covered q f f.tgt.toNat 8 then 0 else memNat 0 b.mem f.tgt.toNat 8 := ⟨_, rfl⟩
  have hread : (if b.covered q f f.tgt.toNat 8 then (St.ok, 0, b) else b.load d (Src.ofQueue q) f.tgt.toNat 8)
      = (St.ok, v, b) := by rw [hl, hv]; split <;> rfl
  refine ⟨BitVec.ofNat 64 ((vget b.eng.ctxs k.val).overlay f.tgt.toNat v 8), ?_, fun i hi => ?_⟩
  · simp only [nvRdBody, hal, ne_eq, not_true_eq_false, if_false, inUser, decide_eq_true (And.intro hlo hhi), Bool.not_true,
      Bool.false_eq_true, hread, Chip.through_staged htx hk]
    rfl
  · rw [extract_byte _ i (by omega), Ctx.byte_overlay v hi, Ctx.stagedByte_journal hr]
    cases hcover : b.covered q f f.tgt.toNat 8
    · rw [hv, hcover, if_neg Bool.false_ne_true, byte_memNat 0 b.mem f.tgt.toNat hi]
    · have hstaged : ((vget b.eng.ctxs k.val).stagedByte (f.tgt.toNat + i)).isSome = true := by
        simp only [Chip.covered, htx, hk, Ctx.covers, Bool.and_eq_true, List.all_eq_true, List.mem_range] at hcover
        exact hcover.1.1 i hi
      rw [Ctx.stagedByte_journal hr] at hstaged
      obtain ⟨y, hy⟩ := Option.isSome_iff_exists.1 hstaged
      rw [hy]
      rfl

end

/-! #### Counters -/

section
variable {q : Queue} {f : Insn} {s : State} {b : Chip} {k : Fin 4} {d : Die}

/-- A value written in all copies of a counter is its majority; other counters stay. -/
theorem Chip.ctrVal_setCtr (c : Chip) (n j : Nat) (v : BitVec 48) :
    (c.setCtr n v).ctrVal j = if n % 64 = j % 64 then v else c.ctrVal j := by
  have hcopy : ∀ i, i < 3 → vget (vget (c.setCtr n v).nvs.ctrs i) j
      = if n % 64 = j % 64 then v else vget (vget c.nvs.ctrs i) j := fun i hi => by
    show vget (vget (vmapi (fun _ x => vset x n v) c.nvs.ctrs) i) j = _
    rw [vget_vmapi _ _ hi, vget_vset]
  simp only [Chip.ctrVal, hcopy 0 (by decide), hcopy 1 (by decide), hcopy 2 (by decide)]
  split
  · simp only [BitVec.and_self, BitVec.or_self]
  · rfl

theorem Chip.ctrVal_mod (c : Chip) {n j : Nat} (h : n % 64 = j % 64) : c.ctrVal n = c.ctrVal j := by
  simp only [Chip.ctrVal, vget_eq_of_mod _ h]

/-- A read of a counter repairs its copies and changes no counter's value. -/
theorem Chip.readCtr_ctrVal (c : Chip) (n j : Nat) : (c.readCtr n).2.ctrVal j = c.ctrVal j := by
  have hset : (c.setCtr n (c.ctrVal n)).ctrVal j = c.ctrVal j := by
    rw [Chip.ctrVal_setCtr]
    split
    · exact c.ctrVal_mod (by assumption)
    · rfl
  unfold Chip.readCtr
  dsimp only
  split
  · rfl
  · exact hset

theorem ctrRdBody_staged (htx : f.tx = true) (hk : b.txnOf q = some k) :
    ctrRdBody q f d b = .done St.ok
      ((b.ctrVal (field f.tgt 0 6) + (vget b.eng.ctxs k.val).staged (field f.tgt 0 6)).setWidth 64)
      (b.readCtr (field f.tgt 0 6)).2 := by
  have hread := b.readCtr_keeps (field f.tgt 0 6)
  have htxn : (b.readCtr (field f.tgt 0 6)).2.txnOf q = some k :=
    (congrArg QState.txn (Chip.queue_congr (hread .queues (by decide)) q)).trans hk
  have hctxs : (b.readCtr (field f.tgt 0 6)).2.eng.ctxs = b.eng.ctxs := hread .ctxs (by decide)
  rw [← hctxs]
  unfold ctrRdBody
  dsimp only
  rw [htx, htxn]
  rfl

theorem ctrIncBody_staged (htx : f.tx = true) (hk : b.txnOf q = some k) (hc : (vget b.eng.ctxs k.val).ctrs = []) :
    ctrIncBody q f d b = .done St.ok 0
      (b.setCtx k { vget b.eng.ctxs k.val with ctrs := [(field f.tgt 0 6, f.op.setWidth 48)] }) := by
  have hstage : (vget b.eng.ctxs k.val).stageCtr (field f.tgt 0 6) (f.op.setWidth 48)
      = { vget b.eng.ctxs k.val with ctrs := [(field f.tgt 0 6, f.op.setWidth 48)] } := by
    simp [Ctx.stageCtr, hc]
  simp only [ctrIncBody, htx, hk, ← hstage]
  rfl

end

end Sys2Proof.Machine
end

section
namespace Sys2Proof.Machine

/-! ### The journal of a transaction (R205, Table IMD-7) -/

section
variable {x : Ctx} {j : List (Nat × Byte)} {a : Nat} {bs : List Byte}

/-- The entries of bytes laid at an address. -/
def journalAt (a : Nat) (bs : List Byte) : List (Nat × Byte) := bs.mapIdx fun i y => (a + i, y)

theorem journalPut_fresh (h : ∀ e ∈ j, ¬ (a ≤ e.1 ∧ e.1 < a + bs.length)) : journalPut j a bs = j ++ journalAt a bs := by
  have hall : j.filter (fun e => !(a ≤ e.1 && e.1 < a + bs.length)) = j :=
    List.filter_eq_self.2 fun e he => by
      have := h e he
      simp only [Bool.not_eq_true', Bool.and_eq_false_iff, decide_eq_false_iff_not]
      omega
  rw [journalPut, hall, journalAt]

theorem journalAt_range {e : Nat × Byte} (h : e ∈ journalAt a bs) : a ≤ e.1 ∧ e.1 < a + bs.length := by
  obtain ⟨i, hi, rfl⟩ := List.mem_mapIdx.1 h
  exact ⟨by simp, by simpa using hi⟩

theorem natBytes_getElem (v n : Nat) : ∀ i (h : i < (natBytes v n).length), (natBytes v n)[i] = BitVec.ofNat 8 (v / 256 ^ i) := by
  induction n generalizing v with
  | zero => exact fun i h => absurd h (Nat.not_lt_zero i)
  | succ n ih =>
    intro i h
    cases i with
    | zero => simp [natBytes]
    | succ i => simp only [natBytes, List.getElem_cons_succ, ih, Nat.div_div_eq_div_mul, ← Nat.pow_succ']

/-- A journal that stays in one page of the store stays within the sixteen pages of Table IMD-7. -/
theorem Ctx.pages_one {p : Nat} (h : ∀ e ∈ x.nv, e.1 / 256 = p) : ¬ 16 < x.pages.length := by
  have hsub : x.pages ⊆ [p - 0x30000000 / 256] := fun n hn => by
    obtain ⟨e, he, rfl⟩ := List.mem_map.1 (List.mem_dedup.1 hn)
    have := h e he
    simp only [List.mem_singleton]
    omega
  have := (List.subperm_of_subset (List.nodup_dedup _) hsub).length_le
  simp only [List.length_singleton] at this
  exact not_lt.2 (this.trans (by decide))

end

section
variable {c : Chip} {k : Fin 4} {x : Ctx}

theorem Chip.setCtx_self (c : Chip) (k : Fin 4) : c.setCtx k (vget c.eng.ctxs k.val) = c := by
  have hself : vmod c.eng.ctxs k.val (fun _ => vget c.eng.ctxs k.val) = c.eng.ctxs := vget_ext fun j _ => by
    rw [vget_vmod]
    split
    · exact vget_eq_of_mod _ (by assumption)
    · rfl
  unfold Chip.setCtx Chip.modCtx
  rw [hself]

/-- Bytes staged that no entry of the journal covers, in the journal's page. -/
theorem Chip.stageNv_fresh {p a : Nat} {bs : List Byte} {full : Bool} (hx : vget c.eng.ctxs k.val = x)
    (hfresh : ∀ e ∈ x.nv, ¬ (a ≤ e.1 ∧ e.1 < a + bs.length)) (hfull : full = true → a ∉ x.nvFull)
    (hold : ∀ e ∈ x.nv, e.1 / 256 = p) (hnew : ∀ i, i < bs.length → (a + i) / 256 = p) :
    c.stageNv k a bs full = some (c.setCtx k
      { x with nv := x.nv ++ journalAt a bs, nvFull := if full then x.nvFull ++ [a] else x.nvFull }) := by
  have hcontains : (full && !x.nvFull.contains a) = full := by
    cases full
    · rfl
    · simpa using hfull rfl
  unfold Chip.stageNv
  simp only [hx, journalPut_fresh hfresh, hcontains]
  refine if_neg (Ctx.pages_one (p := p) fun e he => ?_)
  rcases List.mem_append.1 he with he | he
  · exact hold e he
  · obtain ⟨hlo, hhi⟩ := journalAt_range he
    have := hnew (e.1 - a) (by omega)
    rwa [show a + (e.1 - a) = e.1 by omega] at this

/-- The journal of whole words. -/
def wordJournal (l : List (Nat × QWord)) : List (Nat × Byte) := l.flatMap fun e => journalAt e.1 (natBytes e.2.toNat 16)

/-- Whole words of one page staged one after another, none of them staged before. -/
theorem Chip.stageNv_words {p : Nat} : ∀ (l : List (Nat × QWord)) (c : Chip) (x : Ctx), vget c.eng.ctxs k.val = x →
    (∀ e ∈ x.nv, e.1 / 16 * 16 ∈ x.nvFull ∧ e.1 / 256 = p) → (x.nvFull ++ l.map Prod.fst).Nodup →
    (∀ e ∈ l, e.1 % 16 = 0 ∧ e.1 / 256 = p) →
    l.foldl (fun (o : Option Chip) e => o.bind fun c => c.stageNv k e.1 (natBytes e.2.toNat 16) true) (some c)
      = some (c.setCtx k { x with nv := x.nv ++ wordJournal l, nvFull := x.nvFull ++ l.map Prod.fst }) := by
  intro l
  induction l with
  | nil =>
    intro c x hx _ _ _
    simp only [List.foldl_nil, List.map_nil, List.append_nil, wordJournal, List.flatMap_nil, ← hx]
    exact congrArg some (c.setCtx_self k).symm
  | cons e l ih =>
    intro c x hx hj hnodup hl
    obtain ⟨hal, hpage⟩ := hl e (List.mem_cons_self ..)
    have hlen := natBytes_length e.2.toNat 16
    rw [List.map_cons, List.append_cons] at hnodup
    have hfresh : e.1 ∉ x.nvFull := fun h => by
      have := (List.nodup_append.1 (hnodup.of_append_left)).2.2 _ h _ (List.mem_singleton_self _)
      exact this rfl
    rw [List.foldl_cons, Option.bind_some, Chip.stageNv_fresh (p := p) hx ?apart (fun _ => hfresh) (fun y hy => (hj y hy).2) ?page,
      if_pos rfl, ih _ _ (c.setCtx_same k _) ?journal (by simpa using hnodup) fun y hy => hl y (List.mem_cons_of_mem _ hy),
      Chip.setCtx_setCtx]
    · simp [wordJournal]
    case apart =>
      intro y hy hin
      have := (hj y hy).1
      rw [show y.1 / 16 * 16 = e.1 by omega] at this
      exact hfresh this
    case page => exact fun i hi => by omega
    case journal =>
      intro y hy
      rcases List.mem_append.1 hy with hy | hy
      · exact ⟨List.mem_append_left _ (hj y hy).1, (hj y hy).2⟩
      · obtain ⟨hlo, hhi⟩ := journalAt_range hy
        rw [show y.1 / 16 * 16 = e.1 by omega]
        exact ⟨List.mem_append_right _ (List.mem_singleton_self _), by omega⟩

end

/-! #### NV.WR -/

section
variable {q : Queue} {f : Insn} {b : Chip} {k : Fin 4} {d : Die}

theorem nvWrImm_staged (htx : f.tx = true) (hk : b.txnOf q = some k) (himm : f.ext.getLsbD 7 = true)
    (hal : f.tgt.toNat % 8 = 0) (hlo : 0x30000000 ≤ f.tgt.toNat) (hhi : f.tgt.toNat + 8 ≤ 0x30040000)
    (hmay : b.mayWrite (Src.ofQueue q) f.tgt.toNat = true) (hecc : b.eccAt f.tgt.toNat < 2)
    (hn : (vget b.eng.ctxs k.val).nv = []) :
    nvWrBody q f d b = .done St.ok 0 (b.setCtx k { vget b.eng.ctxs k.val with
      nv := (List.range 8).map fun i => (f.tgt.toNat + i, f.op.extractLsb' (8 * i) 8) }) := by
  have hjournal : journalAt f.tgt.toNat (natBytes f.op.toNat 8)
      = (List.range 8).map fun i => (f.tgt.toNat + i, f.op.extractLsb' (8 * i) 8) := by
    refine List.ext_getElem (by simp [journalAt, natBytes_length]) fun i _ hi => ?_
    simp only [List.length_map, List.length_range] at hi
    have hbyte := extract_byte (w := 64) f.op.toNat i (by omega)
    rw [BitVec.ofNat_toNat, BitVec.setWidth_eq] at hbyte
    simp only [journalAt, List.getElem_mapIdx, List.getElem_map, List.getElem_range, natBytes_getElem, hbyte]
  have hnil : ∀ {P : Nat × Byte → Prop}, ∀ e ∈ (vget b.eng.ctxs k.val).nv, P e := fun e he => by rw [hn] at he; cases he
  have hstage := Chip.stageNv_fresh (k := k) (a := f.tgt.toNat) (bs := natBytes f.op.toNat 8) (full := false)
    (p := f.tgt.toNat / 256) rfl hnil (fun h => by cases h) hnil fun i hi => by rw [natBytes_length] at hi; omega
  rw [hjournal, hn, List.nil_append, if_neg Bool.false_ne_true] at hstage
  rw [nvWrBody, if_pos himm]
  simp only [nvWrImm, hal, ne_eq, not_true_eq_false, if_false, inUser, decide_eq_true (And.intro hlo hhi), Bool.not_true,
    Bool.false_eq_true, hmay, htx, hk, if_neg (not_le.2 hecc), hstage]

/-- A word that may be a destination loads as it stands where its check bits are good. -/
theorem load_destination {c : Chip} {x : Src} {a n i : Nat} (h : destCheck q a n = none) (hi : i < n)
    (hecc : c.eccAt (a + 16 * i) = 0) :
    c.load d x (a + 16 * i) 16 = (St.ok, (c.getWord (a + 16 * i)).toNat, c) := by
  obtain ⟨hal, hin⟩ := destCheck_none h
  have hword : (c.getWord (a + 16 * i)).toNat = memNat 0 c.mem (a + 16 * i) 16 := by
    rw [Chip.getWord, show (a + 16 * i) / 16 * 16 = a + 16 * i by omega, BitVec.toNat_ofNat]
    exact Nat.mod_eq_of_lt (memNat_lt 0 c.mem _ 16)
  have hregion : regionOf (a + 16 * i) = some 1 ∨ regionOf (a + 16 * i) = some 8 ∨ regionOf (a + 16 * i) = some 9 := by
    unfold regionOf
    rcases hin with hin | hin | hin
    · exact .inl (by rw [if_neg (by omega), if_pos (by omega)])
    · refine .inr (.inl ?_)
      iterate 8 rw [if_neg (by omega)]
      rw [if_pos (by omega)]
    · refine .inr (.inr ?_)
      iterate 9 rw [if_neg (by omega)]
      rw [if_pos (by omega)]
  have hrange : loadRange (a + 16 * i) = none := by
    unfold loadRange
    rw [if_neg (by omega), if_neg (by omega), if_neg (by omega)]
    rcases hregion with hr | hr | hr <;> rw [hr] <;> rfl
  rw [hword]
  refine load_good (by omega) hrange ?_ (fun h4 => ?_) hecc
  · rcases hregion with hr | hr | hr <;> rw [hr] <;> decide
  · rcases hregion with hr | hr | hr <;> rw [hr] at h4 <;> exact absurd h4 (by decide)

theorem burstAddr_nodup {a m : Nat} (hm : m ≤ 16) : ((List.range m).map (burstAddr a)).Nodup := by
  refine List.Nodup.map_on (fun i hi j hj h => ?_) List.nodup_range
  rw [List.mem_range] at hi hj
  unfold burstAddr at h
  omega

/-- The words of a burst, each with its address. -/
def Chip.burst (c : Chip) (a src m : Nat) : List (Nat × QWord) :=
  (List.range m).map fun i => (burstAddr a i, c.getWord (src + 16 * i))

theorem Chip.burst_addrs (c : Chip) (a src m : Nat) : (c.burst a src m).map Prod.fst = (List.range m).map (burstAddr a) := by
  rw [Chip.burst, List.map_map]
  rfl

theorem wordJournal_length (l : List (Nat × QWord)) : (wordJournal l).length = 16 * l.length := by
  induction l with
  | nil => rfl
  | cons e l ih =>
    have hword : (journalAt e.1 (natBytes e.2.toNat 16)).length = 16 := by rw [journalAt, List.length_mapIdx, natBytes_length]
    rw [wordJournal, List.flatMap_cons, List.length_append, hword, ← wordJournal, ih, List.length_cons]
    omega

/-- Every byte of every word of a burst is in its journal. -/
theorem mem_wordJournal_burst (c : Chip) {a src m i j : Nat} (hal : src % 16 = 0) (hi : i < m) (hj : j < 16) :
    (burstAddr a i + j, memRead 0 c.mem (src + 16 * i + j)) ∈ wordJournal (c.burst a src m) := by
  refine List.mem_flatMap.2 ⟨_, List.mem_map.2 ⟨i, List.mem_range.2 hi, rfl⟩, ?_⟩
  rw [Chip.natBytes_getWord c (by omega), journalAt, List.mem_mapIdx]
  exact ⟨j, by simpa [memBytes] using hj, by simp [memBytes]⟩

theorem nvWrBurst_staged {src m : Nat} (htx : f.tx = true) (hk : b.txnOf q = some k) (himm : f.ext.getLsbD 7 = false)
    (hal : f.tgt.toNat % 16 = 0) (hlo : 0x30000000 ≤ f.tgt.toNat) (hhi : f.tgt.toNat + 16 ≤ 0x30040000)
    (hsrc : field f.op 0 32 = src) (hsal : src % 16 = 0) (hm : field f.ext 0 5 = m) (h1 : 1 ≤ m) (h16 : m ≤ 16)
    (hdest : destCheck q src m = none) (hmay : b.mayWrite (Src.ofQueue q) f.tgt.toNat = true)
    (hecc : ∀ i, i < m → b.eccAt (src + 16 * i) = 0) (hn : (vget b.eng.ctxs k.val).nv = [])
    (hfull : (vget b.eng.ctxs k.val).nvFull = []) :
    nvWrBody q f d b = .done St.ok 0 (b.setCtx k { vget b.eng.ctxs k.val with
      nv := wordJournal (b.burst f.tgt.toNat src m), nvFull := (List.range m).map (burstAddr f.tgt.toNat) }) := by
  have hload := loadWords_of_load (c := b) (d := d) (x := Src.ofQueue q) fun i hi => load_destination hdest hi (hecc i hi)
  have hwords : (((List.range m).map fun i => b.getWord (src + 16 * i)).mapIdx fun i w => (burstAddr f.tgt.toNat i, w))
      = b.burst f.tgt.toNat src m := by
    refine List.ext_getElem (by simp [Chip.burst]) fun i _ _ => ?_
    simp [Chip.burst]
  have hstage := Chip.stageNv_words (k := k) (p := f.tgt.toNat / 256) (b.burst f.tgt.toNat src m) b _ rfl
    (fun e he => by rw [hn] at he; cases he) (by rw [hfull, List.nil_append, Chip.burst_addrs]; exact burstAddr_nodup h16)
    fun e he => by
      obtain ⟨i, hi, rfl⟩ := List.mem_map.1 he
      unfold burstAddr
      dsimp only
      omega
  rw [hn, hfull, List.nil_append, List.nil_append, Chip.burst_addrs] at hstage
  rw [nvWrBody, if_neg (by rw [himm]; exact Bool.false_ne_true)]
  unfold nvWrBurst
  simp only [hsrc, hm, hal, hsal, inUser, decide_eq_true (And.intro hlo hhi), Bool.not_true, ne_eq, not_true_eq_false,
    or_self, if_false, Bool.false_eq_true, or_false, hdest, hmay, hload, htx, hk, hwords, hstage]
  rw [if_neg (by omega), if_neg (by decide)]

end

end Sys2Proof.Machine
end

section
namespace Sys2Proof.Machine

/-! ### Staged requests to pins (Table IMD-7) -/

section
variable {o : OpInfo} {body : Body} {q : Queue} {f : Insn} {s : State} {b : Chip} {k : Fin 4}

/-- An instruction that stages a request: its transaction takes it, and a full list is BUSY. -/
theorem insn_stagesEdge {pin : Nat} {code : BitVec 8} (h : s.chip.issuesAs o q f b)
    (hb : body q f s.die b = b.stageEdge k pin code f) :
    ((vget b.eng.ctxs k.val).edges.length < 32 → ∃ t e, insn o body q f s = .next t ∧ Completes q f St.ok 0 b.lt s e t ∧
      b.keeps [.ctxs] e ∧ vget e.eng.ctxs k.val
        = { vget b.eng.ctxs k.val with edges := (vget b.eng.ctxs k.val).edges ++ [⟨pin, code, f⟩] }) ∧
    (32 ≤ (vget b.eng.ctxs k.val).edges.length →
      ∃ t, insn o body q f s = .next t ∧ Completes q f St.busy 0 b.lt s b t) := by
  unfold Chip.stageEdge at hb
  refine ⟨fun hroom => ?_, fun hfull => ?_⟩
  · rw [if_neg (not_le.2 hroom)] at hb
    exact insn_stages h hb
  · rw [if_pos hfull] at hb
    exact insn_refused h hb

theorem edgeBody_staged {code : BitVec 8} {d : Die} (htx : f.tx = true) (hk : b.txnOf q = some k)
    (hr : edgeRange b code f = true) : edgeBody code q f d b = b.stageEdge k (field f.tgt 0 8) code f := by
  simp only [edgeBody, hr, htx, hk, Bool.not_true, Bool.false_eq_true, if_false]

theorem pinSafeBody_staged {d : Die} (htx : f.tx = true) (hk : b.txnOf q = some k) (hpin : field f.tgt 0 4 < 12)
    (hm : field f.op 0 16 ≠ 0) : pinSafeBody q f d b = b.stageEdge k (field f.tgt 0 4) 0x33 f := by
  unfold pinSafeBody
  simp only [if_neg (show ¬ (11 < field f.tgt 0 4 ∨ field f.op 0 16 = 0) by omega), htx, hk]

end

end Sys2Proof.Machine
end

section
namespace Sys2Proof.Machine

/-! ### Staged cam operations (R167, Table IMD-7) -/

section
variable {c : Chip} {k : Fin 4} {n kind : Nat} {v : Word}

/-- A cam operation staged on a cam that no context claims: the cam is claimed with its generation. -/
structure Chip.StagesCam (b e : Chip) (k : Fin 4) (n : Nat) (ops : List CamStage) : Prop where
  keeps : b.keeps [.ctxs, .cams] e
  claimed : vget e.cams n = { vget b.cams n with claim := some k }
  others : ∀ j, j < 32 → j ≠ n → vget e.cams j = vget b.cams j
  ops : (vget e.eng.ctxs k.val).cams = ops
  claims : (n, (vget b.cams n).gen) ∈ (vget e.eng.ctxs k.val).cclaims

theorem Chip.stageCam_stages (hn : n < 32) (hc : (vget c.cams n).claim = none)
    (hnew : kind = 0 → (⟨n, 0, v⟩ : CamStage) ∉ (vget c.eng.ctxs k.val).cams) :
    c.StagesCam (c.stageCam k n kind v) k n ((vget c.eng.ctxs k.val).cams ++ [⟨n, kind, v⟩]) := by
  have hclaim : c.claimCam k n = (c.modCam n fun m => { m with claim := some k }).modCtx k.val fun x =>
      { x with cclaims := x.cclaims ++ [(n, (vget c.cams n).gen)] } := by
    rw [Chip.claimCam, hc, if_neg (by simp)]
  have hops : (vget (c.claimCam k n).eng.ctxs k.val).cams = (vget c.eng.ctxs k.val).cams := by
    rw [hclaim, Chip.modCtx_same]
    rfl
  refine ⟨?_, ?_, fun j hj hne => ?_, ?_, ?_⟩
  · rw [Chip.stageCam, hclaim]
    exact ((c.modCam_keeps n _).mono (by decide)).trans
      (((Chip.modCtx_keeps _ _ _).trans (Chip.modCtx_keeps _ _ _)).mono (by decide))
  · rw [Chip.stageCam, hclaim]
    exact c.modCam_same n _
  · rw [Chip.stageCam, hclaim]
    exact c.modCam_other _ hn hj hne
  · rw [Chip.stageCam, Chip.modCtx_same, hops, if_neg (by simpa using hnew)]
  · rw [Chip.stageCam, hclaim, Chip.modCtx_same, Chip.modCtx_same]
    exact List.mem_append_right _ (List.mem_singleton_self _)

end

section
variable {o : OpInfo} {body : Body} {q : Queue} {f : Insn} {s : State} {b e : Chip} {k : Fin 4} {d : Die}

theorem insn_stagesCam {n : Nat} {ops : List CamStage} (h : s.chip.issuesAs o q f b)
    (hb : body q f s.die b = .done St.ok 0 e) (he : b.StagesCam e k n ops) :
    ∃ t e, insn o body q f s = .next t ∧ Completes q f St.ok 0 b.lt s e t ∧ b.StagesCam e k n ops :=
  have ⟨t, hex, hdone⟩ := insn_done h hb (Chip.noRecord_of_keeps he.keeps (by decide))
  ⟨t, e, hex, hdone, he⟩

theorem Chip.stageCam_load {n : Nat} {tab : List Bp} (hn : n < 32) (hc : (vget b.cams n).claim = none)
    (hops : (vget b.eng.ctxs k.val).cams = []) :
    let e := (b.modCam n fun c => { c with shadow := tab, shadowOk := true }).stageCam k n 0 0
    b.keeps [.ctxs, .cams] e ∧ vget e.cams n = { vget b.cams n with shadow := tab, shadowOk := true, claim := some k } ∧
      (∀ j, j < 32 → j ≠ n → vget e.cams j = vget b.cams j) ∧ (vget e.eng.ctxs k.val).cams = [⟨n, 0, 0⟩] := by
  obtain ⟨d, hd⟩ : ∃ d, d = b.modCam n fun c => { c with shadow := tab, shadowOk := true } := ⟨_, rfl⟩
  have hcam : vget d.cams n = { vget b.cams n with shadow := tab, shadowOk := true } := hd ▸ b.modCam_same n _
  have hnone : (vget d.eng.ctxs k.val).cams = [] := by rw [hd]; exact hops
  have hs := Chip.stageCam_stages (c := d) (k := k) (kind := 0) (v := 0) hn (by rw [hcam]; exact hc)
    fun _ => by rw [hnone]; exact List.not_mem_nil
  rw [← hd]
  refine ⟨?_, ?_, fun j hj hne => ?_, ?_⟩
  · exact ((hd ▸ b.modCam_keeps n _ : b.keeps [.cams] d).mono (by decide)).trans hs.keeps
  · rw [hs.claimed, hcam]
  · rw [hs.others j hj hne, hd, b.modCam_other _ hn hj hne]
  · rw [hs.ops, hnone, List.nil_append]

variable (htx : f.tx = true) (hk : b.txnOf q = some k) (hc : (vget b.cams (field f.tgt 0 5)).claim = none)
include htx hk hc

theorem camNudgeBody_staged :
    camNudgeBody q f d b = .done St.ok 0 (b.stageCam k (field f.tgt 0 5) 3 (f.op.setWidth 32)) := by
  simp only [camNudgeBody, hc, Chip.barred_none, Bool.false_eq_true, if_false, htx, hk]

theorem camArmBody_staged (ht : (vget b.cams (field f.tgt 0 5)).tabOk = true) :
    camArmBody q f d b = .done St.ok 0 (b.stageCam k (field f.tgt 0 5) 1 0) := by
  simp only [camArmBody, ht, hc, Chip.barred_none, Bool.not_true, Bool.false_and, Bool.false_eq_true, if_false, htx, hk]

theorem camDisarmBody_staged : camDisarmBody q f d b = .done St.ok 0 (b.stageCam k (field f.tgt 0 5) 2 0) := by
  simp only [camDisarmBody, hc, Chip.barred_none, Bool.false_eq_true, if_false, htx, hk]

/-- A CAM.LOAD stages its table and its operation, with no stage set and no staged stream to cancel. -/
theorem camLoadBody_staged {a count : Nat} {tab : List Bp} (ha : field f.op 0 32 = a) (hn : field f.op 32 13 = count)
    (hal : a % 16 = 0) (h1 : 1 ≤ count) (hmax : count ≤ 4096) (hlo : 0x10000000 ≤ a) (hhi : a + 16 * count ≤ 0x10100000)
    (hecc : ∀ i, i < count → b.eccAt (a + 16 * i) = 0)
    (hroom : count ≤ b.tabFree + (vget b.cams (field f.tgt 0 5)).shadow.length) (hset : b.scr.stg = none)
    (hstream : b.prs.staged = none) (htab : tableOf ((List.range count).map fun i => b.getWord (a + 16 * i)) = some tab) :
    camLoadBody q f d b = .done St.ok 0
      ((b.modCam (field f.tgt 0 5) fun c => { c with shadow := tab, shadowOk := true }).stageCam k (field f.tgt 0 5) 0 0) := by
  have hload := loadWords_of_load (c := b) (d := d) (x := Src.ofQueue q) fun i hi =>
    load_profile (by omega) (by omega) (by omega) (hecc i hi)
  have htouch : b.touchStageCam (field f.tgt 0 5) = b := by rw [Chip.touchStageCam, hset]
  have hdrop : b.dropStaged = b := by rw [Chip.dropStaged, hstream]
  unfold camLoadBody
  simp only [ha, hn, hal, ne_eq, not_true_eq_false, if_false, htx, hk, hc, Chip.barred_none, Bool.not_true, Bool.false_and,
    Bool.or_false, Bool.false_or, if_true, hload, htab, htouch, hdrop]
  rw [if_neg (by omega), if_neg (by simpa using hroom), if_neg (by decide)]

end

end Sys2Proof.Machine
end

section
namespace Sys2Proof.Machine

/-! ### Staged frond operations (R165 to R167, Table IMD-7) -/

/-- The list of staged frond operations with one more: the last state staged for a frond is the one it enters. -/
def stageOp (kind : Nat) (l : List FrondStage) (n : Nat) : List FrondStage :=
  if 0 < kind ∧ kind < 4 then (l.filter fun s => s.frond != n || s.kind = 0 || s.kind = 4) ++ [⟨n, kind⟩]
  else if l.contains ⟨n, kind⟩ then l else l ++ [⟨n, kind⟩]

/-- Fronds claimed for a context that none claimed, each with its generation, and operations staged. -/
structure Chip.StagesFronds (b e : Chip) (k : Fin 4) (ns : List Nat) (ops : List FrondStage) : Prop where
  keeps : b.keeps [.ctxs, .fronds] e
  fronds : ∀ j, j < 32 → vget e.fronds j
    = { vget b.fronds j with claim := if j ∈ ns then some k else (vget b.fronds j).claim }
  regs : (vget e.eng.ctxs k.val).regs = (vget b.eng.ctxs k.val).regs
  cams : (vget e.eng.ctxs k.val).cams = (vget b.eng.ctxs k.val).cams
  ops : (vget e.eng.ctxs k.val).fronds = ops
  claims : ∀ j g, (j, g) ∈ (vget e.eng.ctxs k.val).fclaims ↔
    (j, g) ∈ (vget b.eng.ctxs k.val).fclaims ∨ j ∈ ns ∧ g = (vget b.fronds j).gen

section
variable {b e : Chip} {k : Fin 4} {n kind : Nat} {ns : List Nat} {ops : List FrondStage}

theorem Chip.StagesFronds.refl (b : Chip) (k : Fin 4) : b.StagesFronds b k [] (vget b.eng.ctxs k.val).fronds where
  keeps := Chip.keeps.refl _ _
  fronds _ _ := by simp
  regs := rfl
  cams := rfl
  ops := rfl
  claims _ _ := by simp

/-- One more frond claimed. -/
theorem Chip.StagesFronds.claim (h : b.StagesFronds e k ns ops) (hn : n < 32) (hc : (vget b.fronds n).claim = none) :
    b.StagesFronds (e.claimFrond k n) k (n :: ns) ops := by
  have hfrond := h.fronds n hn
  rw [hc] at hfrond
  unfold Chip.claimFrond
  by_cases hin : n ∈ ns
  · have hmem : ∀ j, j ∈ n :: ns ↔ j ∈ ns := fun j => by
      rw [List.mem_cons]
      exact or_iff_right_of_imp fun hj => hj ▸ hin
    rw [hfrond, if_pos hin, if_pos rfl]
    exact { h with
      fronds := fun j hj => by rw [h.fronds j hj]; simp only [hmem]
      claims := fun j g => by rw [h.claims j g, hmem] }
  · rw [hfrond, if_neg hin, if_neg (by simp)]
    refine ⟨h.keeps.trans (((e.modFrond_keeps n _).mono (by decide)).trans ((Chip.modCtx_keeps _ _ _).mono (by decide))),
      fun j hj => ?_, ?_, ?_, ?_, fun j g => ?_⟩
    · show vget (vmod e.fronds n _) j = _
      rw [vget_vmod, h.fronds j hj]
      by_cases hnj : j = n
      · subst hnj; simp
      · rw [if_neg (by omega)]
        simp only [List.mem_cons, hnj, false_or]
    · rw [Chip.modCtx_same]; exact h.regs
    · rw [Chip.modCtx_same]; exact h.cams
    · rw [Chip.modCtx_same]; exact h.ops
    · have hctx : vget (e.modFrond n fun f => { f with claim := some k }).eng.ctxs k.val = vget e.eng.ctxs k.val := rfl
      rw [Chip.modCtx_same, hctx]
      simp only [List.mem_append, Prod.mk.injEq, h.claims j g, List.mem_cons, List.not_mem_nil, or_false]
      constructor
      · rintro ((h | ⟨h, hg⟩) | ⟨rfl, hg⟩)
        · exact .inl h
        · exact .inr ⟨.inr h, hg⟩
        · exact .inr ⟨.inl rfl, hg⟩
      · rintro (h | ⟨rfl | h, hg⟩)
        · exact .inl (.inl h)
        · exact .inr ⟨rfl, hg⟩
        · exact .inl (.inr ⟨h, hg⟩)

/-- One more operation staged, its frond claimed. -/
theorem Chip.StagesFronds.stage (h : b.StagesFronds e k ns ops) (hn : n < 32) (hc : (vget b.fronds n).claim = none) :
    b.StagesFronds (e.stageFrond k kind n) k (n :: ns) (stageOp kind ops n) := by
  have hclaim := h.claim hn hc
  unfold Chip.stageFrond
  refine ⟨hclaim.keeps.trans ((Chip.modCtx_keeps _ _ _).mono (by decide)), hclaim.fronds, ?_, ?_, ?_, ?_⟩
  · rw [Chip.modCtx_same]; exact hclaim.regs
  · rw [Chip.modCtx_same]; exact hclaim.cams
  · rw [Chip.modCtx_same, ← hclaim.ops]; rfl
  · rw [Chip.modCtx_same]; exact hclaim.claims

theorem Chip.StagesFronds.claims_list : ∀ (l ns : List Nat) (e : Chip), b.StagesFronds e k ns ops →
    (∀ n ∈ l, n < 32 ∧ (vget b.fronds n).claim = none) →
    b.StagesFronds (l.foldl (fun c n => c.claimFrond k n) e) k (l.reverse ++ ns) ops
  | [], _, _, h, _ => h
  | n :: l, ns, e, h, hl => by
    obtain ⟨hn, hc⟩ := hl n (List.mem_cons_self ..)
    rw [List.foldl_cons, List.reverse_cons, List.append_assoc]
    exact claims_list l _ _ (h.claim hn hc) fun j hj => hl j (List.mem_cons_of_mem _ hj)

theorem Chip.StagesFronds.stages_list : ∀ (l ns : List Nat) (ops : List FrondStage) (e : Chip), b.StagesFronds e k ns ops →
    (∀ n ∈ l, n < 32 ∧ (vget b.fronds n).claim = none) →
    b.StagesFronds (l.foldl (fun c n => c.stageFrond k kind n) e) k (l.reverse ++ ns) (l.foldl (stageOp kind) ops)
  | [], _, _, _, h, _ => h
  | n :: l, ns, ops, e, h, hl => by
    obtain ⟨hn, hc⟩ := hl n (List.mem_cons_self ..)
    rw [List.foldl_cons, List.foldl_cons, List.reverse_cons, List.append_assoc]
    exact stages_list l _ _ _ (h.stage hn hc) fun j hj => hl j (List.mem_cons_of_mem _ hj)

end

/-! #### Operations on the fronds of a mask -/

/-- An operation staged for a frond is in the list, and no other of its kind leaves it. -/
theorem mem_stageOp {kind n j : Nat} {l : List FrondStage} :
    ⟨j, kind⟩ ∈ stageOp kind l n ↔ ⟨j, kind⟩ ∈ l ∨ j = n := by
  unfold stageOp
  split
  · simp only [List.mem_append, List.mem_filter, List.mem_singleton, FrondStage.mk.injEq, and_true, bne_iff_ne, ne_eq,
      Bool.or_eq_true, decide_eq_true_eq]
    tauto
  · split
    · have hin : ⟨n, kind⟩ ∈ l := by simpa using ‹l.contains ⟨n, kind⟩ = true›
      exact ⟨.inl, fun h => h.elim id fun hj => hj ▸ hin⟩
    · simp only [List.mem_append, List.mem_singleton, FrondStage.mk.injEq, and_true]

theorem mem_foldl_stageOp {kind j : Nat} (l : List Nat) (ops : List FrondStage) :
    ⟨j, kind⟩ ∈ l.foldl (stageOp kind) ops ↔ ⟨j, kind⟩ ∈ ops ∨ j ∈ l := by
  induction l generalizing ops with
  | nil => simp
  | cons n l ih => rw [List.foldl_cons, ih, mem_stageOp, List.mem_cons, or_assoc]

theorem mem_maskList_iff {m : Word} {j : Nat} : j ∈ maskList m ↔ j < 32 ∧ m.getLsbD j = true := by
  rw [maskList, List.mem_filter, List.mem_range]

section
variable {q : Queue} {f : Insn} {s : State} {b : Chip} {k : Fin 4} {d : Die} {mask : Word}

/-- The operations of a mask of fronds that no context claims. -/
theorem Chip.stageMask_stages {e : Chip} {kind : Nat} {ns : List Nat} {ops : List FrondStage} (h : b.StagesFronds e k ns ops)
    (hc : ∀ j, j < 32 → (vget b.fronds j).claim = none) :
    b.StagesFronds (e.stageMask k kind mask) k ((maskList mask).reverse ++ ns) ((maskList mask).foldl (stageOp kind) ops) :=
  Chip.StagesFronds.stages_list _ _ _ _ h fun n hn => ⟨(mem_maskList_iff.1 hn).1, hc n (mem_maskList_iff.1 hn).1⟩

/-- With no stage set a swap claims its fronds and no cam. -/
theorem Chip.claimSwap_stages (hset : b.scr.stg = none) (hc : ∀ j, j < 32 → (vget b.fronds j).claim = none) :
    b.StagesFronds (b.claimSwap k mask) k ((maskList mask).reverse ++ []) (vget b.eng.ctxs k.val).fronds := by
  have hfronds := Chip.StagesFronds.claims_list (maskList mask) [] b (Chip.StagesFronds.refl b k) fun n hn =>
    ⟨(mem_maskList_iff.1 hn).1, hc n (mem_maskList_iff.1 hn).1⟩
  have hcams : b.stageCams ((vget b.eng.ctxs k.val).swaps ||| mask) = 0 := by rw [Chip.stageCams, hset]
  have hnil : maskList 0 = [] := by decide
  rw [Chip.claimSwap, hcams, hnil]
  exact hfronds

theorem Chip.barredMask_unclaimed (tx : Bool) (hc : ∀ j, j < 32 → (vget b.fronds j).claim = none) :
    b.barredMask q tx mask = false := by
  refine List.any_eq_false.2 fun n hn => ?_
  rw [hc n (mem_maskList_iff.1 hn).1, Chip.barred_none]
  exact Bool.false_ne_true

/-- An instruction that stages an operation on the fronds of a mask, whichever units of it are claimed first. -/
theorem insn_stagesMask {o : OpInfo} {body : Body} {kind : Nat} {e : Chip} {ns : List Nat} (h : s.chip.issuesAs o q f b)
    (hb : body q f s.die b = .done St.ok 0 e)
    (he : b.StagesFronds e k ns ((maskList mask).foldl (stageOp kind) (vget b.eng.ctxs k.val).fronds))
    (hns : ∀ j, j ∈ ns ↔ j ∈ maskList mask) (hops : (vget b.eng.ctxs k.val).fronds = [])
    (hclaims : (vget b.eng.ctxs k.val).fclaims = []) (hc : ∀ j, j < 32 → (vget b.fronds j).claim = none) :
    ∃ t e, insn o body q f s = .next t ∧ Completes q f St.ok 0 b.lt s e t ∧ b.keeps [.ctxs, .fronds] e ∧
      (∀ j, j < 32 → vget e.fronds j = { vget b.fronds j with claim := if mask.getLsbD j then some k else none }) ∧
      (vget e.eng.ctxs k.val).regs = (vget b.eng.ctxs k.val).regs ∧
      (vget e.eng.ctxs k.val).cams = (vget b.eng.ctxs k.val).cams ∧
      ∀ j, (⟨j, kind⟩ ∈ (vget e.eng.ctxs k.val).fronds ↔ j < 32 ∧ mask.getLsbD j = true) ∧
        ((j, (vget b.fronds j).gen) ∈ (vget e.eng.ctxs k.val).fclaims ↔ j < 32 ∧ mask.getLsbD j = true) := by
  obtain ⟨t, hex, hdone⟩ := insn_done h hb (Chip.noRecord_of_keeps he.keeps (by decide))
  refine ⟨t, e, hex, hdone, he.keeps, fun j hj => ?_, he.regs, he.cams, fun j => ⟨?_, ?_⟩⟩
  · rw [he.fronds j hj, hc j hj]
    simp only [hns, mem_maskList_iff, hj, true_and]
  · rw [he.ops, mem_foldl_stageOp, hops, mem_maskList_iff]
    simp
  · rw [he.claims, hclaims, hns, mem_maskList_iff]
    simp

variable (htx : f.tx = true) (hk : b.txnOf q = some k) (hmask : f.op.setWidth 32 ≠ (0 : Word))
  (hc : ∀ j, j < 32 → (vget b.fronds j).claim = none)
include htx hk hmask

include hc in
theorem frondSafeBody_staged : frondSafeBody q f d b
    = .done St.ok 0 (b.stageMask k (if f.ext.getLsbD 0 then 2 else 1) (f.op.setWidth 32)) := by
  simp only [frondSafeBody, if_neg hmask, htx, hk, Chip.barredMask_unclaimed _ hc, Bool.false_eq_true, if_false]

include hc in
theorem frondRunBody_staged (hldr : b.prs.ldr ≠ .loader) (hs : b.suspect (f.op.setWidth 32) = false) :
    frondRunBody q f d b = .done St.ok 0 (b.stageMask k 3 (f.op.setWidth 32)) := by
  have hldr' : (b.prs.ldr == .loader) = false := beq_eq_false_iff_ne.2 hldr
  simp only [frondRunBody, if_neg hmask, htx, hk, hldr', hs, Chip.barredMask_unclaimed _ hc, Bool.false_eq_true, if_false]

theorem planeSwapBody_staged (hcheck : b.swapCheck q true (f.op.setWidth 32) = none) :
    planeSwapBody q f d b = .done St.ok 0 ((b.claimSwap k (f.op.setWidth 32)).stageMask k 4 (f.op.setWidth 32)) := by
  simp only [planeSwapBody, if_neg hmask, htx, hcheck, hk]

end

end Sys2Proof.Machine
end

section
namespace Sys2Proof.Machine

/-! ### Staged edits of a shadow (R195, R303, R325) -/

section
variable {c : Chip} {n off v len : Nat}

/-- What an edit of a shadow ends first: a stage set that names its frond, and a staged stream. -/
theorem Chip.endStages_keeps (c : Chip) (n : Nat) : c.keeps [.prs, .scr, .cams] (c.touchStage n).dropStaged :=
  ((c.touchStage_keeps n).mono (by decide)).trans ((c.touchStage n).dropStaged_keeps.mono (by decide))

theorem Chip.editShadow_keeps (c : Chip) (n : Nat) (base : Bool) (off v len : Nat) :
    c.keeps [.mem, .fronds, .prs, .scr, .cams] (c.editShadow n base off v len) := by
  refine ((c.endStages_keeps n).mono (by decide)).trans fun p hp => ?_
  cases p <;> first | rfl | exact absurd hp (by decide)

/-- An edit that starts from no copy writes its bytes into the shadow. -/
theorem Chip.editShadow_mem (c : Chip) (n off v len : Nat) :
    (c.editShadow n false off v len).mem = memPut 0 c.mem (c.shadowBase n + off) v len := by
  have hfronds : (c.touchStage n).dropStaged.fronds = c.fronds := c.endStages_keeps n .fronds (by decide)
  have hmem : (c.touchStage n).dropStaged.mem = c.mem := c.endStages_keeps n .mem (by decide)
  have hbase : (c.touchStage n).dropStaged.shadowBase n = c.shadowBase n := by
    rw [Chip.shadowBase, hfronds, ← Chip.shadowBase]
  rw [← hmem, ← hbase]
  rfl

/-- The frond of an edited shadow: only what it says about its shadow changes. -/
theorem Chip.editShadow_frond (c : Chip) (n : Nat) (base : Bool) (off v len : Nat) :
    vget (c.editShadow n base off v len).fronds n = { vget c.fronds n with
      shadowOk := (vget c.fronds n).shadowOk || base, ssrc := 3, svar := 0, shadowSig := 0 } := by
  have hfronds : (c.touchStage n).dropStaged.fronds = c.fronds := c.endStages_keeps n .fronds (by decide)
  show vget (vmod (c.touchStage n).dropStaged.fronds n _) n = _
  rw [hfronds, vget_vmod_same]

theorem Chip.editShadow_otherFrond (c : Chip) (base : Bool) (off v len : Nat) {n j : Nat} (hn : n < 32) (hj : j < 32)
    (h : j ≠ n) : vget (c.editShadow n base off v len).fronds j = vget c.fronds j := by
  have hfronds : (c.touchStage n).dropStaged.fronds = c.fronds := c.endStages_keeps n .fronds (by decide)
  show vget (vmod (c.touchStage n).dropStaged.fronds n _) j = _
  rw [hfronds, vget_vmod_other _ _ (by omega)]

end

section
variable {o : OpInfo} {body : Body} {q : Queue} {f : Insn} {s : State} {b : Chip} {k : Fin 4} {n off v len : Nat}

theorem editBody_staged {d : Die} (htx : f.tx = true) (hk : b.txnOf q = some k) (hseal : d.sealed = false)
    (hbusy : (vget b.fronds n).shadowBusy = false) (hc : (vget b.fronds n).claim = none) :
    editBody q f d b n off v len = .done St.ok 0 ((b.stageFrond k 0 n).editShadow n (f.ext.getLsbD 0) off v len) := by
  simp only [editBody, hseal, hbusy, hc, Chip.barred_none, Bool.or_self, Bool.false_eq_true, if_false, htx, hk]

/-- An instruction that stages an edit: the shadow is written, its frond claimed with its generation. -/
theorem insn_stagesEdit (h : s.chip.issuesAs o q f b) (hb : body q f s.die b = editBody q f s.die b n off v len)
    (hn : n < 32) (htx : f.tx = true) (hk : b.txnOf q = some k) (hbase : f.ext.getLsbD 0 = false) (hseal : s.die.sealed = false)
    (hbusy : (vget b.fronds n).shadowBusy = false) (hc : (vget b.fronds n).claim = none)
    (hops : (vget b.eng.ctxs k.val).fronds = []) :
    ∃ t e, insn o body q f s = .next t ∧ Completes q f St.ok 0 b.lt s e t ∧
      b.keeps [.ctxs, .mem, .fronds, .prs, .scr, .cams] e ∧
      memNat 0 e.mem (b.shadowBase n + off) len = v % 2 ^ (8 * len) ∧
      sameOutside 0 b.mem e.mem (b.shadowBase n + off) len ∧
      (vget e.fronds n).claim = some k ∧ (vget e.fronds n).st = (vget b.fronds n).st ∧
      (vget e.fronds n).plane = (vget b.fronds n).plane ∧ (vget e.fronds n).gen = (vget b.fronds n).gen ∧
      (∀ j, j < 32 → j ≠ n → vget e.fronds j = vget b.fronds j) ∧
      (vget e.eng.ctxs k.val).fronds = [⟨n, 0⟩] ∧ (n, (vget b.fronds n).gen) ∈ (vget e.eng.ctxs k.val).fclaims := by
  rw [editBody_staged htx hk hseal hbusy hc, hbase] at hb
  have hs := (Chip.StagesFronds.refl b k).stage (kind := 0) hn hc
  generalize b.stageFrond k 0 n = c at hb hs
  have hedit := c.editShadow_keeps n false off v len
  have hkeeps := (hs.keeps.mono (qs := [.ctxs, .mem, .fronds, .prs, .scr, .cams]) (by decide)).trans (hedit.mono (by decide))
  have hctxs : (c.editShadow n false off v len).eng.ctxs = c.eng.ctxs := hedit .ctxs (by decide)
  have hfrond := hs.fronds n hn
  rw [if_pos (List.mem_singleton_self _)] at hfrond
  have hmem : (c.editShadow n false off v len).mem = memPut 0 b.mem (b.shadowBase n + off) v len := by
    rw [Chip.editShadow_mem, hs.keeps .mem (by decide), Chip.shadowBase, hfrond, Chip.shadowBase]
  obtain ⟨t, hex, hdone⟩ := insn_done h hb (Chip.noRecord_of_keeps hkeeps (by decide))
  refine ⟨t, _, hex, hdone, hkeeps, ?_, fun x hx => ?_, ?_, ?_, ?_, ?_, fun j hj hne => ?_, ?_, ?_⟩
  · rw [hmem, memNat_put, Nat.pow_mul]
  · rw [hmem, memRead_put_other _ _ _ _ hx]
  · rw [Chip.editShadow_frond, hfrond]
  · rw [Chip.editShadow_frond, hfrond]
  · rw [Chip.editShadow_frond, hfrond]
  · rw [Chip.editShadow_frond, hfrond]
  · rw [Chip.editShadow_otherFrond _ _ _ _ _ hn hj hne, hs.fronds j hj, if_neg (by simpa using hne)]
  · rw [hctxs, hs.ops, hops]
    simp [stageOp]
  · rw [hctxs, hs.claims]
    exact .inr ⟨List.mem_singleton_self _, rfl⟩

end

end Sys2Proof.Machine
end

section
namespace Sys2Proof.Machine

/-- Settles O23: each body reaches the entry it stages; the claims and the bytes seen follow from the staging lemmas. -/
theorem stagedInstructionsOnlyStage : Obligations.StagedInstructionsOnlyStage := by
  unfold Obligations.StagedInstructionsOnlyStage
  intro q f s b k htx hk x n
  have hn : n < 32 := field_lt _ _ _
  refine ⟨?ctrInc, ?camNudge, ?camArm, ?edgeSet, ?st, ?rmw, ?ld, ?nvRd, ?ctrRd, ?nvWrImm, ?nvWrBurst, ?edgePulse, ?pinSafe,
    ?camDisarm, ?camLoad, ?edit, ?fronds⟩
  case ctrInc => exact fun h hc => insn_stages h (ctrIncBody_staged htx hk hc)
  case camNudge =>
    intro h hc
    obtain ⟨t, e, hex, hdone, he⟩ := insn_stagesCam h (camNudgeBody_staged htx hk hc)
      (Chip.stageCam_stages hn hc fun h => absurd h (by decide))
    exact ⟨t, e, hex, hdone, he.keeps, he.claimed, he.ops, he.claims⟩
  case camArm =>
    intro h hc ht
    obtain ⟨t, e, hex, hdone, he⟩ := insn_stagesCam h (camArmBody_staged htx hk hc ht)
      (Chip.stageCam_stages hn hc fun h => absurd h (by decide))
    exact ⟨t, e, hex, hdone, he.keeps, he.claimed, he.ops⟩
  case camDisarm =>
    intro h hc
    obtain ⟨t, e, hex, hdone, he⟩ := insn_stagesCam h (camDisarmBody_staged htx hk hc)
      (Chip.stageCam_stages hn hc fun h => absurd h (by decide))
    exact ⟨t, e, hex, hdone, he.keeps, he.claimed, he.ops, he.claims⟩
  case camLoad =>
    intro h a count hal h1 hmax hlo hhi hecc hc hops hroom hset hstream tab htab
    have hb := camLoadBody_staged (d := s.die) htx hk hc rfl rfl hal h1 hmax hlo hhi hecc hroom hset hstream htab
    obtain ⟨hkeeps, hcam, hothers, hload⟩ := Chip.stageCam_load (k := k) (tab := tab) hn hc hops
    obtain ⟨t, hex, hdone⟩ := insn_done h hb (Chip.noRecord_of_keeps hkeeps (by decide))
    exact ⟨t, _, hex, hdone, hkeeps, hcam, hothers, hload⟩
  case edgeSet => exact fun h hr => insn_stagesEdge h (edgeBody_staged htx hk hr)
  case edgePulse => exact fun h hr => insn_stagesEdge h (edgeBody_staged htx hk hr)
  case pinSafe => exact fun h hpin hm => insn_stagesEdge h (pinSafeBody_staged htx hk hpin hm)
  case st => exact fun h ha hal hx hr c hw => insn_stages h (stBody_staged htx hk ha hal hx hr hw)
  case rmw =>
    intro h ha hal hr hnv v c hv new hw
    exact insn_stages h (rmwBody_staged htx hk ha hal hr hnv hv rfl hw)
  case ld =>
    intro h ha hal hw _ v w hr hread
    exact insn_done h (ldBody_staged htx hk ha hal hw hr hread) ⟨rfl, rfl⟩
  case nvRd =>
    intro h hal hlo hhi hr hmay hecc
    obtain ⟨v, hb, hbytes⟩ := nvRdBody_staged (d := s.die) htx hk hal hlo hhi hr hmay hecc
    obtain ⟨t, hex, hdone⟩ := insn_done h hb ⟨rfl, rfl⟩
    exact ⟨t, v, hex, hdone, hbytes⟩
  case ctrRd =>
    intro h
    have hkeeps := b.readCtr_keeps (field f.tgt 0 6)
    obtain ⟨t, hex, hdone⟩ := insn_done h (ctrRdBody_staged htx hk) (Chip.noRecord_of_keeps hkeeps (by decide))
    exact ⟨t, _, hex, hkeeps, fun j _ => b.readCtr_ctrVal _ j, hdone⟩
  case nvWrImm =>
    exact fun h himm hal hlo hhi hmay hecc hnv => insn_stages h (nvWrImm_staged htx hk himm hal hlo hhi hmay hecc hnv)
  case nvWrBurst =>
    intro h himm a m src at_ hal hlo hhi hsal h1 hmax hdest hmay hecc hnv hfull
    obtain ⟨t, e, hex, hdone, hkeeps, hctx⟩ := insn_stages h
      (nvWrBurst_staged htx hk himm hal hlo hhi rfl hsal rfl h1 hmax hdest hmay hecc hnv hfull)
    refine ⟨t, e, hex, hdone, hkeeps, ?_⟩
    rw [hctx]
    exact ⟨by rw [wordJournal_length, Chip.burst, List.length_map, List.length_range], rfl,
      fun i j hi hj => mem_wordJournal_burst b hsal hi hj⟩
  case edit =>
    intro i off len hi hterm hmc hbase hseal hbusy hc hops
    simp only [List.mem_cons, Prod.mk.injEq, List.not_mem_nil, or_false] at hi
    rcases hi with ⟨rfl, rfl, rfl⟩ | ⟨rfl, rfl, rfl⟩
    · obtain ⟨h, hrow, hslice⟩ := hterm rfl
      have hb : termWrBody q f s.die b = _ := if_neg (by omega)
      exact insn_stagesEdit h hb hn htx hk hbase hseal hbusy hc hops
    · obtain ⟨h, hok⟩ := hmc rfl
      have hb : mcCfgBody q f s.die b = _ := if_neg (by rw [hok]; decide)
      obtain ⟨t, e, hex, hdone, hkeeps, hmem, hrest⟩ := insn_stagesEdit h hb hn htx hk hbase hseal hbusy hc hops
      refine ⟨t, e, hex, hdone, hkeeps, ?_, hrest⟩
      rw [hmem, BitVec.toNat_setWidth]
      exact Nat.mod_mod _ _
  case fronds =>
    intro mask staged hmask hops hclaims hc
    have hmem : ∀ j, j ∈ (maskList mask).reverse ++ [] ↔ j ∈ maskList mask := fun j => by simp
    refine ⟨fun h => ?_, fun h hldr hs => ?_, fun h hcheck hset => ?_⟩
    · exact insn_stagesMask h (frondSafeBody_staged htx hk hmask hc)
        (Chip.stageMask_stages (Chip.StagesFronds.refl b k) hc) hmem hops hclaims hc
    · exact insn_stagesMask h (frondRunBody_staged htx hk hmask hc hldr hs)
        (Chip.stageMask_stages (Chip.StagesFronds.refl b k) hc) hmem hops hclaims hc
    · exact insn_stagesMask h (planeSwapBody_staged htx hk hmask hcheck)
        (Chip.stageMask_stages (Chip.claimSwap_stages hset hc) hc) (fun j => by simp [mask]) hops hclaims hc

end Sys2Proof.Machine
end

section
namespace Sys2Proof.Machine

/-! ### Whole words written one after another (R182, R185, R205) -/

section
variable {c : Chip} {l : List (Nat × QWord)}

/-- Whole words written with fresh check bits, each at its address. -/
def Chip.putAll (c : Chip) (l : List (Nat × QWord)) : Chip := l.foldl (fun c e => c.putWord e.1 e.2) c

theorem Chip.putAll_cons (c : Chip) (e : Nat × QWord) (l : List (Nat × QWord)) :
    c.putAll (e :: l) = (c.putWord e.1 e.2).putAll l := rfl

theorem Chip.putAll_keeps (c : Chip) (l : List (Nat × QWord)) : c.keeps [.mem, .ecc, .nvs] (c.putAll l) :=
  keeps_foldl (g := fun c (e : Nat × QWord) => c.putWord e.1 e.2) (fun c e => c.putWord_keeps e.1 e.2) l c

/-- A word written outside the store leaves the marks of the store. -/
theorem Chip.putWord_keeps_nvs (c : Chip) {a : Nat} (w : QWord) (h : regionOf a ≠ some 4) :
    c.keeps [.mem, .ecc] (c.putWord a w) := by
  intro p hp
  by_cases hnvs : p = .nvs
  · subst hnvs; exact c.putWord_nvs a w h
  · exact c.putWord_keeps a w p (by simp only [List.mem_cons, List.not_mem_nil, or_false] at hp ⊢; tauto)

theorem Chip.putAll_keeps_nvs (c : Chip) (h : ∀ e ∈ l, regionOf e.1 ≠ some 4) : c.keeps [.mem, .ecc] (c.putAll l) := by
  induction l generalizing c with
  | nil => exact Chip.keeps.refl _ _
  | cons e l ih =>
    exact (c.putWord_keeps_nvs e.2 (h e (List.mem_cons_self ..))).trans (ih _ fun x hx => h x (List.mem_cons_of_mem _ hx))

theorem Chip.putAll_read {x : Nat} (c : Chip) (h : ∀ e ∈ l, e.1 % 16 = 0 ∧ ¬ (e.1 ≤ x ∧ x < e.1 + 16)) :
    memRead 0 (c.putAll l).mem x = memRead 0 c.mem x := by
  induction l generalizing c with
  | nil => rfl
  | cons e l ih =>
    obtain ⟨hal, hx⟩ := h e (List.mem_cons_self ..)
    rw [Chip.putAll_cons, ih _ fun y hy => h y (List.mem_cons_of_mem _ hy), Chip.putWord_mem]
    exact memRead_put_other _ _ _ _ (by omega)

theorem Chip.putAll_check {w : Nat} (c : Chip) (h : ∀ e ∈ l, w ≠ e.1 / 16) :
    memRead 0 (c.putAll l).ecc w = memRead 0 c.ecc w := by
  induction l generalizing c with
  | nil => rfl
  | cons e l ih =>
    rw [Chip.putAll_cons, ih _ fun y hy => h y (List.mem_cons_of_mem _ hy), Chip.putWord_ecc]
    exact memRead_write_other (h e (List.mem_cons_self ..))

/-- A word reads the same in memories that agree on its bytes. -/
theorem Chip.getWord_congr {b e : Chip} {a : Nat} (hal : a % 16 = 0)
    (h : ∀ x, a ≤ x → x < a + 16 → memRead 0 e.mem x = memRead 0 b.mem x) : e.getWord a = b.getWord a := by
  unfold Chip.getWord
  rw [show a / 16 * 16 = a by omega]
  exact congrArg (BitVec.ofNat 128) (memNat_congr 16 a h)

/-- Each of several words written, all apart, reads as written, with good check bits. -/
theorem Chip.putAll_word {e : Nat × QWord} (c : Chip) (hal : ∀ e ∈ l, e.1 % 16 = 0)
    (hl : (l.map Prod.fst).Nodup) (he : e ∈ l) :
    (c.putAll l).getWord e.1 = e.2 ∧ (c.putAll l).eccAt e.1 = 0 := by
  induction l generalizing c with
  | nil => cases he
  | cons y l ih =>
    rw [List.map_cons, List.nodup_cons] at hl
    obtain ⟨hy, hl⟩ := hl
    have hal' : ∀ e ∈ l, e.1 % 16 = 0 := fun x hx => hal x (List.mem_cons_of_mem _ hx)
    rw [Chip.putAll_cons]
    rcases List.mem_cons.1 he with rfl | he
    · have hapart : ∀ x ∈ l, x.1 ≠ e.1 := fun x hx h => hy (h ▸ List.mem_map_of_mem hx)
      have hown := hal e (List.mem_cons_self ..)
      constructor
      · refine (Chip.getWord_congr hown fun x hlo hhi => Chip.putAll_read _ fun z hz => ?_).trans (c.getWord_putWord e.1 e.2)
        have := hapart z hz
        have := hal' z hz
        omega
      · rw [Chip.eccAt, Chip.putAll_check _ fun z hz => ?_, Chip.putWord_ecc, memRead_write_same]
        · rfl
        · have := hapart z hz
          have := hal' z hz
          omega
    · exact ih _ hal' hl he

/-- A word written in the user area leaves its page dirty, whatever is written after it. -/
theorem Chip.putAll_dirty {p : Nat} (c : Chip) (hp : p < 1088)
    (h : c.nvs.dirtyP.getLsbD p = true ∨ ∃ e ∈ l, regionOf e.1 = some 4 ∧ (e.1 - 0x30000000) / 256 = p) :
    (c.putAll l).nvs.dirtyP.getLsbD p = true := by
  induction l generalizing c with
  | nil => exact h.elim id fun ⟨e, he, _⟩ => nomatch he
  | cons y l ih =>
    rw [Chip.putAll_cons]
    rcases h with h | ⟨e, he, hr, hpage⟩
    · refine ih _ (.inl ?_)
      unfold Chip.putWord
      split
      · exact (BitVec.getLsbD_or ..).trans (by rw [Chip.setEcc_nvs, h, Bool.true_or])
      · exact h
    · rcases List.mem_cons.1 he with rfl | he
      · refine ih _ (.inl ?_)
        subst hpage
        unfold Chip.putWord
        rw [if_pos hr]
        exact getLsbD_marked _ hp
      · exact ih _ (.inr ⟨e, he, hr, hpage⟩)

/-- Words from an address on. -/
theorem Chip.putWords_eq (c : Chip) (a : Nat) (ws : List QWord) :
    c.putWords a ws = c.putAll (ws.mapIdx fun i w => (a + 16 * i, w)) := by
  induction ws generalizing c a with
  | nil => rfl
  | cons w ws ih =>
    have hnext (i : Nat) : a + 16 * (i + 1) = a + 16 + 16 * i := by omega
    rw [List.mapIdx_cons, Chip.putAll_cons]
    simp only [Nat.mul_zero, Nat.add_zero, hnext]
    exact ih _ _

/-- What words written to a destination change: memory and check codes in their place. -/
theorem Chip.putWords_spec {q : Queue} {a : Nat} {ws : List QWord} (c : Chip) (h : destCheck q a ws.length = none) :
    c.keeps [.mem, .ecc] (c.putWords a ws) ∧ sameOutside 0 c.mem (c.putWords a ws).mem a (16 * ws.length) ∧
      ∀ i (hi : i < ws.length), (c.putWords a ws).getWord (a + 16 * i) = ws[i] ∧
        (c.putWords a ws).eccAt (a + 16 * i) = 0 := by
  obtain ⟨hal, hin⟩ := destCheck_none h
  have hplace : ∀ e ∈ ws.mapIdx fun i w => (a + 16 * i, w), ∃ i, i < ws.length ∧ e.1 = a + 16 * i := fun e he => by
    obtain ⟨i, hi, rfl⟩ := List.mem_mapIdx.1 he
    exact ⟨i, hi, rfl⟩
  have haligned : ∀ e ∈ ws.mapIdx fun i w => (a + 16 * i, w), e.1 % 16 = 0 := fun e he => by
    obtain ⟨i, -, hi⟩ := hplace e he
    omega
  have hnodup : ((ws.mapIdx fun i w => (a + 16 * i, w)).map Prod.fst).Nodup := by
    have haddrs : (ws.mapIdx fun i w => (a + 16 * i, w)).map Prod.fst = (List.range ws.length).map fun i => a + 16 * i :=
      List.ext_getElem (by simp) fun i _ _ => by simp
    rw [haddrs]
    exact List.Nodup.map (fun i j hij => by omega) List.nodup_range
  rw [Chip.putWords_eq]
  refine ⟨c.putAll_keeps_nvs fun e he => ?_, fun x hx => c.putAll_read fun e he => ⟨haligned e he, ?_⟩, fun i hi => ?_⟩
  · obtain ⟨i, hi, hei⟩ := hplace e he
    rw [ne_eq, regionOf_user_iff]
    omega
  · obtain ⟨i, hi, hei⟩ := hplace e he
    omega
  · exact c.putAll_word (e := (a + 16 * i, ws[i])) haligned hnodup (List.mem_mapIdx.2 ⟨i, hi, rfl⟩)

end

end Sys2Proof.Machine
end

section
namespace Sys2Proof.Machine

/-! ### The recorder (R374, R387, R389, Table LIC-4) -/

/-- A record that already describes its instruction is described as it stands. -/
theorem Chip.describe_told {b e : Chip} {r : LicRec} (h : b.oneRecord e r) : e.describe b r.info = e := by
  have hlic : e.lic = { b.lic with buf := b.lic.buf ++ [r] } := h
  have hdescribed : e.describe b r.info = { e with lic := { b.lic with buf := b.lic.buf ++ [r] } } := by
    unfold Chip.describe Chip.sortRecords tellRecords
    simp [hlic, recSort, recInsert]
  rw [hdescribed, ← hlic]

theorem testBit_field {w : Nat} (v : BitVec w) (lo n i : Nat) :
    (field v lo n).testBit i = (decide (i < n) && v.getLsbD (lo + i)) := by
  rw [field, Nat.testBit_mod_two_pow, Nat.testBit_shiftRight]
  rfl

theorem getLsbD_field {w : Nat} (v : BitVec w) (m lo n i : Nat) :
    (BitVec.ofNat m (field v lo n)).getLsbD i = (decide (i < m) && (decide (i < n) && v.getLsbD (lo + i))) := by
  rw [BitVec.getLsbD_ofNat, testBit_field]

section
variable {q : Queue} {f : Insn} {d : Die} {b : Chip}

/-! #### LIC.MARK -/

/-- The context of a mark: its code, then its operand. -/
def markContext (f : Insn) : BitVec 192 := ctxAt 32 (field f.tgt 0 16) ||| ctxAt 34 f.op.toNat

theorem markContext_code (f : Insn) : (markContext f).extractLsb' 0 16 = f.tgt.extractLsb' 0 16 := by
  refine BitVec.eq_of_getLsbD_eq fun i hi => ?_
  simp [markContext, ctxAt, getLsbD_field, hi]
  omega

theorem markContext_operand (f : Insn) : (markContext f).extractLsb' 16 64 = f.op := by
  refine BitVec.eq_of_getLsbD_eq fun i hi => ?_
  have hcode : (BitVec.ofNat 192 (field f.tgt 0 16)).getLsbD (16 + i) = false := by simp [getLsbD_field]
  rw [BitVec.getLsbD_eq_getElem (by omega)] at hcode
  simp [markContext, ctxAt, hcode, hi, show 16 + i < 192 by omega]

/-- The record of a mark. -/
def markRecord (q : Queue) (f : Insn) (b : Chip) : LicRec :=
  ⟨.general, 0x0F00, BitVec.ofNat 8 0, BitVec.ofNat 8 0, b.lt.word, insnInfo q 0xC0 f.tag St.ok, markContext f⟩

/-- The chip with the record of a mark given to the writer. -/
def Chip.marked (b : Chip) (q : Queue) (f : Insn) : Chip := b.record 0x0F00 0 0 (markContext f) (insnInfo q 0xC0 f.tag St.ok)

theorem licMarkBody_marks : licMarkBody q f d b = .done St.ok ((b.marked q f).lastSeq.setWidth 64) (b.marked q f) := rfl

theorem Chip.marked_record (hroom : b.lic.room = true) : b.oneRecord (b.marked q f) (markRecord q f b) :=
  Chip.record_oneRecord rfl hroom

/-! #### LIC.READ -/

theorem slotAddr_inside (f : Insn) :
    0x50000000 ≤ slotAddr (field f.op 0 9) ∧ slotAddr (field f.op 0 9) + 64 ≤ 0x50008000 ∧
    slotAddr (field f.op 0 9) % 16 = 0 := by
  have := field_lt f.op 0 9
  unfold slotAddr
  omega

theorem regionOf_recorder {a : Nat} (hlo : 0x50000000 ≤ a) (hhi : a < 0x50008000) : regionOf a = some 7 := by
  unfold regionOf
  iterate 7 rw [if_neg (by omega)]
  rw [if_pos ⟨hlo, hhi⟩]

/-- A load of a word of the recorder reads through its check bits. -/
theorem load_recorder {c : Chip} {x : Src} {a : Nat} (hlo : 0x50000000 ≤ a) (hhi : a < 0x50008000) :
    c.load d x a 16 = ((c.readEcc a 0).1, if failed (c.readEcc a 0).1 then 0 else memNat 0 (c.readEcc a 0).2.mem a 16,
      (c.readEcc a 0).2) := by
  have hregion := regionOf_recorder hlo hhi
  have hrange : loadRange a = none := by
    unfold loadRange
    rw [if_neg (by omega), if_neg (by omega), if_neg (by omega), hregion]
    rfl
  exact load_ram (by omega) hrange (by rw [hregion]; decide) fun h => absurd (hregion.symm.trans h) (by decide)

/-- The words of a slot as they stand. -/
def Chip.slotWords (c : Chip) (i : Nat) : List QWord := (List.range 4).map fun k => c.getWord (slotAddr i + 16 * k)

/-- The bytes of words in a row are those of their memory. -/
theorem Chip.flatMap_getWord (c : Chip) {a : Nat} (hal : a % 16 = 0) (n : Nat) :
    ((List.range n).map fun k => c.getWord (a + 16 * k)).flatMap (fun w => natBytes w.toNat 16)
      = memBytes 0 c.mem a (16 * n) := by
  induction n with
  | zero => rfl
  | succ n ih =>
    rw [List.range_succ, List.map_append, List.flatMap_append, ih, Nat.mul_succ, memBytes_add]
    simp only [List.map_cons, List.map_nil, List.flatMap_cons, List.flatMap_nil, List.append_nil]
    rw [c.natBytes_getWord (by omega)]

theorem Chip.slotWords_bytes (c : Chip) (f : Insn) :
    (c.slotWords (field f.op 0 9)).flatMap (fun w => natBytes w.toNat 16) = c.slotBytes (field f.op 0 9) :=
  c.flatMap_getWord (slotAddr_inside f).2.2 4

/-- The result of LIC.READ from the bytes of its slot: sequence number, cause, magic (Table ISA-13). -/
def slotResult (bs : List Byte) : DWord := BitVec.ofNat 64 (le bs 4 4 + 2 ^ 32 * le bs 2 2 + 2 ^ 48 * le bs 0 2)

/-- The destination of an instruction is none, or may be one. -/
def destOk (q : Queue) (a n : Nat) : Prop := a = 0 ∨ destCheck q a n = none

theorem destOk.check {a n : Nat} (h : destOk q a n) : (if a ≠ 0 then destCheck q a n else none) = none := by
  rcases h with h | h
  · rw [if_neg (not_not_intro h)]
  · split
    · exact h
    · rfl

theorem licReadBody_noDestination {st : Byte} (hdest : f.tgt.toNat ≠ 0) (hcheck : destCheck q f.tgt.toNat 4 = some st) :
    licReadBody q f d b = .done st 0 b := by
  simp only [licReadBody, if_pos hdest, hcheck, Done.fail]

/-- LIC.READ of a slot whose words have good check bits, by its bytes (Table LIC-4). -/
theorem licReadBody_good (hdest : destOk q f.tgt.toNat 4)
    (hgood : ∀ k, k < 4 → b.eccAt (slotAddr (field f.op 0 9) + 16 * k) = 0) :
    licReadBody q f d b = let bs := b.slotBytes (field f.op 0 9)
      if bs.any (· != 0) && !slotGood bs then .done St.eccUncorr 0 b
      else .done St.ok (slotResult bs)
        (if f.tgt.toNat ≠ 0 then b.putWords f.tgt.toNat (b.slotWords (field f.op 0 9)) else b) := by
  obtain ⟨hlo, hhi, hal⟩ := slotAddr_inside f
  have hload : b.loadWords d (Src.ofQueue q) (slotAddr (field f.op 0 9)) 4 = (St.ok, b.slotWords (field f.op 0 9), b) := by
    refine loadWords_of_load fun k hk => ?_
    have hword : (b.getWord (slotAddr (field f.op 0 9) + 16 * k)).toNat
        = memNat 0 b.mem (slotAddr (field f.op 0 9) + 16 * k) 16 := by
      rw [Chip.getWord, show (slotAddr (field f.op 0 9) + 16 * k) / 16 * 16 = slotAddr (field f.op 0 9) + 16 * k by omega,
        BitVec.toNat_ofNat]
      exact Nat.mod_eq_of_lt (memNat_lt 0 b.mem _ 16)
    rw [load_recorder (by omega) (by omega), Chip.readEcc_good (hgood k hk), hword]
    rfl
  have hok : failed St.ok = false := rfl
  simp only [licReadBody, hdest.check, hload, hok, Bool.false_eq_true, if_false, Chip.slotWords_bytes, Done.fail]
  rfl

theorem licReadBody_uncorrectable (hdest : destOk q f.tgt.toNat 4) (hbad : 2 ≤ b.eccAt (slotAddr (field f.op 0 9))) :
    licReadBody q f d b = .done St.eccUncorr 0 (b.poisonWord (slotAddr (field f.op 0 9)) 0) := by
  obtain ⟨hlo, hhi, -⟩ := slotAddr_inside f
  have hload := load_recorder (d := d) (x := Src.ofQueue q) (c := b) hlo (by omega)
  rw [Chip.readEcc_uncorrectable hbad] at hload
  have hfails : failed St.eccUncorr = true := rfl
  simp only [licReadBody, hdest.check, Chip.loadWords, hload, hfails, if_true, Done.fail]

/-- A word of the recorder poisoned leaves the store as it is. -/
theorem Chip.poisonWord_recorder (c : Chip) {a : Nat} (how : Nat) (h : regionOf a = some 7) :
    c.keeps [.ecc, .lic] (c.poisonWord a how) := by
  intro p hp
  by_cases hnvs : p = .nvs
  · subst hnvs
    simp only [Chip.same, Chip.poisonWord, nvWord, h]
    split
    · contradiction
    · rfl
  · exact c.poisonWord_keeps a how p (by simp only [List.mem_cons, List.not_mem_nil, or_false] at hp ⊢; tauto)

end

end Sys2Proof.Machine
end

section
namespace Sys2Proof.Machine

/-! ### SNAP (R218) -/

/-- Values of `w` bits one behind another, the first lowest. -/
def packed (w : Nat) (x : Nat → Nat) (n : Nat) : Nat := (List.range n).foldl (fun a k => a + x k * 2 ^ (w * k)) 0

theorem packed_succ (w : Nat) (x : Nat → Nat) (n : Nat) : packed w x (n + 1) = 2 ^ (w * n) * x n + packed w x n := by
  rw [packed, List.range_succ, List.foldl_append, ← packed]
  simp only [List.foldl_cons, List.foldl_nil]
  rw [Nat.mul_comm, Nat.add_comm]

section
variable {w : Nat} {x : Nat → Nat} (hx : ∀ k, x k < 2 ^ w)
include hx

theorem packed_lt (n : Nat) : packed w x n < 2 ^ (w * n) := by
  induction n with
  | zero => exact Nat.one_pos
  | succ n ih =>
    have hx := hx n
    rw [packed_succ, Nat.mul_succ, Nat.pow_add]
    calc 2 ^ (w * n) * x n + packed w x n < 2 ^ (w * n) * (x n + 1) := by rw [Nat.mul_succ]; omega
      _ ≤ 2 ^ (w * n) * 2 ^ w := Nat.mul_le_mul_left _ hx

/-- Bit `j` of packed values lies in value `j / w`. -/
theorem testBit_packed {n j : Nat} (hj : j < w * n) : (packed w x n).testBit j = (x (j / w)).testBit (j % w) := by
  induction n with
  | zero => omega
  | succ n ih =>
    rw [packed_succ, Nat.testBit_two_pow_mul_add _ (packed_lt hx n)]
    rw [Nat.mul_succ] at hj
    split
    · exact ih (by assumption)
    · have hdiv : j / w = n := Nat.div_eq_of_lt_le (by rw [Nat.mul_comm]; omega) (by rw [Nat.succ_mul, Nat.mul_comm]; omega)
      have hmod : j % w = j - w * n := by rw [Nat.mod_def, hdiv]
      rw [hdiv, hmod]

end

section
variable (c : Chip)

/-- The value of a pin level. -/
def Chip.padBit (c : Chip) (p : Nat) : Nat := if c.padLevel p then 1 else 0

theorem Chip.padBit_lt (p : Nat) : c.padBit p < 2 ^ 1 := by unfold Chip.padBit; split <;> decide

/-- The flip-flops of the fronds, then the pin levels from bit 2,048 on, as one number. -/
def Chip.snapBits (c : Chip) : Nat := 2 ^ 2048 * packed 1 c.padBit 192 + packed 64 (fun n => (c.ffNow n).toNat) 32

theorem Chip.snapWords_eq : c.snapWords = cutWords c.snapBits 18 := by
  have hpins (e : Nat) (l : List Nat) (a : Nat) : l.foldl (fun a p => if c.padLevel p then a + 2 ^ (e + p) else a) (2 ^ e * a)
      = 2 ^ e * l.foldl (fun a p => a + c.padBit p * 2 ^ (1 * p)) a := by
    induction l generalizing a with
    | nil => rfl
    | cons p l ih =>
      rw [List.foldl_cons, List.foldl_cons, ← ih, Chip.padBit, Nat.one_mul]
      split
      · rw [Nat.mul_add, Nat.one_mul, Nat.pow_add]
      · rw [Nat.zero_mul, Nat.add_zero]
  have hall := (congrArg (fun a => (List.range 192).foldl _ a) (Nat.mul_zero _).symm).trans (hpins 2048 (List.range 192) 0)
  exact congrArg (cutWords · 18) ((congrArg _ hall).trans (Nat.add_comm _ _))

theorem Chip.testBit_snapBits_ff {j : Nat} (hj : j < 2048) : c.snapBits.testBit j = (c.ffNow (j / 64)).getLsbD (j % 64) := by
  have hff : ∀ n, (c.ffNow n).toNat < 2 ^ 64 := fun n => (c.ffNow n).isLt
  rw [Chip.snapBits, Nat.testBit_two_pow_mul_add _ (packed_lt (w := 64) hff 32), if_pos hj, testBit_packed hff hj]
  rfl

theorem Chip.testBit_snapBits_pin {p : Nat} (hp : p < 192) : c.snapBits.testBit (2048 + p) = c.padLevel p := by
  have hff : ∀ n, (c.ffNow n).toNat < 2 ^ 64 := fun n => (c.ffNow n).isLt
  rw [Chip.snapBits, Nat.testBit_two_pow_mul_add _ (packed_lt (w := 64) hff 32), if_neg (by omega),
    testBit_packed c.padBit_lt (by omega), Nat.add_sub_cancel_left, Nat.div_one, Nat.mod_one, Chip.padBit]
  split <;> simp_all

theorem Chip.snapWords_length : c.snapWords.length = 18 := by simp [Chip.snapWords_eq, cutWords]

theorem Chip.getLsbD_snapWords {i j : Nat} (hi : i < c.snapWords.length) (hj : j < 128) :
    (c.snapWords[i]).getLsbD j = c.snapBits.testBit (128 * i + j) := by
  simp only [Chip.snapWords_eq, cutWords, List.getElem_map, List.getElem_range, BitVec.getLsbD_ofNat, hj, decide_true,
    Bool.true_and, Nat.testBit_div_two_pow, Nat.add_comm j]

/-- A word of the first 16 holds the flip-flops of two fronds. -/
theorem Chip.snapWords_ff {i : Nat} (hi : i < 16) (hlen : i < c.snapWords.length) :
    c.snapWords[i] = c.ffNow (2 * i + 1) ++ c.ffNow (2 * i) := by
  refine BitVec.eq_of_getLsbD_eq fun j hj => ?_
  rw [c.getLsbD_snapWords hlen hj, c.testBit_snapBits_ff (by omega), BitVec.getLsbD_append]
  by_cases hlow : j < 64
  · rw [if_pos hlow, show (128 * i + j) / 64 = 2 * i by omega, show (128 * i + j) % 64 = j by omega]
  · rw [if_neg hlow, show (128 * i + j) / 64 = 2 * i + 1 by omega, show (128 * i + j) % 64 = j - 64 by omega]

theorem Chip.snapWords_pin {p : Nat} (hp : p < 192) (hlen : 16 + p / 128 < c.snapWords.length) :
    (c.snapWords[16 + p / 128]).getLsbD (p % 128) = c.padLevel p := by
  rw [c.getLsbD_snapWords hlen (by omega), ← c.testBit_snapBits_pin hp]
  congr 1
  omega

end

section
variable {q : Queue} {f : Insn} {d : Die} {b : Chip}

theorem snapBody_none (h : field f.op 0 32 = 0) : snapBody q f d b = .done St.range 0 b := if_pos h

theorem snapBody_refused {st : Byte} (h : field f.op 0 32 ≠ 0) (hcheck : destCheck q (field f.op 0 32) 18 = some st) :
    snapBody q f d b = .done st 0 b := by
  simp only [snapBody, if_neg h, hcheck, Done.fail]

theorem snapBody_checked (h : field f.op 0 32 ≠ 0) (hcheck : destCheck q (field f.op 0 32) 18 = none) :
    snapBody q f d b = if d.readback then .done St.locked 0 (b.violate (Src.ofQueue q) 0x3E03 8 6 0)
      else .done St.ok 0 (b.putWords (field f.op 0 32) b.snapWords) := by
  simp only [snapBody, if_neg h, hcheck, Done.fail]

end

/-! ### Violations (R459) -/

/-- An instruction that only violates a protection: one violation counted, one record. -/
theorem insn_violates {o : OpInfo} {body : Body} {q : Queue} {f : Insn} {s : State} {b : Chip} {cause : BitVec 16}
    {cls idx ctx : Nat} (h : s.chip.issuesAs o q f b)
    (hb : body q f s.die b = .done St.locked 0 (b.violate (Src.ofQueue q) cause cls idx ctx)) (hroom : b.lic.room = true) :
    ∃ t e, insn o body q f s = .next t ∧ Completes q f St.locked 0 b.lt s e t ∧ b.keeps [.sec, .lic] e ∧
      e.sec.viol = satAdd b.sec.viol 1 ∧ e.sec.lastaddr = BitVec.ofNat 32 ctx := by
  obtain ⟨t, hex, hdone⟩ := insn_done_record h hb (Chip.record_oneRecord rfl hroom) rfl
  exact ⟨t, _, hex, hdone, (b.violate_keeps _ _ _ _ _ _).trans (Chip.keeps_lic _ _ (by decide)), rfl, rfl⟩

end Sys2Proof.Machine
end

section
namespace Sys2Proof.Machine

/-! ### LIC.MARK, LIC.READ and SNAP -/

section
variable {q : Queue} {f : Insn} {s : State} {b : Chip}

theorem licMark_marks (h : s.chip.issuesAs Op.licMark q f b) (hroom : b.lic.room = true) :
    ∃ t, insn Op.licMark licMarkBody q f s = .next t ∧
      Completes q f St.ok ((b.marked q f).lastSeq.setWidth 64) b.lt s (b.marked q f) t := by
  have hrec := Chip.marked_record (q := q) (f := f) hroom
  have hlic : (b.marked q f).lic = { b.lic with buf := b.lic.buf ++ [markRecord q f b] } := hrec
  obtain ⟨t, hex, hdone⟩ := insn_done_described h (by decide) licMarkBody_marks (by rw [hlic])
  have htold : (b.marked q f).describe b (insnInfo q Op.licMark.code f.tag St.ok) = b.marked q f := Chip.describe_told hrec
  rw [htold] at hdone
  exact ⟨t, hex, hdone⟩

theorem licMark_waits (h : s.chip.issuesAs Op.licMark q f b) (hfull : 14 ≤ b.lic.general) :
    ∃ t, insn Op.licMark licMarkBody q f s = .next t ∧ Waits q 0xC0 f .licWriter 0 0 s b t := by
  refine insn_done_stuck h (by decide) (by decide) licMarkBody_marks ?_ (by omega)
  have hlic : (b.marked q f).lic = { b.lic with wait := b.lic.wait ++ [markRecord q f b] } :=
    Lic.give_full (r := markRecord q f b) hfull rfl
  simp [hlic]

section
variable (h : s.chip.issuesAs Op.licRead q f b) (hdest : destOk q f.tgt.toNat 4)
  (hgood : ∀ k, k < 4 → b.eccAt (slotAddr (field f.op 0 9) + 16 * k) = 0)
include h hdest hgood

theorem licRead_reads (hslot : slotGood (b.slotBytes (field f.op 0 9)) = true ∨
    (b.slotBytes (field f.op 0 9)).all (· == 0) = true) :
    ∃ t, insn Op.licRead licReadBody q f s = .next t ∧ Completes q f St.ok (slotResult (b.slotBytes (field f.op 0 9))) b.lt s
      (if f.tgt.toNat ≠ 0 then b.putWords f.tgt.toNat (b.slotWords (field f.op 0 9)) else b) t := by
  have hpass : ((b.slotBytes (field f.op 0 9)).any (· != 0) && !slotGood (b.slotBytes (field f.op 0 9))) = false := by
    rcases hslot with hslot | hslot
    · simp [hslot]
    · have hzero : (b.slotBytes (field f.op 0 9)).any (· != 0) = false := by simpa using hslot
      rw [hzero, Bool.false_and]
  have hbody := licReadBody_good (d := s.die) hdest hgood
  dsimp only at hbody
  rw [hpass, if_neg Bool.false_ne_true] at hbody
  refine insn_done h hbody ?_
  split
  · rename_i h0
    exact Chip.noRecord_of_keeps (b.putWords_spec (hdest.resolve_left h0)).1 (by decide)
  · exact ⟨rfl, rfl⟩

theorem licRead_fails (hcrc : slotGood (b.slotBytes (field f.op 0 9)) = false)
    (hsome : (b.slotBytes (field f.op 0 9)).all (· == 0) = false) :
    ∃ t, insn Op.licRead licReadBody q f s = .next t ∧ Completes q f St.eccUncorr 0 b.lt s b t := by
  have hfail : ((b.slotBytes (field f.op 0 9)).any (· != 0) && !slotGood (b.slotBytes (field f.op 0 9))) = true := by
    have hany : (b.slotBytes (field f.op 0 9)).any (· != 0) = true := by simpa using hsome
    rw [hany, hcrc]
    rfl
  refine insn_refused h ((licReadBody_good hdest hgood).trans ?_)
  dsimp only
  rw [if_pos hfail]

end

theorem licRead_poisons (h : s.chip.issuesAs Op.licRead q f b) (hdest : destOk q f.tgt.toNat 4)
    (hbad : 2 ≤ b.eccAt (slotAddr (field f.op 0 9))) (hroom : b.lic.room = true) :
    ∃ t e r, insn Op.licRead licReadBody q f s = .next t ∧ Completes q f St.eccUncorr 0 b.lt s e t ∧
      b.keeps [.ecc, .lic] e ∧ e.eccAt (slotAddr (field f.op 0 9)) = 3 ∧ b.oneRecord e r ∧ r.cause = 0x2201 := by
  obtain ⟨hlo, hhi, -⟩ := slotAddr_inside f
  obtain ⟨t, hex, hdone⟩ := insn_done_record h (licReadBody_uncorrectable hdest hbad) (Chip.poisonWord_record hroom 0) rfl
  exact ⟨t, _, _, hex, hdone,
    (b.poisonWord_recorder 0 (regionOf_recorder hlo (by omega))).trans (Chip.keeps_lic _ _ (by decide)),
    b.poisonWord_eccAt _ 0, rfl, rfl⟩

/-- SNAP copies the flip-flops and the pin levels. -/
theorem snap_copies (h : s.chip.issuesAs Op.snap q f b) (hdest : field f.op 0 32 ≠ 0)
    (hcheck : destCheck q (field f.op 0 32) 18 = none) (hopen : s.die.readback = false) :
    ∃ t e, insn Op.snap snapBody q f s = .next t ∧ Completes q f St.ok 0 b.lt s e t ∧ b.keeps [.mem, .ecc] e ∧
      sameOutside 0 b.mem e.mem (field f.op 0 32) 288 ∧
      (∀ i, i < 16 → e.getWord (field f.op 0 32 + 16 * i) = b.ffNow (2 * i + 1) ++ b.ffNow (2 * i)) ∧
      (∀ p, p < 192 → (e.getWord (field f.op 0 32 + 256 + 16 * (p / 128))).getLsbD (p % 128) = b.padLevel p) ∧
      ∀ i, i < 18 → e.eccAt (field f.op 0 32 + 16 * i) = 0 := by
  have hlen := b.snapWords_length
  obtain ⟨hk, hmem, hwords⟩ := b.putWords_spec (ws := b.snapWords) (hlen.symm ▸ hcheck)
  rw [hlen] at hmem
  have hbody := snapBody_checked (d := s.die) (b := b) hdest hcheck
  rw [hopen, if_neg Bool.false_ne_true] at hbody
  obtain ⟨t, hex, hdone⟩ := insn_done h hbody (Chip.noRecord_of_keeps hk (by decide))
  refine ⟨t, _, hex, hdone, hk, hmem, fun i hi => ?_, fun p hp => ?_, fun i hi => (hwords i (by omega)).2⟩
  · rw [(hwords i (by omega)).1, b.snapWords_ff hi]
  · rw [show field f.op 0 32 + 256 + 16 * (p / 128) = field f.op 0 32 + 16 * (16 + p / 128) by omega,
      (hwords (16 + p / 128) (by omega)).1, b.snapWords_pin hp]

end

/-- Settles O31: a mark by whether the writer has room, a read by its destination, the check bits and the CRC of its slot, SNAP
by its destination and the fuse. -/
theorem recorderAndSnapInstructions : Obligations.RecorderAndSnapInstructions := by
  unfold Obligations.RecorderAndSnapInstructions
  refine ⟨fun q f s b => ?recorder, fun q f s b h => ?snap⟩
  case recorder =>
    intro a bs dest good res
    refine ⟨fun h hroom => ?mark, licMark_waits, fun h hgood hslot => ⟨fun h0 => ?plain, fun h0 hcheck => ?copy⟩,
      fun h hgood hcrc hsome hdest => licRead_fails h hdest hgood hcrc hsome,
      fun h hdest hbad hroom => licRead_poisons h hdest hbad hroom,
      fun st h h0 hcheck => insn_refused h (licReadBody_noDestination h0 hcheck)⟩
    case mark =>
      obtain ⟨t, hex, hdone⟩ := licMark_marks h hroom
      exact ⟨t, _, markRecord q f b, _, hex, hdone, Chip.keeps_lic _ _ (by decide), Chip.marked_record hroom, rfl, rfl, rfl,
        markContext_code f, markContext_operand f⟩
    case plain =>
      obtain ⟨t, hex, hdone⟩ := licRead_reads h (.inl h0) hgood hslot
      rw [if_neg (not_not_intro h0)] at hdone
      exact ⟨t, hex, hdone⟩
    case copy =>
      obtain ⟨t, hex, hdone⟩ := licRead_reads h (.inr hcheck) hgood hslot
      rw [if_pos h0] at hdone
      obtain ⟨hk, hmem, hwords⟩ := b.putWords_spec (ws := b.slotWords (field f.op 0 9)) hcheck
      refine ⟨t, _, hex, hdone, hk, hmem, fun k hk => ?_⟩
      obtain ⟨hword, hecc⟩ := hwords k hk
      exact ⟨hword.trans (by simp [Chip.slotWords]; rfl), hecc⟩
  case snap =>
    intro dest
    refine ⟨fun h0 => insn_refused h (snapBody_none h0), fun st h0 hcheck => insn_refused h (snapBody_refused h0 hcheck),
      snap_copies h, fun h0 hcheck hoff hroom => ?_⟩
    have hbody := snapBody_checked (d := s.die) (b := b) h0 hcheck
    rw [hoff, if_pos rfl] at hbody
    obtain ⟨t, e, hex, hdone, hk, hviol, -⟩ := insn_violates h hbody hroom
    exact ⟨t, e, hex, hdone, hk, hviol⟩

end Sys2Proof.Machine
end

section
namespace Sys2Proof.Machine

/-! ### NV.WR, NV.RD, CTR.INC and CTR.RD without a transaction (R204, R205, R207, R343) -/

/-- The bit of a page or counter set beside those that are set. -/
theorem getLsbD_mark {w n j : Nat} (v : BitVec w) (hj : j < w) :
    (v ||| BitVec.ofNat w (2 ^ n)).getLsbD j = (v.getLsbD j || j == n) := by
  rw [BitVec.getLsbD_or, BitVec.getLsbD_ofNat, Nat.testBit_two_pow, decide_eq_true hj, Bool.true_and]
  exact congrArg (v.getLsbD j || ·) (decide_eq_decide.2 eq_comm)

/-! #### Reads that correct their source (R185) -/

section
variable {c : Chip} {a n : Nat}

/-- A word of the Profile RAM, the link areas or the window. -/
def bufferWord (a : Nat) : Prop :=
  a % 16 = 0 ∧ (0x10000000 ≤ a ∧ a < 0x10100000 ∨ 0x60000000 ≤ a ∧ a < 0x6000C000 ∨
    0x70000000 ≤ a ∧ a < 0x70010000)

theorem bufferWord_of_destCheck {q : Queue} {i : Nat} (h : destCheck q a n = none) (hi : i < n) : bufferWord (a + 16 * i) := by
  obtain ⟨hal, hin⟩ := destCheck_none h
  exact ⟨by omega, by omega⟩

theorem bufferWord.region (h : bufferWord a) : regionOf a = some 1 ∨ regionOf a = some 8 ∨ regionOf a = some 9 := by
  obtain ⟨-, hin⟩ := h
  unfold regionOf
  rcases hin with hin | hin | hin
  · exact .inl (by rw [if_neg (by omega), if_pos (by omega)])
  · refine .inr (.inl ?_)
    iterate 8 rw [if_neg (by omega)]
    rw [if_pos (by omega)]
  · refine .inr (.inr ?_)
    iterate 9 rw [if_neg (by omega)]
    rw [if_pos (by omega)]

theorem bufferWord.load {d : Die} {x : Src} (h : bufferWord a) : c.load d x a 16 = ((c.readEcc a 0).1,
    if failed (c.readEcc a 0).1 then 0 else memNat 0 (c.readEcc a 0).2.mem a 16, (c.readEcc a 0).2) := by
  have hin := h.2
  have hrange : loadRange a = none := by
    unfold loadRange
    rw [if_neg (by omega), if_neg (by omega), if_neg (by omega)]
    rcases h.region with hr | hr | hr <;> rw [hr] <;> rfl
  refine load_ram (by omega) hrange ?_ fun h4 => ?_
  · rcases h.region with hr | hr | hr <;> rw [hr] <;> decide
  · rcases h.region with hr | hr | hr <;> rw [hr] at h4 <;> exact absurd h4 (by decide)

/-- A correction outside the store is not logged. -/
theorem bufferWord.corrected (h : bufferWord a) : c.corrected a = c.setEcc a 0 := by
  have hword : nvWord a = none := by
    unfold nvWord
    rcases h.region with hr | hr | hr <;> rw [hr] <;> rfl
  simp only [Chip.corrected, Chip.logCorrect, hword]

theorem Chip.setEcc_eccAt (c : Chip) (a y : Nat) (v : Byte) :
    (c.setEcc a v).eccAt y = if y / 16 = a / 16 then v.toNat else c.eccAt y := by
  simp only [Chip.eccAt, Chip.setEcc, memRead_write]
  split <;> rfl

/-- A good or correctable word is read, with good check bits after it. -/
theorem bufferWord.read {d : Die} {x : Src} (h : bufferWord a) (hecc : c.eccAt a ≤ 1) :
    ∃ e, c.load d x a 16 = (if c.eccAt a = 1 then St.corrected else St.ok, (c.getWord a).toNat, e) ∧ c.keeps [.ecc] e ∧
      ∀ y, e.eccAt y = if y / 16 = a / 16 then 0 else c.eccAt y := by
  have hal : a % 16 = 0 := h.1
  have hword : (c.getWord a).toNat = memNat 0 c.mem a 16 := by
    rw [Chip.getWord, show a / 16 * 16 = a by omega, BitVec.toNat_ofNat]
    exact Nat.mod_eq_of_lt (memNat_lt 0 c.mem _ 16)
  rcases Nat.le_one_iff_eq_zero_or_eq_one.1 hecc with hgood | hbad
  · refine ⟨c, ?_, Chip.keeps.refl _ _, fun y => ?_⟩
    · rw [h.load, Chip.readEcc_good hgood, if_neg (show ¬ c.eccAt a = 1 by omega), hword]
      rfl
    · split
      · rw [← hgood]
        simp only [Chip.eccAt, ‹y / 16 = a / 16›]
      · rfl
  · refine ⟨c.setEcc a 0, ?_, c.setEcc_keeps a 0, fun y => c.setEcc_eccAt a y 0⟩
    rw [h.load, Chip.readEcc_correctable hbad, h.corrected, if_pos hbad, hword]
    rfl

/-- Good and correctable words are read in a row: OK_CORRECTED when one was corrected. -/
theorem Chip.loadWords_buffer {d : Die} {x : Src} (h : ∀ i, i < n → bufferWord (a + 16 * i))
    (hecc : ∀ i, i < n → c.eccAt (a + 16 * i) ≤ 1) :
    ∃ st e, c.loadWords d x a n = (st, (List.range n).map fun i => c.getWord (a + 16 * i), e) ∧ c.keeps [.ecc] e ∧
      ((∃ i, i < n ∧ c.eccAt (a + 16 * i) = 1) → st = St.corrected) ∧
      ((¬ ∃ i, i < n ∧ c.eccAt (a + 16 * i) = 1) → st = St.ok) ∧
      (∀ i, i < n → e.eccAt (a + 16 * i) = 0) ∧ ∀ y, c.eccAt y = 0 → e.eccAt y = 0 := by
  induction n generalizing a c with
  | zero => exact ⟨St.ok, c, rfl, Chip.keeps.refl _ _, fun ⟨i, hi, _⟩ => absurd hi (Nat.not_lt_zero i), fun _ => rfl,
      fun i hi => absurd hi (Nat.not_lt_zero i), fun _ hy => hy⟩
  | succ n ih =>
    have hnext (i : Nat) : a + 16 * (i + 1) = a + 16 + 16 * i := by omega
    have hfirst : bufferWord a := h 0 (by omega)
    obtain ⟨b, hload, hb, hcheck⟩ := hfirst.read (d := d) (x := x) (hecc 0 (by omega))
    have hsame (i : Nat) : b.eccAt (a + 16 + 16 * i) = c.eccAt (a + 16 + 16 * i) := by
      rw [hcheck, if_neg (by omega)]
    have hword (y : Nat) : b.getWord y = c.getWord y := by unfold Chip.getWord; rw [show b.mem = c.mem from hb .mem (by decide)]
    obtain ⟨st, e, hrest, he, hfixed, hclean, hgood, hzero⟩ := ih (a := a + 16) (c := b)
      (fun i hi => hnext i ▸ h (i + 1) (by omega)) fun i hi => by rw [hsame, ← hnext]; exact hecc (i + 1) (by omega)
    have hst : failed st = false ∧ (st = St.corrected ∨ st = St.ok) := by
      by_cases hf : ∃ i, i < n ∧ b.eccAt (a + 16 + 16 * i) = 1
      · exact ⟨hfixed hf ▸ rfl, .inl (hfixed hf)⟩
      · exact ⟨hclean hf ▸ rfl, .inr (hclean hf)⟩
    refine ⟨if c.eccAt a = 1 then St.corrected else st, e, ?_, hb.trans he, fun ⟨i, hi, hone⟩ => ?_, fun hnone => ?_,
      fun i hi => ?_, fun y hy => hzero y ?_⟩
    · have hok : failed (if c.eccAt a = 1 then St.corrected else St.ok) = false := by split <;> rfl
      have hjoin : joinSt (if c.eccAt a = 1 then St.corrected else St.ok) st = if c.eccAt a = 1 then St.corrected else st := by
        unfold joinSt
        rw [hok, hst.1, if_neg Bool.false_ne_true, if_neg Bool.false_ne_true]
        split
        · rw [if_neg (by decide)]
        · rw [if_pos rfl]
      rw [Chip.loadWords, hload]
      simp only [hok, Bool.false_eq_true, if_false, hrest, hjoin, BitVec.ofNat_toNat, BitVec.setWidth_eq]
      rw [List.range_succ_eq_map, List.map_cons, List.map_map]
      simp [hword, Function.comp_def, Nat.mul_add, Nat.add_assoc, Nat.add_comm]
    · split
      · rfl
      · cases i with
        | zero => contradiction
        | succ i => exact hfixed ⟨i, by omega, by rw [hsame, ← hnext, hone]⟩
    · rw [if_neg fun h1 : c.eccAt a = 1 => hnone ⟨0, by omega, h1⟩]
      exact hclean fun ⟨i, hi, hone⟩ => hnone ⟨i + 1, by omega, by rw [hnext, ← hsame, hone]⟩
    · cases i with
      | zero => exact hzero a (by rw [hcheck, if_pos rfl])
      | succ i => rw [hnext]; exact hgood i (by omega)
    · rw [hcheck]; split <;> simp [hy]

end

end Sys2Proof.Machine
end

section
namespace Sys2Proof.Machine

/-! #### The bodies (R205, R207) -/

section
variable {q : Queue} {f : Insn} {d : Die} {b : Chip}

theorem nvWrBody_locked (himm : f.ext.getLsbD 7 = true) (hal : f.tgt.toNat % 8 = 0) (hlo : 0x30000000 ≤ f.tgt.toNat)
    (hhi : f.tgt.toNat + 8 ≤ 0x30040000) (hmay : b.mayWrite (Src.ofQueue q) f.tgt.toNat = false) :
    nvWrBody q f d b = .done St.locked 0 (b.violate (Src.ofQueue q) 0x3E01 0x0B 15 f.tgt.toNat) := by
  rw [nvWrBody, if_pos himm]
  simp only [nvWrImm, hal, inUser, decide_eq_true (And.intro hlo hhi), hmay, ne_eq, not_true_eq_false, Bool.not_true,
    Bool.not_false, Bool.false_eq_true, if_false, if_true, Chip.refuseWrite, Done.fail]

theorem nvWrBody_live (himm : f.ext.getLsbD 7 = true) (hal : f.tgt.toNat % 8 = 0) (hlo : 0x30000000 ≤ f.tgt.toNat)
    (hhi : f.tgt.toNat + 8 ≤ 0x30040000) (hmay : b.mayWrite (Src.ofQueue q) f.tgt.toNat = true) (htx : f.tx = false)
    (hecc : b.eccAt f.tgt.toNat = 0) : nvWrBody q f d b = .done St.ok 0 (b.stored f.tgt.toNat 8 f.op.toNat) := by
  rw [nvWrBody, if_pos himm]
  simp only [nvWrImm, hal, inUser, decide_eq_true (And.intro hlo hhi), hmay, htx, ne_eq, not_true_eq_false, Bool.not_true,
    Bool.false_eq_true, if_false, Chip.partialWrite_good hecc]

/-- A live burst writes the words read from its source at their places. -/
theorem nvWrBody_burst {src m : Nat} {st : Byte} {e : Chip} (himm : f.ext.getLsbD 7 = false) (htx : f.tx = false)
    (hal : f.tgt.toNat % 16 = 0) (hlo : 0x30000000 ≤ f.tgt.toNat) (hhi : f.tgt.toNat + 16 ≤ 0x30040000)
    (hsrc : field f.op 0 32 = src) (hsal : src % 16 = 0) (hm : field f.ext 0 5 = m) (h1 : 1 ≤ m) (h16 : m ≤ 16)
    (hdest : destCheck q src m = none) (hmay : b.mayWrite (Src.ofQueue q) f.tgt.toNat = true) (hst : failed st = false)
    (hload : b.loadWords d (Src.ofQueue q) src m = (st, (List.range m).map fun i => b.getWord (src + 16 * i), e)) :
    nvWrBody q f d b = .done st 0 (e.putAll (b.burst f.tgt.toNat src m)) := by
  have hwords : (((List.range m).map fun i => b.getWord (src + 16 * i)).mapIdx fun i w => (burstAddr f.tgt.toNat i, w))
      = b.burst f.tgt.toNat src m := by
    refine List.ext_getElem (by simp [Chip.burst]) fun i _ _ => ?_
    simp [Chip.burst]
  rw [nvWrBody, if_neg (by rw [himm]; exact Bool.false_ne_true)]
  unfold nvWrBurst
  simp only [hsrc, hm, hal, hsal, inUser, decide_eq_true (And.intro hlo hhi), Bool.not_true, ne_eq, not_true_eq_false,
    or_self, if_false, Bool.false_eq_true, or_false, hdest, hmay, hload, hst, htx, hwords]
  rw [if_neg (by omega)]
  rfl

theorem nvRdBody_live (htx : f.tx = false) (hal : f.tgt.toNat % 8 = 0) (hlo : 0x30000000 ≤ f.tgt.toNat)
    (hhi : f.tgt.toNat + 8 ≤ 0x30040000) (hmay : b.mayRead (Src.ofQueue q) = true) (hecc : b.eccAt f.tgt.toNat = 0) :
    nvRdBody q f d b = .done St.ok (BitVec.ofNat 64 (memNat 0 b.mem f.tgt.toNat 8)) b := by
  have hregion : regionOf f.tgt.toNat = some 4 := regionOf_user_iff.2 ⟨hlo, by omega⟩
  have hload : b.load d (Src.ofQueue q) f.tgt.toNat 8 = (St.ok, memNat 0 b.mem f.tgt.toNat 8, b) := by
    refine load_good (by omega) ?_ (by rw [hregion]; decide) (fun _ => hmay) hecc
    unfold loadRange
    rw [if_neg (by omega), if_neg (by omega), if_neg (by omega), hregion]
    rfl
  simp only [nvRdBody, hal, inUser, decide_eq_true (And.intro hlo hhi), ne_eq, not_true_eq_false, Bool.not_true,
    Bool.false_eq_true, if_false, b.covered_live q _ _ htx, b.through_live q _ _ _ htx, hload, show failed St.ok = false from rfl]

/-- A counter read leaves the dirty marks. -/
theorem Chip.readCtr_marks (c : Chip) (n : Nat) :
    (c.readCtr n).2.nvs.dirtyC = c.nvs.dirtyC ∧ (c.readCtr n).2.nvs.dirtyP = c.nvs.dirtyP := by
  unfold Chip.readCtr
  dsimp only
  split <;> exact ⟨rfl, rfl⟩

theorem Chip.addCtr_fst (c : Chip) (k : Nat) (v : BitVec 48) : (c.addCtr k v).1 = c.ctrVal k + v := rfl

theorem Chip.addCtr_keeps (c : Chip) (k : Nat) (v : BitVec 48) : c.keeps [.nvs] (c.addCtr k v).2 := by
  refine (c.readCtr_keeps k).trans fun p hp => ?_
  cases p <;> first | exact absurd hp (by decide) | rfl

theorem Chip.addCtr_ctrVal (c : Chip) (k j : Nat) (v : BitVec 48) :
    (c.addCtr k v).2.ctrVal j = if k % 64 = j % 64 then c.ctrVal k + v else c.ctrVal j :=
  ((c.readCtr k).2.ctrVal_setCtr k j _).trans (by rw [Chip.readCtr_ctrVal])

theorem Chip.addCtr_marks (c : Chip) (k : Nat) (v : BitVec 48) :
    (c.addCtr k v).2.nvs.dirtyC = c.nvs.dirtyC ||| BitVec.ofNat 64 (2 ^ k) ∧ (c.addCtr k v).2.nvs.dirtyP = c.nvs.dirtyP := by
  obtain ⟨hc, hp⟩ := c.readCtr_marks k
  exact ⟨congrArg (· ||| BitVec.ofNat 64 (2 ^ k)) hc, hp⟩

theorem ctrIncBody_live (htx : f.tx = false) : ctrIncBody q f d b = .done St.ok
    ((b.ctrVal (field f.tgt 0 6) + f.op.setWidth 48).setWidth 64 |||
      (if 2 ^ 48 ≤ (b.ctrVal (field f.tgt 0 6)).toNat + (f.op.setWidth 48).toNat then 0x0001000000000000 else 0))
    (b.addCtr (field f.tgt 0 6) (f.op.setWidth 48)).2 := by
  simp only [ctrIncBody, htx, decide_eq_true_eq, Chip.addCtr_fst]

theorem ctrRdBody_live (htx : f.tx = false) :
    ctrRdBody q f d b = .done St.ok ((b.ctrVal (field f.tgt 0 6)).setWidth 64) (b.readCtr (field f.tgt 0 6)).2 := by
  simp only [ctrRdBody, htx]
  rfl

end

/-! #### What they leave -/

section
variable {c : Chip} {a n v : Nat}

/-- Bytes written in the user area mark their page dirty and no other. -/
theorem Chip.stored_marks (h : regionOf a = some 4) {p : Nat} (hp : p < 1088) :
    (c.stored a n v).nvs.dirtyP.getLsbD p = (c.nvs.dirtyP.getLsbD p || p == (a - 0x30000000) / 256) := by
  simp only [Chip.stored, if_pos h]
  exact getLsbD_mark _ hp

theorem burstAddr_inside {i : Nat} (hal : a % 16 = 0) :
    burstAddr a i % 16 = 0 ∧ a / 256 * 256 ≤ burstAddr a i ∧ burstAddr a i + 16 ≤ a / 256 * 256 + 256 := by
  unfold burstAddr
  omega

/-- What a burst leaves: its words, the rest of the memory outside its page, the mark of its page (R205). -/
theorem Chip.burst_spec {src m : Nat} {e : Chip} (hal : a % 16 = 0) (hlo : 0x30000000 ≤ a) (hhi : a + 16 ≤ 0x30040000)
    (h1 : 1 ≤ m) (h16 : m ≤ 16) :
    (∀ i, i < m → (e.putAll (c.burst a src m)).getWord (burstAddr a i) = c.getWord (src + 16 * i) ∧
      (e.putAll (c.burst a src m)).eccAt (burstAddr a i) = 0) ∧
    (∀ y, regionOf y ≠ some 4 → (e.putAll (c.burst a src m)).eccAt y = e.eccAt y) ∧
    sameOutside 0 e.mem (e.putAll (c.burst a src m)).mem (a / 256 * 256) 256 ∧
    (e.putAll (c.burst a src m)).nvs.dirtyP.getLsbD ((a - 0x30000000) / 256) = true := by
  have hplace : ∀ y ∈ c.burst a src m, ∃ i, i < m ∧ y.1 = burstAddr a i := fun y hy => by
    obtain ⟨i, hi, rfl⟩ := List.mem_map.1 hy
    exact ⟨i, List.mem_range.1 hi, rfl⟩
  have hmem (i : Nat) (hi : i < m) : (burstAddr a i, c.getWord (src + 16 * i)) ∈ c.burst a src m :=
    List.mem_map.2 ⟨i, List.mem_range.2 hi, rfl⟩
  have hword : ∀ y ∈ c.burst a src m,
      y.1 % 16 = 0 ∧ a / 256 * 256 ≤ y.1 ∧ y.1 + 16 ≤ a / 256 * 256 + 256 := fun y hy => by
    obtain ⟨i, -, hi⟩ := hplace y hy
    rw [hi]
    exact burstAddr_inside hal
  have huser : ∀ y, a / 256 * 256 ≤ y → y < a / 256 * 256 + 256 → regionOf y = some 4 := fun y _ _ =>
    regionOf_user_iff.2 (by omega)
  refine ⟨fun i hi => e.putAll_word (e := (burstAddr a i, c.getWord (src + 16 * i))) (fun y hy => (hword y hy).1)
    (by rw [Chip.burst_addrs]; exact burstAddr_nodup h16) (hmem i hi), fun y hy => ?_, fun x hx => e.putAll_read fun y hy => ?_,
    e.putAll_dirty (by omega) (.inr ⟨_, hmem 0 h1, ?_⟩)⟩
  · refine congrArg BitVec.toNat (e.putAll_check fun z hz hyz => hy (huser y ?_ ?_)) <;>
      · obtain ⟨_, _, _⟩ := hword z hz
        omega
  · obtain ⟨_, _, _⟩ := hword y hy
    omega
  · obtain ⟨_, hfrom, hto⟩ := burstAddr_inside (a := a) (i := 0) hal
    exact ⟨huser _ hfrom (by omega), by dsimp only; omega⟩

end

/-- Settles O17: NV.WR writes its eight bytes, or its words read from their source with their corrections, each at its own
place of the page; a counter is read with its copies repaired before it is advanced. -/
theorem storeAccesses : Obligations.StoreAccesses := by
  unfold Obligations.StoreAccesses
  refine ⟨fun q f s b => ?store, fun q f s b => ?counters⟩
  case store =>
    intro a n src page
    refine ⟨fun h himm hal hlo hhi => ⟨fun hmay hroom => ?_, fun hmay htx hecc => ?_⟩,
      fun h himm hal hlo hhi hsal h1 h16 hdest hmay htx hecc => ?_,
      fun h hal hlo hhi hmay htx hecc => insn_done h (nvRdBody_live htx hal hlo hhi hmay hecc) ⟨rfl, rfl⟩, fun h hal => ?_⟩
    · obtain ⟨t, e, hex, hdone, hk, hviol, hlast⟩ := insn_violates h (nvWrBody_locked himm hal hlo hhi hmay) hroom
      exact ⟨t, e, hex, hdone, hk, hviol, hlast.trans (by simp)⟩
    · have hk := b.stored_keeps a 8 f.op.toNat
      obtain ⟨t, hex, hdone⟩ := insn_done h (nvWrBody_live himm hal hlo hhi hmay htx hecc)
        (Chip.noRecord_of_keeps hk (by decide))
      refine ⟨t, _, hex, hdone, hk, ?_, fun x hx => ?_, fun p hp => Chip.stored_marks (regionOf_user_iff.2 (by omega)) hp⟩
      · rw [Chip.stored_mem, memNat_put]
        exact Nat.mod_eq_of_lt f.op.isLt
      · rw [Chip.stored_mem]
        exact memRead_put_other _ _ _ _ hx
    · intro word fixed
      refine ⟨fun i j hi hj hij heq => hij ?_, ?_⟩
      · have hdistinct : word i = word j := heq
        simp only [word] at hdistinct
        omega
      obtain ⟨st, e, hload, hread, hfixed, hclean, hcheck, -⟩ := b.loadWords_buffer (d := s.die) (x := Src.ofQueue q)
        (fun i hi => bufferWord_of_destCheck hdest hi) hecc
      have hst : failed st = false := by
        by_cases hf : fixed
        · rw [hfixed hf]; rfl
        · rw [hclean hf]; rfl
      have hk := (hread.mono (by decide)).trans (e.putAll_keeps (b.burst a src n))
      obtain ⟨t, hex, hdone⟩ := insn_done h
        (nvWrBody_burst himm htx hal hlo hhi rfl hsal rfl h1 h16 hdest hmay hst hload) (Chip.noRecord_of_keeps hk (by decide))
      obtain ⟨hwords, hother, houtside, hdirty⟩ := Chip.burst_spec (c := b) (src := src) (e := e) hal hlo hhi h1 h16
      have hmem : e.mem = b.mem := hread .mem (by decide)
      refine ⟨t, _, st, hex, hdone, hk, hfixed, hclean, hwords, fun i hi => ?_, hmem ▸ houtside, hdirty⟩
      rw [hother, hcheck i hi]
      rw [ne_eq, regionOf_user_iff]
      have := (bufferWord_of_destCheck hdest hi).2
      omega
    · refine insn_refused h ?_
      simp only [nvRdBody]
      rw [if_pos hal]
      rfl
  case counters =>
    intro k v
    have hk : k < 64 := Nat.mod_lt _ (by decide)
    refine ⟨fun h htx => ?_, fun h htx => ?_⟩
    · obtain ⟨t, hex, hdone⟩ := insn_done h (ctrIncBody_live htx) (Chip.noRecord_of_keeps (b.addCtr_keeps k v) (by decide))
      obtain ⟨hdirtyC, hdirtyP⟩ := b.addCtr_marks k v
      refine ⟨t, _, hex, hdone, b.addCtr_keeps k v, ?_, fun j hj hjk => ?_, fun j hj => ?_, hdirtyP⟩
      · rw [Chip.addCtr_ctrVal, if_pos rfl]
      · rw [Chip.addCtr_ctrVal, if_neg (by omega)]
      · rw [hdirtyC]
        exact getLsbD_mark _ hj
    · obtain ⟨t, hex, hdone⟩ := insn_done h (ctrRdBody_live htx) (Chip.noRecord_of_keeps (b.readCtr_keeps k) (by decide))
      exact ⟨t, _, hex, hdone, b.readCtr_keeps k, fun j _ => b.readCtr_ctrVal k j, (b.readCtr_marks k).1⟩

end Sys2Proof.Machine
end

section
namespace Sys2Proof.Machine

/-! ### EDGE.SET and EDGE.PULSE (R199, R254 to R256) -/

/-- The level an edge request leaves first, by its opcode. -/
def edgeLead (code : BitVec 8) (f : Insn) : BitVec 2 :=
  if code == 0x30 then f.tgt.extractLsb' 8 2 else if f.tgt.getLsbD 8 then 1 else 0

/-- The second edge of a request, by its opcode: a pulse has one. -/
def edgeTrail (code : BitVec 8) (f : Insn) : Option (BitVec 64 × BitVec 2) :=
  if code == 0x30 then none
  else some (BitVec.ofNat 64 (widthTicks (field f.ext 2 2) (field f.tgt 12 20)), if f.tgt.getLsbD 8 then 0 else 1)

section
variable {code : BitVec 8} {f : Insn} {next dly : BitVec 64}

theorem edgeReq_mode : (edgeReq code f next dly).mode = f.ext.extractLsb' 0 2 := by
  unfold edgeReq; split <;> rfl

theorem edgeReq_lead : (edgeReq code f next dly).lead = edgeLead code f := by
  unfold edgeReq edgeLead; split <;> rfl

theorem edgeReq_trail : (edgeReq code f next dly).trail = edgeTrail code f := by
  unfold edgeReq edgeTrail; split <;> rfl

/-- The time a request asks for: T of an absolute one, the begin of the next cc at the ball of an immediate one. -/
theorem edgeReq_absolute (h : f.ext.extractLsb' 0 2 = 0) : (edgeReq code f next dly).t = f.op := by
  unfold edgeReq; rw [h]; split <;> rfl

theorem edgeReq_immediate (h : f.ext.extractLsb' 0 2 = 2) : (edgeReq code f next dly).t = next + dly := by
  unfold edgeReq; rw [h]; split <;> rfl

/-- A time that the board delay would place before the end of the cc moves to it. -/
theorem dueTime_eq (t : BitVec 64) : dueTime next dly t
    = (if decide ((t - dly - next).toInt < 0) = true then next + dly else t,
      decide ((t - dly - next).toInt < 0) || decide ((t - next).toInt < 0)) := by
  unfold dueTime signedGap
  split
  · simp_all
  · simp_all

/-- An immediate edge falls at step 0 of the next cc at the ball. -/
theorem dueTime_immediate : (dueTime next dly (next + dly)).1 = next + dly := by
  rw [dueTime_eq]; split <;> rfl

section
variable (r : EdgeReq)

theorem EdgeReq.atHead_fields : (r.atHead next dly).mode = r.mode ∧ (r.atHead next dly).lead = r.lead ∧
    (r.atHead next dly).trail = r.trail := by
  unfold EdgeReq.atHead
  split <;> exact ⟨rfl, rfl, rfl⟩

theorem EdgeReq.atHead_absolute (h : r.mode = 0) : (r.atHead next dly).edge
    = some ⟨(dueTime next dly r.t).1, r.lead, (dueTime next dly r.t).2, r.trail⟩ := by
  unfold EdgeReq.atHead; rw [h]; rfl

theorem EdgeReq.atHead_immediate (h : r.mode = 2) : (r.atHead next dly).edge
    = some ⟨(dueTime next dly r.t).1, r.lead, false, r.trail⟩ := by
  unfold EdgeReq.atHead; rw [h]; rfl

end

/-- The request as its queue holds it: at the head its edge is known. -/
def Pin.entered (p : Pin) (next : BitVec 64) (r : EdgeReq) : EdgeReq := if p.q.isEmpty then r.atHead next p.delay else r

theorem Pin.enter_eq (p : Pin) (r : EdgeReq) : p.enter next r = { p with q := p.q ++ [p.entered next r] } := by
  unfold Pin.enter Pin.entered
  cases hq : p.q <;> rfl

theorem Pin.entered_fields (p : Pin) (r : EdgeReq) : (p.entered next r).mode = r.mode ∧ (p.entered next r).lead = r.lead ∧
    (p.entered next r).trail = r.trail := by
  unfold Pin.entered
  split
  · exact r.atHead_fields
  · exact ⟨rfl, rfl, rfl⟩

theorem Pin.entered_first (p : Pin) (r : EdgeReq) (h : p.q = []) : p.entered next r = r.atHead next p.delay := by
  unfold Pin.entered; rw [h]; rfl

end

section
variable {code : BitVec 8} {q : Queue} {f : Insn} {d : Die} {b : Chip}

/-- A request that passes its RANGE checks names a user pin. -/
theorem edgeRange_pin (h : edgeRange b code f = true) : field f.tgt 0 8 < 192 := by
  simp only [edgeRange, Chip.epuPin, Bool.and_eq_true, decide_eq_true_eq] at h
  exact h.1.1.1

theorem edgeRange_mode (h : edgeRange b code f = true) : f.ext.extractLsb' 0 2 ≠ 3 := by
  simp only [edgeRange, Bool.and_eq_true] at h
  simpa using h.1.2

theorem edgeBody_range (h : edgeRange b code f = false) : edgeBody code q f d b = .done St.range 0 b := by
  simp only [edgeBody, h, Bool.not_false, if_true, Done.fail]

theorem edgeBody_busy (h : edgeRange b code f = true) (htx : f.tx = false)
    (hfull : 8 ≤ (vget b.pins (field f.tgt 0 8)).q.length) :
    edgeBody code q f d b = .done St.busy 0 b := by
  simp only [edgeBody, h, htx, Bool.not_true, Bool.false_eq_true, if_false, if_pos hfull, Done.fail]

theorem Chip.acceptEdge_chip : (b.acceptEdge code f).2.2 = b.modPin (field f.tgt 0 8) fun x =>
    x.enter b.next (edgeReq code f b.next (vget b.pins (field f.tgt 0 8)).delay) := rfl

theorem edgeBody_accepted (h : edgeRange b code f = true) (htx : f.tx = false)
    (hroom : (vget b.pins (field f.tgt 0 8)).q.length < 8) :
    edgeBody code q f d b = .done (b.acceptEdge code f).1 (b.acceptEdge code f).2.1
      (b.modPin (field f.tgt 0 8) fun x => x.enter b.next (edgeReq code f b.next (vget b.pins (field f.tgt 0 8)).delay)) := by
  rw [← Chip.acceptEdge_chip]
  simp only [edgeBody, h, htx, Bool.not_true, Bool.false_eq_true, if_false, if_neg (not_le.2 hroom)]

end

/-- What the acceptance of a request answers: late for a T before the end of the cc, and the time of the edge. -/
theorem acceptEdge_answer {b : Chip} {code : BitVec 8} {f : Insn} (h : edgeRange b code f = true) :
    let dly := (vget b.pins (field f.tgt 0 8)).delay
    let mode : BitVec 2 := f.ext.extractLsb' 0 2
    (b.acceptEdge code f).1 = (if mode = 0 ∧ decide ((f.op - b.next).toInt < 0) = true then St.late else St.ok) ∧
    (b.acceptEdge code f).2.1 = (if mode = 1 then 0 else
      if mode = 2 ∨ decide ((f.op - dly - b.next).toInt < 0) = true then b.next + dly else f.op) := by
  intro dly mode
  obtain ⟨r, hr⟩ : ∃ r, r = edgeReq code f b.next dly := ⟨_, rfl⟩
  have hmode : r.mode = mode := hr ▸ edgeReq_mode
  have hstatus : (b.acceptEdge code f).1
      = if (r.mode == 0 && decide (signedGap r.t b.next < 0)) = true then St.late else St.ok := by
    rw [hr]; rfl
  have htime : (b.acceptEdge code f).2.1 = if (r.mode == 1) = true then 0 else (dueTime b.next dly r.t).1 := by rw [hr]; rfl
  rw [hstatus, htime, hmode]
  have hcases : mode = 0 ∨ mode = 1 ∨ mode = 2 := by
    have hne : mode ≠ 3 := edgeRange_mode h
    revert hne
    generalize mode = m
    revert m
    decide
  rcases hcases with h0 | h1 | h2
  · have ht : r.t = f.op := hr ▸ edgeReq_absolute h0
    rw [h0, ht, dueTime_eq]
    simp [signedGap]
  · rw [h1]
    simp
  · have ht : r.t = b.next + dly := hr ▸ edgeReq_immediate h2
    rw [h2, ht, dueTime_immediate]
    simp

/-- What an edge opcode does (Table ISA-5): a request that its checks let through and that finds room enters its pin's queue;
the others change nothing. -/
theorem edge_rules {o : OpInfo} {q : Queue} {f : Insn} {s : State} {b : Chip} (h : s.chip.issuesAs o q f b) :
    let p := field f.tgt 0 8
    let x := vget b.pins p
    let mode : BitVec 2 := f.ext.extractLsb' 0 2
    let late := decide ((f.op - b.next).toInt < 0)
    let moved := decide ((f.op - x.delay - b.next).toInt < 0)
    let res : DWord := if mode = 1 then 0 else if mode = 2 ∨ moved = true then b.next + x.delay else f.op
    (edgeRange b o.code f = true → f.tx = false → x.q.length < 8 →
      ∃ t e r, insn o (edgeBody o.code) q f s = .next t ∧
        Completes q f (if mode = 0 ∧ late = true then St.late else St.ok) res b.lt s e t ∧ b.keeps [.pins] e ∧
        vget e.pins p = { x with q := x.q ++ [r] } ∧ (∀ k, k < 192 → k ≠ p → vget e.pins k = vget b.pins k) ∧
        r.mode = mode ∧ r.lead = edgeLead o.code f ∧ r.trail = edgeTrail o.code f ∧
        (mode = 0 → x.q = [] → r.edge = some ⟨res, edgeLead o.code f, moved || late, edgeTrail o.code f⟩) ∧
        (mode = 2 → x.q = [] → r.edge = some ⟨res, edgeLead o.code f, false, edgeTrail o.code f⟩)) ∧
    (edgeRange b o.code f = true → f.tx = false → 8 ≤ x.q.length →
      ∃ t, insn o (edgeBody o.code) q f s = .next t ∧ Completes q f St.busy 0 b.lt s b t) ∧
    (edgeRange b o.code f = false →
      ∃ t, insn o (edgeBody o.code) q f s = .next t ∧ Completes q f St.range 0 b.lt s b t) := by
  intro p x mode late moved res
  refine ⟨fun hrange htx hroom => ?_, fun hrange htx hfull => insn_refused h (edgeBody_busy hrange htx hfull),
    fun hrange => insn_refused h (edgeBody_range hrange)⟩
  obtain ⟨hstatus, htime⟩ := acceptEdge_answer hrange
  have hp : p < 192 := edgeRange_pin hrange
  have hk := b.modPin_keeps p fun y => y.enter b.next (edgeReq o.code f b.next x.delay)
  obtain ⟨t, hex, hdone⟩ := insn_done h (edgeBody_accepted hrange htx hroom) (Chip.noRecord_of_keeps hk (by decide))
  rw [hstatus, htime] at hdone
  obtain ⟨hmode, hlead, htrail⟩ := x.entered_fields (next := b.next) (edgeReq o.code f b.next x.delay)
  rw [edgeReq_mode] at hmode
  rw [edgeReq_lead] at hlead
  rw [edgeReq_trail] at htrail
  refine ⟨t, _, x.entered b.next (edgeReq o.code f b.next x.delay), hex, hdone, hk, ?_, fun k hk hne => ?_, hmode,
    hlead, htrail, fun h0 hq => ?_, fun h2 hq => ?_⟩
  · exact (vget_vmod_same ..).trans (x.enter_eq _)
  · exact vget_vmod_other _ _ (by rw [Nat.mod_eq_of_lt hp, Nat.mod_eq_of_lt hk]; exact Ne.symm hne)
  · rw [x.entered_first _ hq, EdgeReq.atHead_absolute _ (edgeReq_mode.trans h0), edgeReq_absolute h0,
      edgeReq_lead, edgeReq_trail, dueTime_eq]
    simp [res, h0, moved, late]
  · rw [x.entered_first _ hq, EdgeReq.atHead_immediate _ (edgeReq_mode.trans h2), edgeReq_immediate h2, edgeReq_lead,
      edgeReq_trail, dueTime_immediate]
    simp [res, h2]

/-- Settles O14: both opcodes are one body, which differs in the levels of the request alone. -/
theorem edgeRequestsEnterTheirQueue : Obligations.EdgeRequestsEnterTheirQueue := by
  unfold Obligations.EdgeRequestsEnterTheirQueue
  exact fun q f s b => ⟨fun h => edge_rules h, fun h => edge_rules h⟩

end Sys2Proof.Machine
end

section
namespace Sys2Proof.Machine

/-! ### An instruction that issues waits for nothing -/

/-- A word is taken from a queue whose head does not wait. -/
theorem Chip.take_wait {c a : Chip} {q : Queue} {w : QWord} (h : c.take q w = .yes a) : (a.queue q).wait = none := by
  unfold Chip.take at h
  generalize c.fetchCheck q = b at h
  dsimp only at h
  split at h
  · cases h
  next hfree =>
    have hwait : (b.queue q).wait = none := by
      simp only [Bool.or_eq_true, not_or, Option.isSome_iff_ne_none, not_not] at hfree
      exact hfree.1.2
    split at h
    case h_1 fr _ _ =>
      split at h
      · cases h
        have hbad : (if b.eccAt fr.next = 1 then (b.setEcc fr.next 0).logCorrect fr.next else b).eng.queues = b.eng.queues := by
          split
          · exact Chip.logCorrect_keeps _ _ .queues (by decide)
          · rfl
        unfold Chip.fetched
        simp only [Chip.queue_modQ_same]
        rw [Chip.queue_congr hbad, hwait]
      · cases h
    case h_2 =>
      split at h
      · cases h
        split
        · rw [Chip.queue_modQ_same]; exact hwait
        · exact hwait
      · split at h
        · cases h
          rw [Chip.queue_modQ_same]; exact hwait
        · cases h

theorem Chip.issuesAs_wait {a b : Chip} {o : OpInfo} {q : Queue} {f : Insn} (h : a.issuesAs o q f b) :
    (b.queue q).wait = none := by
  obtain ⟨-, c, htake, -, -, -, rfl⟩ := h
  rw [Chip.begun, Chip.queue_modQ_same]
  exact Chip.take_wait htake

/-! ### The first read burst of a channel (R399, R400) -/

section
variable {c : Chip} {ch : Nat}

/-- The source of a channel's next `n` words is good memory of the Profile RAM, whatever rearrangement they take. -/
structure Chip.readable (c : Chip) (d : Dma) (n : Nat) : Prop where
  linear  : d.smode = 0
  first   : 0x10000000 ≤ d.srcAddr d.rd
  last    : d.srcAddr d.rd + 16 * n ≤ 0x10100000
  aligned : d.srcAddr d.rd % 16 = 0
  checks  : ∀ i, i < n → c.eccAt (d.srcAddr d.rd + 16 * i) = 0

/-- The channel that has read `n` words more into its buffer, whatever they are. -/
def Dma.reads (n : Nat) (d x : Dma) : Prop :=
  ∃ buf chk rdbytes capPos, buf.length = d.buf.length + n ∧
    x = { d with buf := buf, rd := d.rd + n, chk := chk, rdbytes := rdbytes, capPos := capPos }

theorem Chip.dmaGet_readable {die : Die} {n : Nat} (h : c.readable (vget c.dma ch) n) :
    ∃ e, c.dmaGet die ch n = (none, e) ∧ c.keeps [.dma] e ∧ (∀ k, k % 12 ≠ ch % 12 → vget e.dma k = vget c.dma k) ∧
      Dma.reads n (vget c.dma ch) (vget e.dma ch) := by
  induction n generalizing c with
  | zero => exact ⟨c, rfl, Chip.keeps.refl _ _, fun _ _ => rfl, _, _, _, _, rfl, rfl⟩
  | succ n ih =>
    obtain ⟨d, hd⟩ : ∃ d, d = vget c.dma ch := ⟨_, rfl⟩
    rw [← hd] at h
    obtain ⟨hlin, hfirst, hlast, hal, hchk⟩ := h
    obtain ⟨w, hw⟩ : ∃ w, w = swapWord (field d.lcfg 14 3) (c.getWord (d.srcAddr d.rd)) := ⟨_, rfl⟩
    obtain ⟨b, hb⟩ : ∃ b, b = c.modDma ch (·.read w) := ⟨_, rfl⟩
    have hstep : c.dmaGet die ch (n + 1) = b.dmaGet die ch n := by
      have hload := load_profile (d := die) (x := Src.dma d.queue) hfirst (by omega) hal (hchk 0 (by omega))
      rw [Chip.dmaGet]
      simp only [← hd, hload, show failed St.ok = false from rfl, Bool.false_eq_true, if_false, BitVec.ofNat_toNat,
        BitVec.setWidth_eq, ← hw, hb]
      congr 2
      funext x
      simp [Dma.read, show (St.ok == St.corrected) = false from rfl]
    have hbd : vget b.dma ch = d.read w := by rw [hb, hd]; exact vget_vmod_same ..
    have hbk : c.keeps [.dma] b := hb ▸ c.modDma_keeps _ _
    have haddr : (vget b.dma ch).srcAddr (vget b.dma ch).rd = d.srcAddr d.rd + 16 := by
      rw [hbd, Dma.srcAddr_linear hlin, Dma.srcAddr_linear (d := d.read w) hlin]
      simp only [Dma.read]; omega
    have hgood : b.readable (vget b.dma ch) n := by
      refine ⟨by rw [hbd]; exact hlin, by omega, by omega, by omega, fun i hi => ?_⟩
      rw [haddr, Chip.eccAt_congr (hbk .ecc (by decide)),
        show d.srcAddr d.rd + 16 + 16 * i = d.srcAddr d.rd + 16 * (i + 1) by omega]
      exact hchk (i + 1) (by omega)
    obtain ⟨e, hget, hk, hothers, buf, chk, rdbytes, capPos, hlen, he⟩ := ih hgood
    refine ⟨e, hstep.trans hget, hbk.trans hk, fun k hne => ?_, buf, chk, rdbytes, capPos, ?_, ?_⟩
    · rw [hothers k hne, hb]; exact vget_vmod_other _ _ fun h => hne h.symm
    · rw [hlen, hbd, ← hd, Dma.read, List.length_append, List.length_singleton]
      omega
    · rw [he, hbd, ← hd]
      simp only [Dma.read, Nat.add_right_comm _ 1 n]
      rfl

/-- A read burst takes its words on credits of the pool. -/
theorem Chip.dmaRead_readable {die : Die} (hr : c.dmaReady ch = true) (h : c.readable (vget c.dma ch) (c.nextBurst ch)) :
    let d := vget c.dma ch
    let n := c.nextBurst ch
    let e := c.dmaRead die ch
    c.keeps [.dma, .credits, .rdTurn] e ∧ e.credits = c.credits - n ∧
      (∀ k, k % 12 ≠ ch % 12 → vget e.dma k = vget c.dma k) ∧
      ∃ x, Dma.reads n { d with credits := d.credits + n } x ∧ vget e.dma ch = { x with tries := 0 } := by
  intro d n e
  obtain ⟨b, hb⟩ : ∃ b, b = { c with credits := c.credits - n, rdTurn := (ch + 1) % 12 }.modDma ch fun d =>
    { d with credits := d.credits + n } := ⟨_, rfl⟩
  have hbk : c.keeps [.dma, .credits, .rdTurn] b := by
    intro p hp
    rw [hb]
    cases p <;> first | rfl | exact absurd hp (by decide)
  have hbd : vget b.dma ch = { d with credits := d.credits + n } := by rw [hb]; exact vget_vmod_same ..
  have hgood : b.readable (vget b.dma ch) n := by
    rw [hbd]
    refine ⟨h.linear, h.first, h.last, h.aligned, fun i hi => ?_⟩
    rw [Chip.eccAt_congr (hbk .ecc (by decide))]
    exact h.checks i hi
  obtain ⟨g, hget, hk, hothers, hreads⟩ := Chip.dmaGet_readable (die := die) hgood
  have he : e = g.modDma ch fun d => { d with tries := 0 } := by
    show c.dmaRead die ch = _
    unfold Chip.dmaRead
    simp only [hr, Bool.not_true, Bool.false_eq_true, if_false]
    rw [← hb, hget]
    rfl
  have hkeep : b.keeps [.dma] e := he ▸ hk.trans (Chip.modDma_keeps _ _ _)
  refine ⟨hbk.trans (hkeep.mono (by decide)), (hkeep .credits (by decide)).trans (by rw [hb]; rfl), fun k hne => ?_, _,
    hbd ▸ hreads, by rw [he]; exact vget_vmod_same ..⟩
  rw [he, Chip.modDma, vget_vmod_other _ _ fun h => hne h.symm, hothers k hne, hb]
  exact vget_vmod_other _ _ fun h => hne h.symm

end

end Sys2Proof.Machine
end

section
namespace Sys2Proof.Machine

/-! ### DMA.GO (R208, R209, R395) -/

section
variable {q : Queue} {f : Insn} {die : Die} {b : Chip} {ch : Nat}

/-- The channel of a DMA.GO with its descriptor latched, and running on it. -/
def Chip.latched (b : Chip) (q : Queue) (ch : Nat) : Chip := b.modDma ch (·.latch q)
def Chip.started (b : Chip) (q : Queue) (ch : Nat) : Chip := (b.latched q ch).modDma ch Dma.start

theorem Chip.latched_keeps (b : Chip) (q : Queue) (ch : Nat) : b.keeps [.dma] (b.latched q ch) := b.modDma_keeps _ _

theorem Chip.started_keeps (b : Chip) (q : Queue) (ch : Nat) : b.keeps [.dma] (b.started q ch) :=
  (b.latched_keeps q ch).trans (Chip.modDma_keeps _ _ _)

theorem Chip.latched_self (b : Chip) (q : Queue) (ch : Nat) : vget (b.latched q ch).dma ch = (vget b.dma ch).latch q :=
  vget_vmod_same ..

theorem Chip.started_self (b : Chip) (q : Queue) (ch : Nat) : vget (b.started q ch).dma ch = ((vget b.dma ch).latch q).start :=
  (vget_vmod_same ..).trans (congrArg Dma.start (b.latched_self q ch))

theorem Chip.modDma_other (b : Chip) (g : Dma → Dma) {k : Nat} (h : k % 12 ≠ ch % 12) :
    vget (b.modDma ch g).dma k = vget b.dma k := vget_vmod_other _ _ fun heq => h heq.symm

theorem Chip.started_other (b : Chip) (q : Queue) {k : Nat} (h : k % 12 ≠ ch % 12) :
    vget (b.started q ch).dma k = vget b.dma k := (Chip.modDma_other _ _ h).trans (Chip.modDma_other _ _ h)

/-- A channel whose descriptor passes its checks lies below 12, and its source and its count are aligned. -/
theorem dmaGoCheck_none {d : Dma} (h : dmaGoCheck die ch d = none) :
    ch < 12 ∧ d.src.toNat % 16 = 0 ∧ d.len.toNat % 16 = 0 ∧ dmaCfgOk ch d.src d.cfg = true ∧
      (d.len = 0 → field d.cfg 0 2 = 2 ∨ field d.cfg 2 2 = 2) := by
  unfold dmaGoCheck at h
  dsimp only at h
  split at h; · cases h
  split at h; · cases h
  split at h; · cases h
  split at h; · cases h
  next halign hrange hcfg hlen =>
    refine ⟨by omega, ?_, ?_, by simpa using hcfg, fun h0 => ?_⟩
    · by_contra hne
      exact halign ⟨by omega, .inl hne⟩
    · by_contra hne
      exact halign ⟨by omega, .inr (.inr hne)⟩
    · by_contra hne
      rw [not_or] at hne
      exact hlen ⟨h0, hne⟩

theorem dmaCfgOk_burst {src cfg : Word} (h : dmaCfgOk ch src cfg = true) : field cfg 20 3 ≤ 6 := by
  simp only [dmaCfgOk, Bool.and_eq_true, decide_eq_true_eq] at h
  exact h.1.2

section
variable (hwait : (b.queue q).wait = none)
include hwait

theorem dmaGoBody_checked {st : Byte} (h : dmaGoCheck die (field f.tgt 0 4) (vget b.dma (field f.tgt 0 4)) = some (st, false)) :
    dmaGoBody q f die b = .done st 0 b := by
  have hholds : b.goHolds q = false := by simp only [Chip.goHolds, hwait]
  simp only [dmaGoBody, hholds, Bool.false_eq_true, if_false, h, Done.fail]

section
variable (hcheck : dmaGoCheck die (field f.tgt 0 4) (vget b.dma (field f.tgt 0 4)) = none)
  (hposted : (b.queue q).posted = false)
include hcheck hposted

theorem dmaGoBody_free : dmaGoBody q f die b =
    if (vget b.dma (field f.tgt 0 4)).active then .done St.busy 0 b
    else if b.memo.drops.getLsbD (field f.tgt 0 4) then .done St.stale 0 b
    else if b.goWaits q (field f.tgt 0 4) then .wait .credits 0 0 b
    else (b.latched q (field f.tgt 0 4)).goStart die (field f.tgt 0 4) := by
  have hholds : b.goHolds q = false := by simp only [Chip.goHolds, hwait]
  simp only [dmaGoBody, hholds, Bool.false_eq_true, if_false, hcheck, hposted]
  rfl

variable (hidle : (vget b.dma (field f.tgt 0 4)).active = false) (hkept : b.memo.drops.getLsbD (field f.tgt 0 4) = false)
  (hmine : b.goWaits q (field f.tgt 0 4) = false)
include hidle hkept hmine

theorem dmaGoBody_paced (h : field (vget b.dma (field f.tgt 0 4)).cfg 23 2 = 1) :
    dmaGoBody q f die b = .done St.ok 0 (b.started q (field f.tgt 0 4)) := by
  have hpaced : (vget (b.started q (field f.tgt 0 4)).dma (field f.tgt 0 4)).paced = true := by
    rw [Chip.started_self]
    exact beq_iff_eq.2 h
  rw [dmaGoBody_free hwait hcheck hposted, hidle, hkept, hmine]
  exact if_pos hpaced

theorem dmaGoBody_unpaced (h : field (vget b.dma (field f.tgt 0 4)).cfg 23 2 = 0) :
    dmaGoBody q f die b =
      if b.credits < (b.started q (field f.tgt 0 4)).nextBurst (field f.tgt 0 4) then
        .wait .credits 0 1 (b.latched q (field f.tgt 0 4))
      else .done St.ok 0 ((b.started q (field f.tgt 0 4)).dmaRead die (field f.tgt 0 4)) := by
  have hpaced : (vget (b.started q (field f.tgt 0 4)).dma (field f.tgt 0 4)).paced = false := by
    rw [Chip.started_self]
    exact beq_eq_false_iff_ne.2 fun h1 => absurd (h.symm.trans h1) (by decide)
  rw [dmaGoBody_free hwait hcheck hposted, hidle, hkept, hmine]
  refine if_neg (show ¬ (vget (b.started q (field f.tgt 0 4)).dma (field f.tgt 0 4)).paced = true from ?_)
  rw [hpaced]
  exact Bool.false_ne_true

end

end

/-- The first burst of a channel that reads on from its source: some words, 64 at most. -/
theorem Chip.started_nextBurst (hcheck : dmaGoCheck die ch (vget b.dma ch) = none) (hmode : field (vget b.dma ch).cfg 0 2 = 0)
    (hpace : field (vget b.dma ch).cfg 23 2 = 0) :
    1 ≤ (b.started q ch).nextBurst ch ∧ (b.started q ch).nextBurst ch ≤ 64 := by
  obtain ⟨-, hsrc, hlen, hcfg, hendless⟩ := dmaGoCheck_none hcheck
  obtain ⟨d, hd⟩ : ∃ d, d = vget b.dma ch := ⟨_, rfl⟩
  rw [← hd] at hsrc hlen hcfg hendless hmode hpace
  have hpaced : ((d.latch q).start).paced = false := beq_eq_false_iff_ne.2 fun h1 => absurd (hpace.symm.trans h1) (by decide)
  have hleft : 1 ≤ ((d.latch q).start).left := by
    have heq : ((d.latch q).start).left = if d.len = 0 then 2 ^ 20 else d.len.toNat / 16 - 0 := rfl
    rw [heq]
    split
    · decide
    · have : d.len.toNat ≠ 0 := fun h0 => absurd (BitVec.eq_of_toNat_eq h0) (by assumption)
      omega
  have hburst : (b.started q ch).nextBurst ch
      = min (min (2 ^ field d.cfg 20 3) ((d.latch q).start).left) ((1024 - d.src.toNat % 1024) / 16) := by
    have hshape : (b.started q ch).nextBurst ch = burstLen 0 d.src.toNat ((d.latch q).start).sclog (field d.cfg 20 3) 0
        ((d.latch q).start).left := by
      have hsmode : ((d.latch q).start).smode = 0 := hmode
      unfold Chip.nextBurst
      rw [Chip.started_self, ← hd]
      dsimp only
      rw [hpaced, hsmode]
      rfl
    rw [hshape]
    rfl
  have hpow : 2 ^ field d.cfg 20 3 ≤ 2 ^ 6 := Nat.pow_le_pow_right (by decide) (dmaCfgOk_burst hcfg)
  have hone : 1 ≤ 2 ^ field d.cfg 20 3 := Nat.one_le_two_pow
  rw [hburst]
  omega

/-- A DMA.GO begins its first burst (R399). -/
theorem Chip.started_dmaRead (hcheck : dmaGoCheck die ch (vget b.dma ch) = none) (hmode : field (vget b.dma ch).cfg 0 2 = 0)
    (hpace : field (vget b.dma ch).cfg 23 2 = 0) (hroom : (b.started q ch).nextBurst ch ≤ b.credits)
    (hlo : 0x10000000 ≤ (vget b.dma ch).src.toNat)
    (hhi : (vget b.dma ch).src.toNat + 16 * (b.started q ch).nextBurst ch ≤ 0x10100000)
    (hecc : ∀ i, i < (b.started q ch).nextBurst ch → b.eccAt ((vget b.dma ch).src.toNat + 16 * i) = 0) :
    let e := (b.started q ch).dmaRead die ch
    let n := (b.started q ch).nextBurst ch
    b.keeps [.dma, .credits, .rdTurn] e ∧ e.credits = b.credits - n ∧
      (∀ k, k % 12 ≠ ch % 12 → vget e.dma k = vget b.dma k) ∧
      ∃ x, Dma.reads n { ((vget b.dma ch).latch q).start with credits := n } x ∧ vget e.dma ch = { x with tries := 0 } := by
  intro e n
  have hk := b.started_keeps q ch
  have hcredits : (b.started q ch).credits = b.credits := hk .credits (by decide)
  obtain ⟨hsome, hfew⟩ := b.started_nextBurst (q := q) hcheck hmode hpace
  have hready : (b.started q ch).dmaReady ch = true := by
    unfold Chip.dmaReady
    simp only [Chip.started_self, hcredits, Bool.and_eq_true, decide_eq_true_eq, bne_iff_ne]
    refine ⟨⟨⟨⟨rfl, rfl⟩, by omega⟩, hroom⟩, ?_⟩
    rw [show (((vget b.dma ch).latch q).start).credits = 0 from rfl]
    omega
  have hread : (b.started q ch).readable (vget (b.started q ch).dma ch) n := by
    rw [Chip.started_self]
    have hsmode : (((vget b.dma ch).latch q).start).smode = 0 := hmode
    have haddr : (((vget b.dma ch).latch q).start).srcAddr (((vget b.dma ch).latch q).start).rd = (vget b.dma ch).src.toNat :=
      Dma.srcAddr_linear hsmode 0
    obtain ⟨-, hsrc, -⟩ := dmaGoCheck_none hcheck
    refine ⟨hsmode, by omega, by omega, by omega, fun i hi => ?_⟩
    rw [haddr, Chip.eccAt_congr (hk .ecc (by decide))]
    exact hecc i hi
  obtain ⟨hkeeps, hpool, hothers, x, hreads, hx⟩ := Chip.dmaRead_readable (die := die) hready hread
  refine ⟨(hk.mono (by decide)).trans hkeeps, hpool.trans (by rw [hcredits]), fun k hne => (hothers k hne).trans
    (b.started_other q hne), x, ?_, hx⟩
  rw [Chip.started_self, show (((vget b.dma ch).latch q).start).credits = 0 from rfl, Nat.zero_add] at hreads
  exact hreads

end

/-! ### DMA.STOP and DMA.STAT (R208, R410, R411) -/

section
variable {q : Queue} {f : Insn} {die : Die} {b : Chip}

theorem dmaStopBody_range (h : 12 ≤ field f.tgt 0 4) : dmaStopBody q f die b = .done St.range 0 b := by
  simp only [dmaStopBody, if_pos (show 11 < field f.tgt 0 4 by omega), Done.fail]

theorem dmaStopBody_stale (h : field f.tgt 0 4 < 12) (hdrop : b.memo.drops.getLsbD (field f.tgt 0 4) = true) :
    dmaStopBody q f die b = .done St.stale 0 b := by
  simp only [dmaStopBody, if_neg (show ¬ 11 < field f.tgt 0 4 by omega), Chip.dropsNow, hdrop, if_true, Done.fail]

section
variable (hkept : field f.tgt 0 4 < 12 ∧ b.memo.drops.getLsbD (field f.tgt 0 4) = false)
include hkept

theorem dmaStopBody_drop (h : f.ext.getLsbD 0 = true) :
    dmaStopBody q f die b = .done St.ok 0 (b.dropDma (field f.tgt 0 4)) := by
  simp only [dmaStopBody, if_neg (show ¬ 11 < field f.tgt 0 4 by omega), Chip.dropsNow, hkept.2, Bool.false_eq_true, if_false,
    if_pos h]

theorem dmaStopBody_idle (h : f.ext.getLsbD 0 = false) (hidle : (vget b.dma (field f.tgt 0 4)).active = false) :
    dmaStopBody q f die b = .done St.ok ((vget b.dma (field f.tgt 0 4)).bytes.setWidth 64) b := by
  simp only [dmaStopBody, if_neg (show ¬ 11 < field f.tgt 0 4 by omega), Chip.dropsNow, hkept.2, h, Bool.false_eq_true, if_false,
    hidle, Bool.not_false, if_true]

/-- A running channel that holds words drains. -/
theorem dmaStopBody_drain (h : f.ext.getLsbD 0 = false) (hrun : (vget b.dma (field f.tgt 0 4)).st = .running)
    (hbuf : (vget b.dma (field f.tgt 0 4)).buf ≠ []) :
    dmaStopBody q f die b = .wait .drain (BitVec.ofNat 64 (field f.tgt 0 4)) 0
      (b.modDma (field f.tgt 0 4) fun x => { x with st := .draining, gen := x.gen + 1 }) := by
  have hactive : (vget b.dma (field f.tgt 0 4)).active = true := by
    unfold Dma.active; rw [hrun]; rfl
  have hholds : (vget b.dma (field f.tgt 0 4)).drained = false := by
    simp only [Dma.drained, List.isEmpty_eq_false_iff.2 hbuf, Bool.false_and]
  simp only [dmaStopBody, if_neg (show ¬ 11 < field f.tgt 0 4 by omega), Chip.dropsNow, hkept.2, h, Bool.false_eq_true, if_false,
    hactive, hholds, hrun, Bool.not_true, beq_self_eq_true, if_true]

end

/-- The result of a DMA.STAT (Table ISA-8). -/
theorem dmaStat_fields (gen : BitVec 16) (last : Byte) (code : BitVec 4) (bytes : Word) :
    let res : DWord := gen ++ last ++ (0 : BitVec 4) ++ code ++ bytes
    res.extractLsb' 0 32 = bytes ∧ res.extractLsb' 32 4 = code ∧ res.extractLsb' 40 8 = last ∧
      res.extractLsb' 48 16 = gen := by
  intro res
  refine ⟨BitVec.extractLsb'_append_eq_right, ?_, ?_, ?_⟩
  · exact (BitVec.extractLsb'_append_eq_of_le (by decide)).trans BitVec.extractLsb'_append_eq_right
  · exact (BitVec.extractLsb'_append_eq_of_le (by decide)).trans ((BitVec.extractLsb'_append_eq_of_le (by decide)).trans
      ((BitVec.extractLsb'_append_eq_of_le (by decide)).trans BitVec.extractLsb'_append_eq_right))
  · exact (BitVec.extractLsb'_append_eq_of_le (by decide)).trans ((BitVec.extractLsb'_append_eq_of_le (by decide)).trans
      ((BitVec.extractLsb'_append_eq_of_le (by decide)).trans BitVec.extractLsb'_append_eq_left))

theorem dmaStatBody_range (h : 12 ≤ field f.tgt 0 4) : dmaStatBody q f die b = .done St.range 0 b := by
  simp only [dmaStatBody, if_pos (show 11 < field f.tgt 0 4 by omega), Done.fail]

theorem dmaStatBody_answers (h : field f.tgt 0 4 < 12) :
    dmaStatBody q f die b = .done St.ok ((vget b.dma (field f.tgt 0 4)).gen ++ (vget b.dma (field f.tgt 0 4)).last
      ++ (0 : BitVec 4) ++ BitVec.ofNat 4 (vget b.dma (field f.tgt 0 4)).st.code ++ (vget b.dma (field f.tgt 0 4)).bytes) b := by
  simp only [dmaStatBody, if_neg (show ¬ 11 < field f.tgt 0 4 by omega)]

end

/-- Settles O20: a DMA.GO that issues holds no channel yet, so its checks decide; its first burst reads good memory. -/
theorem dmaInstructions : Obligations.DmaInstructions := by
  unfold Obligations.DmaInstructions
  refine ⟨fun q f s b h => ?go, fun q f s b => ?stop⟩
  case go =>
    intro ch d n
    have hwait := Chip.issuesAs_wait h
    refine ⟨fun st hst => insn_refused h (dmaGoBody_checked hwait hst), fun hcheck hposted => ?_⟩
    have hch : ch < 12 := (dmaGoCheck_none hcheck).1
    have hbody := dmaGoBody_free (f := f) hwait hcheck hposted
    refine ⟨fun hactive => ?_, fun hidle hdrop => ?_, fun hidle hkept hheld => ?_, fun hidle hkept hmine hpaced => ?_,
      fun hidle hkept hpace hmine hshort => ?_, fun hidle hkept hpace hmine hroom hmode hlo hhi hecc => ?_⟩
    · exact insn_refused h (hbody.trans (if_pos hactive))
    · rw [hidle, hdrop] at hbody
      exact insn_refused h hbody
    · rw [hidle, hkept, hheld] at hbody
      exact insn_wait h hbody rfl
    · obtain ⟨t, hex, hdone⟩ := insn_done h (dmaGoBody_paced hwait hcheck hposted hidle hkept hmine hpaced) ⟨rfl, rfl⟩
      refine ⟨t, _, hex, hdone, b.started_keeps q ch, fun k hk hne => b.started_other q (by omega), ?_⟩
      rw [Chip.started_self]
      exact ⟨rfl, rfl, rfl, rfl, rfl, rfl, rfl, rfl, rfl, rfl, rfl⟩
    · obtain ⟨t, hex, hwaits⟩ := insn_wait h ((dmaGoBody_unpaced hwait hcheck hposted hidle hkept hmine hpace).trans
        (if_pos hshort)) rfl
      exact ⟨t, _, hex, hwaits, b.latched_keeps q ch, b.latched_self q ch, fun k hk hne => b.modDma_other _ (by omega)⟩
    · obtain ⟨hk, hcredits, hothers, x, ⟨buf, chk, rdbytes, capPos, hlen, hx⟩, hself⟩ :=
        b.started_dmaRead (q := q) hcheck hmode hpace hroom hlo hhi hecc
      obtain ⟨t, hex, hdone⟩ := insn_done h ((dmaGoBody_unpaced hwait hcheck hposted hidle hkept hmine hpace).trans
        (if_neg (not_lt.2 hroom))) (Chip.noRecord_of_keeps hk (by decide))
      refine ⟨t, _, hex, hdone, hk, fun k hk hne => hothers k (by omega), ?_⟩
      rw [hself, hx]
      exact ⟨rfl, rfl, rfl, rfl, rfl, Nat.zero_add _, hlen.trans (Nat.zero_add _), rfl, hcredits⟩
  case stop =>
    intro ch d kept
    refine ⟨fun h hlt hdrop => insn_refused h (dmaStopBody_stale hlt hdrop),
      fun h hge => insn_refused h (dmaStopBody_range hge),
      fun h hkept hnow hactive hdrains => ?_, fun h hkept hlater hidle => insn_done h (dmaStopBody_idle hkept hlater hidle)
      ⟨rfl, rfl⟩, fun h hkept hlater hrun hbuf => ?_, fun h hlt => ?_, fun h hge => insn_refused h (dmaStatBody_range hge)⟩
    · have hdropped : b.dropDma ch = b.dmaFreed ch :=
        (Chip.dropDma_active hactive).trans (Chip.endDrains_none (b.dmaFreed ch) ch hdrains)
      have hk := b.dmaFreed_keeps ch
      have hself : vget (b.dmaFreed ch).dma ch = _ := vget_vmod_same ..
      obtain ⟨t, hex, hdone⟩ := insn_done h ((dmaStopBody_drop hkept hnow).trans (by rw [hdropped]))
        (Chip.noRecord_of_keeps hk (by decide))
      refine ⟨t, _, hex, hdone, hk, ?_, ?_, ?_, rfl, fun k hk hne => vget_vmod_other _ _ (by have := hkept.1; omega)⟩ <;>
        rw [hself]
    · obtain ⟨t, hex, hwaits⟩ := insn_wait h (dmaStopBody_drain hkept hlater hrun hbuf) rfl
      exact ⟨t, _, hex, hwaits, b.modDma_keeps _ _, vget_vmod_same .., fun k hk hne =>
        b.modDma_other _ (by have := hkept.1; omega)⟩
    · obtain ⟨t, hex, hdone⟩ := insn_done h (dmaStatBody_answers hlt) ⟨rfl, rfl⟩
      exact ⟨t, _, hex, hdone, dmaStat_fields ..⟩

end Sys2Proof.Machine
end

section
namespace Sys2Proof.Machine

/-! ### Planes exchanged (R235, R334) -/

/-- A frond with its planes, their signatures and their sources exchanged. -/
def Frond.swap (x : Frond) : Frond :=
  { x with
    plane := !x.plane, golden := x.shadowSig, shadowSig := x.golden, gsrc := x.ssrc, gvar := x.svar, ssrc := x.gsrc
    svar := x.gvar, shadowOk := x.planeOk, planeOk := x.shadowOk, gen := x.gen + 1 }

section
variable {c : Chip} {mask : Word}

theorem Chip.swapPlane_keeps (c : Chip) (n : Nat) : c.keeps [.fronds] (c.swapPlane n) := by
  unfold Chip.swapPlane
  dsimp only
  split
  · exact (c.modFrond_keeps n _).trans (Chip.seatInit_keeps _ _)
  · exact c.modFrond_keeps n _

/-- A swap exchanges the planes of its frond and may seat its flip-flops. -/
theorem Chip.vget_swapPlane (c : Chip) {n i : Nat} (hn : n < 32) (hi : i < 32) :
    ∃ ff, vget (c.swapPlane n).fronds i = if i = n then { (vget c.fronds i).swap with ff := ff } else vget c.fronds i := by
  have hswap (c : Chip) (g : Frond → Frond) : vget (c.modFrond n g).fronds i
      = if i = n then g (vget c.fronds i) else vget c.fronds i := by
    by_cases h : i = n
    · subst h
      rw [if_pos rfl]
      exact vget_vmod_same ..
    · rw [if_neg h]
      exact vget_vmod_other _ _ (by omega)
  unfold Chip.swapPlane
  dsimp only
  split
  · refine ⟨Chip.initBits (c.modFrond n Frond.swap) n, ?_⟩
    refine (hswap (c.modFrond n Frond.swap) _).trans ?_
    rw [hswap]
    split <;> rfl
  · exact ⟨(vget c.fronds i).ff, hswap c Frond.swap⟩

/-- Swaps of several fronds exchange the planes of each. -/
theorem Chip.vget_foldl_swapPlane {i : Nat} (hi : i < 32) (l : List Nat) (hl : l.Nodup) (hlt : ∀ n ∈ l, n < 32) (c : Chip) :
    ∃ ff, vget (l.foldl Chip.swapPlane c).fronds i
      = if i ∈ l then { (vget c.fronds i).swap with ff := ff } else vget c.fronds i := by
  induction l generalizing c with
  | nil => exact ⟨0, rfl⟩
  | cons n l ih =>
    obtain ⟨hn, hl⟩ := List.nodup_cons.1 hl
    obtain ⟨ff, hfirst⟩ := c.vget_swapPlane (hlt n (List.mem_cons_self ..)) hi
    obtain ⟨ff', hrest⟩ := ih hl (fun x hx => hlt x (List.mem_cons_of_mem _ hx)) (c.swapPlane n)
    rw [List.foldl_cons, hrest, hfirst]
    by_cases hin : i = n
    · subst hin
      exact ⟨ff, by rw [if_neg hn, if_pos rfl, if_pos (List.mem_cons_self ..)]⟩
    · refine ⟨ff', ?_⟩
      simp only [List.mem_cons, hin, false_or, if_false]

theorem Chip.swapStage_keeps (c : Chip) (mask : Word) : c.keeps [.cams, .scr] (c.swapStage mask) := by
  unfold Chip.swapStage
  split
  · exact Chip.keeps.refl _ _
  case h_2 f m _ =>
    split
    · exact Chip.keeps.refl _ _
    · split
      · have hcams : c.keeps [.cams] ((maskList m).foldl (fun (c : Chip) n => c.modCam n (Cam.activate c)) c) :=
          keeps_foldl (g := fun (c : Chip) n => c.modCam n (Cam.activate c)) (fun c n => c.modCam_keeps n _) _ c
        refine (hcams.mono (by decide)).trans fun p hp => ?_
        cases p <;> first | rfl | exact absurd hp (by decide)
      · exact c.cancelStage_keeps

/-- What a swap does beside the exchange leaves every frond. -/
theorem Chip.swapMask_after (c : Chip) (mask : Word) :
    ((maskList mask).foldl Chip.swapPlane c).keeps [.cams, .scr, .prs] (c.swapMask mask) :=
  ((Chip.swapStage_keeps _ mask).mono (by decide)).trans
    (((Chip.dropStaged_keeps _).mono (by decide)).trans ((Chip.hushIrp_keeps _ mask).mono (by decide)))

theorem Chip.swapMask_keeps (c : Chip) (mask : Word) : c.keeps [.fronds, .cams, .scr, .prs] (c.swapMask mask) :=
  ((keeps_foldl Chip.swapPlane_keeps (maskList mask) c).mono (by decide)).trans ((c.swapMask_after mask).mono (by decide))

/-- A swap gives up a staged stream (R303). -/
theorem Chip.swapMask_staged (c : Chip) (mask : Word) : (c.swapMask mask).prs.staged = none :=
  (congrArg Prs.staged (Chip.hushIrp_keeps _ mask .prs (by decide))).trans (Chip.dropStaged_staged _)

theorem Chip.swapMask_frond (c : Chip) (mask : Word) {i : Nat} (hi : i < 32) :
    ∃ ff, vget (c.swapMask mask).fronds i
      = if mask.getLsbD i then { (vget c.fronds i).swap with ff := ff } else vget c.fronds i := by
  obtain ⟨ff, hff⟩ := Chip.vget_foldl_swapPlane hi (maskList mask) (List.nodup_range.filter _)
    (fun n hn => (mem_maskList_iff.1 hn).1) c
  refine ⟨ff, ?_⟩
  rw [show (c.swapMask mask).fronds = _ from c.swapMask_after mask .fronds (by decide), hff]
  simp only [mem_maskList_iff, hi, true_and]

end

/-! ### PLANE.SWAP (Table ISA-4) -/

section
variable {q : Queue} {f : Insn} {d : Die} {b : Chip} {mask : Word}

theorem planeSwapBody_live (htx : f.tx = false) (hmask : f.op.setWidth 32 ≠ (0 : Word))
    (hcheck : b.swapCheck q false (f.op.setWidth 32) = none) :
    planeSwapBody q f d b = .done St.ok ((f.op.setWidth 32 : Word).setWidth 64) (b.swapMask (f.op.setWidth 32)) := by
  simp only [planeSwapBody, if_neg hmask, htx, hcheck]

theorem Chip.shadowBad_iff (b : Chip) (mask : Word) : b.shadowBad mask = true ↔
    ∃ n, n < 32 ∧ mask.getLsbD n = true ∧ ((vget b.fronds n).shadowOk = false ∨ (vget b.fronds n).shadowBusy = true) := by
  simp [Chip.shadowBad, Chip.anyFrond, List.any_eq_true, mem_maskList_iff, and_assoc]

/-- A shadow that may not be swapped in is BUSY, unless the IRP would swap its own master. -/
theorem Chip.swapCheck_busy {tx : Bool} (hirp : q = 6 → b.scr.irpEn = false) (h : b.shadowBad mask = true) :
    b.swapCheck q tx mask = some St.busy := by
  have hself : (q = 6 && b.scr.irpEn && mask.getLsbD b.scr.irpMast.toNat) = false := by
    by_cases hq : q = 6
    · simp [hirp hq]
    · simp [hq]
  simp only [Chip.swapCheck, hself, h, Bool.true_or, Bool.false_eq_true, if_false, if_true]

theorem planeSwapBody_busy (hmask : f.op.setWidth 32 ≠ (0 : Word))
    (hcheck : b.swapCheck q f.tx (f.op.setWidth 32) = some St.busy) : planeSwapBody q f d b = .done St.busy 0 b := by
  simp only [planeSwapBody, if_neg hmask, hcheck, Done.fail]

end

/-! ### PLANE.SWAP.AT at its issue (R180, R197) -/

section
variable {q : Queue} {f : Insn} {d : Die} {b : Chip} {k : Fin 4} {mask : Word}

/-- A claim changes nothing of its context but the list of claims. -/
theorem Chip.claimFrond_ctx (c : Chip) (k : Fin 4) (n : Nat) : ∃ l, vget (c.claimFrond k n).eng.ctxs k.val
    = { vget c.eng.ctxs k.val with fclaims := l } := by
  unfold Chip.claimFrond
  split
  · exact ⟨_, rfl⟩
  · exact ⟨_, Chip.modCtx_same ..⟩

theorem Chip.foldl_claimFrond_ctx (l : List Nat) (c : Chip) :
    ∃ l', vget (l.foldl (fun c n => c.claimFrond k n) c).eng.ctxs k.val
    = { vget c.eng.ctxs k.val with fclaims := l' } := by
  induction l generalizing c with
  | nil => exact ⟨_, rfl⟩
  | cons n l ih =>
    obtain ⟨l', hl'⟩ := ih (c.claimFrond k n)
    obtain ⟨l, hl⟩ := c.claimFrond_ctx k n
    exact ⟨l', hl'.trans (by rw [hl])⟩

theorem Chip.claimSwap_ctx (hset : b.scr.stg = none) : ∃ l, vget (b.claimSwap k mask).eng.ctxs k.val
    = { vget b.eng.ctxs k.val with fclaims := l } := by
  have hcams : b.stageCams ((vget b.eng.ctxs k.val).swaps ||| mask) = 0 := by rw [Chip.stageCams, hset]
  have hnil : maskList 0 = [] := by decide
  rw [Chip.claimSwap, hcams, hnil]
  exact Chip.foldl_claimFrond_ctx _ b

/-- The chip of a PLANE.SWAP.AT that waits: its context open, its fronds claimed for it. -/
def Chip.swapWaits (b : Chip) (q : Queue) (k : Fin 4) (mask : Word) : Chip :=
  ((b.openCtx q k).claimSwap k mask).modCtx k.val fun x => { x with waiting := true }

theorem planeSwapAtBody_waits (hmask : f.tgt ≠ 0) (htxn : b.txnOf q = none) (hposted : (b.queue q).posted = false)
    (hfree : b.freeCtx = some k) (hcheck : b.swapCheck q true f.tgt = none) (hlate : b.lateAt q f = false) :
    planeSwapAtBody q f d b = .wait .position f.op ((b.swapWaits q k f.tgt).look.getD 0) (b.swapWaits q k f.tgt) := by
  simp only [planeSwapAtBody, if_neg hmask, htxn, Option.isSome_none, hposted, Bool.false_eq_true, if_false, hfree, hcheck, hlate]
  rfl

theorem planeSwapAtBody_noContext (hmask : f.tgt ≠ 0) (htxn : b.txnOf q = none) (hposted : (b.queue q).posted = false)
    (hfree : b.freeCtx = none) : planeSwapAtBody q f d b = .wait .context (if b.lateAt q f then 1 else 0) 0 b := by
  simp only [planeSwapAtBody, if_neg hmask, htxn, Option.isSome_none, hposted, Bool.false_eq_true, if_false, hfree]

theorem planeSwapAtBody_illegal (hmask : f.tgt ≠ 0) (htxn : b.txnOf q = some k) :
    planeSwapAtBody q f d b = .done St.illegal 0 b := by
  simp only [planeSwapAtBody, if_neg hmask, htxn, Option.isSome_some, if_true, Done.fail]

/-- An instruction that has not waited yet is late when its position has passed. -/
theorem Chip.lateAt_issued (h : (b.queue q).wait = none) : b.lateAt q f = b.passed f := by
  simp only [Chip.lateAt, h]

/-- The look-ahead rests on the position and on line time. -/
theorem Chip.look_congr {c e : Chip} (hpos : e.pos = c.pos) (hlt : e.lt = c.lt) : e.look = c.look := by
  unfold Chip.look Chip.now
  rw [hpos, hlt]

/-- What a PLANE.SWAP.AT holds while it waits. -/
theorem Chip.swapWaits_spec (hset : b.scr.stg = none) (hclaim : ∀ n, n < 32 → (vget b.fronds n).claim = none) :
    let e := b.swapWaits q k mask
    b.keeps [.fronds, .ctxs, .queues, .serial] e ∧ e.txnOf q = some k ∧
      (vget e.eng.ctxs k.val).isOpen = true ∧ (vget e.eng.ctxs k.val).owner = q ∧ (vget e.eng.ctxs k.val).waiting = true ∧
      (∀ n, n < 32 → vget e.fronds n = { vget b.fronds n with claim := if mask.getLsbD n then some k else none }) ∧
      ∀ n, n < 32 → ((n, (vget b.fronds n).gen) ∈ (vget e.eng.ctxs k.val).fclaims ↔ mask.getLsbD n = true) := by
  intro e
  obtain ⟨hopen, hqueue, hisOpen, howner⟩ := b.openCtx_spec q k
  obtain ⟨o, ho⟩ : ∃ o, o = b.openCtx q k := ⟨_, rfl⟩
  have hfronds : o.fronds = b.fronds := ho ▸ hopen .fronds (by decide)
  have hscr : o.scr.stg = none := by rw [show o.scr = b.scr from ho ▸ hopen .scr (by decide)]; exact hset
  have hnoClaims : (vget o.eng.ctxs k.val).fclaims = [] := by
    rw [ho, show vget (b.openCtx q k).eng.ctxs k.val = _ from vget_vmod_same ..]
    rfl
  rw [← ho] at hopen hqueue hisOpen howner
  have hstages := Chip.claimSwap_stages (k := k) (mask := mask) hscr (fun n hn => by rw [hfronds]; exact hclaim n hn)
  obtain ⟨l, hl⟩ := Chip.claimSwap_ctx (k := k) (mask := mask) hscr
  have hwaits := (o.claimSwap k mask).modCtx_keeps k.val fun x => { x with waiting := true }
  have he : e = (o.claimSwap k mask).modCtx k.val fun x => { x with waiting := true } := by rw [ho]; rfl
  rw [← he] at hwaits
  have hctx : vget e.eng.ctxs k.val = { vget (o.claimSwap k mask).eng.ctxs k.val with waiting := true } := by
    rw [he]; exact Chip.modCtx_same ..
  have hafter : o.keeps [.ctxs, .fronds] e := hstages.keeps.trans (hwaits.mono (by decide))
  have hmem (n : Nat) (hn : n < 32) : n ∈ (maskList mask).reverse ++ [] ↔ mask.getLsbD n = true := by
    rw [List.append_nil, List.mem_reverse, mem_maskList_iff, and_iff_right hn]
  refine ⟨(hopen.mono (by decide)).trans (hafter.mono (by decide)), ?_, ?_, ?_, by rw [hctx], fun n hn => ?_, fun n hn => ?_⟩
  · exact (congrArg QState.txn (Chip.queue_congr (hafter .queues (by decide)) q)).trans (by rw [hqueue])
  · rw [hctx, hl]; exact hisOpen
  · rw [hctx, hl]; exact howner
  · rw [show e.fronds = (o.claimSwap k mask).fronds from hwaits .fronds (by decide), hstages.fronds n hn, hfronds, hclaim n hn]
    simp only [hmem n hn]
  · rw [hctx]
    refine (hstages.claims n _).trans ?_
    rw [hnoClaims, hmem n hn, hfronds]
    simp

end

end Sys2Proof.Machine
end

section
namespace Sys2Proof.Machine

/-! ### PLANE.SWAP.AT at its position (R197, R286) -/

section
variable {q : Queue} {d : Die} {a : Chip} {k : Fin 4} {w : Wait}

/-- A context that closes leaves of its fronds all but the claim. -/
theorem Chip.closeCtx_frond (c : Chip) (k : Fin 4) {n : Nat} (hn : n < 32) :
    ∃ claim, vget (c.closeCtx k).fronds n = { vget c.fronds n with claim := claim } := by
  have heq : vget (c.closeCtx k).fronds n
      = if (vget c.fronds n).claim = some k then { vget c.fronds n with claim := none } else vget c.fronds n :=
    vget_vmapi _ _ hn
  rw [heq]
  split
  · exact ⟨_, rfl⟩
  · exact ⟨_, rfl⟩

/-- Queue `q` has ended its wait in chip `e`, and context `k` with all its claims. -/
def Chip.closed (e : Chip) (q : Queue) (k : Fin 4) : Prop :=
  vget e.eng.ctxs k.val = Ctx.reset ∧ e.txnOf q = none ∧ (e.queue q).wait = none ∧
    ∀ n, n < 32 → (vget e.fronds n).claim ≠ some k

/-- The end of the wait of a queue whose context has closed, whatever is noted of the cc. -/
theorem Chip.closed_endWait {c m : Chip} (hown : (vget c.eng.ctxs k.val).owner = q) (htxn : c.txnOf q = some k)
    (hm : (c.closeCtx k).keeps [.cams, .memo] m) : (m.endWait q).closed q k := by
  obtain ⟨-, hctx, hqueue, -, hclaim⟩ := c.closeCtx_spec k
  have hend : m.keeps [.queues] (m.endWait q) := Chip.modQ_keeps _ _ _
  have hctxs : (m.endWait q).eng.ctxs = (c.closeCtx k).eng.ctxs := (hend .ctxs (by decide)).trans (hm .ctxs (by decide))
  have hfronds : (m.endWait q).fronds = (c.closeCtx k).fronds := (hend .fronds (by decide)).trans (hm .fronds (by decide))
  have hq : (m.endWait q).queue q = { (c.closeCtx k).queue q with wait := none } :=
    (m.endWait_queue q).trans (by rw [Chip.queue_congr (hm .queues (by decide))])
  rw [hown] at hqueue
  refine ⟨by rw [hctxs, hctx], ?_, by rw [hq], fun n hn => by rw [hfronds]; exact (hclaim n hn).1⟩
  show ((m.endWait q).queue q).txn = none
  have hheld : (c.queue q).txn = some k := htxn
  rw [hq, hqueue, hheld]
  exact if_pos rfl

/-- A wait for a position that ends without a record. -/
theorem waitMet_position_done {st : Byte} {res : DWord} {e : Chip} (hkind : w.kind = .position) (hmet : a.positionMet w = true)
    (hat : a.atPosition d q w = .done st res e) (hrec : a.noRecord e) :
    a.waitMet d q w = some (Chip.finish q w.code w.f a.lt (.done st res (e.endWait q))) := by
  simp only [Chip.waitMet, hkind, hmet, if_true, Chip.positionEnds, hat, takeWriter_of_wait hrec.2, Chip.goOn, Done.describe,
    Chip.describe_none hrec]

/-- POSITION_REACHED of a wait that ends at its position: its completion. -/
theorem positionReached_completes {s : State} {lt : BitVec 64} {st : Byte} {res : DWord} {e : Chip}
    (hon : s.chip.endSwitch.coreOn = true) (hw : (s.chip.endSwitch.queue q).wait = some w) (hkind : w.kind = .position)
    (ha : s.chip.endSwitch.advance lt = a) (hmet : a.positionMet w = true) (hat : a.atPosition s.die q w = .done st res e)
    (hrec : a.noRecord e) :
    ∃ t, exec (.positionReached q lt) s = .next t ∧ Completes q w.f st res a.lt s (e.endWait q) t := by
  refine ⟨_, exec_positionReached hon hw lt hkind, ?_⟩
  rw [ha, waitMet_position_done hkind hmet hat hrec]
  exact completes_retire

section
variable (hcode : w.code = 0x25) (htxn : a.txnOf q = some k)
include hcode htxn

theorem atPosition_swap : a.atPosition d q w = a.swapNoted q k w := by
  unfold Chip.atPosition
  rw [hcode, htxn]
  rfl

theorem atPosition_stale (h : a.claimsGood k = false) : a.atPosition d q w = .done St.stale 0 (a.closeCtx k) := by
  rw [atPosition_swap hcode htxn, Chip.swapNoted, Chip.swapAt, h]
  rfl

/-- The chip that a PLANE.SWAP.AT leaves at its position, with the units it changed noted. -/
def Chip.swapLeaves (a : Chip) (q : Queue) (k : Fin 4) (w : Wait) : Chip :=
  let e := a.camOnce ((a.swapMask w.f.tgt).closeCtx k)
  e.noteUnits (a.changes e q w.f)

theorem atPosition_swaps (h : a.claimsGood k = true) (hgood : a.shadowBad w.f.tgt = false) :
    a.atPosition d q w = .done St.ok (w.f.tgt.setWidth 64) (a.swapLeaves q k w) := by
  rw [atPosition_swap hcode htxn, Chip.swapNoted, Chip.swapAt, h, hgood]
  rfl

end

theorem Chip.swapLeaves_after (a : Chip) (q : Queue) (k : Fin 4) (w : Wait) :
    ((a.swapMask w.f.tgt).closeCtx k).keeps [.cams, .memo] (a.swapLeaves q k w) := by
  refine (Chip.camOnce_keeps a _).trans fun p hp => ?_
  rw [Chip.swapLeaves, Chip.noteUnits_eq]
  cases p <;> first | rfl | exact absurd hp (by decide)

theorem Chip.swapLeaves_keeps (a : Chip) (q : Queue) (k : Fin 4) (w : Wait) :
    a.keeps [.fronds, .cams, .scr, .prs, .ctxs, .queues, .memo] (a.swapLeaves q k w) :=
  ((a.swapMask_keeps w.f.tgt).mono (by decide)).trans
    (((Chip.closeCtx_spec _ k).1.mono (by decide)).trans ((a.swapLeaves_after q k w).mono (by decide)))

/-- A PLANE.SWAP.AT that has swapped: its context and claims ended, its fronds exchanged. -/
theorem Chip.swapLeaves_spec (hown : (vget a.eng.ctxs k.val).owner = q) (htxn : a.txnOf q = some k) :
    let e := (a.swapLeaves q k w).endWait q
    a.keeps [.fronds, .cams, .scr, .prs, .ctxs, .queues, .memo] e ∧ e.closed q k ∧ ∀ n, n < 32 →
      ∃ ff claim, vget e.fronds n
        = { (if w.f.tgt.getLsbD n then { (vget a.fronds n).swap with ff := ff } else vget a.fronds n) with claim := claim } := by
  intro e
  have hswap := a.swapMask_keeps w.f.tgt
  have hafter := a.swapLeaves_after q k w
  have hend : (a.swapLeaves q k w).keeps [.queues] e := Chip.modQ_keeps _ _ _
  have hctxs : (a.swapMask w.f.tgt).eng.ctxs = a.eng.ctxs := hswap .ctxs (by decide)
  have hqueue : (a.swapMask w.f.tgt).queue q = a.queue q := Chip.queue_congr (hswap .queues (by decide)) q
  refine ⟨(a.swapLeaves_keeps q k w).trans (hend.mono (by decide)),
    Chip.closed_endWait (hctxs ▸ hown) ((congrArg QState.txn hqueue).trans htxn) hafter, fun n hn => ?_⟩
  obtain ⟨claim, hclaim⟩ := (a.swapMask w.f.tgt).closeCtx_frond k hn
  obtain ⟨ff, hff⟩ := a.swapMask_frond w.f.tgt hn
  have hfronds : e.fronds = ((a.swapMask w.f.tgt).closeCtx k).fronds :=
    (hend .fronds (by decide)).trans (hafter .fronds (by decide))
  exact ⟨ff, claim, by rw [hfronds, hclaim, hff]⟩

/-- A PLANE.SWAP.AT whose claims do not hold: its context and claims ended, nothing else. -/
theorem Chip.closeCtx_endWait (hown : (vget a.eng.ctxs k.val).owner = q) (htxn : a.txnOf q = some k) :
    let e := (a.closeCtx k).endWait q
    a.keeps [.fronds, .cams, .ctxs, .queues] e ∧ e.closed q k ∧ ∀ n, n < 32 →
      ∃ claim, vget e.fronds n = { vget a.fronds n with claim := claim } := by
  intro e
  have hend : (a.closeCtx k).keeps [.queues] e := Chip.modQ_keeps _ _ _
  refine ⟨((a.closeCtx_spec k).1.mono (by decide)).trans (hend.mono (by decide)),
    Chip.closed_endWait hown htxn (Chip.keeps.refl _ _), fun n hn => ?_⟩
  rw [show e.fronds = (a.closeCtx k).fronds from hend .fronds (by decide)]
  exact a.closeCtx_frond k hn

theorem Chip.positionMet_reached (hm : a.moving = true)
    (h : (if w.f.ext.getLsbD 0 then (crossFwd w.res (a.look.getD 0) (w.t.setWidth 32)).isSome
      else decide (0 ≤ (a.look.getD 0 - w.t).toInt)) = true) : a.positionMet w = true := by
  simp only [Chip.positionMet, hm, Bool.true_and]
  exact h

theorem Chip.shadowBad_complete {mask : Word} (h : ∀ n, n < 32 → mask.getLsbD n = true →
    (vget a.fronds n).shadowOk = true ∧ (vget a.fronds n).shadowBusy = false) : a.shadowBad mask = false := by
  refine Bool.eq_false_iff.2 fun hbad => ?_
  obtain ⟨n, hn, hin, hbad⟩ := (a.shadowBad_iff mask).1 hbad
  obtain ⟨hok, hbusy⟩ := h n hn hin
  simp [hok, hbusy] at hbad

theorem Chip.txnOf_congr {c e : Chip} (h : e.eng.queues = c.eng.queues) (q : Queue) : e.txnOf q = c.txnOf q := by
  unfold Chip.txnOf
  rw [h]

theorem Chip.owner_congr {c e : Chip} (h : e.eng.ctxs = c.eng.ctxs) (k : Nat) :
    (vget e.eng.ctxs k).owner = (vget c.eng.ctxs k).owner := by rw [h]

section
variable {s : State} {lt : BitVec 64} (hon : s.chip.endSwitch.coreOn = true) (hw : (s.chip.endSwitch.queue q).wait = some w)
  (hkind : w.kind = .position) (hcode : w.code = 0x25) (ha : s.chip.endSwitch.advance lt = a) (hmet : a.positionMet w = true)
  (hown : (vget a.eng.ctxs k.val).owner = q) (htxn : a.txnOf q = some k)
include hon hw hkind hcode ha hmet hown htxn

/-- POSITION_REACHED of a PLANE.SWAP.AT whose claims hold and whose shadows are complete. -/
theorem positionReached_swaps (hgood : a.claimsGood k = true) (hbad : a.shadowBad w.f.tgt = false) :
    ∃ t e, exec (.positionReached q lt) s = .next t ∧ Completes q w.f St.ok (w.f.tgt.setWidth 64) a.lt s e t ∧
      a.keeps [.fronds, .cams, .scr, .prs, .ctxs, .queues, .memo] e ∧ e.closed q k ∧ ∀ n, n < 32 →
        ∃ ff claim, vget e.fronds n = { (if w.f.tgt.getLsbD n then { (vget a.fronds n).swap with ff := ff }
          else vget a.fronds n) with claim := claim } := by
  obtain ⟨t, hex, hdone⟩ := positionReached_completes hon hw hkind ha hmet
    (atPosition_swaps (d := s.die) hcode htxn hgood hbad)
    (Chip.noRecord_of_keeps (a.swapLeaves_keeps q k w) (by decide))
  exact ⟨t, _, hex, hdone, Chip.swapLeaves_spec hown htxn⟩

/-- POSITION_REACHED of a PLANE.SWAP.AT one of whose units has moved since. -/
theorem positionReached_stale (hgood : a.claimsGood k = false) :
    ∃ t e, exec (.positionReached q lt) s = .next t ∧ Completes q w.f St.stale 0 a.lt s e t ∧
      a.keeps [.fronds, .cams, .ctxs, .queues] e ∧ e.closed q k ∧ ∀ n, n < 32 →
        ∃ claim, vget e.fronds n = { vget a.fronds n with claim := claim } := by
  obtain ⟨t, hex, hdone⟩ := positionReached_completes hon hw hkind ha hmet
    (atPosition_stale (d := s.die) hcode htxn hgood) (Chip.noRecord_of_keeps (a.closeCtx_spec k).1 (by decide))
  exact ⟨t, _, hex, hdone, Chip.closeCtx_endWait hown htxn⟩

end

end

/-- Settles O13: a swap exchanges the planes of each frond of its mask once and then leaves the fronds; a PLANE.SWAP.AT holds
its context and its claims from its issue to its position, where both end. -/
theorem planeSwapsExchangePlanes : Obligations.PlaneSwapsExchangePlanes := by
  unfold Obligations.PlaneSwapsExchangePlanes
  refine ⟨fun q f s b => ?live, fun q f s b k => ?placed⟩
  case live =>
    intro mask
    refine ⟨fun h htx hmask hcheck => ?_, fun h hmask hirp hbad => ?_⟩
    · have hk := b.swapMask_keeps mask
      obtain ⟨t, hex, hdone⟩ := insn_done h (planeSwapBody_live htx hmask hcheck) (Chip.noRecord_of_keeps hk (by decide))
      refine ⟨t, _, hex, hdone, hk, b.swapMask_staged mask, fun n hn => ?_⟩
      obtain ⟨ff, hff⟩ := b.swapMask_frond mask hn
      dsimp only
      rw [hff]
      cases mask.getLsbD n
      · exact ⟨rfl, rfl⟩
      · exact ⟨rfl, rfl, rfl, rfl, rfl, rfl, rfl, rfl, rfl⟩
    · exact insn_refused h (planeSwapBody_busy hmask (Chip.swapCheck_busy hirp ((b.shadowBad_iff mask).2 hbad)))
  case placed =>
    refine ⟨fun h hmask htxn hposted hfree hcheck hpassed hset hclaim => ?_, fun h hmask htxn hposted hfree => ?_,
      fun h hmask htxn => insn_refused h (planeSwapAtBody_illegal hmask htxn), fun w lt => ?_⟩
    · have hlate := (Chip.lateAt_issued (f := f) (Chip.issuesAs_wait h)).trans hpassed
      obtain ⟨hk, hheld⟩ := Chip.swapWaits_spec (q := q) (k := k) (mask := f.tgt) hset hclaim
      have hlook : (b.swapWaits q k f.tgt).look = b.look :=
        Chip.look_congr (hk .pos (by decide)) (hk .lt (by decide))
      have hbody := planeSwapAtBody_waits (d := s.die) hmask htxn hposted hfree hcheck hlate
      rw [hlook] at hbody
      obtain ⟨t, hex, hwaits⟩ := insn_wait h hbody (congrArg Lic.wait (hk .lic (by decide)))
      exact ⟨t, _, hex, hwaits, hk, hheld⟩
    · have hbody := planeSwapAtBody_noContext (f := f) (d := s.die) hmask htxn hposted hfree
      rw [Chip.lateAt_issued (Chip.issuesAs_wait h)] at hbody
      exact insn_wait h hbody rfl
    · intro c a mask closed hon hw hkind hcode htxn hown hmoving hreached
      have hmet : a.positionMet w = true := Chip.positionMet_reached hmoving hreached
      have hkeeps : c.keeps [.lt, .pulses, .scr, .pins, .pos] a := c.advance_keeps lt
      have hfronds : a.fronds = c.fronds := hkeeps .fronds (by decide)
      have htxn' : a.txnOf q = some k := (Chip.txnOf_congr (hkeeps .queues (by decide)) q).trans htxn
      have hown' : (vget a.eng.ctxs k.val).owner = q := (Chip.owner_congr (hkeeps .ctxs (by decide)) k.val).trans hown
      refine ⟨fun hgood hshadow => ?_, fun hgood => ?_⟩
      · have hbad : a.shadowBad w.f.tgt = false := Chip.shadowBad_complete (by rw [hfronds]; exact hshadow)
        obtain ⟨t, e, hex, hdone, hk, hclosed, hall⟩ :=
          positionReached_swaps hon hw hkind hcode rfl hmet hown' htxn' hgood hbad
        refine ⟨t, e, hex, hdone, hk, hclosed, fun n hn => ?_⟩
        obtain ⟨ff, claim, hfrond⟩ := hall n hn
        dsimp only
        rw [hfrond, hfronds]
        cases w.f.tgt.getLsbD n
        · exact ⟨rfl, rfl, rfl, rfl⟩
        · exact ⟨rfl, rfl, rfl, rfl, rfl⟩
      · obtain ⟨t, e, hex, hdone, hk, hclosed, hall⟩ :=
          positionReached_stale hon hw hkind hcode rfl hmet hown' htxn' hgood
        refine ⟨t, e, hex, hdone, hk, hclosed, fun n hn => ?_⟩
        obtain ⟨claim, hfrond⟩ := hall n hn
        rw [hfrond, hfronds]
        exact ⟨rfl, rfl⟩

end Sys2Proof.Machine
end

section
namespace Sys2Proof.Machine

/-! ### Bytes dropped and bytes written (R310) -/

section
variable {d : Byte}

/-- Entries dropped read as the default. -/
theorem memRead_drop (m : Mem) (a n x : Nat) :
    memRead d (memDrop m a n) x = if a ≤ x ∧ x < a + n then d else memRead d m x := by
  induction m with
  | nil => simp [memDrop, memRead]
  | cons e m ih =>
    obtain ⟨k, v⟩ := e
    by_cases hk : a ≤ k ∧ k < a + n
    · have hgone : memDrop ((k, v) :: m) a n = memDrop m a n := by simp [memDrop, hk]
      rw [hgone, ih, memRead]
      split
      · rfl
      · rw [if_neg (by omega)]
    · have hout : k < a ∨ a + n ≤ k := by omega
      have hstay : memDrop ((k, v) :: m) a n = (k, v) :: memDrop m a n := List.filter_cons_of_pos (by simpa using hout)
      rw [hstay, memRead, ih, memRead]
      by_cases hx : x = k
      · rw [if_pos hx, if_pos hx, if_neg (by omega)]
      · rw [if_neg hx, if_neg hx]

/-- Bytes written are read back. -/
theorem memRead_putBytes : ∀ (bs : List Byte) (m : Mem) (a i : Nat), i < bs.length →
    memRead d (memPutBytes d m a bs) (a + i) = bs.getD i 0
  | b :: bs, m, a, 0, _ => by
    rw [memPutBytes, memRead_putBytes_other bs _ _ (by omega), Nat.add_zero, memRead_write_same]
    rfl
  | b :: bs, m, a, i + 1, h => by
    rw [memPutBytes, show a + (i + 1) = a + 1 + i by omega, memRead_putBytes bs _ _ i (Nat.lt_of_succ_lt_succ h)]
    rfl

end

/-! ### The end of a flash operation (R309, R310, R312) -/

section
variable {c : Chip} {o : FlashOp}

theorem Chip.flashSector_erase (h : o.prog = false) :
    c.flashSector o = { c with prs := { c.prs with
      flash := memDrop c.prs.flash (sectorBase o.sector) 4096
      flashEcc := memDrop c.prs.flashEcc (256 * o.sector) 256
      marks := memWrite 0 c.prs.marks o.sector 0 } } := by
  simp only [Chip.flashSector, h, Bool.not_false, if_true]

theorem Chip.flashSector_program (h : o.prog = true) (hm : memRead 0 c.prs.marks o.sector = 0) :
    c.flashSector o = { c with prs := { c.prs with
      flash := memPutBytes 0xFF (memDrop c.prs.flash (sectorBase o.sector) 4096) (sectorBase o.sector) o.data
      flashEcc := memDrop c.prs.flashEcc (256 * o.sector) 256
      marks := memWrite 0 c.prs.marks o.sector 1 } } := by
  simp only [Chip.flashSector, h, hm, Bool.not_true, Bool.false_eq_true, if_false, if_true]

/-- The flash that an operation that ran to its end leaves. -/
def FlashOp.written (o : FlashOp) (m : Mem) : Mem :=
  if o.prog then memPutBytes 0xFF (memDrop m (sectorBase o.sector) 4096) (sectorBase o.sector) o.data
  else memDrop m (sectorBase o.sector) 4096

theorem FlashOp.written_inside (m : Mem) (hlen : o.prog = true → o.data.length = 4096) {i : Nat} (hi : i < 4096) :
    memRead 0xFF (o.written m) (4096 * o.sector + i) = if o.prog then o.data.getD i 0 else 0xFF := by
  unfold FlashOp.written sectorBase
  cases hp : o.prog
  · exact (memRead_drop _ _ _ _).trans (if_pos (by omega))
  · exact memRead_putBytes o.data _ _ i (by rw [hlen hp]; exact hi)

theorem FlashOp.written_outside (m : Mem) (hlen : o.prog = true → o.data.length = 4096) {x : Nat}
    (hx : x < 4096 * o.sector ∨ 4096 * o.sector + 4096 ≤ x) : memRead 0xFF (o.written m) x = memRead 0xFF m x := by
  have hdrop : memRead 0xFF (memDrop m (sectorBase o.sector) 4096) x = memRead 0xFF m x :=
    (memRead_drop _ _ _ _).trans (if_neg (by unfold sectorBase; omega))
  unfold FlashOp.written
  cases hp : o.prog
  · exact hdrop
  · refine (memRead_putBytes_other o.data _ _ ?_).trans hdrop
    rw [hlen hp]
    unfold sectorBase
    omega

/-- An operation on a sector it may write: its bytes, good check codes, then its mark. -/
theorem Chip.flashSector_written (hm : o.prog = true → memRead 0 c.prs.marks o.sector = 0) :
    c.flashSector o = { c with prs := { c.prs with
      flash := o.written c.prs.flash
      flashEcc := memDrop c.prs.flashEcc (256 * o.sector) 256
      marks := memWrite 0 c.prs.marks o.sector (if o.prog then 1 else 0) } } := by
  unfold FlashOp.written
  cases hp : o.prog
  · exact Chip.flashSector_erase hp
  · exact Chip.flashSector_program hp (hm hp)

/-- The chip in which the flash operation of an instruction has ended OK. -/
def Chip.flashRests (c : Chip) : Chip :=
  { c.setPrsEvt 4 with prs := { (c.setPrsEvt 4).prs with op := none, flashSt := (c.prs.flashSt &&& ~~~0xFF) ||| fldW 0 St.ok } }

theorem Chip.flashRests_keeps (c : Chip) : c.keeps [.prs] c.flashRests := by
  intro p hp; cases p <;> first | rfl | exact absurd hp (by decide)

theorem Chip.flashSector_keeps (hm : o.prog = true → memRead 0 c.prs.marks o.sector = 0) :
    c.keeps [.prs] (c.flashSector o) := by
  rw [Chip.flashSector_written hm]
  intro p hp; cases p <;> first | rfl | exact absurd hp (by decide)

/-- The instruction that waits for the operation retires OK. -/
theorem Chip.flashDone_retires {q : Queue} {w : Wait} (hm : o.prog = true → memRead 0 c.prs.marks o.sector = 0)
    (hj : o.jtag = false) (hq : o.queue = some q) (hw : (c.queue q).wait = some w) (hkind : w.kind = .flashDone)
    (ht : w.t = 0) :
    c.flashDone o = ((c.flashSector o).flashRests.endWait q).retire q w.f St.ok w.res := by
  have hkeeps := (Chip.flashSector_keeps hm).trans (c.flashSector o).flashRests_keeps
  have hwait : ((c.flashSector o).flashRests.queue q).wait = some w := by
    rw [Chip.queue_congr (hkeeps .queues (by decide))]; exact hw
  have hkind' : (w.kind == WaitKind.flashDone) = true := by rw [hkind]; rfl
  have hdone : c.flashDone o = (c.flashSector o).flashRests.retireKind (some q) .flashDone fun _ => St.ok := by
    simp only [Chip.flashDone, hq, hw, hkind', ht, hj, Bool.true_and, show ¬ (0 : BitVec 64) = 1 by decide, decide_false,
      Bool.false_eq_true, if_false]
    rfl
  rw [hdone]
  simp only [Chip.retireKind, hwait, hkind', if_true, Chip.retireWait_eq hwait]

theorem exec_flashOpDone {s : State} (hop : s.chip.endSwitch.prs.op = some o) (hon : s.chip.endSwitch.storeOn = true) :
    exec .flashOpDone s = .next { s with chip := s.chip.endSwitch.flashDone o } := by
  change execFlashOpDone s = _
  simp only [execFlashOpDone, onChip, inFlight, hop, hon, if_true]

end

/-! ### PERS.PROG and PERS.ERASE (R309, R311) -/

section
variable {q : Queue} {f : Insn} {b : Chip} {d : Die} {sector : Nat}

/-- With no stage and no verify in flight nothing reads the flash. -/
theorem Chip.stageReads_idle (h : b.staging = false) (r : Nat) : b.stageReads r = false := by
  unfold Chip.staging at h
  unfold Chip.stageReads
  rw [queues_any_false] at h ⊢
  intro k
  have hk := h k
  unfold QState.stages at hk
  cases hw : (b.queue k).wait with
  | none => rfl
  | some w =>
    rw [hw] at hk
    have hkind : (w.kind == WaitKind.staging) = false := hk
    exact if_pos (by rw [bne, hkind]; rfl)

theorem Chip.flashCheck_busy (h : b.prs.op ≠ none) : b.flashCheck sector = some St.busy := by
  simp only [Chip.flashCheck, Option.isSome_iff_ne_none.2 h, Bool.true_or, if_true]

theorem Chip.flashCheck_idle (hop : b.prs.op = none) (hst : b.staging = false) :
    b.flashCheck sector = if b.flashSelf sector then some St.busySelf else none := by
  simp only [Chip.flashCheck, hop, Chip.stageReads_idle hst, Option.isSome_none, Bool.or_self, Bool.false_eq_true, if_false]

/-- A sector of a slot is barred from USER while its slot is active. -/
theorem Chip.flashSelf_slot {a : Nat} (ha : a < 0x200000) :
    b.flashSelf (a / 4096) = (!(b.prs.ldr == .loader) && b.prs.actSlot == some (decide (0x100000 ≤ a))) := by
  unfold Chip.flashSelf
  cases b.prs.ldr == .loader
  · by_cases hslot : 0x100000 ≤ a
    · simp [show a / 4096 / 256 = 1 by omega, hslot]
    · simp [show a / 4096 / 256 = 0 by omega, hslot]
  · rfl

theorem Chip.dropStaged_flash (c : Chip) : c.dropStaged.prs.flash = c.prs.flash := by
  unfold Chip.dropStaged
  split
  · rfl
  · rename_i x _
    have hflash : (c.freeTables x.cams).prs.flash = c.prs.flash :=
      congrArg Prs.flash (show (c.freeTables x.cams).prs = c.prs from c.freeTables_keeps x.cams .prs (by decide))
    exact hflash

/-- An operation on a sector of a slot begins. -/
theorem Chip.flashStart_slot {o : FlashOp} (h : o.sector / 256 ≠ 2) :
    b.keeps [.prs, .cams] (b.flashStart o) ∧ (b.flashStart o).prs.op = some o ∧ (b.flashStart o).prs.flash = b.prs.flash := by
  obtain ⟨c, hc, hstart⟩ : ∃ c, (c = b ∨ c = b.dropStaged) ∧ b.flashStart o = { c with prs := { c.prs with
      op := some o
      flashSt := bitW 9 o.prog ||| natW 12 o.sector } } := by
    unfold Chip.flashStart
    simp only [if_neg h]
    split
    · rename_i x _
      by_cases hslot : (if x.slot then 1 else 0) = o.sector / 256
      · exact ⟨_, .inr rfl, by rw [if_pos hslot]⟩
      · exact ⟨_, .inl rfl, by rw [if_neg hslot]⟩
    · exact ⟨_, .inl rfl, rfl⟩
  have hkeeps : b.keeps [.prs, .cams] c := by
    rcases hc with rfl | rfl
    · exact Chip.keeps.refl _ _
    · exact b.dropStaged_keeps.mono (by decide)
  have hflash : c.prs.flash = b.prs.flash := by
    rcases hc with rfl | rfl
    · rfl
    · exact b.dropStaged_flash
  rw [hstart]
  refine ⟨hkeeps.trans fun p hp => ?_, rfl, hflash⟩
  cases p <;> first | rfl | exact absurd hp (by decide)

theorem persEraseBody_refused {st : Byte} (hal : field f.tgt 0 24 % 4096 = 0) (hr : field f.tgt 0 24 < 0x300000)
    (hc : b.flashCheck (field f.tgt 0 24 / 4096) = some st) : persEraseBody q f d b = .done st 0 b := by
  simp only [persEraseBody, hal, ne_eq, not_true_eq_false, if_false, if_neg (not_le.2 hr), hc, Done.fail]

theorem persEraseBody_starts (hal : field f.tgt 0 24 % 4096 = 0) (hr : field f.tgt 0 24 < 0x300000)
    (hc : b.flashCheck (field f.tgt 0 24 / 4096) = none) :
    persEraseBody q f d b
      = .wait .flashDone 0 0 (b.flashStart ⟨false, field f.tgt 0 24 / 4096, [], false, some q⟩) := by
  simp only [persEraseBody, hal, ne_eq, not_true_eq_false, if_false, if_neg (not_le.2 hr), hc]

/-- Good words of the capture memory are read as they stand, as they may be a destination. -/
theorem loadWords_capture {x : Src} {a n : Nat} (hal : a % 16 = 0) (hlo : 0x70000000 ≤ a) (hhi : a + 16 * n ≤ 0x70010000)
    (hecc : ∀ i, i < n → b.eccAt (a + 16 * i) = 0) :
    b.loadWords d x a n = (St.ok, (List.range n).map fun i => b.getWord (a + 16 * i), b) := by
  have hdest : destCheck 0 a n = none := by
    unfold destCheck
    rw [if_neg (by simp), if_neg (by omega), if_pos (.inr (.inr ⟨hlo, hhi⟩))]
  exact loadWords_of_load fun i hi => load_destination hdest hi (hecc i hi)

theorem persProgBody_starts (hal : field f.tgt 0 24 % 4096 = 0) (hr : field f.tgt 0 24 < 0x300000)
    (hsal : field f.op 0 32 % 16 = 0) (hlo : 0x70000000 ≤ field f.op 0 32) (hhi : field f.op 0 32 + 4096 ≤ 0x70010000)
    (hc : b.flashCheck (field f.tgt 0 24 / 4096) = none) (hecc : ∀ i, i < 256 → b.eccAt (field f.op 0 32 + 16 * i) = 0) :
    persProgBody q f d b = .wait .flashDone 0 0 (b.flashStart ⟨true, field f.tgt 0 24 / 4096,
      (List.range 256).flatMap fun i => natBytes (b.getWord (field f.op 0 32 + 16 * i)).toNat 16, false, some q⟩) := by
  have hload := loadWords_capture (d := d) (x := Src.ofQueue q) hsal hlo (n := 256) (by omega) hecc
  have hok : failed St.ok = false := rfl
  simp only [persProgBody]
  rw [if_neg (by omega), if_neg (by omega), hc]
  simp only [hload, hok, Bool.false_eq_true, if_false, List.flatMap_map]
  rfl

end

/-! ### PERS.SLOT (R313) -/

section
variable {q : Queue} {f : Insn} {b : Chip} {d : Die}

/-- The preference that PERS.SLOT's operand names. -/
def newPref (f : Insn) : Option Bool := if f.op.getLsbD 1 then none else some (f.op.getLsbD 0)

/-- The word of page 1,024 that keeps it: [0] slot, [1] set. -/
def prefWord (f : Insn) : Nat := if f.op.getLsbD 1 then 0 else if f.op.getLsbD 0 then 3 else 2

/-- The chip with the preference set or cleared. -/
def Chip.prefer (c : Chip) (f : Insn) : Chip :=
  { c with mem := memPut 0 c.mem 0x38000004 (prefWord f) 4, prs := { c.prs with bootpref := newPref f } }.dirty 1024

theorem persSlotBody_prefers : persSlotBody q f d b = .done St.ok (prefBits b.prs.bootpref) (b.prefer f) := by
  unfold persSlotBody Chip.prefer prefWord newPref
  cases f.op.getLsbD 1 <;> cases f.op.getLsbD 0 <;> rfl

theorem Chip.prefer_keeps (c : Chip) (f : Insn) : c.keeps [.mem, .prs, .nvs] (c.prefer f) := by
  intro p hp; cases p <;> first | rfl | exact absurd hp (by decide)

theorem Chip.prefer_word (c : Chip) (f : Insn) : memNat 0 (c.prefer f).mem 0x38000004 4 = prefWord f := by
  refine (memNat_put 4 c.mem _ _).trans (Nat.mod_eq_of_lt ?_)
  unfold prefWord
  split
  · decide
  · split <;> decide

theorem Chip.dirty_getLsbD (c : Chip) {p : Nat} (h : p < 1088) : (c.dirty p).nvs.dirtyP.getLsbD p = true := by
  change (c.nvs.dirtyP ||| BitVec.ofNat 1088 (2 ^ p)).getLsbD p = true
  rw [BitVec.getLsbD_or, BitVec.getLsbD_ofNat, Nat.testBit_two_pow_self, decide_eq_true h]
  simp

end

/-! ### VARIANT.STAGE (R234, R320, R321) -/

section
variable {q : Queue} {f : Insn} {b : Chip} {d : Die}

theorem variantStageBody_unbound (h : b.prs.varOk = false) : variantStageBody q f d b = .done St.authFail 0 b := by
  simp only [variantStageBody, h, Bool.not_false, if_true, Done.fail]

theorem variant_toNat (f : Insn) : (f.tgt.extractLsb' 0 3).toNat = field f.tgt 0 3 := by
  rw [BitVec.extractLsb'_toNat, field]

theorem variantStageBody_range (h : b.prs.varOk = true) (hv : b.prs.actVars ≤ field f.tgt 0 3) :
    variantStageBody q f d b = .done St.range 0 b := by
  simp only [variantStageBody, h, Bool.not_true, Bool.false_eq_true, if_false, variant_toNat, if_pos hv, Done.fail]

/-- The chip in which the loader writes the shadows of a variant: the staged stream gone, the shadows busy and incomplete. -/
def Chip.beginVariant (c : Chip) (mask : Word) : Chip := (c.dropStaged.spoil mask).markBusy mask true

theorem variantStageBody_runs {h : Hdr} {segs : List Seg} {k : Nat} (hok : b.prs.varOk = true)
    (hv : field f.tgt 0 3 < b.prs.actVars) (ht : b.bankTable = (.ok (h, segs), k)) (hmask : (f.op.setWidth 32 : Word) ≠ 0)
    (hall : (f.op.setWidth 32 : Word) &&& ~~~(imageMask (segs.filter fun x => x.variant == field f.tgt 0 3)) = 0)
    (hirp : q = 6 → b.scr.irpEn = false) (hclaim : b.anyClaim = false) (hst : b.staging = false)
    (hrun : b.scr.running = none) :
    variantStageBody q f d b
      = .wait .staging 0 ((f.op.setWidth 32 : Word).setWidth 64) (b.beginVariant (f.op.setWidth 32)) := by
  have hfree := b.anyClaim_false.1 hclaim
  have hfronds : b.barredMask q false (f.op.setWidth 32) = false := Chip.barredMask_unclaimed _ fun n hn => (hfree n hn).1
  have hcams (own : List Seg) : ((maskList (tableMask own)).any fun n => (vget b.cams n).claim.isSome) = false :=
    List.any_eq_false.2 fun n hn => by rw [(hfree n (mem_maskList_iff.1 hn).1).2]; exact Bool.false_ne_true
  have hself : (decide (q = 6) && b.scr.irpEn) = false := by
    by_cases hq : q = 6
    · rw [hirp hq, Bool.and_false]
    · rw [decide_eq_false hq, Bool.false_and]
  simp only [variantStageBody, hok, Bool.not_true, Bool.false_eq_true, if_false, variant_toNat, if_neg (not_le.2 hv), ht,
    if_neg hmask, hall, ne_eq, not_true_eq_false, hself, Bool.false_and, hfronds, hcams, hst, hrun,
    Option.isSome_none, Bool.or_self]
  rfl

theorem Chip.spoil_keeps (c : Chip) (mask : Word) : c.keeps [.fronds] (c.spoil mask) :=
  keeps_foldl (fun c n => c.modFrond_keeps n _) _ c

theorem Chip.markBusy_keeps (c : Chip) (mask : Word) (on : Bool) : c.keeps [.fronds] (c.markBusy mask on) :=
  keeps_foldl (fun c n => c.modFrond_keeps n _) _ c

/-- One change of every frond of a mask. -/
theorem vget_foldl_mask (g : Frond → Frond) (mask : Word) (c : Chip) {n : Nat} (hn : n < 32) :
    vget ((maskList mask).foldl (fun c n => c.modFrond n g) c).fronds n
      = if mask.getLsbD n then g (vget c.fronds n) else vget c.fronds n := by
  rw [vget_foldl_modFrond g hn (maskList mask) (List.nodup_range.filter _) (fun m hm => (mem_maskList_iff.1 hm).1) c]
  simp only [mem_maskList_iff, hn, true_and]

theorem Chip.beginVariant_spec (c : Chip) (mask : Word) :
    c.keeps [.fronds, .cams, .prs] (c.beginVariant mask) ∧ (c.beginVariant mask).prs.staged = none ∧
      ∀ n, n < 32 → mask.getLsbD n = true → (vget (c.beginVariant mask).fronds n).shadowBusy = true ∧
        (vget (c.beginVariant mask).fronds n).shadowOk = false := by
  have hmarks : c.dropStaged.keeps [.fronds] (c.beginVariant mask) :=
    (c.dropStaged.spoil_keeps mask).trans ((c.dropStaged.spoil mask).markBusy_keeps mask true)
  refine ⟨(c.dropStaged_keeps.mono (by decide)).trans (hmarks.mono (by decide)), ?_, fun n hn hbit => ?_⟩
  · rw [show (c.beginVariant mask).prs = c.dropStaged.prs from hmarks .prs (by decide)]
    exact c.dropStaged_staged
  · rw [Chip.beginVariant, Chip.markBusy, vget_foldl_mask _ mask _ hn, Chip.spoil, vget_foldl_mask _ mask _ hn, if_pos hbit,
      if_pos hbit]
    exact ⟨rfl, rfl⟩

/-! #### Its end -/

/-- A staging that ends well is OK or, with words corrected, OK_CORRECTED, and its variant is the stage set. -/
theorem Chip.stageVariant_succeeds {c x : Chip} {h : Hdr} {segs : List Seg} {v : BitVec 3} {mask : Word} {st : Byte}
    (hx : c.stageVariant d h segs v mask = (st, x)) (hst : failed st = false) :
    (∃ k, st = okFlash k) ∧ ∃ cams, x.scr.stg = some (v, mask, cams) := by
  unfold Chip.stageVariant at hx
  dsimp only at hx
  generalize Work.segments d 2 h segs 1 v (variantSegs segs v.toNat mask) _ = r at hx
  obtain ⟨st', w⟩ := r
  dsimp only at hx
  cases hf : failed st'
  · rw [hf] at hx
    simp only [Bool.false_eq_true, if_false, Prod.mk.injEq] at hx
    obtain ⟨rfl, rfl⟩ := hx
    exact ⟨⟨_, rfl⟩, _, rfl⟩
  · rw [hf] at hx
    have hsame : st' = st := by
      revert hx
      simp only [if_true]
      split <;> exact fun e => congrArg Prod.fst e
    rw [hsame, hst] at hf
    contradiction

/-- The statuses of a staging and of the words corrected in its table, joined. -/
theorem joinSt_okFlash (j k : Nat) : joinSt (okFlash j) (okFlash k) = if k == 0 then okFlash j else St.corrected := by
  unfold okFlash
  by_cases hj : j = 0 <;> by_cases hk : k = 0 <;> simp [hj, hk, joinSt, failed, St.ok, St.corrected]

theorem Chip.variantEnds_of_stage {c x : Chip} {h : Hdr} {segs : List Seg} {k : Nat} {mask : Word} {st : Byte}
    (ht : c.bankTable = (.ok (h, segs), k)) (hx : c.stageVariant d h segs (f.tgt.extractLsb' 0 3) mask = (st, x)) :
    c.variantEnds d f mask = .done (if failed st || k == 0 then st else St.corrected)
      (if failed st then 0 else mask.setWidth 64) (x.flashCorrected k) := by
  simp only [Chip.variantEnds, ht, hx]
  cases hf : failed st
  · obtain ⟨⟨j, rfl⟩, -⟩ := Chip.stageVariant_succeeds hx hf
    simp only [Bool.false_eq_true, if_false, joinSt_okFlash, Bool.false_or]
  · rfl

theorem Chip.flashCorrected_keeps (c : Chip) (n : Nat) : c.keeps [.prs] (c.flashCorrected n) := by
  intro p hp; cases p <;> first | rfl | exact absurd hp (by decide)

/-- A stage that ends and gives the recorder nothing: its effect, then the completion of its instruction. -/
theorem waitMet_staging {c e : Chip} {w : Wait} {st : Byte} {res : DWord} (hkind : w.kind = .staging)
    (hends : c.stagingEnds d w = .done st res e) (hrec : c.noRecord e) :
    c.waitMet d q w = some (Chip.finish q w.code w.f c.lt (.done st res (e.endWait q))) := by
  simp only [Chip.waitMet, hkind, Chip.stagingMet, hends, takeWriter_of_wait hrec.2, Chip.goOn, Done.describe,
    Chip.describe_none hrec]

/-- The end of a VARIANT.STAGE. -/
theorem resourceGranted_variant {s : State} {w : Wait} {h : Hdr} {segs : List Seg} {k : Nat} {st : Byte} {x : Chip}
    (hon : s.chip.endSwitch.coreOn = true) (hw : (s.chip.endSwitch.queue q).wait = some w) (hkind : w.kind = .staging)
    (hcode : w.code = 0x94) (ht : s.chip.endSwitch.bankTable = (.ok (h, segs), k))
    (hx : s.chip.endSwitch.stageVariant s.die h segs (w.f.tgt.extractLsb' 0 3) (w.res.setWidth 32) = (st, x))
    (hrec : s.chip.endSwitch.noRecord x) :
    ∃ t e, exec (.resourceGranted q) s = .next t ∧
      Completes q w.f (if failed st || k == 0 then st else St.corrected)
        (if failed st then 0 else (w.res.setWidth 32 : Word).setWidth 64) s.chip.endSwitch.lt s e t ∧
      x.keeps [.prs, .queues] e ∧ (e.queue q).wait = none := by
  have hends : s.chip.endSwitch.stagingEnds s.die w = .done (if failed st || k == 0 then st else St.corrected)
      (if failed st then 0 else (w.res.setWidth 32 : Word).setWidth 64) (x.flashCorrected k) := by
    simp only [Chip.stagingEnds, hcode]
    exact Chip.variantEnds_of_stage ht hx
  have hex := exec_resourceGranted_met hon hw (by rw [hkind]; rfl) (waitMet_staging (q := q) hkind hends hrec)
  refine ⟨_, _, hex, completes_retire, ?_, ?_⟩
  · exact ((x.flashCorrected_keeps k).mono (by decide)).trans ((Chip.modQ_keeps _ _ _).mono (by decide))
  · rw [Chip.endWait_queue]

end

/-- Settles O26: PERS.SLOT and VARIANT.STAGE by what their bodies leave, the flash operations by their checks, and the end of
one by what it writes to its sector. -/
theorem flashBootPreferenceAndVariants : Obligations.FlashBootPreferenceAndVariants := by
  unfold Obligations.FlashBootPreferenceAndVariants
  refine ⟨fun q f s b => ⟨fun h => ?slot, fun h hok => insn_refused h (variantStageBody_unbound hok),
      fun h hok hv => insn_refused h (variantStageBody_range hok hv),
      fun h hok hv hd segs k ht => ?stage, fun w => ?staged⟩,
    fun q f s b => ?flash, fun s o q w => ?done⟩
  case slot =>
    obtain ⟨t, hex, hdone⟩ := insn_done h persSlotBody_prefers (Chip.noRecord_of_keeps (b.prefer_keeps f) (by decide))
    refine ⟨t, _, _, hex, hdone, b.prefer_keeps f, rfl, b.prefer_word f, fun x hx => memRead_put_other _ _ _ _ hx,
      Chip.dirty_getLsbD _ (by decide), fun hnone => by rw [hnone]; rfl, fun x hx => by rw [hx]; rfl⟩
  case stage =>
    intro own mask hmask hall hirp hclaim hst hrun
    obtain ⟨hk, hgone, hmarked⟩ := b.beginVariant_spec mask
    obtain ⟨t, hex, hwaits⟩ := insn_wait h (variantStageBody_runs hok hv ht hmask hall hirp hclaim hst hrun)
      (congrArg Lic.wait (hk .lic (by decide)))
    exact ⟨t, _, hex, hwaits, hk, hgone, hmarked⟩
  case staged =>
    intro c mask v hon hw hkind hcode hd segs k ht st x hx hrec
    exact ⟨resourceGranted_variant hon hw hkind hcode ht hx hrec, fun hst => (Chip.stageVariant_succeeds hx hst).2⟩
  case flash =>
    intro a src hal hr
    have hslot (ha : a < 0x200000) : a / 4096 / 256 ≠ 2 := by omega
    have hpasses (hop : b.prs.op = none) (hst : b.staging = false) (ha : a < 0x200000)
        (hact : b.prs.actSlot ≠ some (decide (0x100000 ≤ a))) : b.flashCheck (a / 4096) = none := by
      rw [Chip.flashCheck_idle hop hst, Chip.flashSelf_slot ha, beq_false_of_ne hact, Bool.and_false, if_neg Bool.false_ne_true]
    refine ⟨fun h => ⟨fun hop => ?_, fun hop hst hldr ha hact => ?_, fun hop hst ha hact => ?_⟩,
      fun h hsal hlo hhi hop hst ha hact hecc => ?_⟩
    · exact insn_refused h (persEraseBody_refused hal hr (Chip.flashCheck_busy hop))
    · refine insn_refused h (persEraseBody_refused hal hr ?_)
      rw [Chip.flashCheck_idle hop hst, Chip.flashSelf_slot ha, beq_false_of_ne hldr, hact]
      simp only [Bool.not_false, beq_self_eq_true, Bool.and_self, if_true]
    · have hstart := persEraseBody_starts (q := q) (d := s.die) hal hr (hpasses hop hst ha hact)
      obtain ⟨hk, hbegun, hflash⟩ := Chip.flashStart_slot (b := b) (o := ⟨false, a / 4096, [], false, some q⟩) (hslot ha)
      obtain ⟨t, hex, hwaits⟩ := insn_wait h hstart (congrArg Lic.wait (hk .lic (by decide)))
      exact ⟨t, _, hex, hwaits, hk, hbegun, hflash⟩
    · have hstart := persProgBody_starts (q := q) (d := s.die) hal hr hsal hlo hhi (hpasses hop hst ha hact) hecc
      obtain ⟨hk, hbegun, hflash⟩ := Chip.flashStart_slot (b := b) (o := ⟨true, a / 4096,
        (List.range 256).flatMap fun i => natBytes (b.getWord (src + 16 * i)).toNat 16, false, some q⟩) (hslot ha)
      obtain ⟨t, hex, hwaits⟩ := insn_wait h hstart (congrArg Lic.wait (hk .lic (by decide)))
      exact ⟨t, _, hex, hwaits, hk, hbegun, hflash⟩
  case done =>
    intro c hop hon hj hq hw hkind ht hprog
    have hm : o.prog = true → memRead 0 c.prs.marks o.sector = 0 := fun h => (hprog h).1
    have hlen : o.prog = true → o.data.length = 4096 := fun h => (hprog h).2
    have hex := exec_flashOpDone hop hon
    rw [Chip.flashDone_retires hm hj hq hw hkind ht] at hex
    refine ⟨_, _, hex, completes_retire_now, ?_, rfl, ?_, ?_⟩
    · exact (((Chip.flashSector_keeps hm).trans (Chip.flashRests_keeps _)).mono (by decide)).trans
        ((Chip.modQ_keeps _ _ _).mono (by decide))
    · change ((c.flashSector o).prs.evt ||| bitW 4 true).getLsbD 4 = true
      rw [BitVec.getLsbD_or, getLsbD_bitW true 4 (by decide)]
      simp
    · change memRead 0 (c.flashSector o).prs.marks o.sector = _ ∧
        (∀ k, k ≠ o.sector → memRead 0 (c.flashSector o).prs.marks k = _) ∧
        (∀ i, i < 4096 → memRead 0xFF (c.flashSector o).prs.flash (4096 * o.sector + i) = _) ∧
        ∀ x, _ → memRead 0xFF (c.flashSector o).prs.flash x = _
      rw [Chip.flashSector_written hm]
      exact ⟨memRead_write_same, fun k hk => memRead_write_other hk, fun i hi => FlashOp.written_inside _ hlen hi,
        fun x hx => FlashOp.written_outside _ hlen hx⟩

end Sys2Proof.Machine
end

section
namespace Sys2Proof.Machine

/-! ### The cc that an edge of a pin names, through a switch in flight (log entries 6 and 96) -/

section
variable (c : Chip)

/-- The pins of `b` are those of `a` but for the levels that keepers hold. -/
def Chip.pinsRest (a b : Chip) : Prop := ∀ n, n < 192 → ∃ v, vget b.pins n = { vget a.pins n with keep := v }

theorem Chip.pinsRest_of_pins {a b : Chip} (h : b.pins = a.pins) : a.pinsRest b := fun _ _ => ⟨_, by rw [h]⟩

theorem Chip.pinsRest.trans {a b d : Chip} (h : a.pinsRest b) (h' : b.pinsRest d) : a.pinsRest d := by
  intro n hn
  obtain ⟨v, hv⟩ := h n hn
  obtain ⟨w, hw⟩ := h' n hn
  exact ⟨w, by rw [hw, hv]⟩

theorem Chip.advance_pinsRest (t : BitVec 64) : c.pinsRest (c.advance t) :=
  fun n hn => ⟨_, (c.advance_passes t).2.1.resolve_left (by simp) n hn⟩

theorem Chip.tellCaller_pins (caller : SwitchBy) (st : Byte) : (c.tellCaller caller st).pins = c.pins := by
  cases caller with
  | device => rfl
  | island tag => rfl
  | queue q =>
    unfold Chip.tellCaller
    dsimp only
    split
    · split
      · exact c.retireWait_keeps q st 0 .pins (by decide)
      · rfl
    · rfl

theorem Chip.switchTick_pins : c.switchTick.pins = c.pins := by
  unfold Chip.switchTick
  split
  · rfl
  · dsimp only
    repeat' split
    · rfl
    · exact Chip.tellCaller_pins _ _ _
    · rfl
    · rfl

theorem Chip.nextTime_pins : c.nextTime.2.pins = c.pins := by
  unfold Chip.nextTime
  split
  · rfl
  · rfl

/-- The cc of a switch at the line time that its length gives. -/
theorem Chip.switchTick_lt_pins (l : LineTime) : { c with lt := l }.switchTick.pins = c.pins := Chip.switchTick_pins _

theorem Chip.passCc_pinsRest : c.pinsRest c.passCc := by
  have hcc : c.passCc.pins = (c.nextTime.2.advance c.nextTime.1.stamp).pins := Chip.switchTick_lt_pins _ _
  have hstart : c.pinsRest c.nextTime.2 := Chip.pinsRest_of_pins c.nextTime_pins
  exact (hstart.trans (Chip.advance_pinsRest _ _)).trans (Chip.pinsRest_of_pins hcc)

theorem Chip.reachIn_pinsRest (k : Nat) (c : Chip) (t : BitVec 64) : c.pinsRest (c.reachIn k t) := by
  induction k generalizing c with
  | zero => exact c.advance_pinsRest t
  | succ k ih =>
    unfold Chip.reachIn
    split
    · exact c.passCc_pinsRest.trans (ih _)
    · exact c.advance_pinsRest t

/-- Line time that passes to a cc changes the levels of keepers alone among what the pins hold. -/
theorem Chip.reach_pinsRest (t : BitVec 64) : c.pinsRest (c.reach t) := Chip.reachIn_pinsRest 4 c t

/-- Without a switch in flight line time passes at once. -/
theorem Chip.reach_steady {c : Chip} (h : c.clk.switching = false) (t : BitVec 64) : c.reach t = c.advance t := by
  unfold Chip.reach Chip.reachIn
  rw [h, Bool.false_and, if_neg Bool.false_ne_true]

end

/-! ### A transition falls (R250, R255 to R258) -/

section
variable {a : Chip} {n : Nat} {r : EdgeReq} {e : PinEdge}

/-- Ticks from now to the time of an edge at the ball. -/
def Chip.due (a : Chip) (n : Nat) (e : PinEdge) : Int := signedGap (e.t - (vget a.pins n).delay) a.now

/-- The tick, counted from now, at which an edge falls: no earlier than its spacing allows and than step 0 (R250, R256). -/
def Chip.fall (a : Chip) (n : Nat) (e : PinEdge) : Int := max (max (a.due n e) ((vget a.pins n).spaced a.now)) 0

/-- An edge falls later than at its time (R256, R257). -/
def Chip.fallsLate (a : Chip) (n : Nat) (e : PinEdge) : Bool :=
  e.late || decide (a.due n e < a.spill) || decide (0 < a.fall n e ∧ a.due n e < a.fall n e)

/-- The chip once the edge of the head of a pin's queue has fallen. -/
def Chip.fallen (a : Chip) (n : Nat) (e : PinEdge) : Chip :=
  { a.modPin n fun p => p.placed none e (a.now + BitVec.ofInt 64 (a.fall n e)) with
    edg := if a.fallsLate n e then { a.edg with late := satAdd a.edg.late 1, evt := a.edg.evt ||| 1 } else a.edg }

theorem Chip.fallen_keeps (a : Chip) (n : Nat) (e : PinEdge) : a.keeps [.pins, .edg] (a.fallen n e) := by
  intro p hp
  cases p <;> first | rfl | exact absurd hp (by decide)

theorem Chip.fallen_other {j : Nat} (hn : n < 192) (hj : j < 192) (h : j ≠ n) :
    vget (a.fallen n e).pins j = vget a.pins j := vget_vmod_other _ _ (by omega)

/-- The pin of a fallen edge: its level, the time of its last transition, and the trailing edge of a pulse. -/
theorem Chip.fallen_pin (hq : (vget a.pins n).q = [r]) :
    let ball := a.now + BitVec.ofInt 64 (a.fall n e)
    vget (a.fallen n e).pins n = { vget a.pins n with
      lvl := e.lvl
      lastT := some ball
      q := match e.trail with
        | none => []
        | some w => [{ r with edge := some ⟨ball + (vget a.pins n).delay + w.1, w.2, false, none⟩ }] } := by
  refine (vget_vmod_same _ _ _).trans ?_
  cases h : e.trail <;> simp [Pin.placed, Pin.headPlaced, PinEdge.trailing, hq, h]

/-- Where no binding has an edge the head of the queue places its own. -/
theorem Pin.nextEdge_head {x : Pin} (hb : x.bedges = []) (hq : x.q = [r]) (he : r.edge = some e) (l : BitVec 64) :
    x.nextEdge l = some (none, e) := by
  simp [Pin.nextEdge, Pin.headEdge, earliest, hb, hq, he]

theorem Chip.placeEdge_head (hnext : (vget a.pins n).nextEdge a.now = some (none, e)) :
    a.placeEdge n = if a.steps ≤ a.fall n e then none else some (a.fallen n e) := by
  unfold Chip.placeEdge
  simp only [hnext]
  change (if a.steps ≤ a.fall n e then none else some (if a.fallsLate n e then _ else _)) = _
  congr 2
  unfold Chip.fallen
  cases a.fallsLate n e
  · rfl
  · rfl

end

/-- EDGE_PLACE in the chip that its row finds. -/
theorem exec_edgePlace {s : State} {p : BitVec 8} {t : BitVec 64} {c : Chip}
    (hc : (if s.chip.clk.switching then s.chip else s.chip.endSwitch) = c) (hon : c.coreOn = true)
    (hepu : c.epuPin p.toNat = true) :
    exec (.edgePlace p t) s = .next { s with
      chip := if c.forced p.toNat then c else ((c.reach t).placeEdge p.toNat).getD c } := by
  have hrow : exec (.edgePlace p t) s = execEdgePlace p t s := by rfl
  rw [hrow]
  unfold execEdgePlace inFlight
  dsimp only
  rw [hc, hon, hepu]
  rfl

/-! ### The background calibration (R251 to R253) -/

section
variable {c : Chip} {n k : Nat}

/-- It is the turn of pin `n`: the first idle pin, in order, from the one at which the pass goes on. -/
def Chip.calTurn (c : Chip) (n : Nat) : Prop := (vget c.pins n).idle = true ∧
  ∀ i, i < (n + 192 - c.edg.calNext % 192) % 192 → (vget c.pins ((c.edg.calNext + i) % 192)).idle = false

theorem Chip.calPin_eq_some (hn : n < 192) : c.calPin = some n ↔ c.calTurn n := by
  unfold Chip.calPin Chip.calTurn
  rw [List.find?_eq_some_iff_getElem]
  simp only [List.length_map, List.length_range, List.getElem_map, List.getElem_range, Bool.not_eq_true']
  refine and_congr_right fun _ => ⟨?_, fun h => ⟨(n + 192 - c.edg.calNext % 192) % 192, ?_, ?_, fun i hi => h i hi⟩⟩
  · rintro ⟨i, hi, hin, hbefore⟩ j hj
    exact hbefore j (by omega)
  · omega
  · omega

/-- A pin marked measured, the pass going on behind it. -/
def Chip.markMeasured (c : Chip) (n : Nat) : Chip :=
  { c.modPin n fun x => { x with measured := true } with edg := { c.edg with calNext := (n + 1) % 192 } }

theorem Chip.markMeasured_keeps (c : Chip) (n : Nat) : c.keeps [.pins, .edg] (c.markMeasured n) := by
  intro p hp
  cases p <;> first | rfl | exact absurd hp (by decide)

theorem Chip.markMeasured_pin {j : Nat} (hn : n < 192) (hj : j < 192) :
    vget (c.markMeasured n).pins j = if j = n then { vget c.pins n with measured := true } else vget c.pins j := by
  by_cases h : j = n
  · rw [if_pos h, h]
    exact vget_vmod_same _ _ _
  · rw [if_neg h]
    exact vget_vmod_other _ _ (by omega)

/-- A mark leaves every pin as idle as it was. -/
theorem Chip.markMeasured_idle (c : Chip) (n j : Nat) :
    (vget (c.markMeasured n).pins j).idle = (vget c.pins j).idle := by
  change (vget (vmod c.pins n _) j).idle = _
  rw [vget_vmod]
  split
  · rfl
  · rfl

/-- A later pin of the bank of pin `n` is idle. -/
def Chip.laterIdle (c : Chip) (n : Nat) : Bool :=
  ((List.range 16).filter fun i => n % 16 < i).any fun i => (vget c.pins (n / 16 * 16 + i)).idle

theorem Chip.laterIdle_iff :
    c.laterIdle n = true ↔ ∃ i, n % 16 < i ∧ i < 16 ∧ (vget c.pins (n / 16 * 16 + i)).idle = true := by
  simp only [Chip.laterIdle, List.any_eq_true, List.mem_filter, List.mem_range, decide_eq_true_eq]
  exact ⟨fun ⟨i, ⟨h16, hn⟩, hi⟩ => ⟨i, hn, h16, hi⟩, fun ⟨i, hn, h16, hi⟩ => ⟨i, ⟨h16, hn⟩, hi⟩⟩

/-- The chip after the measurement of pin `n`, before the banks are judged. -/
def Chip.passedPin (c : Chip) (n : Nat) : Chip :=
  if c.laterIdle n then c.markMeasured n else (c.markMeasured n).passEnd (n / 16)

theorem Chip.calMeasure_eq (c : Chip) (n : Nat) : c.calMeasure n = (c.passedPin n).calUpdate := by
  have hlater : (c.markMeasured n).laterIdle n = c.laterIdle n := by
    simp only [Chip.laterIdle, Chip.markMeasured_idle]
  unfold Chip.passedPin
  rw [← hlater]
  rfl

theorem Chip.passedPin_keeps (c : Chip) (n : Nat) : (c.markMeasured n).keeps [.banks, .freeIx] (c.passedPin n) := by
  unfold Chip.passedPin
  split
  · exact Chip.keeps.refl _ _
  · exact Chip.passEnd_keeps _ _

/-- The pass of the bank of pin `n` ends with its last idle pin. -/
theorem Chip.passedPin_passes (c : Chip) (n : Nat) : (vget (c.passedPin n).banks (n / 16)).passes =
    if c.laterIdle n then (vget c.banks (n / 16)).passes else (vget c.banks (n / 16)).passes + 1 := by
  unfold Chip.passedPin
  split
  · rfl
  · exact congrArg Bank.passes (vget_vmod_same _ _ _)

/-- Bank `k` is locked, with every pin measured. -/
def Chip.calibratedBank (c : Chip) (k : Nat) : Bool :=
  (vget c.banks k).lock && (List.range 16).all fun i => (vget c.pins (16 * k + i)).measured

theorem Chip.calUpdate_bank (hbg : c.edg.calctrl.getLsbD 0 = true) (hk : k < 12) :
    vget c.calUpdate.banks k = { vget c.banks k with calOk := c.calibratedBank k } := by
  unfold Chip.calUpdate
  rw [vget_vmapi _ _ hk, hbg, Bool.true_and]
  rfl

/-- cal_ok says that the bank is locked with every pin measured (R253). -/
theorem Chip.calUpdate_calOk (hbg : c.edg.calctrl.getLsbD 0 = true) (hk : k < 12) :
    (vget c.calUpdate.banks k).calOk = c.calUpdate.calibratedBank k := by
  unfold Chip.calibratedBank
  rw [Chip.calUpdate_bank hbg hk]
  rfl

theorem Chip.calMeasure_keeps (c : Chip) (n : Nat) : c.keeps [.pins, .banks, .edg, .freeIx] (c.calMeasure n) := by
  rw [Chip.calMeasure_eq]
  exact ((c.markMeasured_keeps n).mono (by decide)).trans
    (((c.passedPin_keeps n).mono (by decide)).trans ((Chip.calUpdate_keeps _).mono (by decide)))

theorem Chip.calMeasure_edg (c : Chip) (n : Nat) : (c.calMeasure n).edg = { c.edg with calNext := (n + 1) % 192 } := by
  rw [Chip.calMeasure_eq]
  exact c.passedPin_keeps n .edg (by decide)

theorem Chip.calMeasure_pins (c : Chip) (n : Nat) : (c.calMeasure n).pins = (c.markMeasured n).pins := by
  rw [Chip.calMeasure_eq]
  exact c.passedPin_keeps n .pins (by decide)

theorem Chip.calMeasure_calOk (hbg : c.edg.calctrl.getLsbD 0 = true) (hk : k < 12) :
    (vget (c.calMeasure n).banks k).calOk = (c.calMeasure n).calibratedBank k := by
  have hedg : (c.passedPin n).edg = (c.markMeasured n).edg := c.passedPin_keeps n .edg (by decide)
  rw [Chip.calMeasure_eq]
  exact Chip.calUpdate_calOk (by rw [hedg]; exact hbg) hk

theorem Chip.calMeasure_passes (hn : n < 192) : (vget (c.calMeasure n).banks (n / 16)).passes =
    if c.laterIdle n then (vget c.banks (n / 16)).passes else (vget c.banks (n / 16)).passes + 1 := by
  rw [Chip.calMeasure_eq, ← Chip.passedPin_passes]
  unfold Chip.calUpdate
  rw [vget_vmapi _ _ (show n / 16 < 12 by omega)]

/-- The chip after CAL_STEP_UPDATE of bank `k`. -/
def Chip.locked (c : Chip) (k : Nat) : Chip := (c.modBank k fun x => { x with lock := true }).calUpdate

theorem Chip.locked_keeps (c : Chip) (k : Nat) : c.keeps [.banks] (c.locked k) :=
  (c.modBank_keeps k _).trans (Chip.calUpdate_keeps _)

theorem Chip.locked_lock {j : Nat} (hbg : c.edg.calctrl.getLsbD 0 = true) (hk : k < 12) (hj : j < 12) :
    (vget (c.locked k).banks j).lock = if j = k then true else (vget c.banks j).lock := by
  have hbank := Chip.calUpdate_bank (c := c.modBank k fun x => { x with lock := true }) hbg hj
  refine (congrArg Bank.lock hbank).trans ?_
  rw [Chip.modBank, vget_vmod, Nat.mod_eq_of_lt hk, Nat.mod_eq_of_lt hj]
  by_cases h : j = k
  · rw [if_pos h, if_pos h.symm]
  · rw [if_neg h, if_neg fun e => h e.symm]

end

section
variable {s : State} {p : BitVec 8} {b : BitVec 4} {c : Chip} (hc : s.chip.endSwitch = c) (hon : c.coreOn = true)
include hc hon

theorem exec_calPinMeasure : exec (.calPinMeasure p) s = .next { s with
    chip := if c.edg.calctrl.getLsbD 0 && c.calPin == some p.toNat then c.calMeasure p.toNat else c } := by
  have hrow : exec (.calPinMeasure p) s = execCalPinMeasure p s := by rfl
  rw [hrow]
  unfold execCalPinMeasure onChip inFlight
  dsimp only
  rw [hc, hon, Bool.true_and]

theorem exec_calStepUpdate (hb : b.toNat < 12) : exec (.calStepUpdate b) s = .next { s with
    chip := if c.edg.calctrl.getLsbD 0 then c.locked b.toNat else c } := by
  have hrow : exec (.calStepUpdate b) s = execCalStepUpdate b s := by rfl
  rw [hrow]
  unfold execCalStepUpdate onChip inFlight
  dsimp only
  rw [hc, hon, decide_eq_false (show ¬ 11 < b.toNat by omega)]
  cases c.edg.calctrl.getLsbD 0
  · rfl
  · rfl

end

/-- Settles O55: EDGE_PLACE by the tick at which the head's edge falls, CAL_PIN_MEASURE by the pin whose turn it is. -/
theorem edgesFallAndCalibrationRuns : Obligations.EdgesFallAndCalibrationRuns := by
  unfold Obligations.EdgesFallAndCalibrationRuns
  refine ⟨fun s p at_ => ?edges, fun s p b => ?calibration⟩
  case edges =>
    dsimp only
    generalize hc : (if s.chip.clk.switching then s.chip else s.chip.endSwitch) = c
    intro hon hepu
    have hn : p.toNat < 192 := by
      simp only [Chip.epuPin, Bool.and_eq_true, decide_eq_true_eq] at hepu
      exact hepu.1
    rw [exec_edgePlace hc hon hepu]
    refine ⟨fun h => Chip.reach_steady h at_, fun hf => by rw [if_pos hf], fun hf hb r e hq he => ?_⟩
    have hplace := Chip.placeEdge_head (Pin.nextEdge_head hb hq he (c.reach at_).now)
    rw [if_neg (by rw [hf]; decide), hplace]
    refine ⟨fun hfall => ?_, fun hfall => ⟨_, ?_, State.keeps_chip ((c.reach at_).fallen_keeps p.toNat e),
      fun j hj hjn => Chip.fallen_other hn hj hjn, ?_, rfl⟩⟩
    · rw [if_pos (show ((c.reach at_).steps : Int) ≤ (c.reach at_).fall p.toNat e from hfall)]
      rfl
    · rw [if_neg (show ¬ ((c.reach at_).steps : Int) ≤ (c.reach at_).fall p.toNat e from not_le.2 hfall)]
      rfl
    · exact Chip.fallen_pin hq
  case calibration =>
    dsimp only
    generalize hc : s.chip.endSwitch = c
    intro hon hp hb
    rw [exec_calPinMeasure hc hon, exec_calStepUpdate hc hon hb]
    refine ⟨fun hoff => ?_, fun hbg => ⟨fun hturn => ?_, fun hturn => ?_, ?_⟩⟩
    · rw [hoff]
      exact ⟨rfl, rfl⟩
    · have hother : (c.calPin == some p.toNat) = false := beq_false_of_ne fun h => hturn ((Chip.calPin_eq_some hp).1 h)
      rw [hother, Bool.and_false]
      rfl
    · rw [(Chip.calPin_eq_some hp).2 hturn, hbg, beq_self_eq_true]
      refine ⟨_, rfl, State.keeps_chip (c.calMeasure_keeps p.toNat), c.calMeasure_edg p.toNat, fun j hj => ?_,
        fun k hk => Chip.calMeasure_calOk hbg hk, fun hlast => ?_, fun hmore => ?_⟩
      · change vget (c.calMeasure p.toNat).pins j = _
        rw [Chip.calMeasure_pins, Chip.markMeasured_pin hp hj]
      · have hnone : ¬ c.laterIdle p.toNat = true := fun h => by
          obtain ⟨i, hi, hi16, hidle⟩ := Chip.laterIdle_iff.1 h
          exact absurd (hlast i hi hi16) (by rw [hidle]; decide)
        exact (Chip.calMeasure_passes hp).trans (if_neg hnone)
      · exact (Chip.calMeasure_passes hp).trans (if_pos (Chip.laterIdle_iff.2 hmore))
    · rw [hbg]
      refine ⟨_, rfl, State.keeps_chip (c.locked_keeps b.toNat), (Chip.locked_lock hbg hb hb).trans (if_pos rfl),
        fun k hk => ⟨Chip.calUpdate_calOk hbg hk, fun hkb => (Chip.locked_lock hbg hb hk).trans (if_neg hkb)⟩⟩

end Sys2Proof.Machine
end

section
namespace Sys2Proof.Machine

/-! ### An edge at the pad (R262, R267) -/

section
variable (c : Chip) (n : Nat) (up : Bool)

theorem Chip.padEdge_keeps : c.keeps [.pins] (c.padEdge n up) := by
  unfold Chip.padEdge
  split
  · exact c.modPin_keeps n _
  · exact Chip.keeps.refl _ _

/-- The pad changes nothing that the TCU is set to. -/
theorem Chip.padEdge_tcu : (vget (c.padEdge n up).pins n).tcu = (vget c.pins n).tcu := by
  unfold Chip.padEdge
  split
  · exact (congrArg Pin.tcu (vget_vmod_same _ _ _)).trans rfl
  · rfl

theorem Chip.padEdge_frozen : (c.padEdge n up).frozen = c.frozen := by
  unfold Chip.padEdge
  split
  · rfl
  · rfl

theorem Chip.padEdge_pwr : (c.padEdge n up).pwr = c.pwr := c.padEdge_keeps n up .pwr (by decide)

theorem Chip.padEdge_coreOn : (c.padEdge n up).coreOn = c.coreOn := by
  simp only [Chip.coreOn, Chip.cclkOn, Chip.padEdge_frozen, Chip.padEdge_pwr]

variable {n}

/-- Line time that passes to the cc of an edge leaves what a TCU is set to. -/
theorem Chip.reach_tcu (t : BitVec 64) (hn : n < 192) : (vget (c.reach t).pins n).tcu = (vget c.pins n).tcu := by
  obtain ⟨v, hv⟩ := c.reach_pinsRest t n hn
  rw [hv]

end

section
variable {c : Chip}

/-- Bank `b` counts an edge that comes while the core stands still (R267). -/
def Chip.countHeld (c : Chip) (b : Nat) : Chip :=
  c.modBank b fun k => { k with holdCtr := if k.holdCtr = 255 then 255 else k.holdCtr + 1 }

theorem Chip.countHeld_bank {b : Nat} (h : (vget c.banks b).holdCtr ≠ 255) :
    vget (c.countHeld b).banks b = { vget c.banks b with holdCtr := (vget c.banks b).holdCtr + 1 } := by
  refine (vget_vmod_same _ _ _).trans ?_
  rw [if_neg h]

/-- A core that runs has power and no power failure, and does not stand still. -/
theorem Chip.coreOn_runs (hon : c.coreOn = true) : c.pwr.pgood = true ∧ c.pwr.pf = 0 ∧ c.frozen = false := by
  simp only [Chip.coreOn, Chip.cclkOn, Bool.and_eq_true, beq_iff_eq, Bool.not_eq_true'] at hon
  obtain ⟨⟨⟨⟨hpgood, hpf⟩, hrun⟩, _⟩, _⟩ := hon
  exact ⟨hpgood, hpf, hrun⟩

section
variable {s : State} {p : BitVec 8} {up : Bool} {t : BitVec 64} (hp : p.toNat < 192)
  (hc : (if s.chip.clk.switching || s.chip.inGap t then s.chip else s.chip.endSwitch) = c)
  (habsent : c.absent p.toNat = false)
include hp hc habsent

/-- CAPTURE_EDGE of a selected edge of a bank with supply: the TCU of a core that runs stamps it, a bank whose core stands
still counts it. -/
theorem exec_captureEdge (hgood : c.pwr.pgood = true) (hpf : c.pwr.pf = 0)
    (hsel : (vget c.pins p.toNat).tcu.getLsbD (if up then 0 else 1) = true) :
    exec (.captureEdge p up t) s = .next { s with
      chip := if c.frozen then (c.padEdge p.toNat up).countHeld (p.toNat / 16)
        else if c.coreOn then ((c.padEdge p.toNat up).reach t).stampEdge p.toNat up t else c.padEdge p.toNat up } := by
  have hrow : exec (.captureEdge p up t) s = execCaptureEdge p up t s := by rfl
  have hselects : (vget c.pins p.toNat).selects up = true := hsel
  have hpin : decide (191 < p.toNat) = false := decide_eq_false (by omega)
  rw [hrow]
  unfold execCaptureEdge inFlight
  dsimp only
  rw [hc, hgood, habsent, hselects, hpin, Chip.padEdge_pwr, hpf, Chip.padEdge_frozen, Chip.padEdge_coreOn]
  rfl

theorem exec_captureEdge_running (hon : c.coreOn = true)
    (hsel : (vget c.pins p.toNat).tcu.getLsbD (if up then 0 else 1) = true) :
    exec (.captureEdge p up t) s = .next { s with
      chip := ((c.padEdge p.toNat up).reach t).stampEdge p.toNat up t } := by
  obtain ⟨hgood, hpf, hrun⟩ := Chip.coreOn_runs hon
  rw [exec_captureEdge hp hc habsent hgood hpf hsel, hrun, hon]
  rfl

end

end

/-! ### Stamps and records (R262, R263, Table EDG-6) -/

/-- The TCU is blind at `t`: within 8 cc of the edge it stamped last. -/
def Pin.blindAt (x : Pin) (t : BitVec 64) : Prop := ∃ l, x.blind = some l ∧ 0 ≤ (t - l).toInt ∧ (t - l).toInt < 512

/-- The stamp of an edge of pin `n` at ball time `t`: less the board delay (R262). -/
def Chip.stampTime (a : Chip) (n : Nat) (t : BitVec 64) : BitVec 64 := t - (vget a.pins n).delay

section
variable {a : Chip} {n : Nat} {up : Bool} {t : BitVec 64}

theorem Chip.stampEdge_blind (h : (vget a.pins n).blindAt t) :
    a.stampEdge n up t = (a.setCapEvt 2).modBank (n / 16) fun k => { k with rate := satAdd k.rate 1 } := by
  obtain ⟨l, hl, hfrom, hto⟩ := h
  unfold Chip.stampEdge
  simp only [hl, signedGap, hfrom, hto, and_self, decide_true, if_true]

theorem Chip.stampEdge_seen (h : ¬ (vget a.pins n).blindAt t) : a.stampEdge n up t =
    (a.modPin n fun p => { p with blind := some t }).captureIn n up (a.stampTime n t) := by
  unfold Chip.stampEdge
  cases hb : (vget a.pins n).blind with
  | none =>
    simp only [hb, Bool.false_eq_true, if_false]
    rfl
  | some l =>
    have hout : ¬ (0 ≤ (t - l).toInt ∧ (t - l).toInt < 512) := fun hin => h ⟨l, hb, hin⟩
    simp only [hb, signedGap, hout, decide_false, Bool.false_eq_true, if_false]
    rfl

theorem Chip.setCapEvt_keeps (c : Chip) (k : Nat) : c.keeps [.edg] (c.setCapEvt k) := by
  intro p hp
  cases p <;> first | rfl | exact absurd hp (by decide)

/-- A stamped edge that finds its bank's FIFO full. -/
def Chip.dropped (a : Chip) (n : Nat) (t : BitVec 64) : Chip :=
  ((a.modPin n fun p => { p with blind := some t }).setCapEvt 0).modBank (n / 16) fun k =>
    { k with gap := true, ovf := satAdd k.ovf 1 }

theorem Chip.dropped_keeps (a : Chip) (n : Nat) (t : BitVec 64) : a.keeps [.pins, .banks, .edg] (a.dropped n t) := by
  intro p hp
  cases p <;> first | rfl | exact absurd hp (by decide)

theorem Chip.dropped_cap (a : Chip) (n : Nat) (t : BitVec 64) :
    (vget (a.dropped n t).pins n).cap = (vget a.pins n).cap := (congrArg Pin.cap (vget_vmod_same _ _ _)).trans rfl

theorem Chip.stampEdge_full (hseen : ¬ (vget a.pins n).blindAt t) (h : 16 ≤ (vget a.banks (n / 16)).fifo.length) :
    a.stampEdge n up t = a.dropped n t := by
  rw [Chip.stampEdge_seen hseen]
  unfold Chip.captureIn
  exact if_pos h

/-- The record of an edge of pin `n` at ball time `t`. -/
def Chip.stampRec (a : Chip) (n : Nat) (up : Bool) (t : BitVec 64) : QWord :=
  captureRec (a.stampTime n t) n up a.lt (vget a.banks (n / 16)).gap ((vget a.banks (n / 16)).seq + 1)
    (a.captureAngle (a.stampTime n t))

/-- A stamped edge in its bank's FIFO, with the signal of the bank, before flags bound to it. -/
def Chip.stamped (a : Chip) (n : Nat) (up : Bool) (t : BitVec 64) : Chip :=
  { a with
    banks := vmod a.banks (n / 16) fun k => { k with fifo := k.fifo ++ [a.stampRec n up t], seq := k.seq + 1, gap := false }
    pins := vmod (vmod a.pins n fun p => { p with blind := some t }) n fun p => { p with cap := some (a.stampTime n t, up) }
    pulses := a.pulses ||| BitVec.ofNat 64 (2 ^ (32 + n / 16)) }

theorem Chip.stamped_keeps (a : Chip) (n : Nat) (up : Bool) (t : BitVec 64) :
    a.keeps [.banks, .pins, .pulses] (a.stamped n up t) := by
  intro p hp
  cases p <;> first | rfl | exact absurd hp (by decide)

theorem Chip.stampEdge_room (hseen : ¬ (vget a.pins n).blindAt t) (h : (vget a.banks (n / 16)).fifo.length < 16) :
    a.stampEdge n up t = (a.stamped n up t).fireSource 2 (n / 16) := by
  rw [Chip.stampEdge_seen hseen]
  unfold Chip.captureIn
  exact if_neg (Nat.not_le.2 h)

theorem Chip.stamped_cap (a : Chip) (n : Nat) (up : Bool) (t : BitVec 64) :
    (vget (a.stamped n up t).pins n).cap = some (a.stampTime n t, up) :=
  (congrArg Pin.cap (vget_vmod_same _ _ _)).trans rfl

/-- The signal of a bank with a new record (Table FRD-3). -/
theorem Chip.stamped_signal (hn : n < 192) : (a.stamped n up t).pulses.getLsbD (32 + n / 16) = true := by
  change (a.pulses ||| _).getLsbD _ = true
  rw [BitVec.getLsbD_or, BitVec.getLsbD_ofNat, Nat.testBit_two_pow_self, decide_eq_true (show 32 + n / 16 < 64 by omega),
    Bool.and_self, Bool.or_true]

/-- A capture record holds the stamp, the pin, the direction, the gap before it and its sequence number. -/
theorem Chip.stampRec_fields (a : Chip) (n : Nat) (up : Bool) (t : BitVec 64) :
    let w := a.stampRec n up t
    w.extractLsb' 0 64 = a.stampTime n t ∧ w.extractLsb' 64 8 = BitVec.ofNat 8 n ∧ w.getLsbD 72 = up ∧
      w.getLsbD 75 = (vget a.banks (n / 16)).gap ∧ w.extractLsb' 80 16 = (vget a.banks (n / 16)).seq + 1 := by
  unfold Chip.stampRec captureRec
  refine ⟨BitVec.extractLsb'_append_eq_right, ?_, ?_, ?_, ?_⟩
  · rw [BitVec.extractLsb'_append_eq_of_le (by decide)]
    exact BitVec.extractLsb'_append_eq_right
  · simp only [BitVec.getLsbD_append]
    simp
  · simp only [BitVec.getLsbD_append]
    simp
  · iterate 7 rw [BitVec.extractLsb'_append_eq_of_le (by decide)]
    exact BitVec.extractLsb'_append_eq_right

/-- A change of one bank leaves the others. -/
theorem vget_banks_other (v : Vector Bank 12) (g : Bank → Bank) {b j : Nat} (hb : b < 12) (hj : j < 12) (h : j ≠ b) :
    vget (vmod v b g) j = vget v j := vget_vmod_other v g (by omega)

end

/-! ### The ring in Capture RAM (R264, R266) -/

section
variable {c : Chip} {b : Nat} {w : QWord} {r : List QWord}

theorem regionOf_capture {a : Nat} (hlo : 0x20000000 ≤ a) (hhi : a < 0x20040000) : regionOf a = some 2 := by
  unfold regionOf
  iterate 2 rw [if_neg (by omega)]
  rw [if_pos ⟨hlo, hhi⟩]

/-- The address of the slot of the ring that is written next. -/
def Chip.capSlot (c : Chip) : Nat := 0x20000000 + 16 * (c.edg.wptr.toNat % 16384)

/-- The ring and the turn of the banks gone on after a record of bank `b`. -/
def Chip.ringOn (c : Chip) (b : Nat) : Chip :=
  { c with edg := { c.edg with wptr := c.edg.wptr + 1, turn := (b + 1) % 12 } }

/-- The oldest record of bank `b` handed over, `r` the others of its FIFO. -/
def Chip.handed (c : Chip) (b : Nat) (r : List QWord) : Chip := (c.modBank b fun k => { k with fifo := r }).ringOn b

theorem Chip.handed_keeps (c : Chip) (b : Nat) (r : List QWord) : c.keeps [.edg, .banks] (c.handed b r) := by
  intro p hp
  cases p <;> first | rfl | exact absurd hp (by decide)

theorem Chip.capSlot_bounds (c : Chip) : 0x20000000 ≤ c.capSlot ∧ c.capSlot < 0x20040000 ∧ c.capSlot % 16 = 0 := by
  unfold Chip.capSlot
  omega

theorem Chip.capSlot_putWord (c : Chip) (w : QWord) : c.keeps [.mem, .ecc] (c.putWord c.capSlot w) := by
  obtain ⟨hlo, hhi, _⟩ := c.capSlot_bounds
  exact c.putWord_keeps_nvs w (by rw [regionOf_capture hlo hhi]; decide)

/-- CAPTURE_RAM_WRITE for the bank whose turn it is. -/
theorem exec_captureRamWrite {s : State} (hc : s.chip.endSwitch = c) (hon : c.coreOn = true) (hnext : c.nextBank = some b)
    (hfifo : (vget c.banks b).fifo = w :: r) : exec .captureRamWrite s = .next { s with
      chip := if c.edg.wptr - c.edg.rptr == 16384 then c.setCapEvt 1 else (c.putWord c.capSlot w).handed b r } := by
  have hrow : exec .captureRamWrite s = execCaptureRamWrite s := by rfl
  have hslot : 0x20000000 + 16 * field c.edg.wptr 0 14 = c.capSlot := by simp [field, Chip.capSlot]
  rw [hrow]
  unfold execCaptureRamWrite onChip inFlight
  dsimp only
  rw [hc, hon, hnext]
  dsimp only
  rw [hfifo, hslot]
  rfl

end

/-- Settles O56: CAPTURE_EDGE by what its TCU does with a stamp, CAPTURE_RAM_WRITE by whether the ring has room. -/
theorem capturesReachTheRing : Obligations.CapturesReachTheRing := by
  unfold Obligations.CapturesReachTheRing
  refine ⟨fun s p up at_ hp => ?edge, fun s b hb => ?ring⟩
  case edge =>
    dsimp only
    generalize hc : (if s.chip.clk.switching || s.chip.inGap at_ then s.chip else s.chip.endSwitch) = c
    have hb : p.toNat / 16 < 12 := by omega
    refine ⟨fun hon _ habsent hsel => ?running, fun hgood hpf hfrozen habsent hsel hroom => ?held⟩
    case running =>
      generalize ha : (c.padEdge p.toNat up).reach at_ = a at hsel ⊢
      have htcu : (vget a.pins p.toNat).tcu = (vget c.pins p.toNat).tcu := by
        rw [← ha, Chip.reach_tcu _ _ hp, Chip.padEdge_tcu]
      rw [exec_captureEdge_running hp hc habsent hon (htcu ▸ hsel), ha]
      refine ⟨fun hseen hroom => ?_, fun hseen hfull => ?_, fun hblind => ?_⟩
      · have hfire := (a.stamped p.toNat up at_).fireSource_keeps 2 (p.toNat / 16)
        rw [Chip.stampEdge_room hseen hroom]
        generalize (a.stamped p.toNat up at_).fireSource 2 (p.toNat / 16) = e at hfire ⊢
        have hbanks : e.banks = (a.stamped p.toNat up at_).banks := hfire .banks (by decide)
        have hpins : e.pins = (a.stamped p.toNat up at_).pins := hfire .pins (by decide)
        have hpulses : e.pulses = (a.stamped p.toNat up at_).pulses := hfire .pulses (by decide)
        obtain ⟨htime, hpin, hup, hgap, hseq⟩ := a.stampRec_fields p.toNat up at_
        refine ⟨_, a.stampRec p.toNat up at_, rfl,
          State.keeps_chip (((a.stamped_keeps _ _ _).mono (by decide)).trans (hfire.mono (by decide))),
          fun j hj hjb => (congrArg (vget · j) hbanks).trans (vget_banks_other _ _ hb hj hjb),
          (congrArg (vget · _) hbanks).trans (vget_vmod_same _ _ _), htime, hpin.trans (by simp), hup, hgap, hseq,
          (congrArg (fun v => (vget v p.toNat).cap) hpins).trans (a.stamped_cap _ _ _),
          (congrArg (BitVec.getLsbD · _) hpulses).trans (Chip.stamped_signal hp)⟩
      · rw [Chip.stampEdge_full hseen hfull]
        exact ⟨_, rfl, State.keeps_chip ((a.dropped_keeps _ _).mono (by decide)),
          fun j hj hjb => vget_banks_other _ _ hb hj hjb, vget_vmod_same _ _ _, a.dropped_cap _ _⟩
      · rw [Chip.stampEdge_blind hblind]
        refine ⟨_, rfl, State.keeps_chip ?_, fun j hj hjb => vget_banks_other _ _ hb hj hjb, vget_vmod_same _ _ _, rfl⟩
        exact ((a.setCapEvt_keeps 2).mono (by decide)).trans ((Chip.modBank_keeps _ _ _).mono (by decide))
    case held =>
      have hpad := c.padEdge_keeps p.toNat up
      rw [exec_captureEdge hp hc habsent hgood hpf hsel, hfrozen]
      generalize c.padEdge p.toNat up = d at hpad ⊢
      have hbanks : d.banks = c.banks := hpad .banks (by decide)
      refine ⟨_, rfl, State.keeps_chip ((hpad.mono (by decide)).trans ((Chip.modBank_keeps _ _ _).mono (by decide))),
        fun j hj hjb => ?_, ?_⟩
      · rw [← hbanks]
        exact vget_banks_other _ _ hb hj hjb
      · rw [← hbanks] at hroom ⊢
        exact Chip.countHeld_bank hroom
  case ring =>
    dsimp only
    generalize hc : s.chip.endSwitch = c
    intro w r hon hnext hfifo
    rw [exec_captureRamWrite hc hon hnext hfifo]
    refine ⟨fun hfull => ?_, fun hroom => ?_⟩
    · rw [if_pos (beq_iff_eq.2 hfull)]
      exact ⟨_, rfl, State.keeps_chip (c.setCapEvt_keeps 1), rfl⟩
    · rw [if_neg (mt beq_iff_eq.1 hroom)]
      have hput := c.capSlot_putWord w
      obtain ⟨_, _, haligned⟩ := c.capSlot_bounds
      have hword := c.getWord_putWord c.capSlot w
      have hmem := c.putWord_mem c.capSlot w
      generalize c.putWord c.capSlot w = d at hput hword hmem ⊢
      have hbanks : d.banks = c.banks := hput .banks (by decide)
      have hedg : d.edg = c.edg := hput .edg (by decide)
      refine ⟨_, rfl, State.keeps_chip ((hput.mono (by decide)).trans ((d.handed_keeps b r).mono (by decide))),
        fun j hj hjb => ?_, ?_, ?_, hword, fun x hx => ?_⟩
      · rw [← hbanks]
        exact vget_banks_other _ _ hb hj hjb
      · rw [← hbanks]
        exact vget_vmod_same _ _ _
      · rw [← hedg]
        rfl
      · change memRead 0 d.mem x = _
        rw [hmem, show c.capSlot / 16 * 16 = c.capSlot by omega]
        exact memRead_put_other _ _ _ _ hx

end Sys2Proof.Machine
end

section
namespace Sys2Proof.Machine

/-! ### Crossings as positions of a window (R278) -/

theorem setWidth_sub (x y : BitVec 64) : (x - y).setWidth 32 = x.setWidth 32 - y.setWidth 32 := by
  bv_omega

/-- The word `r` is a distance of 64 bits exactly where it is the low half of one below 2^32. -/
theorem setWidth_eq_iff {r : Word} {d : BitVec 64} : r.setWidth 64 = d ↔ d.setWidth 32 = r ∧ d.toNat < 2 ^ 32 := by
  constructor
  · rintro rfl
    exact ⟨by rw [BitVec.setWidth_setWidth_of_le _ (by decide), BitVec.setWidth_eq],
      by rw [BitVec.toNat_setWidth_of_le (by decide)]; exact r.isLt⟩
  · rintro ⟨rfl, hd⟩
    refine BitVec.eq_of_toNat_eq ?_
    rw [BitVec.toNat_setWidth_of_le (by decide), BitVec.toNat_setWidth, Nat.mod_eq_of_lt hd]

section
variable {p x : BitVec 64} {b : Word}

/-- From `p` upwards the first position with low word `b` is the one less than 2^32 away. -/
theorem firstUp_eq_iff :
    p + (b - p.setWidth 32).setWidth 64 = x ↔ x.setWidth 32 = b ∧ (x - p).toNat < 2 ^ 32 := by
  rw [add_comm, ← eq_sub_iff_add_eq, setWidth_eq_iff, setWidth_sub, sub_left_inj]

/-- Its distance is the difference of the low words. -/
theorem firstUp_distance (h : p + (b - p.setWidth 32).setWidth 64 = x) :
    (x - p).toNat = (b - p.setWidth 32).toNat := by
  rw [← h, add_sub_cancel_left, BitVec.toNat_setWidth_of_le (by decide)]

/-- From `p` downwards the first position with low word `b` is the one less than 2^32 away. -/
theorem firstDown_eq_iff :
    p - (p.setWidth 32 - b).setWidth 64 = x ↔ x.setWidth 32 = b ∧ (p - x).toNat < 2 ^ 32 := by
  rw [sub_eq_iff_eq_add', eq_comm, ← eq_sub_iff_add_eq, setWidth_eq_iff, setWidth_sub, sub_right_inj]

/-- Its distance is the difference of the low words. -/
theorem firstDown_distance (h : p - (p.setWidth 32 - b).setWidth 64 = x) :
    (p - x).toNat = (p.setWidth 32 - b).toNat := by
  rw [← h, sub_sub_cancel, BitVec.toNat_setWidth_of_le (by decide)]

end

section
variable {prev now x : BitVec 64} {b : Word}

/-- A forward crossing is the first position up from the one after the start, where that lies in the window. -/
theorem crossFwd_firstUp : crossFwd prev now b = some x ↔
    0 < signedGap now prev ∧ ((b - (prev + 1).setWidth 32).toNat : Int) < signedGap now prev ∧
      (prev + 1) + (b - (prev + 1).setWidth 32).setWidth 64 = x := by
  have hr : b - prev.setWidth 32 - 1 = b - (prev + 1).setWidth 32 := by bv_omega
  simp only [crossFwd, Option.ite_none_right_eq_some, Option.some.injEq, and_assoc, hr, add_right_comm prev]

/-- A reverse crossing is the first position down from the start, where that lies in the window. -/
theorem crossRev_firstDown : crossRev prev now b = some x ↔
    signedGap now prev < 0 ∧ ((prev.setWidth 32 - b).toNat : Int) < -signedGap now prev ∧
      prev - (prev.setWidth 32 - b).setWidth 64 = x := by
  simp only [crossRev, Option.ite_none_right_eq_some, Option.some.injEq, and_assoc]

/-- Less than 2^32 up from the position after `prev` is 1 to 2^32 up from `prev`. -/
theorem distance_succ_lt_iff :
    (x - (prev + 1)).toNat < 2 ^ 32 ↔ 1 ≤ (x - prev).toNat ∧ (x - prev).toNat ≤ 2 ^ 32 := by
  bv_omega

theorem distance_succ (h : 1 ≤ (x - prev).toNat) : (x - prev).toNat = (x - (prev + 1)).toNat + 1 := by
  bv_omega

theorem crossFwd_eq_some_iff : crossFwd prev now b = some x ↔
    0 < signedGap now prev ∧ x.setWidth 32 = b ∧ 1 ≤ (x - prev).toNat ∧ (x - prev).toNat ≤ 2 ^ 32 ∧
      ((x - prev).toNat : Int) ≤ signedGap now prev := by
  rw [crossFwd_firstUp]
  constructor
  · rintro ⟨hpos, hr, hx⟩
    obtain ⟨hb, hlt⟩ := firstUp_eq_iff.1 hx
    obtain ⟨hlow, hhigh⟩ := distance_succ_lt_iff.1 hlt
    have hd := firstUp_distance hx
    have hsucc := distance_succ hlow
    exact ⟨hpos, hb, hlow, hhigh, by omega⟩
  · rintro ⟨hpos, hb, hlow, hhigh, hle⟩
    have hx := firstUp_eq_iff.2 ⟨hb, distance_succ_lt_iff.2 ⟨hlow, hhigh⟩⟩
    have hd := firstUp_distance hx
    have hsucc := distance_succ hlow
    exact ⟨hpos, by omega, hx⟩

theorem crossRev_eq_some_iff : crossRev prev now b = some x ↔
    signedGap now prev < 0 ∧ x.setWidth 32 = b ∧ (prev - x).toNat < 2 ^ 32 ∧
      ((prev - x).toNat : Int) < -signedGap now prev := by
  rw [crossRev_firstDown]
  constructor
  · rintro ⟨hneg, hr, hx⟩
    obtain ⟨hb, hlt⟩ := firstDown_eq_iff.1 hx
    exact ⟨hneg, hb, hlt, by rwa [firstDown_distance hx]⟩
  · rintro ⟨hneg, hb, hlt, hgap⟩
    have hx := firstDown_eq_iff.2 ⟨hb, hlt⟩
    exact ⟨hneg, by rwa [← firstDown_distance hx], hx⟩

end

/-- Settles O53: a crossing is the first position of its angle in its direction, less than 2^32 from where the test begins,
and the window decides whether it reaches that far. -/
theorem windowsCrossAnglesInTheirDirection : Obligations.WindowsCrossAnglesInTheirDirection := by
  unfold Obligations.WindowsCrossAnglesInTheirDirection
  exact fun _ _ _ _ => ⟨crossFwd_eq_some_iff, crossRev_eq_some_iff⟩

end Sys2Proof.Machine
end

section
namespace Sys2Proof.Machine

/-! ### Slot attempts (R314, R315, R443) -/

/-! #### A slot whose first sector is not VALID (R300, R310) -/

/-- A read that begins in a sector that is not VALID reads nothing. -/
theorem Prs.flashRead_invalid {p : Prs} {a n : Nat} (hn : 0 < n) (hm : memRead 0 p.marks (a / 4096) ≠ 1) :
    p.flashRead a n = none := by
  unfold Prs.flashRead
  dsimp only
  refine if_neg fun h => ?_
  obtain ⟨hsectors, -⟩ := (Bool.and_eq_true _ _).mp h
  have hfirst : a / 4096 ∈
      ((List.range (n / 4096 + 2)).map (fun i => a / 4096 + i)).filter fun s => decide (s * 4096 < a + n) :=
    List.mem_filter.2 ⟨List.mem_map.2 ⟨0, by simp⟩, by simp; omega⟩
  have hvalid := List.all_eq_true.1 hsectors _ hfirst
  rw [beq_eq_false_iff_ne.2 hm, Bool.false_and] at hvalid
  exact absurd hvalid (by decide)

theorem Prs.openStream_invalid {p : Prs} {r : Nat} (die : Die) (hm : memRead 0 p.marks (256 * r) ≠ 1) :
    ((p.openStream die r).run.run 0 : Except Byte (Hdr × List Seg) × Nat) = (.error St.eccUncorr, 0) := by
  have hread : p.flashRead (regionBase r) 256 = none :=
    Prs.flashRead_invalid (by decide) (by rwa [show regionBase r / 4096 = 256 * r by unfold regionBase; omega])
  unfold Prs.openStream Prs.readStream Prs.fread
  rw [hread]
  rfl

section
variable {c : Chip} {slot : Bool} {step st : Byte}

/-- The slot of the next attempt: the first one, then the other. -/
def Chip.attemptSlot (c : Chip) : Bool := if c.prs.tried = 0 then c.firstSlot else !c.firstSlot

/-- The stage of a slot failed with no word corrected: PRS.EVT.stage_fail. -/
def Chip.unstaged (c : Chip) : Chip := (c.flashCorrected 0).setPrsEvt 3

theorem Chip.stageSlot_invalid (die : Die) (hm : memRead 0 c.prs.marks (if slot then 256 else 0) ≠ 1) :
    c.stageSlot die slot = (St.eccUncorr, 1, 0, c.unstaged) := by
  have hopen := Prs.openStream_invalid (p := c.prs) (r := if slot then 1 else 0) die (by cases slot <;> exact hm)
  unfold Chip.stageSlot
  dsimp only
  rw [hopen]
  rfl

theorem Prs.busyIn_none {p : Prs} (h : p.op = none) (r : Nat) : p.busyIn r = false := by
  unfold Prs.busyIn
  rw [h]

/-- An attempt at such a slot fails at step 1. -/
theorem Chip.slotAttempt_invalid (die : Die) (hop : c.prs.op = none)
    (hm : memRead 0 c.prs.marks (if c.attemptSlot then 256 else 0) ≠ 1) :
    c.slotAttempt die = c.unstaged.slotFailed c.attemptSlot 1 St.eccUncorr := by
  unfold Chip.slotAttempt
  dsimp only
  rw [show (if c.prs.tried = 0 then c.firstSlot else !c.firstSlot) = c.attemptSlot from rfl,
    if_neg (by rw [Prs.busyIn_none hop]; decide), Chip.stageSlot_invalid die hm]
  rfl

/-! #### An attempt that fails (R315) -/

/-- What an attempt that fails leaves, before LOADER: PRS.BOOTLOG, its record, the staged stream given up, the attempt
counted. -/
def Chip.attemptFailed (c : Chip) (slot : Bool) (step st : Byte) : Chip :=
  let e := (c.bootLog slot st).record 0x2B01 9 (if slot then 1 else 0) (ctxAt 32 step.toNat ||| ctxAt 33 st.toNat)
  { e.dropStaged with prs := { e.dropStaged.prs with tried := e.prs.tried + 1 } }

theorem Chip.slotFailed_first (h : c.prs.tried = 0) : c.slotFailed slot step st = c.attemptFailed slot step st := by
  refine if_neg ?_
  show ¬ c.prs.tried + 1 = 2
  omega

theorem Chip.slotFailed_second (h : c.prs.tried = 1) :
    c.slotFailed slot step st = (c.attemptFailed slot step st).enterLoader := by
  refine if_pos ?_
  show c.prs.tried + 1 = 2
  omega

theorem Chip.dropStaged_prs (c : Chip) : c.dropStaged.prs = { c.prs with staged := none } := by
  unfold Chip.dropStaged
  split
  · next h => rw [← h]
  · next s _ =>
    dsimp only
    rw [show (c.freeTables s.cams).prs = c.prs from c.freeTables_keeps s.cams .prs (by decide)]

theorem Chip.bootLog_keeps (c : Chip) (slot : Bool) (st : Byte) : c.keeps [.prs] (c.bootLog slot st) := by
  intro p hp
  cases p <;> first | rfl | exact absurd hp (by decide)

theorem Chip.keeps_prs {ps : List Part} (c : Chip) (prs : Prs) (h : Part.prs ∈ ps) : c.keeps ps { c with prs := prs } := by
  intro p hp
  cases p <;> first | rfl | exact absurd h hp

theorem Chip.attemptFailed_keeps (c : Chip) (slot : Bool) (step st : Byte) :
    c.keeps [.prs, .lic, .cams] (c.attemptFailed slot step st) :=
  ((((c.bootLog_keeps slot st).mono (by decide)).trans ((Chip.record_keeps _ _ _ _ _ _ _).mono (by decide))).trans
    ((Chip.dropStaged_keeps _).mono (by decide))).trans (Chip.keeps_prs _ _ (by decide))

theorem Chip.attemptFailed_prs (c : Chip) (slot : Bool) (step st : Byte) :
    (c.attemptFailed slot step st).prs =
      { (c.bootLog slot st).prs with staged := none, tried := c.prs.tried + 1 } := by
  unfold Chip.attemptFailed
  dsimp only
  rw [Chip.dropStaged_prs]
  rfl

theorem Chip.attemptFailed_record (slot : Bool) (step st : Byte) (hroom : c.lic.room = true) :
    ∃ r, r.cause = 0x2B01 ∧ c.oneRecord (c.attemptFailed slot step st) r :=
  ⟨_, rfl, (Chip.dropStaged_keeps _ .lic (by decide)).trans (Chip.record_oneRecord
    (e := c.bootLog slot st) (cause := 0x2B01) (cls := 9) (idx := if slot then 1 else 0) (info := 0)
    (x := ctxAt 32 step.toNat ||| ctxAt 33 st.toNat) (b := c) rfl hroom)⟩

/-- The status of the first attempt stands at its slot's byte of PRS.BOOTLOG, below the flags. -/
theorem Chip.bootLog_status (h : c.prs.tried = 0) :
    (c.bootLog slot st).prs.bootlog.extractLsb' (if slot then 8 else 0) 8 = st := by
  unfold Chip.bootLog
  have hbyte : (if slot then 8 else 0) ≤ 8 := by cases slot <;> decide
  have hflag : 16 ≤ (if slot then 17 else 16) ∧ (if slot then 17 else 16) < 32 := by cases slot <;> decide
  dsimp only
  generalize (if slot then 8 else 0) = n at hbyte ⊢
  generalize (if slot then 17 else 16) = m at hflag ⊢
  obtain ⟨hlow, hhigh⟩ := hflag
  rw [if_pos h, show (0 : Word) &&& 0x0003FFFF = 0#32 by decide, BitVec.zero_or]
  ext j hj
  have hstatus : (fldW n st).getLsbD (n + j) = st[j] := by
    simp [fldW, hj, show n + j < 32 by omega]
  have hclear {k : Nat} (b : Bool) (hk : k < 32) (hne : n + j ≠ k) : (bitW k b).getLsbD (n + j) = false := by
    rw [getLsbD_bitW _ _ hk, beq_eq_false_iff_ne.2 hne, Bool.and_false]
  simp only [BitVec.getElem_extractLsb', BitVec.getLsbD_or, hstatus, hclear _ hhigh (by omega),
    hclear _ (show 18 < 32 by decide) (by omega), hclear _ (show 19 < 32 by decide) (by omega),
    hclear _ (show 20 < 32 by decide) (by omega), Bool.or_false]

end

theorem Lic.room_of_general {l : Lic} (hwait : l.wait = []) (hgen : l.general < 14) : l.room = true := by
  simp [Lic.room, Lic.free, hwait, hgen]

/-- The writer has room for another record of a core unit. -/
theorem Lic.room_append {l : Lic} (r : LicRec) (hwait : l.wait = []) (hgen : l.general < 13) :
    ({ l with buf := l.buf ++ [r] } : Lic).room = true := by
  refine Lic.room_of_general hwait ?_
  have hone := List.length_filter_le (fun x : LicRec => x.entry == .general) [r]
  unfold Lic.general at hgen ⊢
  rw [List.filter_append, List.length_append]
  exact Nat.lt_of_le_of_lt (Nat.add_le_add_left hone _) (Nat.succ_lt_succ hgen)

/-! #### LOADER (R315) -/

/-- Every frond placed in SAFE is in SAFE. -/
theorem Chip.setFronds_safe (c : Chip) {n : Nat} (hn : n < 32) :
    (vget (c.setFronds 0xFFFFFFFF .safe).fronds n).st = .safe := by
  have hmask : (0xFFFFFFFF : Word).getLsbD n = true := by
    rw [show (0xFFFFFFFF : Word) = BitVec.allOnes 32 from rfl, BitVec.getLsbD_allOnes]
    exact decide_eq_true hn
  have hmem : n ∈ maskList (c.changing 0xFFFFFFFF .safe) ↔ (vget c.fronds n).st ≠ .safe := by
    simp only [maskList, List.mem_filter, List.mem_range, hn, true_and, Chip.getLsbD_changing c _ _ hn, hmask]
    simp
  have hfronds : (c.setFronds 0xFFFFFFFF .safe).fronds =
      ((maskList (c.changing 0xFFFFFFFF .safe)).foldl
        (fun c n => c.modFrond n fun f => { f with st := .safe, gen := f.gen + 1 }) c).fronds :=
    (Chip.settle_keeps _ _ .fronds (by decide)).trans (Chip.hushIrp_keeps _ _ .fronds (by decide))
  have hnodup : (maskList (c.changing 0xFFFFFFFF .safe)).Nodup := List.nodup_range.filter _
  rw [hfronds, vget_foldl_modFrond _ hn _ hnodup fun j hj => List.mem_range.1 (List.mem_filter.1 hj).1]
  by_cases hst : (vget c.fronds n).st = .safe
  · rw [if_neg (fun h => hmem.1 h hst), hst]
  · rw [if_pos (hmem.2 hst)]

/-- The chip as LOADER is entered, before its record: the staged stream given up, every frond in SAFE without an active plane,
no pin driven, no slot active. -/
def Chip.loaderEdge (c : Chip) : Chip :=
  let d := c.dropStaged.setFronds 0xFFFFFFFF .safe
  { d with
    fronds := vmapi (fun _ f => { f with activeOk := false }) d.fronds
    pins := vmapi (fun _ p => { p with drv := 2 }) d.pins
    prs := { d.prs with ldr := .loader, actSlot := none } }

theorem Chip.enterLoader_eq (c : Chip) : c.enterLoader =
    (c.loaderEdge.record 0x2B02 0 0 (ctxAt 32 (field c.loaderEdge.prs.bootlog 0 16))).endStartup 6 true := rfl

theorem Chip.loaderEdge_lic (c : Chip) : c.loaderEdge.lic = c.lic :=
  (Chip.setFronds_keeps _ _ _ .lic (by decide)).trans (c.dropStaged_keeps .lic (by decide))

theorem Chip.loaderEdge_frond (c : Chip) {n : Nat} (hn : n < 32) :
    (vget c.loaderEdge.fronds n).st = .safe ∧ (vget c.loaderEdge.fronds n).activeOk = false := by
  have hfrond : vget c.loaderEdge.fronds n =
      { vget (c.dropStaged.setFronds 0xFFFFFFFF .safe).fronds n with activeOk := false } := vget_vmapi _ _ hn
  rw [hfrond]
  exact ⟨Chip.setFronds_safe _ hn, rfl⟩

theorem Chip.endStartup_keeps (c : Chip) (last : Nat) (loader : Bool) :
    c.keeps [.prs, .pwr, .freeIx] (c.endStartup last loader) := by
  intro p hp
  unfold Chip.endStartup
  dsimp only
  split <;> cases p <;> first | rfl | exact absurd hp (by decide)

theorem Chip.endStartup_prs (c : Chip) (last : Nat) (loader : Bool) :
    (c.endStartup last loader).prs = { c.prs with tried := 0, reload := false } := by
  unfold Chip.endStartup
  dsimp only
  split <;> rfl

theorem Chip.endStartup_step (c : Chip) (last : Nat) (loader : Bool) : (c.endStartup last loader).pwr.step = 0 := by
  unfold Chip.endStartup
  dsimp only
  split
  · next h => exact h
  · rfl

/-- LOADER is a record, 0x2B02, the loader's state and the end of start-up. -/
theorem Chip.enterLoader_spec (c : Chip) (hroom : c.lic.room = true) :
    c.enterLoader.prs.ldr = .loader ∧ c.enterLoader.prs.actSlot = none ∧ c.enterLoader.pwr.step = 0 ∧
      (∃ r, r.cause = 0x2B02 ∧ c.oneRecord c.enterLoader r) ∧
      ∀ n, n < 32 → (vget c.enterLoader.fronds n).st = .safe ∧ (vget c.enterLoader.fronds n).activeOk = false := by
  rw [Chip.enterLoader_eq]
  have hrecord := Chip.record_oneRecord (cause := 0x2B02) (cls := 0) (idx := 0) (info := 0)
    (x := ctxAt 32 (field c.loaderEdge.prs.bootlog 0 16)) c.loaderEdge_lic hroom
  generalize hd : c.loaderEdge.record 0x2B02 0 0 (ctxAt 32 (field c.loaderEdge.prs.bootlog 0 16)) = d at hrecord
  have hkeeps := d.endStartup_keeps 6 true
  have hfronds : (d.endStartup 6 true).fronds = c.loaderEdge.fronds := by
    rw [show (d.endStartup 6 true).fronds = d.fronds from hkeeps .fronds (by decide), ← hd]
    rfl
  refine ⟨?_, ?_, d.endStartup_step 6 true, ⟨_, rfl, (hkeeps .lic (by decide)).trans hrecord⟩, fun n hn => ?_⟩
  · rw [Chip.endStartup_prs, ← hd]
    rfl
  · rw [Chip.endStartup_prs, ← hd]
    rfl
  · rw [hfronds]
    exact c.loaderEdge_frond hn

/-! #### An attempt at step 6 (R443) -/

/-- BOOT_SLOT_ATTEMPT at step 6 with RESET_N high is one attempt. -/
theorem exec_bootSlotAttempt {s : State} (hgood : s.chip.endSwitch.pwr.pgood = true) (hcore : s.chip.endSwitch.coreOn = true)
    (hstep : s.chip.endSwitch.pwr.step = 6) (hreset : s.chip.endSwitch.pwr.resetN = true) :
    exec .bootSlotAttempt s = .next { s with chip := s.chip.endSwitch.slotAttempt s.die } := by
  have hexec : exec .bootSlotAttempt s = execBootSlotAttempt s := by rfl
  rw [hexec]
  unfold execBootSlotAttempt onChip inFlight
  dsimp only
  rw [if_pos (by simp [hgood, hcore, hstep, hreset])]

/-- An attempt whose slot passes its checks activates it and ends start-up. -/
theorem Chip.slotAttempt_passed {c c1 c2 : Chip} {die : Die} {st st' : Byte} {k n : Nat} {sg sg' : Staged}
    (hop : c.prs.op = none) (hstage : c.stageSlot die c.attemptSlot = (st, k, n, c1)) (hst : failed st = false)
    (hsg : c1.prs.staged = some sg) (hverify : c1.verifyStaged die sg = (st', c2)) (hst' : failed st' = false)
    (hsg' : c2.prs.staged = some sg') (hcheck : c2.actCheck Src.unit sg' = none) :
    c.slotAttempt die = ((c2.bootLog c.attemptSlot (joinSt st st')).activate die sg').endStartup 7 false := by
  unfold Chip.slotAttempt
  dsimp only
  rw [show (if c.prs.tried = 0 then c.firstSlot else !c.firstSlot) = c.attemptSlot from rfl,
    if_neg (by rw [Prs.busyIn_none hop]; decide), hstage]
  simp only [hst, hsg, hverify, hst', hsg', Bool.false_eq_true, if_false, Chip.slotActivate, hcheck]

/-- The first attempt, at a slot that is not VALID. -/
theorem Chip.firstAttempt_invalid {c : Chip} (die : Die) (hop : c.prs.op = none)
    (hm : memRead 0 c.prs.marks (if c.attemptSlot then 256 else 0) ≠ 1) (htried : c.prs.tried = 0)
    (hroom : c.lic.room = true) :
    let e := c.slotAttempt die
    c.keeps [.prs, .lic, .cams] e ∧ e.prs.tried = 1 ∧ e.prs.staged = none ∧
      (∃ r, c.oneRecord e r ∧ r.cause = 0x2B01) ∧
      e.prs.bootlog.extractLsb' (if c.attemptSlot then 8 else 0) 8 = St.eccUncorr := by
  have hfailed : c.slotAttempt die = c.unstaged.attemptFailed c.attemptSlot 1 St.eccUncorr := by
    rw [Chip.slotAttempt_invalid die hop hm, Chip.slotFailed_first (c := c.unstaged) htried]
  have hunstaged : c.keeps [.prs, .lic, .cams] c.unstaged := c.keeps_prs _ (by decide)
  obtain ⟨r, hcause, hrecord⟩ := Chip.attemptFailed_record (c := c.unstaged) c.attemptSlot 1 St.eccUncorr hroom
  dsimp only
  rw [hfailed, Chip.attemptFailed_prs]
  exact ⟨hunstaged.trans (Chip.attemptFailed_keeps _ _ _ _), congrArg (· + 1) htried, rfl, ⟨r, hrecord, hcause⟩,
    Chip.bootLog_status (c := c.unstaged) htried⟩

/-- The second attempt, at a slot that is not VALID, ends in LOADER. -/
theorem Chip.secondAttempt_invalid {c : Chip} (die : Die) (hop : c.prs.op = none)
    (hm : memRead 0 c.prs.marks (if c.attemptSlot then 256 else 0) ≠ 1) (htried : c.prs.tried = 1)
    (hwait : c.lic.wait = []) (hgen : c.lic.general < 13) :
    let e := c.slotAttempt die
    e.prs.ldr = .loader ∧ e.prs.actSlot = none ∧ e.pwr.step = 0 ∧
      (∃ a r, e.lic.buf = c.lic.buf ++ [a, r] ∧ r.cause = 0x2B02) ∧
      ∀ n, n < 32 → (vget e.fronds n).st = .safe ∧ (vget e.fronds n).activeOk = false := by
  have hroom : c.lic.room = true := Lic.room_of_general hwait (by omega)
  have hfailed : c.slotAttempt die = (c.unstaged.attemptFailed c.attemptSlot 1 St.eccUncorr).enterLoader := by
    rw [Chip.slotAttempt_invalid die hop hm, Chip.slotFailed_second (c := c.unstaged) htried]
  obtain ⟨a, -, hfirst⟩ := Chip.attemptFailed_record (c := c.unstaged) c.attemptSlot 1 St.eccUncorr hroom
  dsimp only
  rw [hfailed]
  generalize c.unstaged.attemptFailed c.attemptSlot 1 St.eccUncorr = d at hfirst
  have hlic : d.lic = { c.lic with buf := c.lic.buf ++ [a] } := hfirst
  obtain ⟨hldr, hslot, hstep, ⟨r, hcause, hrecord⟩, hfronds⟩ := d.enterLoader_spec (hlic ▸ Lic.room_append a hwait hgen)
  refine ⟨hldr, hslot, hstep, ⟨a, r, ?_, hcause⟩, hfronds⟩
  rw [hrecord, hlic]
  exact List.append_assoc _ _ _

/-- Settles O43: an attempt is the stage of its slot and what follows from its status, LOADER after the second that fails. -/
theorem slotAttemptsBootOrLoad : Obligations.SlotAttemptsBootOrLoad := by
  unfold Obligations.SlotAttemptsBootOrLoad
  intro s u c slot hgood hcore hstep hreset hop
  have hexec := exec_bootSlotAttempt hgood hcore hstep hreset
  refine ⟨fun hm => ⟨fun htried hroom => ?first, fun htried hwait hgen => ?second⟩, _, hexec, rfl, rfl, ?passed⟩
  case first =>
    obtain ⟨hkeeps, hcount, hstaged, ⟨r, hrecord, hcause⟩, hlog⟩ := Chip.firstAttempt_invalid s.die hop hm htried hroom
    exact ⟨_, r, hexec, ⟨rfl, rfl, hkeeps⟩, hcount, hstaged, hrecord, hcause, hlog⟩
  case second =>
    obtain ⟨hldr, hslot, hend, ⟨a, r, hbuf, hcause⟩, hfronds⟩ :=
      Chip.secondAttempt_invalid s.die hop hm htried hwait hgen
    exact ⟨_, a, r, hexec, rfl, rfl, hldr, hslot, hend, hbuf, hcause, hfronds⟩
  case passed =>
    intro st k n c1 sg st' c2 sg' hstage hst hsg hverify hst' hsg' hcheck
    have hactive := Chip.slotAttempt_passed hop hstage hst hsg hverify hst' hsg' hcheck
    obtain ⟨hldr, hslot, -⟩ := (c2.bootLog c.attemptSlot (joinSt st st')).activate_prs s.die sg'
    show (c.slotAttempt s.die).prs.ldr = _ ∧ (c.slotAttempt s.die).prs.actSlot = _ ∧ (c.slotAttempt s.die).pwr.step = 0
    rw [hactive, Chip.endStartup_prs]
    exact ⟨hldr, hslot, Chip.endStartup_step _ _ _⟩

end Sys2Proof.Machine
end

section
namespace Sys2Proof.Machine

/-! ### VCAP_EXHAUSTED while MGT_SCL is held low (R128, R430, R435) -/

/-- The end of the power-fail sequence releases MGT_SCL. -/
theorem Chip.endFail_stretch (c : Chip) : c.endFail.mgt.stretch = false := rfl

theorem vcapExhausted_stretch {s t : State} (hfail : s.chip.endSwitch.pwr.pf = 1)
    (ht : exec .vcapExhausted s = .next t) : t.chip.mgt.stretch = false := by
  have hexec : exec .vcapExhausted s = execVcapExhausted s := by rfl
  rw [hexec] at ht
  unfold execVcapExhausted onChip inFlight at ht
  dsimp only at ht
  rw [if_pos hfail] at ht
  cases ht
  exact Chip.endFail_stretch _

/-- So it does not keep the management port of a chip that holds MGT_SCL low. -/
theorem vcapExhausted_releases {s t : State} (hfail : s.chip.endSwitch.pwr.pf = 1)
    (hlow : s.chip.endSwitch.mgt.stretch = true) (ht : exec .vcapExhausted s = .next t) :
    t.chip.mgt ≠ s.chip.endSwitch.mgt := by
  intro h
  have hreleased := vcapExhausted_stretch hfail ht
  rw [h, hlow] at hreleased
  exact absurd hreleased (by decide)

/-- What a power fail leaves of a device that holds MGT_SCL low for a store that waits for a slot of Q5. -/
def failsWaiting : State := ⟨[], Die.reset, storeWaits.chip.powerFail true⟩

theorem exec_powerFail_storeWaits : exec (.powerFail true) storeWaits = .next failsWaiting := rfl

theorem failsWaiting_meets :
    failsWaiting.chip.endSwitch.pwr.pf = 1 ∧ failsWaiting.chip.endSwitch.mgt.stretch = true := by decide +kernel

/-- Refutes O44: VCAP_EXHAUSTED changes more than the supplies, the recorder, the store and their memories. A power fail that
finds MGT_SCL held low leaves it so, and the end of the sequence, after which no output is driven, releases it. -/
theorem not_powerFailAndAutoStore : ¬ Obligations.PowerFailAndAutoStore := by
  unfold Obligations.PowerFailAndAutoStore
  obtain ⟨hfail, hlow⟩ := failsWaiting_meets
  generalize failsWaiting = s at hfail hlow
  intro h
  obtain ⟨-, -, hexhausted, -⟩ := h s true
  obtain ⟨t, ht, ⟨-, -, hkeeps⟩, -⟩ := hexhausted hfail
  exact vcapExhausted_releases hfail hlow ht (hkeeps .mgt (by decide))

end Sys2Proof.Machine
end

section
namespace Sys2Proof.Machine

/-! ### What every command answers (R447) -/

theorem Die.fusesKept.refl (d : Die) : d.fusesKept d := ⟨id, id, id, id, fun _ => id, rfl⟩

theorem Die.fusesKept.trans {d e g : Die} (h : d.fusesKept e) (h' : e.fusesKept g) : d.fusesKept g :=
  ⟨h'.sealed ∘ h.sealed, h'.readback ∘ h.readback, h'.jtagLock ∘ h.jtagLock, h'.keyProg ∘ h.keyProg,
    fun i hi => h'.key i (h.key i hi), h'.grade.trans h.grade⟩

/-- A fuse operation that ends blows fuses and clears none. -/
theorem Die.fusesKept_blow (d : Die) (o : FuseOp) : d.fusesKept (d.blow o) := by
  unfold Die.blow
  split
  case h_1 => exact ⟨fun _ => rfl, id, id, id, fun _ => id, rfl⟩
  case h_2 => exact ⟨id, fun _ => rfl, id, id, fun _ => id, rfl⟩
  case h_3 => exact ⟨id, id, fun _ => rfl, id, fun _ => id, rfl⟩
  case h_4 => exact ⟨id, id, id, fun _ => rfl, fun i hi => by simp [hi], rfl⟩

/-- A fuse operation cut by a power fail leaves each fuse as it stood or blown. -/
theorem Die.fusesKept_cut (d : Die) (o : FuseOp) (v : BitVec 64) (m : BitVec 256) : d.fusesKept (d.cut o v m) := by
  unfold Die.cut
  split
  · exact d.fusesKept_blow o
  · split
    · exact ⟨id, id, id, id, fun i hi => by simp [hi], rfl⟩
    · exact .refl d

theorem Chip.cutFuse_fusesKept (c : Chip) (d : Die) : d.fusesKept (c.cutFuse d).1 := by
  unfold Chip.cutFuse
  split
  · exact .refl d
  · exact d.fusesKept_cut ..

/-- An outcome of a command in state `s`: a next state with the same commands waiting, and no fuse of `s` clear in it. -/
def Answers (s : State) (out : Host.Outcome State Fault Refusal) : Prop :=
  ∃ t, out = .next t ∧ t.pending = s.pending ∧ s.die.fusesKept t.die

/-- A command that changes the chip alone. -/
theorem chip_answers (s : State) (c : Chip) : Answers s (.next { s with chip := c }) := ⟨_, rfl, rfl, .refl s.die⟩

theorem unitRow_answers (exist : Bool) (q : Queue) (a : Nat) (v : Word) (s : State) :
    Answers s (unitRow exist q a v s) := by
  unfold unitRow
  split
  · exact chip_answers s _
  · exact chip_answers s _

theorem execFuseOpDone_answers (s : State) : Answers s (execFuseOpDone s) := by
  unfold execFuseOpDone
  dsimp only
  split
  · exact ⟨_, rfl, rfl, s.die.fusesKept_blow _⟩
  · exact chip_answers s _

theorem execPowerFail_answers (vccaux : Bool) (s : State) : Answers s (execPowerFail vccaux s) := by
  unfold execPowerFail
  split
  · exact ⟨_, rfl, rfl, s.chip.cutFuse_fusesKept s.die⟩
  · exact chip_answers s _

/-- Every command but the two that end a fuse operation changes the chip alone. -/
theorem exec_answers (i : Instr) (s : State) : Answers s (exec i s) := by
  cases i with
  | fuseOpDone => exact execFuseOpDone_answers s
  | powerFail vccaux => exact execPowerFail_answers vccaux s
  | dmaCtrlDrop q ch => exact unitRow_answers ..
  | edgPincfgWrite q p v => exact unitRow_answers ..
  | edgBindWrite q p off v => exact unitRow_answers ..
  | frdSafestWrite q b v => exact unitRow_answers ..
  | lnkCtrlWrite q p v => exact unitRow_answers ..
  | _ => exact chip_answers s _

theorem step_answers (s : State) : ∃ t, step s = .next t ∧ s.die.fusesKept t.die := by
  unfold step
  split
  · exact ⟨_, rfl, .refl s.die⟩
  · rename_i i rest _
    obtain ⟨t, ht, -, hdie⟩ := exec_answers i { s with pending := rest }
    exact ⟨t, ht, hdie⟩

/-- Settles O1, from the equation of `step` on a queue that is not empty. -/
theorem stepRunsTheFrontCommand : Obligations.StepRunsTheFrontCommand := by
  intro i rest s h
  rw [step, h]

/-- Settles O2: what every command answers is a next state with the same commands waiting. -/
theorem everyCommandAnswersANextState : Obligations.EveryCommandAnswersANextState := by
  intro i s
  obtain ⟨t, ht, hpending, -⟩ := exec_answers i s
  exact ⟨t, ht, hpending⟩

/-- Settles O27: a step keeps the fuses of the state it starts from, so also those of any die they contain. -/
theorem noStepClearsAFuse : Obligations.NoStepClearsAFuse := by
  intro d s t hkept ht
  obtain ⟨t', ht', hdie⟩ := step_answers s
  cases ht.symm.trans ht'
  exact hkept.trans hdie

end Sys2Proof.Machine
end

section
namespace Sys2Proof.Machine

/-! ### Requests of the IRP (R329, R330, R332) -/

theorem Chip.keeps_scr {ps : List Part} (c : Chip) (scr : Scr) (h : Part.scr ∈ ps) : c.keeps ps { c with scr := scr } := by
  intro p hp
  cases p <;> first | rfl | exact absurd h hp

/-- The five rows of the IRP have one meaning: the lines say which request it is. -/
theorem exec_irp {i : Instr} {lines : BitVec 16} {s : State}
    (h : i ∈ [Instr.irpStage lines, .irpSwap lines, .irpSafe lines, .irpStatus lines, .irpCall lines]) :
    exec i s = irpRow lines s := by
  simp only [List.mem_cons, List.not_mem_nil, or_false] at h
  rcases h with rfl | rfl | rfl | rfl | rfl <;> rfl

/-- The lines carry a request to the chip: a rising strobe, driven by the master frond, in no cc after its change. -/
def Chip.irpAsked (c : Chip) (lines : BitVec 16) : Prop :=
  c.scr.irpEn = true ∧ lines.getLsbD 0 = true ∧ c.scr.lines.getLsbD 0 = false ∧ c.scr.hush = false ∧
    lines = c.masterLines

theorem Chip.irpAsked_iff {c : Chip} {lines : BitVec 16} :
    c.irpAsked lines ↔ (c.irpRises lines && lines == c.masterLines) = true := by
  simp [irpAsked, irpRises, and_assoc]

section
variable {s : State} {lines : BitVec 16} (hcore : s.chip.endSwitch.coreOn = true)
include hcore

theorem irpRow_asked (hon : s.chip.endSwitch.irpAsked lines) :
    irpRow lines s = .next { s with chip := s.chip.endSwitch.irpRequest lines } := by
  unfold irpRow onChip inFlight
  simp only [hcore, Bool.true_and, Chip.irpAsked_iff.1 hon, if_true]

theorem irpRow_unasked (hoff : ¬ s.chip.endSwitch.irpAsked lines) :
    irpRow lines s = .next { s with chip := s.chip.endSwitch } := by
  unfold irpRow onChip inFlight
  rw [Chip.irpAsked_iff, Bool.not_eq_true] at hoff
  simp only [hcore, Bool.true_and, hoff, Bool.false_eq_true, if_false]

end

/-! #### What a request does -/

section
variable {c : Chip} {lines : BitVec 16}

/-- What R330 rejects. -/
theorem Chip.irpRefuses_iff : c.irpRefuses lines = true ↔
    c.freeSlots 6 = 0 ∨ (vget c.scr.irpGrp (field lines 7 4) = 0 ∧ field lines 1 3 ≠ 5) ∨ field lines 1 3 ∈ [0, 6, 7] := by
  simp only [irpRefuses, irpOp, irpGroup, Bool.or_eq_true, Bool.and_eq_true, beq_iff_eq, bne_iff_ne, List.mem_cons,
    List.not_mem_nil, or_false]
  tauto

theorem Chip.irpRefuses_false (hfree : c.freeSlots 6 ≠ 0)
    (hgroup : vget c.scr.irpGrp (field lines 7 4) ≠ 0 ∨ field lines 1 3 = 5) (hop : field lines 1 3 ∉ [0, 6, 7]) :
    c.irpRefuses lines = false := by
  rw [← Bool.not_eq_true, irpRefuses_iff]
  tauto

theorem Chip.irpRequest_refused (h : c.irpRefuses lines = true) :
    c.irpRequest lines = { c with scr := { c.scr with
      reject := true, irpRej := satAdd c.scr.irpRej 1, evt := c.scr.evt ||| 0x10, lines := lines } } := by
  unfold irpRequest irpTake
  rw [if_pos h]
  rfl

/-- A request whose word Table CHG-2 gives puts it at the tail of Q6. -/
theorem Chip.irpRequest_queued {w : QWord} (h : c.irpRefuses lines = false) (hfree : c.freeSlots 6 ≠ 0)
    (hw : c.irpWord lines = some w) :
    c.irpRequest lines = { c.modQ 6 fun x => { x with words := x.words ++ [w] } with
      scr := { c.scr with ack := true, lines := lines } } := by
  have hfree' : 0 < Chip.freeSlots { c with scr := { c.scr with ack := true } } 6 := Nat.pos_of_ne_zero hfree
  have hw' : Chip.irpWord { c with scr := { c.scr with ack := true } } lines = some w := hw
  unfold irpRequest irpTake
  rw [h]
  simp only [Bool.false_eq_true, if_false, hw', Chip.enqueue, Nat.reduceEqDiff, if_pos hfree', Nat.reduceLeDiff, and_false]
  rfl

/-- STATUS, which has no word, answers with its summary. -/
theorem Chip.irpRequest_status (h : c.irpRefuses lines = false) (hen : c.scr.irpEn = true) (hop : field lines 1 3 = 4) :
    c.irpRequest lines = { c with scr :=
      if c.scr.done = true ∨ c.scr.resps ≠ [] then
        { c.scr with ack := true, lines := lines, resps := c.scr.resps ++ [c.irpSummary lines] }
      else { c.scr with ack := true, lines := lines, done := true, irpResp := c.irpSummary lines } } := by
  have hw (d : Chip) : d.irpWord lines = none := by simp [irpWord, irpOp, hop]
  unfold irpRequest irpTake
  rw [h]
  simp only [Bool.false_eq_true, if_false, hw, irpDone, hen, Bool.not_true, Bool.or_eq_true, Bool.not_eq_true',
    List.isEmpty_eq_false_iff]
  split <;> rfl

/-! #### The words of Table CHG-2 -/

theorem Chip.irpWord_stage (hop : field lines 1 3 = 1) : c.irpWord lines = some (encodeWord 0x94
    (irpInsn lines 0 (natW 0 (field lines 4 3)) ((vget c.scr.irpGrp (field lines 7 4)).setWidth 64))) := by
  simp [irpWord, irpOp, irpGroup, hop]

theorem Chip.irpWord_swap (hop : field lines 1 3 = 2) : c.irpWord lines = some (
    if lines.getLsbD 11 then encodeWord 0x25 (irpInsn lines 1 (vget c.scr.irpGrp (field lines 7 4)) 0)
    else encodeWord 0x24 (irpInsn lines 0 0 ((vget c.scr.irpGrp (field lines 7 4)).setWidth 64))) := by
  simp only [irpWord, irpOp, irpGroup, hop]
  split <;> rfl

theorem Chip.irpWord_safe (hop : field lines 1 3 = 3) : c.irpWord lines =
    some (encodeWord 0x22 (irpInsn lines 0 0 ((vget c.scr.irpGrp (field lines 7 4)).setWidth 64))) := by
  simp [irpWord, irpOp, irpGroup, hop]

theorem Chip.irpWord_call (hop : field lines 1 3 = 5) : c.irpWord lines =
    some (encodeWord 0x05 (irpInsn lines 0 (vget c.scr.irpRt (field lines 7 4)) 0)) := by
  simp [irpWord, irpOp, irpGroup, hop]

/-! #### The summary of STATUS (R332) -/

/-- One condition of a summary, in its bit. -/
theorem getLsbD_byteFlag (n k : Nat) (b : Bool) (hn : n < 8) (hk : k < 8) :
    (if b then BitVec.ofNat 8 (2 ^ n) else 0).getLsbD k = (b && n == k) := by
  cases b
  · simp
  · have hp : (2 : Nat) ^ n < 2 ^ 8 := Nat.pow_lt_pow_right (by decide) hn
    simp only [if_true, Bool.true_and, BitVec.getLsbD_ofNat, Nat.testBit_two_pow, hk, decide_true]
    rfl

theorem Chip.irpSummary_bits : (c.irpSummary lines).getLsbD 0
      = (c.allFronds (vget c.scr.irpGrp (field lines 7 4)) fun f => f.st == .run) ∧
    (c.irpSummary lines).getLsbD 1 = c.anyFrond (vget c.scr.irpGrp (field lines 7 4)) fun f => f.st == .safe := by
  unfold irpSummary irpGroup
  simp (disch := decide) only [BitVec.getLsbD_or, getLsbD_byteFlag]
  constructor <;> simp

theorem Chip.irpSummary_run : (c.irpSummary lines).getLsbD 0 = true ↔
    ∀ n, n < 32 → (vget c.scr.irpGrp (field lines 7 4)).getLsbD n = true → (vget c.fronds n).st = .run := by
  rw [irpSummary_bits.1, allFronds, maskList_all]
  simp only [beq_iff_eq]

theorem Chip.irpSummary_safe : (c.irpSummary lines).getLsbD 1 = true ↔
    ∃ n, n < 32 ∧ (vget c.scr.irpGrp (field lines 7 4)).getLsbD n = true ∧ (vget c.fronds n).st = .safe := by
  rw [irpSummary_bits.2, anyFrond, List.any_eq_true]
  simp only [mem_maskList_iff, beq_iff_eq, and_assoc]

end

/-- The row of a request that puts word `w` in Q6 with an acknowledge. -/
theorem exec_irp_enters {s : State} {lines : BitVec 16} {w : QWord} {i : Instr}
    (hi : i ∈ [Instr.irpStage lines, .irpSwap lines, .irpSafe lines, .irpStatus lines, .irpCall lines])
    (hcore : s.chip.endSwitch.coreOn = true) (hon : s.chip.endSwitch.irpAsked lines)
    (hr : s.chip.endSwitch.irpRefuses lines = false) (hfree : s.chip.endSwitch.freeSlots 6 ≠ 0)
    (hw : s.chip.endSwitch.irpWord lines = some w) :
    ∃ t, exec i s = .next t ∧ State.keeps [.queues, .scr] { s with chip := s.chip.endSwitch } t ∧
      t.chip.queue 6 = { s.chip.endSwitch.queue 6 with words := (s.chip.endSwitch.queue 6).words ++ [w] } ∧
      (∀ j, j ≠ 6 → t.chip.queue j = s.chip.endSwitch.queue j) ∧
      t.chip.scr = { s.chip.endSwitch.scr with ack := true, lines := lines } := by
  have hexec := (exec_irp hi).trans (irpRow_asked hcore hon)
  rw [Chip.irpRequest_queued hr hfree hw] at hexec
  exact ⟨_, hexec, State.keeps_chip (((Chip.modQ_keeps _ 6 _).mono (by decide)).trans (Chip.keeps_scr _ _ (by decide))),
    Chip.queue_modQ_same _ 6 _, fun j hj => Chip.queue_modQ_other _ (q := 6) _ hj, rfl⟩

/-- Settles O57: a request on the lines is refused as R330 has it, or its word enters Q6, or STATUS answers. -/
theorem irpRequestsEnterQ6 : Obligations.IrpRequestsEnterQ6 := by
  unfold Obligations.IrpRequestsEnterQ6
  intro s lines u c m ins on enters hcore
  refine ⟨fun hon hfree => ?taken, fun i hi => ⟨fun hon hr => ?refused, fun hoff => ?unasked⟩⟩
  case refused =>
    have hexec := (exec_irp hi).trans (irpRow_asked hcore hon)
    rw [Chip.irpRequest_refused (Chip.irpRefuses_iff.2 hr)] at hexec
    exact ⟨_, hexec, State.keeps_chip (Chip.keeps_scr _ _ (by decide)), rfl⟩
  case unasked => exact (exec_irp hi).trans (irpRow_unasked hcore hoff)
  case taken =>
    have hclear (hgroup : m ≠ 0 ∨ field lines 1 3 = 5) (hop : field lines 1 3 ∉ [0, 6, 7]) :
        c.irpRefuses lines = false := Chip.irpRefuses_false hfree hgroup hop
    refine ⟨fun hm hop => ?stage, fun hm hop hat => ?swap, fun hm hop hat => ?swapAt, fun hm hop => ?safe,
      fun hm hop => ⟨Chip.irpSummary_run, Chip.irpSummary_safe, ?status⟩, fun hop => ?call⟩
    all_goals have hr := hclear (by tauto) (by simp [hop])
    case stage => exact exec_irp_enters (by simp) hcore hon hr hfree (Chip.irpWord_stage hop)
    case swap => exact exec_irp_enters (by simp) hcore hon hr hfree ((Chip.irpWord_swap hop).trans (by rw [hat]; rfl))
    case swapAt => exact exec_irp_enters (by simp) hcore hon hr hfree ((Chip.irpWord_swap hop).trans (by rw [hat]; rfl))
    case safe => exact exec_irp_enters (by simp) hcore hon hr hfree (Chip.irpWord_safe hop)
    case call => exact exec_irp_enters (by simp) hcore hon hr hfree (Chip.irpWord_call hop)
    case status =>
      have hexec := (exec_irp (i := .irpStatus lines) (by simp)).trans (irpRow_asked (lines := lines) hcore hon)
      rw [Chip.irpRequest_status hr hon.1 hop] at hexec
      exact ⟨_, hexec, State.keeps_chip (Chip.keeps_scr _ _ (by decide)), rfl⟩

end Sys2Proof.Machine
end

section
namespace Sys2Proof.Machine

/-! ### Slots of the recorder (R374 to R380) -/

theorem memBytes_putBytes (d : Byte) {bs : List Byte} (m : Mem) (a : Nat) {n : Nat} (h : bs.length = n) :
    memBytes d (memPutBytes d m a bs) a n = bs := by
  refine List.ext_getElem (by simp [memBytes, h]) fun i hi hi' => ?_
  simp only [memBytes, List.getElem_map, List.getElem_range, memRead_putBytes bs m a i hi']
  exact (List.getElem_eq_getD 0).symm

/-- Two slots of 64 bytes do not meet. -/
theorem memBytes_putSlot_other (d : Byte) (bs : List Byte) (m : Mem) {base i j : Nat} (hlen : bs.length = 64) (h : i ≠ j) :
    memBytes d (memPutBytes d m (base + 64 * i) bs) (base + 64 * j) 64 = memBytes d m (base + 64 * j) 64 :=
  memBytes_congr fun x h1 h2 => memRead_putBytes_other bs m _ (by omega)

theorem length_sealRecord (r : LicRec) (seq last : Word) (count : BitVec 16) (flags : Byte) :
    (sealRecord (r.body seq count last flags)).length = 64 := by
  simp [sealRecord, LicRec.body, natBytes_length]

/-- From `l` to `m` changes nothing but what the write of a slot and a first-fault copy change, and no event ends. -/
structure Lic.SlotWrite (l m : Lic) : Prop where
  rest   : m = { l with unstored := m.unstored, ffcount := m.ffcount, evt := m.evt }
  events : ∀ k, l.evt.getLsbD k = true → m.evt.getLsbD k = true

theorem Lic.SlotWrite.trans {l m n : Lic} (h : l.SlotWrite m) (h' : m.SlotWrite n) : l.SlotWrite n :=
  ⟨by rw [h'.rest, h.rest], fun k hk => h'.events k (h.events k hk)⟩

theorem Lic.SlotWrite.fields {l m : Lic} (h : l.SlotWrite m) : m.buf = l.buf ∧ m.next = l.next ∧ m.last = l.last ∧
    m.pending = l.pending ∧ m.coal = l.coal :=
  ⟨(congrArg buf h.rest :), (congrArg next h.rest :), (congrArg last h.rest :), (congrArg pending h.rest :),
    (congrArg coal h.rest :)⟩

/-- So of a chip, whose memory and check bits may change too. -/
structure Chip.SlotWrite (c d : Chip) : Prop where
  frame : c.keeps [.lic, .mem, .ecc] d
  lic   : c.lic.SlotWrite d.lic

theorem Chip.SlotWrite.trans {c d e : Chip} (h : c.SlotWrite d) (h' : d.SlotWrite e) : c.SlotWrite e :=
  ⟨h.frame.trans h'.frame, h.lic.trans h'.lic⟩

theorem Chip.SlotWrite.refl (c : Chip) : c.SlotWrite c := ⟨.refl _ c, rfl, fun _ h => h⟩

theorem Chip.setLicEvt_slotWrite (c : Chip) (n : Nat) : c.SlotWrite (c.setLicEvt n) :=
  ⟨Chip.keeps_lic c _ (by decide), rfl, fun k hk => by rw [Chip.setLicEvt_lic, BitVec.getLsbD_or, hk, Bool.true_or]⟩

theorem Chip.foldl_setEcc (a : Nat) (l : List Nat) : ∀ c : Chip, l.foldl (fun (c : Chip) k => c.setEcc (a + 16 * k) 0) c =
    { c with ecc := l.foldl (fun e k => memWrite 0 e ((a + 16 * k) / 16) 0) c.ecc } := by
  induction l with
  | nil => exact fun _ => rfl
  | cons k l ih => exact fun c => ih (c.setEcc (a + 16 * k) 0)

theorem Chip.setLicEvt_slotBytes (c : Chip) (n i : Nat) : (c.setLicEvt n).slotBytes i = c.slotBytes i := rfl

/-- The chip with a slot's bytes, their fresh check bits and the slot unstored. -/
def Chip.slotPut (c : Chip) (i : Nat) (bs : List Byte) : Chip :=
  { c with
    mem := memPutBytes 0 c.mem (slotAddr i) bs
    ecc := (List.range 4).foldl (fun e k => memWrite 0 e ((slotAddr i + 16 * k) / 16) 0) c.ecc
    lic := { c.lic with unstored := if c.lic.unstored.contains i then c.lic.unstored else c.lic.unstored ++ [i] } }

/-- The write of a slot, with its event or without it. -/
theorem Chip.writeSlot_cases (c : Chip) (i : Nat) (bs : List Byte) :
    c.writeSlot i bs = (c.slotPut i bs).setLicEvt 3 ∨ c.writeSlot i bs = c.slotPut i bs := by
  unfold Chip.writeSlot
  extract_lets d e old l g
  have he : e = { d with ecc := (List.range 4).foldl (fun x k => memWrite 0 x ((slotAddr i + 16 * k) / 16) 0) c.ecc } :=
    Chip.foldl_setEcc _ _ _
  have hg : g = c.slotPut i bs := by
    subst g l
    rw [he]
    rfl
  split
  · exact .inl (congrArg (Chip.setLicEvt · 3) hg)
  · exact .inr hg

theorem Chip.writeSlot_mem (c : Chip) (i : Nat) (bs : List Byte) :
    (c.writeSlot i bs).mem = memPutBytes 0 c.mem (slotAddr i) bs := by
  rcases c.writeSlot_cases i bs with h | h <;> rw [h] <;> rfl

theorem Chip.writeSlot_slotWrite (c : Chip) (i : Nat) (bs : List Byte) : c.SlotWrite (c.writeSlot i bs) := by
  have hput : c.SlotWrite (c.slotPut i bs) :=
    ⟨fun p hp => by cases p <;> first | rfl | exact absurd hp (by decide), rfl, fun _ h => h⟩
  rcases c.writeSlot_cases i bs with h | h
  · exact h ▸ hput.trans (Chip.setLicEvt_slotWrite _ 3)
  · exact h ▸ hput

theorem Chip.slotBytes_writeSlot (c : Chip) {i : Nat} {bs : List Byte} (h : bs.length = 64) :
    (c.writeSlot i bs).slotBytes i = bs := by
  rw [Chip.slotBytes, Chip.writeSlot_mem]
  exact memBytes_putBytes 0 c.mem _ h

theorem Chip.slotBytes_writeSlot_other (c : Chip) {i j : Nat} {bs : List Byte} (h : bs.length = 64) (hij : i ≠ j) :
    (c.writeSlot i bs).slotBytes j = c.slotBytes j := by
  rw [Chip.slotBytes, Chip.writeSlot_mem]
  exact memBytes_putSlot_other 0 bs c.mem h hij

/-- First-fault copies lie behind the ring's slots. -/
theorem Chip.firstFault_slotWrite (c : Chip) (r : LicRec) (seq : Word) :
    c.SlotWrite (c.firstFault r seq) ∧ ∀ i, i < 480 → (c.firstFault r seq).slotBytes i = c.slotBytes i := by
  have hcount (d : Chip) (n : Nat) : d.SlotWrite { d with lic := { d.lic with ffcount := n } } :=
    ⟨Chip.keeps_lic d _ (by decide), rfl, fun _ h => h⟩
  unfold Chip.firstFault
  split
  · exact ⟨.refl c, fun _ _ => rfl⟩
  dsimp only
  split
  · exact ⟨c.setLicEvt_slotWrite 1, fun _ _ => rfl⟩
  generalize hbs : sealRecord _ = bs
  have hlen : bs.length = 64 := hbs ▸ length_sealRecord ..
  generalize hd : (c.setLicEvt 1).writeSlot (480 + (c.setLicEvt 1).lic.ffcount) bs = d
  have hwrite : c.SlotWrite { d with lic := { d.lic with ffcount := d.lic.ffcount + 1 } } :=
    ((c.setLicEvt_slotWrite 1).trans (hd ▸ Chip.writeSlot_slotWrite _ _ bs)).trans (hcount d _)
  have hslot (i : Nat) (hi : i < 480) : d.slotBytes i = c.slotBytes i := by
    rw [← hd, Chip.slotBytes_writeSlot_other _ hlen (by omega), Chip.setLicEvt_slotBytes]
  split
  · exact ⟨hwrite.trans (Chip.setLicEvt_slotWrite _ 4), hslot⟩
  · exact ⟨hwrite, hslot⟩

/-! ### A record numbered and written (R375, R378) -/

/-- The chip with record `r` numbered and in its slot. -/
def Chip.numbered (c : Chip) (r : LicRec) : Chip :=
  let d := (c.writeSlot (c.lic.next.toNat % 480) (sealRecord (r.body c.lic.next 1 0 0))).setLicEvt 0
  { d with lic := { d.lic with next := c.lic.next + 1, since := d.lic.since + 1 } }

/-- That with the event of its class. -/
def Chip.classed (c : Chip) (r : LicRec) : Chip :=
  if r.cause.extractLsb' 12 4 == 3 then (c.numbered r).setLicEvt 2 else c.numbered r

/-- That as the newest record that is no mark, pending. -/
def Chip.newest (c : Chip) (r : LicRec) : Chip :=
  let d := (c.classed r).setPending (some c.lic.next)
  { d with lic := { d.lic with last := c.lic.next } }

theorem Chip.newRecord_eq (c : Chip) (r : LicRec) :
    c.newRecord r = if r.cause = 0x0F00 then c.classed r else (c.newest r).firstFault r c.lic.next := rfl

/-- What a numbered record leaves, whether it is a mark or not. -/
structure Chip.Numbers (c : Chip) (r : LicRec) (d : Chip) : Prop where
  frame : c.keeps [.lic, .mem, .ecc] d
  buf   : d.lic.buf = c.lic.buf
  next  : d.lic.next = c.lic.next + 1
  slot  : d.slotBytes (c.lic.next.toNat % 480) = sealRecord (r.body c.lic.next 1 0 0)
  event : d.lic.evt.getLsbD 0 = true

/-- What is written to other slots later leaves it. -/
theorem Chip.Numbers.slotWrite {c d e : Chip} {r : LicRec} (h : c.Numbers r d) (hw : d.SlotWrite e)
    (hs : ∀ i, i < 480 → e.slotBytes i = d.slotBytes i) : c.Numbers r e := by
  obtain ⟨hbuf, hnext, -⟩ := hw.lic.fields
  exact ⟨h.frame.trans hw.frame, hbuf.trans h.buf, hnext.trans h.next,
    (hs _ (Nat.mod_lt _ (by decide))).trans h.slot, hw.lic.events 0 h.event⟩

theorem Chip.numbered_numbers (c : Chip) (r : LicRec) : c.Numbers r (c.numbered r) ∧
    (c.numbered r).lic.last = c.lic.last ∧ (c.numbered r).lic.pending = c.lic.pending := by
  have hw := c.writeSlot_slotWrite (c.lic.next.toNat % 480) (sealRecord (r.body c.lic.next 1 0 0))
  have hslot := c.slotBytes_writeSlot (i := c.lic.next.toNat % 480) (length_sealRecord r c.lic.next 0 1 0)
  unfold Chip.numbered
  generalize c.writeSlot _ _ = d at hw hslot ⊢
  obtain ⟨hbuf, -, hlast, hpending, -⟩ := hw.lic.fields
  exact ⟨⟨(hw.trans (Chip.setLicEvt_slotWrite _ 0)).frame.trans (Chip.keeps_lic _ _ (by decide)), hbuf, rfl, hslot,
    getLsbD_raised _ (by decide)⟩, hlast, hpending⟩

theorem Chip.classed_numbers (c : Chip) (r : LicRec) : c.Numbers r (c.classed r) ∧
    (c.classed r).lic.last = c.lic.last ∧ (c.classed r).lic.pending = c.lic.pending := by
  obtain ⟨h, hrest⟩ := c.numbered_numbers r
  unfold Chip.classed
  generalize c.numbered r = d at h hrest ⊢
  split
  · exact ⟨h.slotWrite (d.setLicEvt_slotWrite 2) fun i _ => d.setLicEvt_slotBytes 2 i, hrest⟩
  · exact ⟨h, hrest⟩

theorem Chip.newest_numbers (c : Chip) (r : LicRec) : c.Numbers r (c.newest r) := by
  obtain ⟨⟨hframe, hbuf, hnext, hslot, hevent⟩, -⟩ := c.classed_numbers r
  unfold Chip.newest
  generalize c.classed r = d at hframe hbuf hnext hslot hevent ⊢
  exact ⟨hframe.trans (Chip.keeps_lic _ _ (by decide)), hbuf, hnext, hslot, hevent⟩

theorem Chip.newRecord_numbers (c : Chip) (r : LicRec) : c.Numbers r (c.newRecord r) ∧
    (r.cause ≠ 0x0F00 → (c.newRecord r).lic.last = c.lic.next ∧ (c.newRecord r).lic.pending = true) ∧
    (r.cause = 0x0F00 → (c.newRecord r).lic.last = c.lic.last ∧ (c.newRecord r).lic.pending = c.lic.pending) := by
  rw [Chip.newRecord_eq]
  by_cases h : r.cause = 0x0F00
  · rw [if_pos h]
    obtain ⟨hnumbers, hmark⟩ := c.classed_numbers r
    exact ⟨hnumbers, fun hne => absurd h hne, fun _ => hmark⟩
  · rw [if_neg h]
    obtain ⟨hw, hs⟩ := (c.newest r).firstFault_slotWrite r c.lic.next
    obtain ⟨-, -, hlast, hpending, -⟩ := hw.lic.fields
    exact ⟨(c.newest_numbers r).slotWrite hw hs, fun _ => ⟨hlast, hpending⟩, fun he => absurd he h⟩

/-! ### A repeat (R380) -/

theorem Chip.coalesce_spec (c : Chip) (r : LicRec) (i : Nat) :
    c.keeps [.lic, .mem, .ecc] (c.coalesce r i) ∧ (c.coalesce r i).lic.buf = c.lic.buf ∧
      (c.coalesce r i).lic.next = c.lic.next ∧ (c.coalesce r i).lic.coal = satAdd c.lic.coal 1 ∧
      (c.coalesce r i).lic.pending = true ∧ (c.coalesce r i).lic.coalSince = true := by
  unfold Chip.coalesce
  extract_lets bs n flags d body e
  have hw := c.writeSlot_slotWrite i (sealRecord body)
  obtain ⟨hbuf, hnext, -, -, hcoal⟩ := hw.lic.fields
  exact ⟨hw.frame.trans (Chip.keeps_lic _ _ (by decide)), hbuf, hnext, congrArg (satAdd · 1) hcoal, rfl, rfl⟩

/-! ### The writer's entries (R374) -/

/-- The record that takes an entry of the kind of `r` as it frees. -/
def Lic.taker (l : Lic) (r : LicRec) : List LicRec :=
  ((l.wait.find? fun w => r.entry == .general || w.entry == r.entry).map fun w => { w with entry := r.entry }).toList

/-- The recorder with its oldest entry `r` taken and the entry given to a record that waits. -/
def Lic.taken (l : Lic) (r : LicRec) (rest : List LicRec) : Lic := { l with buf := rest }.refill r.entry

theorem Lic.taken_eq (l : Lic) (r : LicRec) (rest : List LicRec) :
    l.taken r rest = { l with buf := rest ++ l.taker r, wait := (l.taken r rest).wait } := by
  unfold Lic.taken Lic.refill Lic.taker
  dsimp only
  split
  · rename_i w hw
    simp [hw]
  · rename_i hw
    simp [hw]

/-- So in the chip. -/
def Chip.taken (c : Chip) (r : LicRec) (rest : List LicRec) : Chip := { c with lic := c.lic.taken r rest }

theorem Chip.taken_fields (c : Chip) (r : LicRec) (rest : List LicRec) :
    (c.taken r rest).lic.buf = rest ++ c.lic.taker r ∧ (c.taken r rest).lic.next = c.lic.next ∧
      (c.taken r rest).lic.last = c.lic.last ∧ (c.taken r rest).lic.pending = c.lic.pending ∧
      (c.taken r rest).lic.coal = c.lic.coal := by
  have h := Lic.taken_eq c.lic r rest
  exact ⟨(congrArg Lic.buf h :), (congrArg Lic.next h :), (congrArg Lic.last h :), (congrArg Lic.pending h :),
    (congrArg Lic.coal h :)⟩

theorem Chip.drainOne_cons {c : Chip} {r : LicRec} {rest : List LicRec} (h : c.lic.buf = r :: rest) :
    c.drainOne = match c.repeatSlot r with
      | some i => (c.taken r rest).coalesce r i
      | none => (c.taken r rest).newRecord r := by
  have hrep : (c.taken r rest).repeatSlot r = c.repeatSlot r := by
    rw [Chip.taken, Lic.taken_eq]
    rfl
  rw [← hrep]
  unfold Chip.drainOne
  rw [h]
  rfl

theorem Chip.drainOne_new {c : Chip} {r : LicRec} {rest : List LicRec} (h : c.lic.buf = r :: rest)
    (hrep : c.repeatSlot r = none) : c.drainOne = (c.taken r rest).newRecord r := by
  rw [Chip.drainOne_cons h, hrep]

theorem Chip.drainOne_repeat {c : Chip} {r : LicRec} {rest : List LicRec} {i : Nat} (h : c.lic.buf = r :: rest)
    (hrep : c.repeatSlot r = some i) : c.drainOne = (c.taken r rest).coalesce r i := by
  rw [Chip.drainOne_cons h, hrep]

/-! ### The rows of the recorder -/

theorem Chip.recorder_keeps {c d : Chip} (h : c.keeps [.lic, .mem, .ecc] d) :
    c.keeps [.lic, .mem, .ecc, .flt] (c.condEdge d) :=
  (h.mono (by decide)).trans ((Chip.condEdge_keeps c d).mono (by decide))

theorem Chip.condEdge_lic (c d : Chip) : (c.condEdge d).lic = d.lic := Chip.condEdge_keeps c d .lic (by decide)

theorem Chip.condEdge_slotBytes (c d : Chip) (i : Nat) : (c.condEdge d).slotBytes i = d.slotBytes i :=
  congrArg (memBytes 0 · (slotAddr i) 64) (Chip.condEdge_keeps c d .mem (by decide))

theorem exec_licDrain {s : State} (h : s.chip.endSwitch.recorderOn = true) :
    exec .licDrain s = .next { s with chip := s.chip.endSwitch.condEdge s.chip.endSwitch.drainOne } := by
  show execLicDrain s = _
  simp only [execLicDrain, onChip, inFlight, h, if_true]

theorem exec_licShadowProgram {s : State} (h : s.chip.endSwitch.recorderOn = true) :
    exec .licShadowProgram s = .next { s with chip := s.chip.endSwitch.condEdge s.chip.endSwitch.shadowProgram } := by
  show execLicShadowProgram s = _
  simp only [execLicShadowProgram, onChip, inFlight, h, if_true]

/-- The cell of a slot that a program takes is one of its two. -/
theorem Lic.target_lt (l : Lic) (i : Nat) : l.target i < 2 := by
  unfold Lic.target
  split
  · decide
  · split <;> decide

/-- A slot without an uncorrectable word is programmed as it stands. -/
theorem Chip.shadowProgram_good {c : Chip} {i : Nat} (h : c.nextUnstored = some i)
    (hgood : ∀ k, k < 4 → c.eccAt (slotAddr i + 16 * k) < 2) :
    c.shadowProgram = { c with lic := c.lic.putCell i (c.lic.target i) (c.slotBytes i) } := by
  have hbad : c.badWords i = [] := by
    refine List.filter_eq_nil_iff.2 fun k hk => ?_
    have := hgood k (List.mem_range.1 hk)
    simpa using this
  unfold Chip.shadowProgram Chip.programBytes
  simp only [h, hbad, List.foldl_nil]

/-- A cell holds what was put into it, and is programmed. -/
theorem Lic.putCell_spec (l : Lic) {i t : Nat} {bs : List Byte} (hi : i < 512) (ht : t < 2) (hbs : bs.length = 64) :
    (l.putCell i t bs).prog.getLsbD (2 * i + t) = true ∧
      memBytes 0 (l.putCell i t bs).shadow (64 * (2 * i + t)) 64 = bs :=
  ⟨getLsbD_marked _ (by omega), memBytes_putBytes 0 l.shadow _ hbs⟩

/-- Settles O46: the oldest entry is a repeat, which goes to its slot, or takes a number and a slot of its own; the entry goes
to a record that waits; and a slot that can be read goes to a cell of the shadow. -/
theorem recorderDrainsAndStores : Obligations.RecorderDrainsAndStores := by
  unfold Obligations.RecorderDrainsAndStores
  intro s u c hon next
  refine ⟨fun r rest hbuf hrep => ?number, fun r rest i hbuf hrep => ?repeats, fun i hi hlt hgood => ?program⟩
  case number =>
    obtain ⟨hbuf', hnext', hlast', hpending', -⟩ := c.taken_fields r rest
    obtain ⟨⟨hframe, hb, hn, hslot, hevent⟩, hnew, hmark⟩ := (c.taken r rest).newRecord_numbers r
    rw [← Chip.drainOne_new hbuf hrep] at hframe hb hn hslot hevent hnew hmark
    rw [hnext'] at hn hslot hnew
    refine ⟨_, exec_licDrain hon, State.keeps_chip (Chip.recorder_keeps ?_), ?_⟩
    · exact (Chip.keeps_lic c _ (by decide)).trans hframe
    simp only [Chip.condEdge_lic, Chip.condEdge_slotBytes]
    exact ⟨hb.trans hbuf', hn, hslot, hevent, hnew,
      fun h => ⟨(hmark h).1.trans hlast', (hmark h).2.trans hpending'⟩⟩
  case repeats =>
    obtain ⟨hbuf', hnext', -, -, hcoal'⟩ := c.taken_fields r rest
    obtain ⟨hframe, hb, hn, hcoal, hflags⟩ := (c.taken r rest).coalesce_spec r i
    rw [← Chip.drainOne_repeat hbuf hrep] at hframe hb hn hcoal hflags
    refine ⟨_, exec_licDrain hon, State.keeps_chip (Chip.recorder_keeps ?_), ?_⟩
    · exact (Chip.keeps_lic c _ (by decide)).trans hframe
    simp only [Chip.condEdge_lic]
    exact ⟨hb.trans hbuf', hn.trans hnext', hcoal.trans (by rw [hcoal']), hflags⟩
  case program =>
    have hj := c.lic.target_lt i
    obtain ⟨hprog, hcell⟩ := c.lic.putCell_spec hlt hj (bs := c.slotBytes i) (by simp [Chip.slotBytes, memBytes])
    have hexec := exec_licShadowProgram hon
    rw [Chip.shadowProgram_good hi hgood] at hexec
    refine ⟨_, c.lic.target i, hexec, State.keeps_chip ?_, hj, ?_⟩
    · exact (Chip.keeps_lic c _ (by decide)).trans ((Chip.condEdge_keeps _ _).mono (by decide))
    simp only [Chip.condEdge_lic]
    exact ⟨rfl, hprog, hcell, rfl⟩

end Sys2Proof.Machine
end

section
namespace Sys2Proof.Machine

/-! ### The parts of a core-side reset (R437, R438, Table PWR-4) -/

/-! #### Transactions aborted (R167) -/

/-- From `c` to `d` transactions abort: claims are given up, fronds keep their states and queues their error counts. -/
structure Chip.Aborts (c d : Chip) : Prop where
  frame : c.keeps [.ctxs, .queues, .fronds, .cams] d
  errs  : ∀ k, (d.queue k).errs = (c.queue k).errs
  st    : ∀ n, n < 32 → (vget d.fronds n).st = (vget c.fronds n).st
  claim : ∀ n, n < 32 → (vget d.fronds n).claim = none ∨ (vget d.fronds n).claim = (vget c.fronds n).claim

theorem Chip.Aborts.refl (c : Chip) : c.Aborts c := ⟨.refl _ c, fun _ => rfl, fun _ _ => rfl, fun _ _ => .inr rfl⟩

theorem Chip.Aborts.trans {c d e : Chip} (h : c.Aborts d) (h' : d.Aborts e) : c.Aborts e where
  frame := h.frame.trans h'.frame
  errs k := (h'.errs k).trans (h.errs k)
  st n hn := (h'.st n hn).trans (h.st n hn)
  claim n hn := (h'.claim n hn).elim .inl fun he => he ▸ h.claim n hn

theorem Chip.Aborts.foldl {α : Type} {g : Chip → α → Chip} (h : ∀ c x, Chip.Aborts c (g c x)) (l : List α) :
    ∀ c, Chip.Aborts c (l.foldl g c) := by
  induction l with
  | nil => exact Chip.Aborts.refl
  | cons x l ih => exact fun c => (h c x).trans (ih (g c x))

/-- A frond whose edited shadow is given up. -/
theorem Chip.modFrond_aborts (c : Chip) (i : Nat) (g : Frond → Frond) (hst : ∀ f, (g f).st = f.st)
    (hclaim : ∀ f, (g f).claim = f.claim) : c.Aborts (c.modFrond i g) where
  frame := (c.modFrond_keeps i g).mono (by decide)
  errs _ := rfl
  st n _ := by
    rw [Chip.modFrond_fronds, vget_vmod]
    split
    · exact hst _
    · rfl
  claim n _ := by
    rw [Chip.modFrond_fronds, vget_vmod]
    split
    · exact .inr (hclaim _)
    · exact .inr rfl

theorem Chip.freeShadow_aborts (c : Chip) (n : Nat) : c.Aborts (c.freeShadow n) :=
  ⟨(c.modCam_keeps n _).mono (by decide), fun _ => rfl, fun _ _ => rfl, fun _ _ => .inr rfl⟩

theorem Chip.closeCtx_aborts (c : Chip) (k : Fin 4) : c.Aborts (c.closeCtx k) := by
  obtain ⟨hframe, -, howner, hothers, -⟩ := c.closeCtx_spec k
  have hfrond (n : Nat) (hn : n < 32) : vget (c.closeCtx k).fronds n =
      if (vget c.fronds n).claim = some k then { vget c.fronds n with claim := none } else vget c.fronds n :=
    vget_vmapi _ _ hn
  refine ⟨hframe, fun j => ?errs, fun n hn => ?st, fun n hn => ?claim⟩
  case errs =>
    by_cases hj : j = (vget c.eng.ctxs k.val).owner
    · rw [hj, howner]
    · rw [hothers j hj]
  case st =>
    rw [hfrond n hn]
    split <;> rfl
  case claim =>
    rw [hfrond n hn]
    split
    · exact .inl rfl
    · exact .inr rfl

theorem Chip.abortCtx_aborts (c : Chip) (k : Fin 4) :
    c.Aborts (c.abortCtx k) ∧ ∀ n, n < 32 → (vget (c.abortCtx k).fronds n).claim ≠ some k := by
  unfold Chip.abortCtx
  extract_lets x d e
  have hd : c.Aborts d := by
    refine Chip.Aborts.foldl (fun c s => ?_) _ c
    split
    · exact c.modFrond_aborts _ _ (fun _ => rfl) fun _ => rfl
    · exact .refl c
  have he : d.Aborts e := by
    refine Chip.Aborts.foldl (fun c s => ?_) _ d
    split
    · exact c.freeShadow_aborts _
    · exact .refl c
  obtain ⟨-, -, -, -, hfree⟩ := e.closeCtx_spec k
  exact ⟨(hd.trans he).trans (e.closeCtx_aborts k), fun n hn => (hfree n hn).1⟩

/-- With every transaction aborted nothing is claimed. -/
theorem Chip.abortAll_aborts (c : Chip) :
    let d := (List.finRange 4).foldl (fun (c : Chip) k => c.abortCtx k) c
    c.Aborts d ∧ ∀ n, n < 32 → (vget d.fronds n).claim = none := by
  have hall (l : List (Fin 4)) : ∀ c : Chip, ∀ k ∈ l, ∀ n, n < 32 →
      (vget (l.foldl (fun (c : Chip) k => c.abortCtx k) c).fronds n).claim ≠ some k := by
    induction l with
    | nil => simp
    | cons j l ih =>
      intro c k hk n hn
      rw [List.foldl_cons]
      rcases List.mem_cons.1 hk with rfl | hk
      · have hrest := (Chip.Aborts.foldl (fun c k => (c.abortCtx_aborts k).1) l (c.abortCtx k)).claim n hn
        rcases hrest with hnone | hsame
        · rw [hnone]
          exact nofun
        · rw [hsame]
          exact (c.abortCtx_aborts k).2 n hn
      · exact ih (c.abortCtx j) k hk n hn
  refine ⟨Chip.Aborts.foldl (fun c k => (c.abortCtx_aborts k).1) _ c, fun n hn => ?_⟩
  refine Option.eq_none_iff_forall_ne_some.2 fun k => hall _ c k (List.mem_finRange k) n hn

/-! #### The engine -/

theorem Chip.resetEngine_spec (c : Chip) :
    c.keeps [.waitmax, .engEvt, .engInten, .flags, .evtsrc, .queues, .ctxs, .alt34, .lastSt, .nvQ, .memo, .fronds, .cams,
      .prs, .nvs, .sec] c.resetEngine ∧
    (∀ k, ∃ x : QState, c.resetEngine.queue k = x.cleared ∧ x.errs = (c.queue k).errs) ∧
    c.resetEngine.eng.ctxs = Vector.replicate 4 Ctx.reset ∧ c.resetEngine.eng.flags = 0 ∧
    (∀ n, n < 32 → (vget c.resetEngine.fronds n).st = (vget c.fronds n).st ∧ (vget c.resetEngine.fronds n).claim = none) ∧
    c.resetEngine.sec.locks = c.sec.locks ∧ c.resetEngine.prs.rtPages = [] := by
  obtain ⟨haborts, hclaim⟩ := c.abortAll_aborts
  unfold Chip.resetEngine
  generalize (List.finRange 4).foldl (fun (c : Chip) k => c.abortCtx k) c = a at haborts hclaim ⊢
  have hdrop := a.dropStaged_keeps
  generalize a.dropStaged = d at hdrop ⊢
  have hkeeps : c.keeps [.ctxs, .queues, .fronds, .cams, .prs] d := (haborts.frame.mono (by decide)).trans (hdrop.mono (by decide))
  have hfronds : d.fronds = a.fronds := hdrop .fronds (by decide)
  have hqueues : d.eng.queues = a.eng.queues := hdrop .queues (by decide)
  refine ⟨(hkeeps.mono (by decide)).trans fun p hp => ?_, fun k => ⟨d.queue k, vget_vmapi _ _ k.isLt, ?_⟩, rfl, rfl,
    fun n hn => ?_, ?_, rfl⟩
  · cases p <;> first | rfl | exact absurd hp (by decide)
  · rw [Chip.queue_congr hqueues, haborts.errs]
  · show (vget d.fronds n).st = _ ∧ (vget d.fronds n).claim = _
    rw [hfronds]
    exact ⟨haborts.st n hn, hclaim n hn⟩
  · have hsec : d.sec = c.sec := hkeeps .sec (by decide)
    exact (congrArg Sec.locks hsec :)

/-! #### Outputs, cams, edges -/

theorem Chip.placeFronds_safe (c : Chip) {n : Nat} (hn : n < 32) :
    (vget (c.placeFronds 0xFFFFFFFF .safe).fronds n).st = .safe := by
  have h : (c.setFronds 0xFFFFFFFF .safe).fronds = (c.placeFronds 0xFFFFFFFF .safe).fronds :=
    c.settle_keeps _ .fronds (by decide)
  rw [← h]
  exact c.setFronds_safe hn

theorem Chip.holdPins_held (c : Chip) {p : Nat} (hp : p < 192) : (vget c.holdPins.pins p).held = true := by
  unfold Chip.holdPins
  rw [vget_vmapi _ _ hp]

theorem Chip.resetOutputs_spec (c : Chip) :
    c.keeps [.fronds, .scr, .pins, .banks, .edg] c.resetOutputs ∧
    (∀ n, n < 32 → (vget c.resetOutputs.fronds n).st = .safe) ∧
    ∀ p, p < 192 → (vget c.resetOutputs.pins p).held = true := by
  have hplaced := c.placeFronds_keeps 0xFFFFFFFF .safe
  have hsafe (n : Nat) (hn : n < 32) := c.placeFronds_safe hn
  unfold Chip.resetOutputs
  generalize c.placeFronds 0xFFFFFFFF .safe = d at hplaced hsafe ⊢
  have hsettle := c.settle_keeps d.holdPins
  refine ⟨((hplaced.mono (by decide)).trans (d.holdPins_keeps.mono (by decide))).trans (hsettle.mono (by decide)),
    fun n hn => ?_, fun p hp => ?_⟩
  · rw [hsettle .fronds (by decide)]
    exact hsafe n hn
  · rw [Chip.settle_held _ _ hp]
    exact d.holdPins_held hp

theorem Chip.freezePos_keeps (c : Chip) : c.keeps [.pos] c.freezePos := by
  intro p hp
  unfold Chip.freezePos
  split <;> cases p <;> first | rfl | exact absurd hp (by decide)

theorem Chip.resetEdges_spec (c : Chip) :
    c.keeps [.cams, .pos, .pins, .banks, .edg, .pulses] c.resetEdges ∧
    (∀ n, n < 32 → (vget c.resetEdges.cams n).armed = false) ∧
    ∀ p, p < 192 → (vget c.resetEdges.pins p).held = (vget c.pins p).held ∧ (vget c.resetEdges.pins p).q = [] := by
  have hframe : c.keeps [.cams, .pos] c.disarmAll.freezePos := by
    refine Chip.keeps.trans (b := c.disarmAll) (fun p hp => ?_) (c.disarmAll.freezePos_keeps.mono (by decide))
    cases p <;> first | rfl | exact absurd hp (by decide)
  have hcams : c.disarmAll.freezePos.cams = vmapi (fun _ k => k.disarm) c.cams :=
    c.disarmAll.freezePos_keeps .cams (by decide)
  unfold Chip.resetEdges
  generalize c.disarmAll.freezePos = d at hframe hcams ⊢
  refine ⟨(hframe.mono (by decide)).trans fun p hp => ?_, fun n hn => ?_, fun p hp => ?_⟩
  · cases p <;> first | rfl | exact absurd hp (by decide)
  · dsimp only
    rw [vget_vmapi _ _ hn, hcams, vget_vmapi _ _ hn]
    exact Cam.disarm_armed _
  · dsimp only
    rw [vget_vmapi _ _ hp, hframe .pins (by decide)]
    exact ⟨rfl, rfl⟩

/-! #### Channels, scrubber, links -/

theorem Chip.dropDma_others {c : Chip} {ch n : Nat} (hw : ∀ j w, (c.queue j).wait = some w → w.kind ≠ .drain)
    (h : n % 12 ≠ ch % 12) : vget (c.dropDma ch).dma n = vget c.dma n := by
  cases hactive : (vget c.dma ch).active with
  | false =>
    unfold Chip.dropDma
    rw [if_pos (by simp [hactive])]
  | true =>
    rw [Chip.dropDma_active hactive, Chip.endDrains_none (c.dmaFreed ch) ch hw]
    exact vget_vmod_other _ _ (Ne.symm h)

/-- Channels dropped while no head waits for a drain. -/
theorem Chip.dropAll_spec (l : List Nat) : ∀ c : Chip, (∀ j w, (c.queue j).wait = some w → w.kind ≠ .drain) →
    let d := l.foldl (fun (c : Chip) ch => c.dropDma ch) c
    c.keeps [.dma, .credits, .freeIx] d ∧
      ∀ n, n < 12 → n ∈ l ∨ (vget c.dma n).active = false → (vget d.dma n).active = false := by
  induction l with
  | nil => exact fun c _ => ⟨.refl _ c, fun n _ h => h.resolve_left List.not_mem_nil⟩
  | cons ch l ih =>
    intro c hw
    obtain ⟨hkeeps, hidle, -⟩ := c.dropDma_spec ch hw
    have hqueue (j : Queue) : (c.dropDma ch).queue j = c.queue j := Chip.queue_congr (hkeeps .queues (by decide)) j
    obtain ⟨hrest, hdone⟩ := ih (c.dropDma ch) fun j w h => hw j w (hqueue j ▸ h)
    refine ⟨hkeeps.trans hrest, fun n hn h => hdone n hn ?_⟩
    by_cases hch : n % 12 = ch % 12
    · exact .inr (vget_eq_of_mod (c.dropDma ch).dma hch ▸ hidle)
    · rw [Chip.dropDma_others hw hch]
      exact h.imp (fun hmem => (List.mem_cons.1 hmem).resolve_left fun he => hch (he ▸ rfl)) id

theorem Chip.cancelStage_armed (c : Chip) (n : Nat) :
    (vget c.cancelStage.cams n).armed = (vget c.cams n).armed := by
  have hfold (l : List Nat) : ∀ d : Chip, (vget (l.foldl Chip.freeShadow d).cams n).armed = (vget d.cams n).armed := by
    induction l with
    | nil => exact fun _ => rfl
    | cons k l ih =>
      intro d
      rw [List.foldl_cons, ih, Chip.freeShadow, Chip.modCam_cams, vget_vmod]
      split <;> rfl
  unfold Chip.cancelStage
  split
  · rfl
  · exact hfold _ c

theorem Chip.resetScrub_spec (c : Chip) :
    c.keeps [.cams, .fronds, .scr, .flt] c.resetScrub ∧
    ∀ n, n < 32 → (vget c.resetScrub.fronds n).st = (vget c.fronds n).st ∧
      (vget c.resetScrub.fronds n).claim = (vget c.fronds n).claim ∧
      (vget c.resetScrub.cams n).armed = (vget c.cams n).armed := by
  have hcancel := c.cancelStage_keeps
  have harmed := c.cancelStage_armed
  unfold Chip.resetScrub
  generalize c.cancelStage = d at hcancel harmed ⊢
  refine ⟨(hcancel.mono (by decide)).trans fun p hp => ?_, fun n hn => ?_⟩
  · cases p <;> first | rfl | exact absurd hp (by decide)
  · dsimp only
    rw [vget_vmapi _ _ hn, hcancel .fronds (by decide)]
    exact ⟨rfl, rfl, harmed n⟩

theorem Chip.disablePort_keeps (c : Chip) {p : Nat} (hp : p < 3) :
    c.keeps [.ports, .lt, .lic] (c.disablePort p) ∧ (c.disablePort p).now = c.now := by
  obtain ⟨hkeeps, hnow, -⟩ := c.leaveUp_spec 3 hp
  exact ⟨hkeeps.trans ((Chip.modPort_keeps _ p _).mono (by decide)), hnow⟩

theorem Chip.resetLinks_spec (c : Chip) :
    c.keeps [.ports, .lt, .lic, .syncper, .lnkfwd, .syncT1, .syncDue] c.resetLinks ∧ c.resetLinks.now = c.now := by
  unfold Chip.resetLinks
  extract_lets down d
  have hdown (c : Chip) (p : Nat) (hp : p < 3) : c.keeps [.ports, .lt, .lic] (down c p) ∧ (down c p).now = c.now := by
    show c.keeps _ (if _ then _ else _) ∧ Chip.now (if _ then _ else _) = _
    split
    · exact c.disablePort_keeps hp
    · exact ⟨.refl _ c, rfl⟩
  have hflow : c.keeps [.ports] (((c.flowControl 0).flowControl 1).flowControl 2) :=
    ((c.flowControl_keeps 0).trans (Chip.flowControl_keeps _ 1)).trans (Chip.flowControl_keeps _ 2)
  have hnow : (((c.flowControl 0).flowControl 1).flowControl 2).now = c.now :=
    congrArg LineTime.stamp (hflow .lt (by decide))
  obtain ⟨h1, n1⟩ := hdown (((c.flowControl 0).flowControl 1).flowControl 2) 1 (by decide)
  obtain ⟨h2, n2⟩ := hdown (down (((c.flowControl 0).flowControl 1).flowControl 2) 1) 2 (by decide)
  have hd : c.keeps [.ports, .lt, .lic] d := (hflow.mono (by decide)).trans (h1.trans h2)
  refine ⟨(hd.mono (by decide)).trans fun p hp => ?_, n2.trans (n1.trans hnow)⟩
  cases p <;> first | rfl | exact absurd hp (by decide)

/-! #### Ports -/

/-- Words of an old epoch do not reach the core (R104). -/
theorem Chip.crossStale (l : List (Nat × BitVec 2 × Queue × QWord)) : ∀ c : Chip,
    (∀ e, e ∈ l → e.2.1 ≠ c.prt.epoch) →
    let d := l.foldl (fun (c : Chip) e =>
      if e.2.1 = c.prt.epoch then c.enqueue e.2.2.1.val e.2.2.2
      else
        { c with
          prt := { c.prt with drop := vmod c.prt.drop e.1 fun n => satAdd n 1 }
          spi := if e.1 = 0 then { c.spi with refused := true } else c.spi }) c
    c.keeps [.prt, .spi] d ∧ d.prt.epoch = c.prt.epoch := by
  induction l with
  | nil => exact fun c _ => ⟨.refl _ c, rfl⟩
  | cons e l ih =>
    intro c hold
    rw [List.foldl_cons, if_neg (hold e List.mem_cons_self)]
    obtain ⟨hkeeps, hepoch⟩ := ih
      { c with
        prt := { c.prt with drop := vmod c.prt.drop e.1 fun n => satAdd n 1 }
        spi := if e.1 = 0 then { c.spi with refused := true } else c.spi }
      fun x hx => hold x (List.mem_cons_of_mem e hx)
    refine ⟨Chip.keeps.trans (fun p hp => ?_) hkeeps, hepoch⟩
    cases p <;> first | rfl | exact absurd hp (by decide)

theorem Chip.crossAll_stale {c : Chip} (hold : ∀ e, e ∈ c.prt.cross → e.2.1 ≠ c.prt.epoch) :
    c.keeps [.prt, .spi] c.crossAll ∧ c.crossAll.prt.epoch = c.prt.epoch := by
  obtain ⟨hkeeps, hepoch⟩ := Chip.crossStale c.prt.cross { c with prt := { c.prt with cross := [] } } hold
  refine ⟨Chip.keeps.trans (fun p hp => ?_) hkeeps, hepoch⟩
  cases p <;> first | rfl | exact absurd hp (by decide)

theorem Chip.cutMgt_spec (c : Chip) :
    c.keeps [.prt, .mgt] c.cutMgt ∧ c.cutMgt.prt.epoch = c.prt.epoch ∧ c.cutMgt.prt.cross = c.prt.cross := by
  unfold Chip.cutMgt
  split
  · exact ⟨c.resetMgt_keeps.mono (by decide), rfl, rfl⟩
  · refine ⟨Chip.keeps.trans (b := c.partialAt 1) (fun p hp => ?_) ((Chip.resetMgt_keeps _).mono (by decide)), rfl, rfl⟩
    cases p <;> first | rfl | exact absurd hp (by decide)

theorem Chip.resetPorts_spec (c : Chip) (hcross : ∀ e, e ∈ c.prt.cross → e.2.1 = c.prt.epoch) :
    c.keeps [.spi, .mgt, .jtg, .prt] c.resetPorts ∧ c.resetPorts.prt.epoch = c.prt.epoch + 1 := by
  obtain ⟨hcut, hepoch, hwords⟩ := c.cutMgt_spec
  have hnext (x : BitVec 2) : x ≠ x + 1 := by bv_omega
  unfold Chip.resetPorts
  extract_lets d
  obtain ⟨e, he⟩ : ∃ e : Chip, e = { d with
    spi := { Spi.reset with epoch := true }
    mgt := { Mgt.reset with addr := d.mgt.addr, ptr := d.mgt.ptr, held := d.mgt.held, heldBad := d.mgt.heldBad }
    jtg := { d.jtg with isc := false, test := false, code := 0, busy := false }
    prt := { d.prt with epoch := d.prt.epoch + 1 } } := ⟨_, rfl⟩
  rw [← he]
  have hframe : d.keeps [.spi, .mgt, .jtg, .prt] e := fun p hp => by
    subst he
    cases p <;> first | rfl | exact absurd hp (by decide)
  have hprt : e.prt = { d.prt with epoch := d.prt.epoch + 1 } := congrArg Chip.prt he
  obtain ⟨hstale, hend⟩ := Chip.crossAll_stale (c := e) fun x hx => by
    rw [hprt] at hx ⊢
    exact hcross x (hwords ▸ hx) ▸ hepoch ▸ hnext _
  refine ⟨((hcut.mono (by decide)).trans hframe).trans (hstale.mono (by decide)), ?_⟩
  rw [hend, hprt]
  exact congrArg (· + 1) hepoch

/-! #### The whole reset -/

/-- With no store posted and none of an activation due, nothing begins. -/
theorem Chip.startPosted_idle {c : Chip} (hp : ∀ k, (c.queue k).posted = false) (hr : c.prs.rtPages = []) :
    c.startPosted = c := by
  have hclaim : c.claimPort = c := by
    unfold Chip.claimPort
    rw [show (List.finRange 8).find? (fun q => (c.queue q).posted) = none by simp [hp]]
    exact ite_self c
  have hstores : c.startStores 8 = c := by
    unfold Chip.startStores
    rw [show c.readyStore = none by simp [Chip.readyStore, hp]]
    split
    · contradiction
    · rfl
  unfold Chip.startPosted Chip.startActStore
  rw [hstores, hclaim, hr]
  simp

/-- What a core-side reset of `c` leaves in the queues, contexts, flags, fronds, cams and pins of `d`; the error counts and the
lock settings stay. -/
structure Chip.CoreCleared (c d : Chip) : Prop where
  queues : ∀ k, ∃ x : QState, d.queue k = x.cleared ∧ x.errs = (c.queue k).errs
  ctxs   : d.eng.ctxs = Vector.replicate 4 Ctx.reset
  flags  : d.eng.flags = 0
  units  : ∀ n, n < 32 → (vget d.fronds n).st = .safe ∧ (vget d.fronds n).claim = none ∧ (vget d.cams n).armed = false
  pins   : ∀ p, p < 192 → (vget d.pins p).held = true ∧ (vget d.pins p).q = []
  locks  : d.sec.locks = c.sec.locks

/-- What comes after it and leaves queues, contexts, flags, pins and locks, and of fronds and cams what it cleared. -/
theorem Chip.CoreCleared.later {c d e : Chip} {ps : List Part} (h : c.CoreCleared d) (hk : d.keeps ps e)
    (hps : ∀ p ∈ [Part.queues, .ctxs, .flags, .pins, .sec], p ∉ ps)
    (hunits : ∀ n, n < 32 → (vget e.fronds n).st = (vget d.fronds n).st ∧
      (vget e.fronds n).claim = (vget d.fronds n).claim ∧ (vget e.cams n).armed = (vget d.cams n).armed) :
    c.CoreCleared e where
  queues k := (Chip.queue_congr (hk .queues (hps _ (by decide))) k).symm ▸ h.queues k
  ctxs := (hk .ctxs (hps _ (by decide))).trans h.ctxs
  flags := (hk .flags (hps _ (by decide))).trans h.flags
  units n hn := by
    obtain ⟨hst, hclaim, harmed⟩ := hunits n hn
    rw [hst, hclaim, harmed]
    exact h.units n hn
  pins p hp := by
    rw [hk .pins (hps _ (by decide))]
    exact h.pins p hp
  locks := by
    rw [hk .sec (hps _ (by decide))]
    exact h.locks

/-- So what leaves fronds and cams as they are. -/
theorem Chip.CoreCleared.keeps {c d e : Chip} {ps : List Part} (h : c.CoreCleared d) (hk : d.keeps ps e)
    (hps : ∀ p ∈ [Part.queues, .ctxs, .flags, .pins, .sec, .fronds, .cams], p ∉ ps) : c.CoreCleared e :=
  h.later hk (fun p hp => hps p (by simp only [List.mem_cons, List.not_mem_nil, or_false] at hp ⊢; tauto)) fun n _ =>
    ⟨by rw [hk .fronds (hps _ (by decide))], by rw [hk .fronds (hps _ (by decide))], by rw [hk .cams (hps _ (by decide))]⟩

/-- Outputs, engine, cams and edges. -/
theorem Chip.resetBlocks_spec (c : Chip) :
    let d := c.resetOutputs.resetEngine.resetEdges
    c.keeps [.waitmax, .engEvt, .engInten, .flags, .evtsrc, .queues, .ctxs, .alt34, .lastSt, .nvQ, .memo, .fronds, .cams,
      .prs, .nvs, .sec, .scr, .pins, .banks, .edg, .pos, .pulses] d ∧
    c.CoreCleared d ∧ d.prs.rtPages = [] := by
  obtain ⟨k1, hsafe, hheld⟩ := c.resetOutputs_spec
  generalize c.resetOutputs = a at k1 hsafe hheld ⊢
  obtain ⟨k2, hqueues, hctxs, hflags, hfronds, hlocks, hpages⟩ := a.resetEngine_spec
  generalize a.resetEngine = b at k2 hqueues hctxs hflags hfronds hlocks hpages ⊢
  obtain ⟨k3, harmed, hpins⟩ := b.resetEdges_spec
  generalize b.resetEdges = d at k3 harmed hpins ⊢
  refine ⟨((k1.mono (by decide)).trans (k2.mono (by decide))).trans (k3.mono (by decide)), ⟨fun k => ?_, ?_, ?_, fun n hn => ?_,
    fun p hp => ?_, ?_⟩, ?_⟩
  · obtain ⟨x, hx, herrs⟩ := hqueues k
    refine ⟨x, (Chip.queue_congr (k3 .queues (by decide)) k).trans hx, herrs.trans ?_⟩
    rw [Chip.queue_congr (k1 .queues (by decide))]
  · exact (k3 .ctxs (by decide)).trans hctxs
  · exact (k3 .flags (by decide)).trans hflags
  · rw [k3 .fronds (by decide)]
    exact ⟨(hfronds n hn).1.trans (hsafe n hn), (hfronds n hn).2, harmed n hn⟩
  · obtain ⟨hp1, hp2⟩ := hpins p hp
    rw [hp1, k2 .pins (by decide)]
    exact ⟨hheld p hp, hp2⟩
  · rw [k3 .sec (by decide), hlocks, k1 .sec (by decide)]
  · rw [k3 .prs (by decide)]
    exact hpages

/-- SYS.RSTCAUSE gives the kind of the reset in its low bits (Table PWR-5). -/
theorem rstcause_kind (kind : BitVec 3) (latched : Bool) (tag : Byte) (n : BitVec 16) :
    (fldW 0 kind ||| bitW 3 latched ||| fldW 8 tag ||| fldW 16 n).extractLsb' 0 3 = kind := by
  ext i hi
  have hbit : (bitW 3 latched)[i] = false := by
    rw [← BitVec.getLsbD_eq_getElem, getLsbD_bitW _ _ (by decide)]
    simp [show i ≠ 3 by omega]
  simp [fldW, hbit, hi, show i < 8 by omega, show i < 16 by omega, show i < 32 by omega]

theorem Chip.keeps_pwr_prs (c : Chip) (w : Pwr) (x : Prs) :
    c.keeps [.pwr, .prs] { c with pwr := w, prs := x } := fun p hp => by
  cases p <;> first | rfl | exact absurd hp (by decide)

/-- The parts that a core-side reset changes. -/
def resetParts : List Part :=
  [.waitmax, .engEvt, .engInten, .flags, .evtsrc, .queues, .ctxs, .alt34, .lastSt, .nvQ, .memo, .fronds, .cams, .prs, .nvs,
    .sec, .scr, .pins, .banks, .edg, .pos, .pulses, .dma, .credits, .freeIx, .flt, .ports, .lt, .lic, .syncper, .lnkfwd,
    .syncT1, .syncDue, .spi, .mgt, .jtg, .prt, .pwr]

/-- The blocks of a core-side reset, before its cause is noted. -/
def Chip.resetCore (c : Chip) : Chip :=
  ((List.range 12).foldl (fun (c : Chip) ch => c.dropDma ch)
    c.resetOutputs.resetEngine.resetEdges).resetScrub.resetLinks.resetPorts

/-- What the blocks leave, when the words in the crossings are of the epoch that ends. -/
theorem Chip.resetCore_spec (c : Chip) (hcross : ∀ e, e ∈ c.prt.cross → e.2.1 = c.prt.epoch) :
    c.keeps resetParts c.resetCore ∧ c.CoreCleared c.resetCore ∧
      (∀ k, k < 12 → (vget c.resetCore.dma k).active = false) ∧ c.resetCore.prt.epoch = c.prt.epoch + 1 ∧
      c.resetCore.now = c.now ∧ c.resetCore.prs.rtPages = [] := by
  obtain ⟨k1, h1, hpages⟩ := c.resetBlocks_spec
  unfold Chip.resetCore
  generalize c.resetOutputs.resetEngine.resetEdges = d1 at k1 h1 hpages ⊢
  have hwait (j : Queue) : (d1.queue j).wait = none := by
    obtain ⟨x, hx, -⟩ := h1.queues j
    rw [hx]
    rfl
  obtain ⟨k2, hidle⟩ := Chip.dropAll_spec (List.range 12) d1 fun j w h => by simp [hwait j] at h
  generalize (List.range 12).foldl (fun (c : Chip) ch => c.dropDma ch) d1 = d2 at k2 hidle ⊢
  obtain ⟨k3, hunits⟩ := d2.resetScrub_spec
  generalize d2.resetScrub = d3 at k3 hunits ⊢
  obtain ⟨k4, hnow⟩ := d3.resetLinks_spec
  generalize d3.resetLinks = d4 at k4 hnow ⊢
  have k1to3 : c.keeps resetParts d3 := ((k1.mono (by decide)).trans (k2.mono (by decide))).trans (k3.mono (by decide))
  have k2to4 : d1.keeps [.dma, .credits, .freeIx, .cams, .fronds, .scr, .flt, .ports, .lt, .lic, .syncper, .lnkfwd, .syncT1,
      .syncDue] d4 := ((k2.mono (by decide)).trans (k3.mono (by decide))).trans (k4.mono (by decide))
  have hprt : d4.prt = c.prt := (k2to4 .prt (by decide)).trans (k1 .prt (by decide))
  obtain ⟨k5, hepoch⟩ := d4.resetPorts_spec (hprt ▸ hcross)
  generalize d4.resetPorts = d5 at k5 hepoch ⊢
  have hdma : d5.dma = d2.dma := (k5 .dma (by decide)).trans ((k4 .dma (by decide)).trans (k3 .dma (by decide)))
  refine ⟨(k1to3.trans (k4.mono (by decide))).trans (k5.mono (by decide)), ?cleared, fun k hk => ?idle, ?newEpoch, ?time, ?pages⟩
  case cleared =>
    have h3 := (h1.keeps k2 (by decide)).later k3 (by decide) hunits
    exact (h3.keeps k4 (by decide)).keeps k5 (by decide)
  case idle =>
    rw [hdma]
    exact hidle k hk (.inl (List.mem_range.2 hk))
  case newEpoch => rw [hepoch, hprt]
  case time =>
    calc d5.now = d4.now := congrArg LineTime.stamp (k5 .lt (by decide))
      _ = d3.now := hnow
      _ = c.now := congrArg LineTime.stamp
        ((k3 .lt (by decide)).trans ((k2 .lt (by decide)).trans (k1 .lt (by decide))))
  case pages =>
    rw [k5 .prs (by decide), k2to4 .prs (by decide)]
    exact hpages

/-- A reset part by part: its blocks, its cause, its record. -/
theorem Chip.coreReset_spec (c : Chip) (kind : BitVec 3) (tag : Byte) (latched : Bool)
    (hcross : ∀ e, e ∈ c.prt.cross → e.2.1 = c.prt.epoch) :
    let t := c.coreReset kind tag latched
    c.CoreCleared t ∧ (∀ k, k < 12 → (vget t.dma k).active = false) ∧ t.prt.epoch = c.prt.epoch + 1 ∧ t.now = c.now ∧
      t.clk = c.clk ∧ t.mem = c.mem ∧ t.pwr.rstcause.extractLsb' 0 3 = kind := by
  obtain ⟨kcore, hcore, hidle, hepoch, hnow, hpages⟩ := c.resetCore_spec hcross
  unfold Chip.coreReset
  dsimp only
  rw [← Chip.resetCore]
  generalize c.resetCore = d at kcore hcore hidle hepoch hnow hpages ⊢
  generalize he : ({ d with pwr := _, prs := _ } : Chip) = e
  have k1 : d.keeps [.pwr, .prs] e := he ▸ d.keeps_pwr_prs _ _
  have hcause : e.pwr.rstcause = _ := congrArg (fun x : Chip => x.pwr.rstcause) he.symm
  have hpages' : e.prs.rtPages = [] := by
    subst he
    dsimp only
    split <;> exact hpages
  have k2 := e.record_keeps 0x0003 0 0 (ctxAt 32 (if kind = 2 then 0 else 1)) 0 .general
  generalize e.record 0x0003 0 0 (ctxAt 32 (if kind = 2 then 0 else 1)) 0 .general = g at k2 ⊢
  have hcleared := (hcore.keeps k1 (by decide)).keeps k2 (by decide)
  have hposted (k : Queue) : (g.queue k).posted = false := by
    obtain ⟨x, hx, -⟩ := hcleared.queues k
    rw [hx]
    rfl
  rw [Chip.startPosted_idle hposted ((congrArg Prs.rtPages (k2 .prs (by decide))).trans hpages')]
  have kend : d.keeps [.pwr, .prs, .lic] g := (k1.mono (by decide)).trans (k2.mono (by decide))
  have kall : c.keeps resetParts g := kcore.trans (kend.mono (by decide))
  refine ⟨hcleared, fun k hk => ?idle, ?newEpoch, ?time, kall .clk (by decide), kall .mem (by decide), ?cause⟩
  case idle =>
    rw [kend .dma (by decide)]
    exact hidle k hk
  case newEpoch => rw [kend .prt (by decide), hepoch]
  case time => exact (congrArg LineTime.stamp (kend .lt (by decide))).trans hnow
  case cause =>
    rw [k2 .pwr (by decide), hcause]
    exact rstcause_kind kind latched tag _

/-! ### CORE.RESET (R218, R438) -/

theorem Chip.cutFrames_none (c : Chip) : c.cutFrames 0 [] = c := by
  unfold Chip.cutFrames
  simp [List.range_succ]

theorem coreResetBody_eq (q : Queue) (f : Insn) (d : Die) (b : Chip) :
    coreResetWith 0 [] q f d b = .hold ((b.retire q f St.ok 0).coreReset 3 f.tag false) := by
  rw [coreResetWith, Chip.cutFrames_none]

/-- Settles O33: the instruction completes, and of the chip it leaves the reset clears the core. -/
theorem coreResetClearsTheCore : Obligations.CoreResetClearsTheCore := by
  unfold Obligations.CoreResetClearsTheCore
  intro q f s b h hcross
  obtain ⟨m, hm⟩ : ∃ m, m = b.retire q f St.ok 0 := ⟨_, rfl⟩
  have hk : b.keeps _ m := hm ▸ b.retire_keeps q f St.ok 0
  have hprt : m.prt = b.prt := hk .prt (by decide)
  obtain ⟨⟨hqueues, hctxs, hflags, hunits, hpins, hlocks⟩, hdma, hepoch, hnow, hclk, hmem, hcause⟩ :=
    m.coreReset_spec 3 f.tag false (hprt.symm ▸ hcross)
  have hex := insn_hold h ((coreResetBody_eq q f s.die b).trans (by rw [← hm]))
  refine ⟨{ s with chip := m.coreReset 3 f.tag false }, { s with chip := m }, hex, hm ▸ completes_retire_now, rfl, rfl,
    fun k => ?queue, fun k hk => ?ctx, hflags, hunits, hpins, hdma, ?newEpoch, ?time, ?clocks, hmem, ?locks, hcause⟩
  case queue =>
    obtain ⟨x, hx, herrs⟩ := hqueues k
    dsimp only
    rw [hx]
    exact ⟨rfl, rfl, rfl, rfl, rfl, herrs⟩
  case ctx =>
    dsimp only
    rw [hctxs]
    simp [vget, Ctx.reset]
  case newEpoch => exact hepoch.trans (by rw [hprt])
  case time => exact hnow.trans (congrArg LineTime.stamp (hk .lt (by decide)))
  case clocks => exact hclk.trans (hk .clk (by decide))
  case locks => exact hlocks.trans (congrArg Sec.locks (hk .sec (by decide)))

end Sys2Proof.Machine
end

section
namespace Sys2Proof.Machine

/-! ### The fuses and the staged key (R447, R454) -/

theorem Chip.keeps_sec {ps : List Part} (c : Chip) (x : Sec) (h : Part.sec ∈ ps) : c.keeps ps { c with sec := x } := by
  intro p hp
  cases p <;> first | rfl | exact absurd h hp

/-- The fuse that a kind of LOCK.SET blows. -/
def Die.fuseOf (d : Die) (kind : Nat) : Bool :=
  if kind = 2 then d.sealed else if kind = 3 then d.readback else d.jtagLock

section
variable (key : BitVec 256) (v : DWord) {n i : Nat}

theorem getLsbD_stageQuarter (hi : i < 256) :
    (stageQuarter key n v).getLsbD i = if 64 * n ≤ i ∧ i < 64 * n + 64 then v.getLsbD (i - 64 * n) else key.getLsbD i := by
  have hones : (0xFFFFFFFFFFFFFFFF : BitVec 256) = (BitVec.allOnes 64).setWidth 256 := by decide
  unfold stageQuarter
  rw [hones]
  simp only [BitVec.getLsbD_or, BitVec.getLsbD_and, BitVec.getLsbD_not, BitVec.getLsbD_shiftLeft, BitVec.getLsbD_setWidth,
    BitVec.getLsbD_allOnes, hi, decide_true, Bool.true_and]
  by_cases hlo : i < 64 * n
  · simp [hlo, show ¬ 64 * n ≤ i by omega]
  · by_cases hhi : i < 64 * n + 64
    · simp [hlo, hhi, show 64 * n ≤ i by omega, show i - 64 * n < 64 by omega, show i - 64 * n < 256 by omega]
    · simp [hlo, hhi, show ¬ i - 64 * n < 64 by omega, BitVec.getLsbD_of_ge v (i - 64 * n) (by omega)]

theorem stageQuarter_own (hn : n < 4) : (stageQuarter key n v).extractLsb' (64 * n) 64 = v := by
  apply BitVec.eq_of_getLsbD_eq
  intro j hj
  simp only [BitVec.getLsbD_extractLsb', hj, decide_true, Bool.true_and]
  rw [getLsbD_stageQuarter key v (by omega), if_pos (by omega), Nat.add_sub_cancel_left]

theorem stageQuarter_other (hi : i < 256) (h : i < 64 * n ∨ 64 * n + 64 ≤ i) :
    (stageQuarter key n v).getLsbD i = key.getLsbD i := by
  rw [getLsbD_stageQuarter key v hi, if_neg (by omega)]

theorem stageQuarter_first : stageQuarter 0 0 v = v.setWidth 256 := by
  apply BitVec.eq_of_getLsbD_eq
  intro j hj
  rw [getLsbD_stageQuarter 0 v hj, BitVec.getLsbD_setWidth]
  by_cases h : j < 64
  · simp [h, hj]
  · simp [h, BitVec.getLsbD_of_ge v j (by omega)]

theorem stageQuarter_last_low : (stageQuarter key 3 v).extractLsb' 0 192 = key.extractLsb' 0 192 := by
  apply BitVec.eq_of_getLsbD_eq
  intro j hj
  simp only [BitVec.getLsbD_extractLsb', Nat.zero_add]
  rw [stageQuarter_other key v (by omega) (.inl (by omega))]

end

/-! ### LOCK.SET (R450, Table SEC-2) -/

section
variable {q : Queue} {f : Insn} {d : Die} {b : Chip}

/-- The register locks of a mask set, SEC.EVT.lock where one is new. -/
def Chip.lockRegs (c : Chip) (m : BitVec 2) : Chip :=
  let e := if c.sec.locks ||| m = c.sec.locks then c else c.setSecEvt 3
  { e with sec := { e.sec with locks := e.sec.locks ||| m } }

/-- JTAG hold set. -/
def Chip.holdJtag (c : Chip) : Chip := { c with sec := { c.sec with jtagHold := true } }

/-- The programmer begins an operation for a queue. -/
def Chip.fuseBegins (c : Chip) (q : Queue) (kind : Nat) (key : BitVec 256) : Chip :=
  { c with sec := { c.sec with op := some ⟨kind, some q, key⟩ } }

theorem Chip.lockRegs_spec (c : Chip) (m : BitVec 2) :
    c.keeps [.sec] (c.lockRegs m) ∧ (c.lockRegs m).sec.locks = c.sec.locks ||| m ∧
      (c.lockRegs m).sec.jtagHold = c.sec.jtagHold := by
  unfold Chip.lockRegs
  split
  · exact ⟨c.keeps_sec _ (by decide), rfl, rfl⟩
  · exact ⟨(c.keeps_sec _ (by decide)).trans (Chip.keeps_sec _ _ (by decide)), rfl, rfl⟩

theorem lockSetBody_locks (hk : field f.tgt 0 4 = 0) (hm : (f.op.setWidth 32 : Word) &&& ~~~3 = 0) :
    let e := b.lockRegs ((f.op.setWidth 32 : Word).setWidth 2)
    lockSetBody q f d b = .done St.ok (e.sec.locks.setWidth 64) e := by
  simp only [lockSetBody, hk, hm, ne_eq, not_true_eq_false, if_false]
  rfl

theorem lockSetBody_group (hk : field f.tgt 0 4 = 0) (hm : (f.op.setWidth 32 : Word) &&& ~~~3 ≠ 0) :
    lockSetBody q f d b = .done St.range 0 b := by
  simp only [lockSetBody, hk, hm, ne_eq, not_false_eq_true, if_true]
  rfl

theorem lockSetBody_hold (hk : field f.tgt 0 4 = 1) :
    lockSetBody q f d b = .done St.ok ((b.holdJtag.secFuse d).setWidth 64) b.holdJtag := by
  simp only [lockSetBody, hk]
  rfl

theorem lockSetBody_fuse (h2 : 2 ≤ field f.tgt 0 4) (h4 : field f.tgt 0 4 ≤ 4) :
    lockSetBody q f d b = fuseKind q f d b (field f.tgt 0 4 - 1) (d.fuseOf (field f.tgt 0 4)) := by
  have hkind : field f.tgt 0 4 = 2 ∨ field f.tgt 0 4 = 3 ∨ field f.tgt 0 4 = 4 := by omega
  rcases hkind with h | h | h <;> simp only [lockSetBody, h] <;> rfl

theorem lockSetBody_other (h : 5 ≤ field f.tgt 0 4) : lockSetBody q f d b = .done St.range 0 b := by
  unfold lockSetBody
  split <;> first | omega | rfl

section
variable {kind : Nat} {isSet : Bool}

theorem fuseKind_unconfirmed (h : confirmed f = false) : fuseKind q f d b kind isSet = .done St.range 0 b := by
  simp only [fuseKind, h, Bool.not_false, if_true]
  rfl

variable (h : confirmed f = true)
include h

theorem fuseKind_set : fuseKind q f d b kind true = .done St.ok ((b.secFuse d).setWidth 64) b := by
  simp only [fuseKind, h, Bool.not_true, Bool.false_eq_true, if_false, if_true]

theorem fuseKind_busy (hop : b.sec.op ≠ none) : fuseKind q f d b kind false = .wait .fuse 0 0 b := by
  simp only [fuseKind, h, Option.isSome_iff_ne_none.2 hop, Bool.not_true, Bool.false_eq_true, if_false, if_true]

theorem fuseKind_keyless (hop : b.sec.op = none) (hkey : d.keyProg = false) :
    fuseKind q f d b 1 false = .done St.range 0 b := by
  simp only [fuseKind, h, hop, hkey, Option.isSome_none, Bool.not_true, Bool.false_eq_true, if_false, decide_true,
    Bool.not_false, Bool.and_self, if_true]
  rfl

theorem fuseKind_begins (hop : b.sec.op = none) (hkey : kind = 1 → d.keyProg = true) :
    fuseKind q f d b kind false = .wait .fuseDone 0 0 (b.fuseBegins q kind 0) := by
  have hpass : (decide (kind = 1) && !d.keyProg) = false := by
    by_cases hk : kind = 1
    · simp [hkey hk]
    · simp [hk]
  simp only [fuseKind, h, hop, hpass, Option.isSome_none, Bool.not_true, Bool.false_eq_true, if_false]
  rfl

end

/-! ### KEY.PROG (R454, R455) -/

/-- The staging taken by a queue with the first quarter. -/
def Chip.takeKey (c : Chip) (q : Queue) (v : DWord) : Chip :=
  { c with sec := { c.sec with owner := some q, quarter := 1, stageKey := stageQuarter 0 0 v } }

/-- A quarter staged. -/
def Chip.stageKey (c : Chip) (n : Nat) (v : DWord) : Chip :=
  { c with sec := { c.sec with quarter := n + 1, stageKey := stageQuarter c.sec.stageKey n v } }

theorem keyProgBody_first (hn : field f.tgt 0 2 = 0) (ho : b.sec.owner = none ∨ b.sec.owner = some q) :
    keyProgBody q f d b = .done St.ok 0 (b.takeKey q f.op) := by
  have hmine : (b.sec.owner.isSome && b.sec.owner != some q) = false := by
    rcases ho with ho | ho <;> simp [ho]
  simp only [keyProgBody, hn, hmine, Bool.false_eq_true, if_false]
  rfl

theorem keyProgBody_busy {o : Queue} (ho : b.sec.owner = some o) (hne : o ≠ q) :
    keyProgBody q f d b = .done St.busy 0 b := by
  unfold keyProgBody
  dsimp only
  rw [ho]
  split
  · rw [if_pos (by simp [hne])]
    rfl
  · contradiction
  · rename_i h _
    rw [if_pos (Option.some.inj h ▸ hne)]
    rfl

theorem keyProgBody_unowned (hn : field f.tgt 0 2 ≠ 0) (ho : b.sec.owner = none) :
    keyProgBody q f d b = .done St.range 0 b := by
  unfold keyProgBody
  dsimp only
  rw [ho]
  split
  · contradiction
  · rfl
  · contradiction

section
variable (hn : field f.tgt 0 2 ≠ 0) (ho : b.sec.owner = some q)
include hn ho

theorem keyProgBody_owned : keyProgBody q f d b =
    if b.sec.quarter ≠ field f.tgt 0 2 then .done St.range 0 b.clearKey
    else if field f.tgt 0 2 = 3 then keyQuarter3 q d b (stageQuarter b.sec.stageKey (field f.tgt 0 2) f.op)
    else .done St.ok 0 (b.stageKey (field f.tgt 0 2) f.op) := by
  unfold keyProgBody
  dsimp only
  split
  · contradiction
  · rename_i h _
    exact absurd (ho.symm.trans h) (by simp)
  · rename_i h _
    rw [if_neg (not_not.2 (Option.some.inj (h.symm.trans ho)))]
    rfl

theorem keyProgBody_misplaced (hq : b.sec.quarter ≠ field f.tgt 0 2) :
    keyProgBody q f d b = .done St.range 0 b.clearKey := by
  rw [keyProgBody_owned hn ho, if_pos hq]

theorem keyProgBody_stages (hq : b.sec.quarter = field f.tgt 0 2) (h3 : field f.tgt 0 2 ≠ 3) :
    keyProgBody q f d b = .done St.ok 0 (b.stageKey (field f.tgt 0 2) f.op) := by
  rw [keyProgBody_owned hn ho, if_neg (not_not.2 hq), if_neg h3]

end

theorem keyProgBody_last (hn : field f.tgt 0 2 = 3) (ho : b.sec.owner = some q) (hq : b.sec.quarter = 3) :
    keyProgBody q f d b = keyQuarter3 q d b (stageQuarter b.sec.stageKey 3 f.op) := by
  rw [keyProgBody_owned (by omega) ho, if_neg (by omega), if_pos hn, hn]

section
variable {key : BitVec 256}

theorem keyQuarter3_same (hp : d.keyProg = true) (hkey : key = d.key) :
    keyQuarter3 q d b key = .done St.ok d.hash8 b.clearKey := by
  simp only [keyQuarter3, hp, hkey, if_true]

/-- Another key than the part's, or one that would clear a fuse, is refused. -/
theorem keyQuarter3_refused
    (h : d.keyProg = true ∧ key ≠ d.key ∨ d.keyProg = false ∧ b.sec.op = none ∧ d.key &&& ~~~key ≠ 0) :
    keyQuarter3 q d b key = b.refuseKey q := by
  rcases h with ⟨hp, hne⟩ | ⟨hp, hop, hblown⟩
  · simp only [keyQuarter3, hp, hne, if_true, if_false]
  · simp only [keyQuarter3, hp, hop, hblown, Option.isSome_none, Bool.false_eq_true, if_false, ne_eq, not_false_eq_true, if_true]

theorem keyQuarter3_busy (hp : d.keyProg = false) (hop : b.sec.op ≠ none) :
    keyQuarter3 q d b key = .wait .fuse 0 0 b := by
  simp only [keyQuarter3, hp, Option.isSome_iff_ne_none.2 hop, Bool.false_eq_true, if_false, if_true]

theorem keyQuarter3_begins (hp : d.keyProg = false) (hop : b.sec.op = none) (hfit : d.key &&& ~~~key = 0) :
    keyQuarter3 q d b key = .wait .fuseDone 0 0 (b.clearKey.fuseBegins q 4 key) := by
  simp only [keyQuarter3, hp, hop, hfit, Option.isSome_none, Bool.false_eq_true, if_false, ne_eq, not_true_eq_false]
  rfl

end

/-- A refused key completes LOCKED: the staging is cleared, one violation counted, one record made. -/
theorem insn_refusesKey {s : State} (h : s.chip.issuesAs Op.keyProg q f b) (hb : keyProgBody q f s.die b = b.refuseKey q)
    (hroom : b.lic.room = true) :
    ∃ t e, insn Op.keyProg keyProgBody q f s = .next t ∧ Completes q f St.locked 0 b.lt s e t ∧ b.keeps [.sec, .lic] e ∧
      e.sec.owner = none ∧ e.sec.stageKey = 0 ∧ e.sec.viol = satAdd b.sec.viol 1 ∧
      e.sec.lastv.extractLsb' 0 16 = 0x3E02 := by
  obtain ⟨t, hex, hdone⟩ := insn_done_record h hb (Chip.record_oneRecord rfl hroom) rfl
  refine ⟨t, _, hex, hdone, ?_, rfl, rfl, rfl, ?_⟩
  · exact (b.clearKey_keeps.mono (by decide)).trans
      ((b.clearKey.violate_keeps _ _ _ _ _ _).trans (Chip.keeps_lic _ _ (by decide)))
  · have hlow : ∀ k : Queue,
        ((0x3E02 : BitVec 16).setWidth 32 ||| (natW 16 k.val ||| bitW 19 true)).extractLsb' 0 16 = 0x3E02 := by decide
    exact hlow q

end

/-! ### FUSE_OP_DONE (R448, R449, R455) -/

section
variable {c : Chip} {d : Die} {o : FuseOp}

/-- The chip whose programmer is free again: the event of its operation, and for sealing a plain staged stream dropped. -/
def Chip.fuseRests (c : Chip) (o : FuseOp) : Chip :=
  let e := { c with sec := { c.sec with op := none } }.setSecEvt (if o.kind = 4 then 2 else 1)
  match e.prs.staged with
  | some s => if o.kind = 1 && !s.sealed then e.dropStaged else e
  | none => e

theorem Chip.fuseDone_eq : c.fuseDone d o =
    match o.queue with
    | none => c.fuseRests o
    | some q =>
      match ((c.fuseRests o).queue q).wait with
      | some w =>
        if w.kind == .fuseDone then
          (c.fuseRests o).retireWait q St.ok (if o.kind = 4 then d.hash8 else ((c.fuseRests o).secFuse d).setWidth 64)
        else c.fuseRests o
      | none => c.fuseRests o := by
  unfold Chip.fuseDone Chip.fuseRests
  by_cases h : o.kind = 4 <;> simp only [h, if_true, if_false] <;> rfl

/-- An operation that is not sealing drops no stream. -/
theorem Chip.fuseRests_sec (h : o.kind ≠ 1) : c.keeps [.sec] (c.fuseRests o) := by
  unfold Chip.fuseRests
  simp only [h, decide_false, Bool.false_and, Bool.false_eq_true, if_false]
  split <;> exact c.keeps_sec _ (by decide)

theorem Chip.fuseRests_spec (c : Chip) (o : FuseOp) :
    c.keeps [.sec, .prs, .cams] (c.fuseRests o) ∧ (c.fuseRests o).sec.op = none ∧
      (c.fuseRests o).sec.evt.getLsbD (if o.kind = 4 then 2 else 1) = true := by
  obtain ⟨e, he⟩ : ∃ e, e = { c with sec := { c.sec with op := none } }.setSecEvt (if o.kind = 4 then 2 else 1) :=
    ⟨_, rfl⟩
  have hk : c.keeps [.sec, .prs, .cams] e := he ▸ c.keeps_sec _ (by decide)
  have hop : e.sec.op = none := by rw [he]; rfl
  have hevt : e.sec.evt.getLsbD (if o.kind = 4 then 2 else 1) = true := by
    rw [he, Chip.setSecEvt_sec, BitVec.getLsbD_or, getLsbD_bitW _ _ (by split <;> decide)]
    simp
  have hrests : c.fuseRests o = e ∨ c.fuseRests o = e.dropStaged := by
    unfold Chip.fuseRests
    dsimp only
    rw [← he]
    split
    · split
      · exact .inr rfl
      · exact .inl rfl
    · exact .inl rfl
  rcases hrests with h | h <;> rw [h]
  · exact ⟨hk, hop, hevt⟩
  · have hsec : e.dropStaged.sec = e.sec := e.dropStaged_keeps .sec (by decide)
    exact ⟨hk.trans (e.dropStaged_keeps.mono (by decide)), by rw [hsec, hop], by rw [hsec, hevt]⟩

theorem Chip.fuseDone_alone (h : o.queue = none) : c.fuseDone d o = c.fuseRests o := by
  rw [Chip.fuseDone_eq, h]

/-- The instruction that waits for the operation retires OK. -/
theorem Chip.fuseDone_retires {q : Queue} {w : Wait} (hq : o.queue = some q) (hw : (c.queue q).wait = some w)
    (hkind : w.kind = .fuseDone) :
    let e := (c.fuseRests o).endWait q
    c.fuseDone d o = e.retire q w.f St.ok (if o.kind = 4 then d.hash8 else (e.secFuse d).setWidth 64) := by
  have hwait : ((c.fuseRests o).queue q).wait = some w := by
    rw [Chip.queue_congr ((c.fuseRests_spec o).1 .queues (by decide)), hw]
  have hkind' : (w.kind == WaitKind.fuseDone) = true := by rw [hkind]; rfl
  rw [Chip.fuseDone_eq, hq]
  simp only [hwait, hkind', if_true]
  rw [Chip.retireWait_eq hwait]
  rfl

theorem exec_fuseOpDone {s : State} (hon : s.chip.endSwitch.storeOn = true) (hop : s.chip.endSwitch.sec.op = some o) :
    exec .fuseOpDone s = .next { s with die := s.die.blow o, chip := s.chip.endSwitch.fuseDone (s.die.blow o) o } := by
  change execFuseOpDone s = _
  simp only [execFuseOpDone, hop, hon]

theorem exec_fuseOpDone_none {s : State} (h : s.chip.endSwitch.storeOn = false ∨ s.chip.endSwitch.sec.op = none) :
    exec .fuseOpDone s = .next { s with chip := s.chip.endSwitch } := by
  change execFuseOpDone s = _
  unfold execFuseOpDone
  dsimp only
  split
  · rename_i hop hon
    rcases h with h | h
    · exact absurd (hon.symm.trans h) (by decide)
    · exact absurd (hop.symm.trans h) (by simp)
  · rfl

section
variable {s : State} {ps : List Part} (hon : s.chip.endSwitch.storeOn = true) (hop : s.chip.endSwitch.sec.op = some o)
  (hkeeps : s.chip.endSwitch.keeps ps (s.chip.endSwitch.fuseRests o))
include hon hop hkeeps

/-- The instruction whose operation ends retires with its result. -/
theorem fuseOpDone_retires {q : Queue} {w : Wait} (hq : o.queue = some q) (hw : (s.chip.endSwitch.queue q).wait = some w)
    (hkind : w.kind = .fuseDone) :
    ∃ t e, exec .fuseOpDone s = .next t ∧
      Completes q w.f St.ok (if o.kind = 4 then t.die.hash8 else (e.secFuse t.die).setWidth 64) e.lt
        { s with die := t.die } e t ∧
      s.chip.endSwitch.keeps (ps ++ [.queues]) e ∧ (e.queue q).wait = none ∧ e.sec.op = none ∧
      e.sec.evt.getLsbD (if o.kind = 4 then 2 else 1) = true := by
  obtain ⟨-, hrest, hevt⟩ := s.chip.endSwitch.fuseRests_spec o
  have hex := exec_fuseOpDone hon hop
  rw [Chip.fuseDone_retires hq hw hkind] at hex
  have hend : (s.chip.endSwitch.fuseRests o).keeps [.queues] _ := Chip.modQ_keeps _ q.val fun x => { x with wait := none }
  exact ⟨_, _, hex, completes_retire_now,
    (hkeeps.mono (List.subset_append_left ..)).trans (hend.mono (List.subset_append_right ..)),
    by rw [Chip.endWait_queue], hrest, hevt⟩

theorem fuseOpDone_alone (hq : o.queue = none) :
    ∃ t, exec .fuseOpDone s = .next t ∧ t.pending = s.pending ∧ s.chip.endSwitch.keeps ps t.chip ∧ t.chip.sec.op = none ∧
      t.chip.sec.evt.getLsbD (if o.kind = 4 then 2 else 1) = true := by
  obtain ⟨-, hrest, hevt⟩ := s.chip.endSwitch.fuseRests_spec o
  have hex := exec_fuseOpDone hon hop
  rw [Chip.fuseDone_alone hq] at hex
  exact ⟨_, hex, rfl, hkeeps, hrest, hevt⟩

end

/-- The fuses of the lifecycle after an operation of kind 1 to 3. -/
theorem Die.blow_lock (d : Die) (h1 : 1 ≤ o.kind) (h3 : o.kind ≤ 3) :
    (d.blow o).sealed = (d.sealed || o.kind == 1) ∧ (d.blow o).readback = (d.readback || o.kind == 2) ∧
      (d.blow o).jtagLock = (d.jtagLock || o.kind == 3) ∧ (d.blow o).key = d.key ∧ (d.blow o).keyProg = d.keyProg := by
  have hkind : o.kind = 1 ∨ o.kind = 2 ∨ o.kind = 3 := by omega
  rcases hkind with h | h | h <;> simp [Die.blow, h]

theorem Die.blow_key (d : Die) (h : o.kind = 4) :
    (d.blow o).keyProg = true ∧ (d.blow o).key = d.key ||| o.key ∧ (d.blow o).sealed = d.sealed := by
  simp [Die.blow, h]

end

/-! ### The obligation -/

section
variable {q : Queue} {f : Insn} {s : State} {b : Chip} (h : s.chip.issuesAs Op.lockSet q f b)
include h

theorem lockSet_locks (hk : field f.tgt 0 4 = 0) (hm : (f.op.setWidth 32 : Word) &&& ~~~3 = 0) :
    ∃ t e, exec (.lockSet q f) s = .next t ∧ Completes q f St.ok (e.sec.locks.setWidth 64) b.lt s e t ∧ b.keeps [.sec] e ∧
      e.sec.locks = b.sec.locks ||| (f.op.setWidth 32 : Word).setWidth 2 ∧ e.sec.jtagHold = b.sec.jtagHold := by
  obtain ⟨hkeeps, hlocks, hhold⟩ := b.lockRegs_spec ((f.op.setWidth 32 : Word).setWidth 2)
  obtain ⟨t, hex, hdone⟩ := insn_done h (lockSetBody_locks hk hm) (Chip.noRecord_of_keeps hkeeps (by decide))
  exact ⟨t, _, hex, hdone, hkeeps, hlocks, hhold⟩

theorem lockSet_holds (hk : field f.tgt 0 4 = 1) :
    ∃ t e, exec (.lockSet q f) s = .next t ∧ Completes q f St.ok ((e.secFuse s.die).setWidth 64) b.lt s e t ∧
      b.keeps [.sec] e ∧ e.sec = { b.sec with jtagHold := true } := by
  obtain ⟨t, hex, hdone⟩ := insn_done h (lockSetBody_hold hk) ⟨rfl, rfl⟩
  exact ⟨t, _, hex, hdone, b.keeps_sec _ (by decide), rfl⟩

section
variable (h2 : 2 ≤ field f.tgt 0 4) (h4 : field f.tgt 0 4 ≤ 4)
include h2 h4

theorem lockSet_unconfirmed (hsure : confirmed f = false) :
    ∃ t, exec (.lockSet q f) s = .next t ∧ Completes q f St.range 0 b.lt s b t :=
  insn_refused h ((lockSetBody_fuse h2 h4).trans (fuseKind_unconfirmed hsure))

theorem lockSet_blown (hsure : confirmed f = true) (hset : s.die.fuseOf (field f.tgt 0 4) = true) :
    ∃ t, exec (.lockSet q f) s = .next t ∧ Completes q f St.ok ((b.secFuse s.die).setWidth 64) b.lt s b t :=
  insn_done h ((lockSetBody_fuse h2 h4).trans (hset ▸ fuseKind_set hsure)) ⟨rfl, rfl⟩

variable (hsure : confirmed f = true) (hset : s.die.fuseOf (field f.tgt 0 4) = false)
include hsure hset

theorem lockSet_waits (hop : b.sec.op ≠ none) :
    ∃ t, exec (.lockSet q f) s = .next t ∧ Waits q 0xA0 f .fuse 0 0 s b t :=
  insn_wait h ((lockSetBody_fuse h2 h4).trans (hset ▸ fuseKind_busy hsure hop)) rfl

theorem lockSet_begins (hop : b.sec.op = none) (hkey : field f.tgt 0 4 = 2 → s.die.keyProg = true) :
    ∃ t e, exec (.lockSet q f) s = .next t ∧ Waits q 0xA0 f .fuseDone 0 0 s e t ∧ b.keeps [.sec] e ∧
      e.sec = { b.sec with op := some ⟨field f.tgt 0 4 - 1, some q, 0⟩ } := by
  have hbody := (lockSetBody_fuse h2 h4).trans (hset ▸ fuseKind_begins (q := q) hsure hop fun hk => hkey (by omega))
  obtain ⟨t, hex, hwait⟩ := insn_wait h hbody rfl
  exact ⟨t, _, hex, hwait, b.keeps_sec _ (by decide), rfl⟩

end

theorem lockSet_keyless (hk : field f.tgt 0 4 = 2) (hsure : confirmed f = true) (hset : s.die.fuseOf (field f.tgt 0 4) = false)
    (hop : b.sec.op = none) (hkey : s.die.keyProg = false) :
    ∃ t, exec (.lockSet q f) s = .next t ∧ Completes q f St.range 0 b.lt s b t := by
  have hbody : lockSetBody q f s.die b = fuseKind q f s.die b 1 false := by
    rw [lockSetBody_fuse (by omega) (by omega), hset, hk]
  exact insn_refused h (hbody.trans (fuseKind_keyless hsure hop hkey))

end

section
variable {q : Queue} {f : Insn} {s : State} {b : Chip} (h : s.chip.issuesAs Op.keyProg q f b)
include h

theorem keyProg_takes (hn : field f.tgt 0 2 = 0) (ho : b.sec.owner = none ∨ b.sec.owner = some q) :
    ∃ t e, exec (.keyProg q f) s = .next t ∧ Completes q f St.ok 0 b.lt s e t ∧ b.keeps [.sec] e ∧
      e.sec.owner = some q ∧ e.sec.quarter = 1 ∧ e.sec.stageKey = f.op.setWidth 256 := by
  obtain ⟨t, hex, hdone⟩ := insn_done h (keyProgBody_first hn ho) ⟨rfl, rfl⟩
  exact ⟨t, _, hex, hdone, b.keeps_sec _ (by decide), rfl, rfl, stageQuarter_first f.op⟩

variable (ho : b.sec.owner = some q)
include ho

theorem keyProg_misplaced (hn : field f.tgt 0 2 ≠ 0) (hq : b.sec.quarter ≠ field f.tgt 0 2) :
    ∃ t e, exec (.keyProg q f) s = .next t ∧ Completes q f St.range 0 b.lt s e t ∧ b.keeps [.sec] e ∧
      e.sec.owner = none ∧ e.sec.stageKey = 0 := by
  obtain ⟨t, hex, hdone⟩ := insn_done h (keyProgBody_misplaced hn ho hq) ⟨rfl, rfl⟩
  exact ⟨t, _, hex, hdone, b.clearKey_keeps, rfl, rfl⟩

theorem keyProg_stages (hn : field f.tgt 0 2 ≠ 0) (h3 : field f.tgt 0 2 ≠ 3) (hq : b.sec.quarter = field f.tgt 0 2) :
    ∃ t e, exec (.keyProg q f) s = .next t ∧ Completes q f St.ok 0 b.lt s e t ∧ b.keeps [.sec] e ∧
      e.sec.quarter = field f.tgt 0 2 + 1 ∧ e.sec.stageKey.extractLsb' (64 * field f.tgt 0 2) 64 = f.op ∧
      (∀ i, i < 256 → (i < 64 * field f.tgt 0 2 ∨ 64 * field f.tgt 0 2 + 64 ≤ i) →
        e.sec.stageKey.getLsbD i = b.sec.stageKey.getLsbD i) := by
  obtain ⟨t, hex, hdone⟩ := insn_done h (keyProgBody_stages hn ho hq h3) ⟨rfl, rfl⟩
  exact ⟨t, _, hex, hdone, b.keeps_sec _ (by decide), rfl, stageQuarter_own _ _ (field_lt f.tgt 0 2),
    fun i hi hout => stageQuarter_other _ _ hi hout⟩

section
variable (hn : field f.tgt 0 2 = 3) (hq : b.sec.quarter = 3)
include hn hq

theorem keyProg_same (hp : s.die.keyProg = true) (hkey : stageQuarter b.sec.stageKey 3 f.op = s.die.key) :
    ∃ t e, exec (.keyProg q f) s = .next t ∧ Completes q f St.ok s.die.hash8 b.lt s e t ∧ b.keeps [.sec] e ∧
      e.sec.owner = none ∧ e.sec.stageKey = 0 := by
  obtain ⟨t, hex, hdone⟩ := insn_done h ((keyProgBody_last hn ho hq).trans (keyQuarter3_same hp hkey)) ⟨rfl, rfl⟩
  exact ⟨t, _, hex, hdone, b.clearKey_keeps, rfl, rfl⟩

theorem keyProg_begins (hp : s.die.keyProg = false) (hop : b.sec.op = none)
    (hfit : s.die.key &&& ~~~stageQuarter b.sec.stageKey 3 f.op = 0) :
    ∃ t e, exec (.keyProg q f) s = .next t ∧ Waits q 0xA1 f .fuseDone 0 0 s e t ∧ b.keeps [.sec] e ∧
      e.sec.op = some ⟨4, some q, stageQuarter b.sec.stageKey 3 f.op⟩ ∧ e.sec.owner = none ∧ e.sec.stageKey = 0 := by
  obtain ⟨t, hex, hwait⟩ := insn_wait h ((keyProgBody_last hn ho hq).trans (keyQuarter3_begins hp hop hfit)) rfl
  exact ⟨t, _, hex, hwait, b.clearKey_keeps.trans (b.clearKey.keeps_sec _ (by decide)), rfl, rfl, rfl⟩

end

end

/-- Settles O28: each body by its kind or quarter, the end of an operation by what the resting programmer leaves. -/
theorem locksFusesAndKeys : Obligations.LocksFusesAndKeys := by
  unfold Obligations.LocksFusesAndKeys
  refine ⟨⟨fun q f s b h => ?lockSet, fun s h => exec_fuseOpDone_none h, fun s o hon hop h1 h3 => ?fuses⟩,
    fun q f s b h => ?keyProg, fun s o hon hop h4 => ?wholeKey⟩
  case lockSet =>
    exact ⟨lockSet_locks h, fun hk hm => insn_refused h (lockSetBody_group hk hm), lockSet_holds h, lockSet_unconfirmed h,
      lockSet_blown h, lockSet_waits h, lockSet_keyless h,
      fun h2 h4 hsure hset hop hkey => lockSet_begins h h2 h4 hsure hset hop hkey,
      fun hk => insn_refused h (lockSetBody_other hk)⟩
  case fuses =>
    have hkind : o.kind ≠ 4 := by omega
    have hkeeps := (s.chip.endSwitch.fuseRests_spec o).1
    refine ⟨fun q w hq hw hwk => ?_, fun hq => ?_, fun t ht => ?_⟩
    · simpa only [hkind, if_false, List.cons_append, List.nil_append] using fuseOpDone_retires hon hop hkeeps hq hw hwk
    · simpa only [hkind, if_false] using fuseOpDone_alone hon hop hkeeps hq
    · obtain rfl := Host.Outcome.next.inj ((exec_fuseOpDone hon hop).symm.trans ht)
      exact s.die.blow_lock h1 h3
  case keyProg =>
    refine ⟨keyProg_takes h, fun o ho hne => insn_refused h (keyProgBody_busy ho hne),
      fun hn ho => insn_refused h (keyProgBody_unowned hn ho), fun hn ho => keyProg_misplaced h ho hn,
      fun hn h3 ho => keyProg_stages h ho hn h3, fun hn ho hq => ?_⟩
    have hlast := keyProgBody_last (d := s.die) hn ho hq
    exact ⟨stageQuarter_own _ _ (by decide), stageQuarter_last_low _ _, keyProg_same h ho hn hq,
      fun hbad => insn_refusesKey h (hlast.trans (keyQuarter3_refused hbad)),
      fun hp hop => insn_wait h (hlast.trans (keyQuarter3_busy hp hop)) rfl, keyProg_begins h ho hn hq⟩
  case wholeKey =>
    have hkeeps : s.chip.endSwitch.keeps [.sec] _ := Chip.fuseRests_sec (o := o) (by omega)
    refine ⟨fun q w hq hw hwk => ?_, fun hq => ?_, fun t ht => ?_⟩
    · simpa only [h4, if_true, List.cons_append, List.nil_append] using fuseOpDone_retires hon hop hkeeps hq hw hwk
    · simpa only [h4, if_true] using fuseOpDone_alone hon hop hkeeps hq
    · obtain rfl := Host.Outcome.next.inj ((exec_fuseOpDone hon hop).symm.trans ht)
      exact s.die.blow_key h4

end Sys2Proof.Machine
end
